-- ==== Sys2Proof/Word.lean ====
section
/-!
DEFINITION. The word types of the machine and nothing else: bytes, instruction words and registers (00 R3, 05 R82, 02 R20).
-/
namespace Sys2Proof

/-- Eight bits: one byte of memory (00 R3). -/
abbrev Byte := BitVec 8

/-- Thirty-two bits: an instruction word (05 R82), or one f32 value (04 R64). -/
abbrev Word32 := BitVec 32

/-- Sixty-four bits: an s or g register (02 R20). -/
abbrev Word64 := BitVec 64

end Sys2Proof
end

