-- ==== Sys2Proof/Syntax.lean ====
section
/-!
DEFINITION. The instructions of the IZ-24: one constructor for every row of spec/opcode_table.json.  The first 179 are the
words of the four strands (05 R86 to R97); the other 81 are the events of the machine (95), which have no encoding and carry
what the outside world or the unit that raises them supplies.
-/
namespace Sys2Proof

/-- A strand of a core (02 R20). -/
inductive Strand where
  | c | l | x | s
  deriving DecidableEq, Repr

/-- A step strand: one of L, X and S (05 R91). -/
inductive StepStrand where
  | l | x | s
  deriving DecidableEq, Repr

/-- A step strand as a strand. -/
def StepStrand.strand : StepStrand → Strand
  | .l => .l
  | .x => .x
  | .s => .s

/-- The hitch field of a step word (05 R91): partner codes of its wait and of its post, 0 for none. -/
structure Hitch where
  wait : BitVec 2
  post : BitVec 2
  deriving DecidableEq, Repr

/-- The two transfer units of a core (09 R218). -/
inductive XUnit where
  | inb | outb
  deriving DecidableEq, Repr

/-- The operands of a command entry (19 R318). -/
structure Cmd where
  op  : BitVec 16
  tag : BitVec 32
  a0  : Word64
  a1  : Word64
  a2  : Word64
  deriving DecidableEq, Repr

/-- A unit with a READY bit (21 R348, 23 R366). -/
inductive ReadyUnit where
  | die (d : BitVec 5)
  | cluster (d : BitVec 5) (c : BitVec 3)
  | port (p : BitVec 5)
  | hostPort
  deriving DecidableEq, Repr

/-- A unit that can fail in service (23 R366, R374). -/
inductive FailUnit where
  | die (d : BitVec 5)
  | stack (s : BitVec 5)
  deriving DecidableEq, Repr

/-- A remote write between modules, or the part of one that a flit carries, as a port carries it (21 R349, R352): the peer's image, the target's
virtual coordinates and local offset, the NODE by which the sender names the peer, the sender's image and identity (09 R232, 16 R288), the
bytes, and whether they end the write. -/
structure PortWrite where
  image : Word64
  vdie  : BitVec 8
  vcore : BitVec 8
  off   : BitVec 32
  node  : BitVec 8
  sVdie : BitVec 8
  sVcore : BitVec 8
  sOrd  : BitVec 32
  sIdx  : Nat
  sImage : Word64
  bytes : List Byte
  last  : Bool
  deriving DecidableEq, Repr

/-- One Ronben flit as received (21 R349): its sequence number, whether its CRC agrees, the sequence number it
acknowledges, the credits it returns, and the remote write it carries, if any. -/
structure Flit where
  seq   : BitVec 12
  crcOk : Bool
  ack   : BitVec 12
  credit : BitVec 12
  write : Option PortWrite
  deriving DecidableEq, Repr

/-- A host access at its port (21 R348): a read of a number of bytes, or a write of some. -/
inductive HostAccess where
  | read (n : BitVec 13)
  | write (bytes : List Byte)
  deriving DecidableEq, Repr

/-- Every step of the machine. -/
inductive Instr where
  -- C: arithmetic (06 R105 to R107)
  | add (d a b : BitVec 5)
  | sub (d a b : BitVec 5)
  | and (d a b : BitVec 5)
  | or (d a b : BitVec 5)
  | xor (d a b : BitVec 5)
  | shl (d a b : BitVec 5)
  | shr (d a b : BitVec 5)
  | sra (d a b : BitVec 5)
  | slt (d a b : BitVec 5)
  | sltu (d a b : BitVec 5)
  | seq (d a b : BitVec 5)
  | min (d a b : BitVec 5)
  | max (d a b : BitVec 5)
  | minu (d a b : BitVec 5)
  | maxu (d a b : BitVec 5)
  | mul (d a b : BitVec 5)
  | mulh (d a b : BitVec 5)
  | mulhu (d a b : BitVec 5)
  | divu (d a b : BitVec 5)
  | remu (d a b : BitVec 5)
  | clz (d a : BitVec 5)
  | popc (d a : BitVec 5)
  | extS (d a w : BitVec 5)
  | extZ (d a w : BitVec 5)
  | addi (d a : BitVec 5) (i : BitVec 15)
  | andi (d a : BitVec 5) (i : BitVec 15)
  | ori (d a : BitVec 5) (i : BitVec 15)
  | xori (d a : BitVec 5) (i : BitVec 15)
  | shli (d a : BitVec 5) (n : BitVec 6)
  | shri (d a : BitVec 5) (n : BitVec 6)
  | srai (d a : BitVec 5) (n : BitVec 6)
  | slti (d a : BitVec 5) (i : BitVec 15)
  | sltui (d a : BitVec 5) (i : BitVec 15)
  | lui (d : BitVec 5) (i : BitVec 20)
  | apc (d : BitVec 5) (i : BitVec 20)
  -- C: loads, stores, atomics (06 R108 to R113)
  | ldB (d a : BitVec 5) (i : BitVec 15)
  | ldH (d a : BitVec 5) (i : BitVec 15)
  | ldW (d a : BitVec 5) (i : BitVec 15)
  | ldD (d a : BitVec 5) (i : BitVec 15)
  | lduB (d a : BitVec 5) (i : BitVec 15)
  | lduH (d a : BitVec 5) (i : BitVec 15)
  | lduW (d a : BitVec 5) (i : BitVec 15)
  | ldLast (d a : BitVec 5) (i : BitVec 15)
  | stB (b a : BitVec 5) (i : BitVec 15)
  | stH (b a : BitVec 5) (i : BitVec 15)
  | stW (b a : BitVec 5) (i : BitVec 15)
  | stD (b a : BitVec 5) (i : BitVec 15)
  | amo (d a b : BitVec 5) (use : BitVec 2) (op : BitVec 4)
  | cas (d a b : BitVec 5)
  -- C: branches and loops (06 R114 to R117)
  | beq (a b : BitVec 5) (o : BitVec 15)
  | bne (a b : BitVec 5) (o : BitVec 15)
  | blt (a b : BitVec 5) (o : BitVec 15)
  | bge (a b : BitVec 5) (o : BitVec 15)
  | bltu (a b : BitVec 5) (o : BitVec 15)
  | bgeu (a b : BitVec 5) (o : BitVec 15)
  | jal (d : BitVec 5) (o : BitVec 20)
  | jalr (d a : BitVec 5) (i : BitVec 15)
  | loop (c : BitVec 5) (o : BitVec 15)
  | loopi (n : BitVec 10) (o : BitVec 15)
  -- C: queues, format words, nests (06 R118 to R121)
  | qpush (v : BitVec 5) (p : BitVec 2)
  | qpop (v : BitVec 5) (p : BitVec 2)
  | qtry (v e : BitVec 5) (p : BitVec 2)
  | tpost (p : BitVec 2)
  | twait (p : BitVec 2)
  | fmt (a : BitVec 5)
  | nestW (a : BitVec 5) (i : BitVec 4)
  | nestGo
  -- C: kernels, cleat, fence (06 R122 to R130)
  | launch (d a : BitVec 5)
  | stream (a : BitVec 5)
  | ktrig
  | kwait
  | texit
  | coll (d a : BitVec 5)
  | cleatArrive
  | cleatExpect (a : BitVec 5)
  | cleatWait (a : BitVec 5)
  | fence (scope : BitVec 2)
  -- C: control registers, traps, service, forecasts (06 R131 to R143)
  | csrr (d : BitVec 5) (csr : BitVec 12)
  | csrw (a : BitVec 5) (csr : BitVec 12)
  | csrx (d a : BitVec 5) (csr : BitVec 12)
  | trap (code : BitVec 8)
  | rett
  | ecall
  | clkdiv (a : BitVec 5) (dom : BitVec 2)
  | pace (a : BitVec 5) (r : BitVec 2)
  | idle
  | tlbinv (a : BitVec 5) (ctx : BitVec 1)
  | fcast (a : BitVec 5) (h : BitVec 10) (kind : BitVec 2) (group : BitVec 3)
  | fverd (d : BitVec 5) (h : BitVec 10) (item : BitVec 2)
  -- L, X and S: the common forms (05 R92, 07 R174 to R178)
  | endStrand (t : StepStrand) (h : Hitch)
  | gadd (t : StepStrand) (h : Hitch) (d a b : BitVec 4)
  | gaddi (t : StepStrand) (h : Hitch) (d a : BitVec 4) (i : BitVec 14)
  | gli (t : StepStrand) (h : Hitch) (d : BitVec 4) (i : BitVec 18)
  | stepLoopImm (t : StepStrand) (h : Hitch) (lc : BitVec 2) (n : BitVec 9) (o : BitVec 10)
  | stepLoopReg (t : StepStrand) (h : Hitch) (lc : BitVec 2) (g : BitVec 4) (o : BitVec 10)
  | brq (t : StepStrand) (h : Hitch) (q : BitVec 2) (cond : BitVec 3) (o : BitVec 17)
  | stepTpost (t : StepStrand) (h : Hitch) (q : BitVec 2)
  | stepTwait (t : StepStrand) (h : Hitch) (q : BitVec 2)
  | stepQpush (t : StepStrand) (h : Hitch) (q : BitVec 2) (a : BitVec 4)
  | stepQpop (t : StepStrand) (h : Hitch) (q : BitVec 2) (d : BitVec 4)
  -- X: vector words (07 R153 to R173)
  | vadd (h : Hitch) (d a b : BitVec 6) (pn : BitVec 4)
  | vsub (h : Hitch) (d a b : BitVec 6) (pn : BitVec 4)
  | vmul (h : Hitch) (d a b : BitVec 6) (pn : BitVec 4)
  | vmin (h : Hitch) (d a b : BitVec 6) (pn : BitVec 4)
  | vmax (h : Hitch) (d a b : BitVec 6) (pn : BitVec 4)
  | vand (h : Hitch) (d a b : BitVec 6)
  | vor (h : Hitch) (d a b : BitVec 6)
  | vxor (h : Hitch) (d a b : BitVec 6)
  | vshl (h : Hitch) (d a b : BitVec 6)
  | vshr (h : Hitch) (d a b : BitVec 6)
  | vsra (h : Hitch) (d a b : BitVec 6)
  | vaddsat (h : Hitch) (d a b : BitVec 6)
  | vsubsat (h : Hitch) (d a b : BitVec 6)
  | vcmp (h : Hitch) (d : BitVec 4) (cond : BitVec 2) (a b : BitVec 6) (pn : BitVec 4)
  | vabs (h : Hitch) (d a : BitVec 6) (pn : BitVec 4)
  | vneg (h : Hitch) (d a : BitVec 6) (pn : BitVec 4)
  | vnot (h : Hitch) (d a : BitVec 6) (pn : BitVec 4)
  | vmov (h : Hitch) (d a : BitVec 6) (pn : BitVec 4)
  | vrcp (h : Hitch) (d a : BitVec 6) (pn : BitVec 4)
  | vrsqrt (h : Hitch) (d a : BitVec 6) (pn : BitVec 4)
  | vsqrt (h : Hitch) (d a : BitVec 6) (pn : BitVec 4)
  | vexp2 (h : Hitch) (d a : BitVec 6) (pn : BitVec 4)
  | vlog2 (h : Hitch) (d a : BitVec 6) (pn : BitVec 4)
  | vred (h : Hitch) (d a : BitVec 6) (o : BitVec 3) (pn : BitVec 4)
  | vsel (h : Hitch) (d a b : BitVec 6) (pn : BitVec 4)
  | vperm (h : Hitch) (d a b : BitVec 6)
  | vzip (h : Hitch) (d a b : BitVec 6)
  | vunzip (h : Hitch) (d a b : BitVec 6)
  | vslide (h : Hitch) (d a : BitVec 6) (g : BitVec 4)
  | vsplat (h : Hitch) (d : BitVec 6) (g : BitVec 4)
  | vbcast (h : Hitch) (d : BitVec 6) (k g : BitVec 4)
  | pcnt (h : Hitch) (d g : BitVec 4)
  | plogic (h : Hitch) (d a b : BitVec 4) (f : BitVec 3)
  | ppop (h : Hitch) (a g : BitVec 4)
  | vcvt (h : Hitch) (d a : BitVec 6) (dt st : BitVec 4)
  | vhad (h : Hitch) (d a : BitVec 6) (k : BitVec 4) (seed : BitVec 3)
  | vmaxe (h : Hitch) (a : BitVec 6) (k : BitVec 4)
  | vq (h : Hitch) (d a : BitVec 6) (k : BitVec 4) (m : BitVec 2)
  | vdq (h : Hitch) (d a : BitVec 6) (k : BitVec 4) (m : BitVec 2)
  | vdqInv (h : Hitch) (d a : BitVec 6) (k : BitVec 4) (seed : BitVec 3) (m : BitVec 2)
  | vld (h : Hitch) (v : BitVec 6) (g : BitVec 4) (o : BitVec 8) (pn : BitVec 4)
  | vst (h : Hitch) (v : BitVec 6) (g : BitVec 4) (o : BitVec 8) (pn : BitVec 4)
  | vldFf (h : Hitch) (v : BitVec 6) (g : BitVec 4) (o : BitVec 8) (pn : BitVec 4)
  | vldx (h : Hitch) (v : BitVec 6) (g : BitVec 4) (vi : BitVec 6) (pn : BitVec 4)
  | vstx (h : Hitch) (v : BitVec 6) (g : BitVec 4) (vi : BitVec 6) (pn : BitVec 4)
  | vshape (h : Hitch) (z : BitVec 4)
  | vrot (h : Hitch)
  | vwin (h : Hitch) (g : BitVec 4)
  | vfma (h : Hitch) (d a b c : BitVec 6)
  | vfms (h : Hitch) (d a b c : BitVec 6)
  | vfnma (h : Hitch) (d a b c : BitVec 6)
  | vectorModifier (pn : BitVec 4) (inv zero : BitVec 1) (rm : BitVec 2)
  -- X: matrix and factorisation words (08)
  | mldb (h : Hitch) (hd : BitVec 10)
  | mmab (h : Hitch) (hd : BitVec 10) (t : BitVec 4)
  | mmas (h : Hitch) (hd : BitVec 10) (t : BitVec 4)
  | mdrain (h : Hitch) (hd : BitVec 10) (t : BitVec 4)
  | mzero (h : Hitch) (t : BitVec 4)
  | mnest (h : Hitch)
  | mtest (h : Hitch)
  | mtrsmLo (h : Hitch) (s : BitVec 7) (hd : BitVec 10)
  | mtrsmUp (h : Hitch) (s : BitVec 7) (hd : BitVec 10)
  | mlu (h : Hitch) (s : BitVec 7)
  | mchol (h : Hitch) (s : BitVec 7)
  | mgiv (h : Hitch) (s : BitVec 7)
  | mpiv (h : Hitch) (hd : BitVec 10)
  | mfst (h : Hitch)
  -- L and S: transfer words (09)
  | tld (h : Hitch) (hd : BitVec 10) (a b : BitVec 4)
  | tldT (h : Hitch) (hd : BitVec 10) (a b : BitVec 4)
  | tst (h : Hitch) (hd : BitVec 10) (a b : BitVec 4)
  | wopen (h : Hitch) (hd : BitVec 10) (a b : BitVec 4) (r : BitVec 2)
  | wopenW (h : Hitch) (hd : BitVec 10) (a b : BitVec 4) (r : BitVec 2)
  | tfar (h : Hitch) (hd : BitVec 10) (a b : BitVec 4)
  | wadv (h : Hitch) (a : BitVec 4) (r : BitVec 2)
  | supd (h : Hitch) (hd : BitVec 10) (a b : BitVec 4) (u : BitVec 4)
  | wdrop (h : Hitch) (a : BitVec 4) (r : BitVec 2)
  | tsum (h : Hitch) (hd : BitVec 10) (a b : BitVec 4) (bfl com : BitVec 1)
  | tfetch (h : Hitch) (hd : BitVec 10) (a b : BitVec 4)
  | tcopy (h : Hitch) (hd : BitVec 10) (a b : BitVec 4)
  | tpref (h : Hitch) (hd : BitVec 10) (b : BitVec 4)
  -- events of a core
  | reservedOpcode (t : Strand) (w : Word32)
  | vectorResultArrival
  | globalLoadArrival
  | cLoadArrival
  | hitchPostDelivery
  | transferComplete (u : XUnit)
  | tfarLanding
  | remoteReadRequest
  | matrixEntryStart
  | matrixOccupancyEnd
  | matrixResultVisible
  | nestPoint
  | operandFetchArrival
  | factorColumnBoundary
  | factorisationBreakdown
  | selfTestInject
  | selfTestFailure
  | queueDeadlock
  -- events of tasks and kernels
  | frameTick
  | taskRelease (kid : BitVec 16) (vdie vcore : BitVec 8)
  | spliceComplete
  | cleatComplete (kid : BitVec 16)
  | kwaitRelease
  | translationWalkComplete
  | pgdoneWrite (v : Word64)
  | versionPublication
  | predictionReady
  | verdictArrival
  | orphanForecast (kid : BitVec 16)
  -- traps
  | trapEntry (cause : BitVec 8) (src : BitVec 4) (tval : Word64)
  | externalInterrupt (source : BitVec 16)
  | timerCompareMatch
  | pendingEntryTaken
  -- clocks and time
  | frequencyTransition
  | boostBoundary
  | fallStep (kid : BitVec 16)
  | timerDisciplineStep (add : Bool)
  | ptpEventMessage (port : BitVec 5) (offset : BitVec 64) (grandmaster : Bool)
  | supervisorReadyTimeout
  -- commands
  | commandRingPoll
  | load (c : Cmd)
  | cmdLaunch (c : Cmd)
  | cmdStream (c : Cmd)
  | record (c : Cmd)
  | recend (c : Cmd)
  | drop (c : Cmd)
  | abort (c : Cmd)
  | unload (c : Cmd)
  | reservedCommand (c : Cmd)
  | streamResident (kid : BitVec 16)
  | kernelIssue (kid : BitVec 16)
  -- host port
  | apbaseWrite (v : Word64)
  | faultWordClear (v : Word64)
  | bar0RegisterWrite (off : BitVec 20) (a : HostAccess)
  | bar2Access (off : BitVec 36) (a : HostAccess)
  -- links and collectives
  | flitReceive (port : BitVec 5) (f : Flit)
  | nakReceived (port : BitVec 5) (seq : BitVec 12)
  | portTrainingComplete (port : BitVec 5) (lanes : BitVec 4) (peer : BitVec 16)
  | linkLoss (port : BitVec 5)
  | heldRemoteWriteRelease
  | collectiveContribution (id : BitVec 16) (gen : BitVec 32) (rank to_ chunk : BitVec 6) (data : List Byte)
  | collectiveNotice (id : BitVec 16) (gen : BitVec 32) (rank chunk : BitVec 6)
  | collectiveTimeout (id : BitVec 16)
  | collectiveDropNotice (id : BitVec 16) (gen : BitVec 32) (from_ dropped : BitVec 6) (bitmap : Word64)
  -- bring-up and service
  | powerGood
  | unitReady (u : ReadyUnit)
  | stackTrainingComplete (stack : BitVec 5) (replayed ok : Bool)
  | lifeCounterFlush
  | thermalSample (isStack : Bool) (n : BitVec 5) (t : BitVec 16)
  | ratePointSwitch (stack : BitVec 5) (t : BitVec 16)
  | patrolScrub (pa : BitVec 52) (uncorrectable : Bool)
  | rowRemap (stack : BitVec 5) (row : BitVec 32)
  | channelFence (stack : BitVec 5) (ch : BitVec 5)
  | activationAlert (stack : BitVec 5) (bank : BitVec 16)
  | refresh (stack : BitVec 5) (bank : BitVec 16)
  | signedReport
  | unitFailure (u : FailUnit)
  | orderlyStop
  | correctableRetryResolved
  | transferAtomArrival (u : XUnit) (pa : BitVec 52)
  | cxlMemAccess (off : BitVec 20) (a : HostAccess)
  deriving DecidableEq, Repr

end Sys2Proof
end

