-- ==== Sys2Proof/WellFormed.lean ====
section
/-!
DEFINITION. The reserved field values of the opcode maps (05 R82 to R101): a word that holds one is no instruction and raises
cause 0x01.  For an event the check bounds the numbers of the units it names (01 R11, R12; 21 R349).
-/
namespace Sys2Proof

/-- The number of compute-die positions and of HBM stacks (01 R11, R18). -/
abbrev diePositions : Nat := 24

/-- The number of Ronben ports (21 R349). -/
abbrev portCount : Nat := 18

/-- A queue operand other than a hitch field: partner code 0 is reserved (05 R84). -/
def Syntax.partnerOk (q : BitVec 2) : Bool := q.toNat != 0

/-- An element-type field that decoding examines: codes 0xD to 0xF are reserved (05 R82, R83). -/
def Syntax.typeOk (z : BitVec 4) : Bool := decide (z.toNat ≤ 12)

/-- An mx-type field: value 3 is reserved (05 R94). -/
def Syntax.mxOk (m : BitVec 2) : Bool := m.toNat != 3

/-- Every word field and every unit number of an instruction holds a value that is not reserved. -/
def Instr.wf : Instr → Bool
  | .extS _ _ w => w.toNat == 1 || w.toNat == 2 || w.toNat == 4
  | .extZ _ _ w => w.toNat == 1 || w.toNat == 2 || w.toNat == 4
  | .amo _ _ _ u o => u.toNat != 3 && decide (o.toNat ≤ 8) && !(o.toNat == 0 && u.toNat == 1)
  | .loop _ o => decide (1 ≤ o.toInt)
  | .loopi _ o => decide (1 ≤ o.toInt)
  | .qpush _ p => Syntax.partnerOk p
  | .qpop _ p => Syntax.partnerOk p
  | .qtry _ _ p => Syntax.partnerOk p
  | .tpost p => Syntax.partnerOk p
  | .twait p => Syntax.partnerOk p
  | .nestW _ i => decide (i.toNat ≤ 13)
  | .pace _ r => r.toNat != 3
  | .fcast _ _ k _ => k.toNat != 3
  | .fverd _ _ i => i.toNat != 3
  | .stepLoopImm _ _ _ _ o => o.toNat != 0
  | .stepLoopReg _ _ _ _ o => o.toNat != 0
  | .brq _ _ q c _ => Syntax.partnerOk q && decide (c.toNat ≤ 3)
  | .stepTpost _ _ q => Syntax.partnerOk q
  | .stepTwait _ _ q => Syntax.partnerOk q
  | .stepQpush _ _ q _ => Syntax.partnerOk q
  | .stepQpop _ _ q _ => Syntax.partnerOk q
  | .vcmp _ d _ _ _ _ => d.toNat != 0
  | .pcnt _ d _ => d.toNat != 0
  | .plogic _ d _ _ _ => d.toNat != 0
  | .vred _ _ _ o _ => decide (o.toNat ≤ 5)
  | .vcvt _ _ _ dt st => Syntax.typeOk dt && Syntax.typeOk st
  | .vshape _ z => Syntax.typeOk z
  | .vq _ _ _ _ m => Syntax.mxOk m
  | .vdq _ _ _ _ m => Syntax.mxOk m
  | .vdqInv _ _ _ _ _ m => Syntax.mxOk m
  | .supd _ _ _ _ u => decide (u.toNat ≤ 3)
  | .ptpEventMessage p _ _ => decide (p.toNat < portCount)
  | .flitReceive p _ => decide (p.toNat < portCount)
  | .nakReceived p _ => decide (p.toNat < portCount)
  | .portTrainingComplete p _ _ => decide (p.toNat < portCount)
  | .linkLoss p => decide (p.toNat < portCount)
  | .unitReady (.die d) => decide (d.toNat < diePositions)
  | .unitReady (.cluster d _) => decide (d.toNat < diePositions)
  | .unitReady (.port p) => decide (p.toNat < portCount)
  | .stackTrainingComplete n _ _ => decide (n.toNat < diePositions)
  | .thermalSample _ n _ => decide (n.toNat < diePositions)
  | .ratePointSwitch n _ => decide (n.toNat < diePositions)
  | .rowRemap n _ => decide (n.toNat < diePositions)
  | .channelFence n _ => decide (n.toNat < diePositions)
  | .activationAlert n _ => decide (n.toNat < diePositions)
  | .refresh n _ => decide (n.toNat < diePositions)
  | .unitFailure (.die d) => decide (d.toNat < diePositions)
  | .unitFailure (.stack n) => decide (n.toNat < diePositions)
  | _ => true

end Sys2Proof
end

