-- ==== Sys2Proof/Decode.lean ====
section
/-!
DEFINITION. From a word to an instruction and back (05 R82 to R97; 08 R190; 09 R237).  A word is decoded in the map of the strand whose
instruction memory holds it.  `decode` refuses by name; what it refuses raises cause 0x01 (R82).
-/
namespace Sys2Proof

/-- Why a word is no instruction (05 R82): its opcode is reserved, a fixed field or a function code is not one the map
lists, or a field holds a value the tables mark reserved. -/
inductive DecodeError where
  | reservedOpcode
  | reservedField
  | reservedValue
  deriving DecidableEq, Repr

/-- Bits [lo + n - 1 : lo] of a word (00 R3). -/
def bits (w : Word32) (lo n : Nat) : BitVec n := BitVec.ofNat n (w.toNat / 2 ^ lo)

/-- The hitch field whose post code begins at bit lo (05 R91, R94). -/
def hitchAt (w : Word32) (lo : Nat) : Hitch := ⟨bits w (lo + 2) 2, bits w lo 2⟩

/-- The C map (05 R86 to R88). -/
def decodeC (w : Word32) : Except DecodeError Instr :=
  match (bits w 25 7).toNat with
  | 0x00 =>
    if bits w 0 10 = 0x0 then .ok (.add (bits w 20 5) (bits w 15 5) (bits w 10 5))
    else if bits w 0 10 = 0x1 then .ok (.sub (bits w 20 5) (bits w 15 5) (bits w 10 5))
    else if bits w 0 10 = 0x2 then .ok (.and (bits w 20 5) (bits w 15 5) (bits w 10 5))
    else if bits w 0 10 = 0x3 then .ok (.or (bits w 20 5) (bits w 15 5) (bits w 10 5))
    else if bits w 0 10 = 0x4 then .ok (.xor (bits w 20 5) (bits w 15 5) (bits w 10 5))
    else if bits w 0 10 = 0x5 then .ok (.shl (bits w 20 5) (bits w 15 5) (bits w 10 5))
    else if bits w 0 10 = 0x6 then .ok (.shr (bits w 20 5) (bits w 15 5) (bits w 10 5))
    else if bits w 0 10 = 0x7 then .ok (.sra (bits w 20 5) (bits w 15 5) (bits w 10 5))
    else if bits w 0 10 = 0x8 then .ok (.slt (bits w 20 5) (bits w 15 5) (bits w 10 5))
    else if bits w 0 10 = 0x9 then .ok (.sltu (bits w 20 5) (bits w 15 5) (bits w 10 5))
    else if bits w 0 10 = 0xA then .ok (.seq (bits w 20 5) (bits w 15 5) (bits w 10 5))
    else if bits w 0 10 = 0xB then .ok (.min (bits w 20 5) (bits w 15 5) (bits w 10 5))
    else if bits w 0 10 = 0xC then .ok (.max (bits w 20 5) (bits w 15 5) (bits w 10 5))
    else if bits w 0 10 = 0xD then .ok (.minu (bits w 20 5) (bits w 15 5) (bits w 10 5))
    else if bits w 0 10 = 0xE then .ok (.maxu (bits w 20 5) (bits w 15 5) (bits w 10 5))
    else if bits w 0 10 = 0xF then .ok (.mul (bits w 20 5) (bits w 15 5) (bits w 10 5))
    else if bits w 0 10 = 0x10 then .ok (.mulh (bits w 20 5) (bits w 15 5) (bits w 10 5))
    else if bits w 0 10 = 0x11 then .ok (.mulhu (bits w 20 5) (bits w 15 5) (bits w 10 5))
    else if bits w 0 10 = 0x12 then .ok (.divu (bits w 20 5) (bits w 15 5) (bits w 10 5))
    else if bits w 0 10 = 0x13 then .ok (.remu (bits w 20 5) (bits w 15 5) (bits w 10 5))
    else if bits w 0 15 = 0x14 then .ok (.clz (bits w 20 5) (bits w 15 5))
    else if bits w 0 15 = 0x15 then .ok (.popc (bits w 20 5) (bits w 15 5))
    else if bits w 0 10 = 0x16 then .ok (.extS (bits w 20 5) (bits w 15 5) (bits w 10 5))
    else if bits w 0 10 = 0x17 then .ok (.extZ (bits w 20 5) (bits w 15 5) (bits w 10 5))
    else .error .reservedField
  | 0x01 => .ok (.addi (bits w 20 5) (bits w 15 5) (bits w 0 15))
  | 0x02 => .ok (.andi (bits w 20 5) (bits w 15 5) (bits w 0 15))
  | 0x03 => .ok (.ori (bits w 20 5) (bits w 15 5) (bits w 0 15))
  | 0x04 => .ok (.xori (bits w 20 5) (bits w 15 5) (bits w 0 15))
  | 0x05 =>
    if bits w 6 9 = 0x0 then .ok (.shli (bits w 20 5) (bits w 15 5) (bits w 0 6))
    else .error .reservedField
  | 0x06 =>
    if bits w 6 9 = 0x0 then .ok (.shri (bits w 20 5) (bits w 15 5) (bits w 0 6))
    else .error .reservedField
  | 0x07 =>
    if bits w 6 9 = 0x0 then .ok (.srai (bits w 20 5) (bits w 15 5) (bits w 0 6))
    else .error .reservedField
  | 0x08 => .ok (.slti (bits w 20 5) (bits w 15 5) (bits w 0 15))
  | 0x09 => .ok (.sltui (bits w 20 5) (bits w 15 5) (bits w 0 15))
  | 0x0A => .ok (.lui (bits w 20 5) (bits w 0 20))
  | 0x0B => .ok (.apc (bits w 20 5) (bits w 0 20))
  | 0x10 => .ok (.ldB (bits w 20 5) (bits w 15 5) (bits w 0 15))
  | 0x11 => .ok (.ldH (bits w 20 5) (bits w 15 5) (bits w 0 15))
  | 0x12 => .ok (.ldW (bits w 20 5) (bits w 15 5) (bits w 0 15))
  | 0x13 => .ok (.ldD (bits w 20 5) (bits w 15 5) (bits w 0 15))
  | 0x14 => .ok (.lduB (bits w 20 5) (bits w 15 5) (bits w 0 15))
  | 0x15 => .ok (.lduH (bits w 20 5) (bits w 15 5) (bits w 0 15))
  | 0x16 => .ok (.lduW (bits w 20 5) (bits w 15 5) (bits w 0 15))
  | 0x17 => .ok (.ldLast (bits w 20 5) (bits w 15 5) (bits w 0 15))
  | 0x18 => .ok (.stB (bits w 20 5) (bits w 15 5) (bits w 0 15))
  | 0x19 => .ok (.stH (bits w 20 5) (bits w 15 5) (bits w 0 15))
  | 0x1A => .ok (.stW (bits w 20 5) (bits w 15 5) (bits w 0 15))
  | 0x1B => .ok (.stD (bits w 20 5) (bits w 15 5) (bits w 0 15))
  | 0x1C =>
    if bits w 0 4 = 0x0 then .ok (.amo (bits w 20 5) (bits w 15 5) (bits w 10 5) (bits w 8 2) (bits w 4 4))
    else .error .reservedField
  | 0x1D =>
    if bits w 0 10 = 0x0 then .ok (.cas (bits w 20 5) (bits w 15 5) (bits w 10 5))
    else .error .reservedField
  | 0x20 => .ok (.beq (bits w 20 5) (bits w 15 5) (bits w 0 15))
  | 0x21 => .ok (.bne (bits w 20 5) (bits w 15 5) (bits w 0 15))
  | 0x22 => .ok (.blt (bits w 20 5) (bits w 15 5) (bits w 0 15))
  | 0x23 => .ok (.bge (bits w 20 5) (bits w 15 5) (bits w 0 15))
  | 0x24 => .ok (.bltu (bits w 20 5) (bits w 15 5) (bits w 0 15))
  | 0x25 => .ok (.bgeu (bits w 20 5) (bits w 15 5) (bits w 0 15))
  | 0x26 => .ok (.jal (bits w 20 5) (bits w 0 20))
  | 0x27 => .ok (.jalr (bits w 20 5) (bits w 15 5) (bits w 0 15))
  | 0x28 =>
    if bits w 15 5 = 0x0 then .ok (.loop (bits w 20 5) (bits w 0 15))
    else .error .reservedField
  | 0x29 => .ok (.loopi (bits w 15 10) (bits w 0 15))
  | 0x30 =>
    if bits w 15 5 = 0x0 ∧ bits w 0 13 = 0x0 then .ok (.qpush (bits w 20 5) (bits w 13 2))
    else .error .reservedField
  | 0x31 =>
    if bits w 15 5 = 0x0 ∧ bits w 0 13 = 0x0 then .ok (.qpop (bits w 20 5) (bits w 13 2))
    else .error .reservedField
  | 0x32 =>
    if bits w 0 13 = 0x0 then .ok (.qtry (bits w 20 5) (bits w 15 5) (bits w 13 2))
    else .error .reservedField
  | 0x33 =>
    if bits w 15 10 = 0x0 ∧ bits w 0 13 = 0x0 then .ok (.tpost (bits w 13 2))
    else .error .reservedField
  | 0x34 =>
    if bits w 15 10 = 0x0 ∧ bits w 0 13 = 0x0 then .ok (.twait (bits w 13 2))
    else .error .reservedField
  | 0x35 =>
    if bits w 20 5 = 0x0 ∧ bits w 0 15 = 0x0 then .ok (.fmt (bits w 15 5))
    else .error .reservedField
  | 0x36 =>
    if bits w 20 5 = 0x0 ∧ bits w 4 11 = 0x0 then .ok (.nestW (bits w 15 5) (bits w 0 4))
    else .error .reservedField
  | 0x37 =>
    if bits w 0 25 = 0x0 then .ok (.nestGo)
    else .error .reservedField
  | 0x40 =>
    if bits w 0 15 = 0x0 then .ok (.launch (bits w 20 5) (bits w 15 5))
    else .error .reservedField
  | 0x41 =>
    if bits w 20 5 = 0x0 ∧ bits w 0 15 = 0x0 then .ok (.stream (bits w 15 5))
    else .error .reservedField
  | 0x42 =>
    if bits w 0 25 = 0x0 then .ok (.ktrig)
    else .error .reservedField
  | 0x43 =>
    if bits w 0 25 = 0x0 then .ok (.kwait)
    else .error .reservedField
  | 0x44 =>
    if bits w 0 25 = 0x0 then .ok (.texit)
    else .error .reservedField
  | 0x45 =>
    if bits w 0 15 = 0x0 then .ok (.coll (bits w 20 5) (bits w 15 5))
    else .error .reservedField
  | 0x46 =>
    if bits w 0 25 = 0x0 then .ok (.cleatArrive)
    else .error .reservedField
  | 0x47 =>
    if bits w 20 5 = 0x0 ∧ bits w 0 15 = 0x0 then .ok (.cleatExpect (bits w 15 5))
    else .error .reservedField
  | 0x48 =>
    if bits w 20 5 = 0x0 ∧ bits w 0 15 = 0x0 then .ok (.cleatWait (bits w 15 5))
    else .error .reservedField
  | 0x49 =>
    if bits w 2 23 = 0x0 then .ok (.fence (bits w 0 2))
    else .error .reservedField
  | 0x50 =>
    if bits w 15 5 = 0x0 ∧ bits w 0 3 = 0x0 then .ok (.csrr (bits w 20 5) (bits w 3 12))
    else .error .reservedField
  | 0x51 =>
    if bits w 20 5 = 0x0 ∧ bits w 0 3 = 0x0 then .ok (.csrw (bits w 15 5) (bits w 3 12))
    else .error .reservedField
  | 0x52 =>
    if bits w 0 3 = 0x0 then .ok (.csrx (bits w 20 5) (bits w 15 5) (bits w 3 12))
    else .error .reservedField
  | 0x53 =>
    if bits w 8 17 = 0x0 then .ok (.trap (bits w 0 8))
    else .error .reservedField
  | 0x54 =>
    if bits w 0 25 = 0x0 then .ok (.rett)
    else .error .reservedField
  | 0x55 =>
    if bits w 0 25 = 0x0 then .ok (.ecall)
    else .error .reservedField
  | 0x56 =>
    if bits w 20 5 = 0x0 ∧ bits w 2 13 = 0x0 then .ok (.clkdiv (bits w 15 5) (bits w 0 2))
    else .error .reservedField
  | 0x57 =>
    if bits w 20 5 = 0x0 ∧ bits w 2 13 = 0x0 then .ok (.pace (bits w 15 5) (bits w 0 2))
    else .error .reservedField
  | 0x58 =>
    if bits w 0 25 = 0x0 then .ok (.idle)
    else .error .reservedField
  | 0x59 =>
    if bits w 20 5 = 0x0 ∧ bits w 1 14 = 0x0 then .ok (.tlbinv (bits w 15 5) (bits w 0 1))
    else .error .reservedField
  | 0x5A =>
    if bits w 20 5 = 0x0 then .ok (.fcast (bits w 15 5) (bits w 5 10) (bits w 3 2) (bits w 0 3))
    else .error .reservedField
  | 0x5B =>
    if bits w 15 5 = 0x0 ∧ bits w 2 3 = 0x0 then .ok (.fverd (bits w 20 5) (bits w 5 10) (bits w 0 2))
    else .error .reservedField
  | _ => .error .reservedOpcode

/-- The forms L, X and S share (05 R92); an opcode outside them goes to `other`. -/
def decodeStep (t : StepStrand) (w : Word32) (other : Except DecodeError Instr) : Except DecodeError Instr :=
  match (bits w 26 6).toNat with
  | 0x00 =>
    if bits w 0 22 = 0x0 then .ok (.endStrand t (hitchAt w 22))
    else .error .reservedField
  | 0x01 =>
    if bits w 0 10 = 0x0 then .ok (.gadd t (hitchAt w 22) (bits w 18 4) (bits w 14 4) (bits w 10 4))
    else .error .reservedField
  | 0x02 => .ok (.gaddi t (hitchAt w 22) (bits w 18 4) (bits w 14 4) (bits w 0 14))
  | 0x03 => .ok (.gli t (hitchAt w 22) (bits w 18 4) (bits w 0 18))
  | 0x04 =>
    if bits w 19 1 = 0x1 then .ok (.stepLoopImm t (hitchAt w 22) (bits w 20 2) (bits w 10 9) (bits w 0 10))
    else if bits w 14 6 = 0x0 then .ok (.stepLoopReg t (hitchAt w 22) (bits w 20 2) (bits w 10 4) (bits w 0 10))
    else .error .reservedField
  | 0x05 => .ok (.brq t (hitchAt w 22) (bits w 20 2) (bits w 17 3) (bits w 0 17))
  | 0x06 =>
    if bits w 0 20 = 0x0 then .ok (.stepTpost t (hitchAt w 22) (bits w 20 2))
    else .error .reservedField
  | 0x07 =>
    if bits w 0 20 = 0x0 then .ok (.stepTwait t (hitchAt w 22) (bits w 20 2))
    else .error .reservedField
  | 0x08 =>
    if bits w 0 16 = 0x0 then .ok (.stepQpush t (hitchAt w 22) (bits w 20 2) (bits w 16 4))
    else .error .reservedField
  | 0x09 =>
    if bits w 0 16 = 0x0 then .ok (.stepQpop t (hitchAt w 22) (bits w 20 2) (bits w 16 4))
    else .error .reservedField
  | _ => other

/-- The transfer forms of L (05 R93). -/
def decodeL (w : Word32) : Except DecodeError Instr :=
  match (bits w 26 6).toNat with
  | 0x10 =>
    if bits w 0 4 = 0x0 then .ok (.tld (hitchAt w 22) (bits w 12 10) (bits w 8 4) (bits w 4 4))
    else if bits w 0 4 = 0x1 then .ok (.tldT (hitchAt w 22) (bits w 12 10) (bits w 8 4) (bits w 4 4))
    else .error .reservedField
  | 0x11 =>
    if bits w 2 2 = 0x0 then .ok (.wopen (hitchAt w 22) (bits w 12 10) (bits w 8 4) (bits w 4 4) (bits w 0 2))
    else if bits w 2 2 = 0x1 then .ok (.wopenW (hitchAt w 22) (bits w 12 10) (bits w 8 4) (bits w 4 4) (bits w 0 2))
    else .error .reservedField
  | 0x12 =>
    if bits w 12 10 = 0x0 ∧ bits w 2 6 = 0x0 then .ok (.wadv (hitchAt w 22) (bits w 8 4) (bits w 0 2))
    else .error .reservedField
  | 0x13 =>
    if bits w 12 10 = 0x0 ∧ bits w 2 6 = 0x0 then .ok (.wdrop (hitchAt w 22) (bits w 8 4) (bits w 0 2))
    else .error .reservedField
  | 0x14 =>
    if bits w 0 4 = 0x0 then .ok (.tfetch (hitchAt w 22) (bits w 12 10) (bits w 8 4) (bits w 4 4))
    else .error .reservedField
  | 0x15 =>
    if bits w 8 4 = 0x0 ∧ bits w 0 4 = 0x0 then .ok (.tpref (hitchAt w 22) (bits w 12 10) (bits w 4 4))
    else .error .reservedField
  | _ => .error .reservedOpcode

/-- The transfer forms of S (05 R93). -/
def decodeS (w : Word32) : Except DecodeError Instr :=
  match (bits w 26 6).toNat with
  | 0x10 =>
    if bits w 0 4 = 0x0 then .ok (.tst (hitchAt w 22) (bits w 12 10) (bits w 8 4) (bits w 4 4))
    else .error .reservedField
  | 0x11 =>
    if bits w 0 4 = 0x0 then .ok (.tfar (hitchAt w 22) (bits w 12 10) (bits w 8 4) (bits w 4 4))
    else .error .reservedField
  | 0x12 => .ok (.supd (hitchAt w 22) (bits w 12 10) (bits w 8 4) (bits w 4 4) (bits w 0 4))
  | 0x13 =>
    if bits w 2 2 = 0x0 then .ok (.tsum (hitchAt w 22) (bits w 12 10) (bits w 8 4) (bits w 4 4) (bits w 1 1) (bits w 0 1))
    else .error .reservedField
  | 0x14 =>
    if bits w 0 4 = 0x0 then .ok (.tcopy (hitchAt w 22) (bits w 12 10) (bits w 8 4) (bits w 4 4))
    else .error .reservedField
  | _ => .error .reservedOpcode

/-- The words of X with the opcode-and-hitch layout (05 R95). -/
def decodeXHitch (w : Word32) : Except DecodeError Instr :=
  match (bits w 26 6).toNat with
  | 0x0A =>
    if bits w 18 4 = 0x0 ∧ bits w 0 8 = 0x0 then .ok (.mldb (hitchAt w 22) (bits w 8 10))
    else if bits w 18 4 = 0x1 ∧ bits w 0 4 = 0x0 then .ok (.mmab (hitchAt w 22) (bits w 8 10) (bits w 4 4))
    else if bits w 18 4 = 0x2 ∧ bits w 0 4 = 0x0 then .ok (.mmas (hitchAt w 22) (bits w 8 10) (bits w 4 4))
    else if bits w 18 4 = 0x3 ∧ bits w 0 4 = 0x0 then .ok (.mdrain (hitchAt w 22) (bits w 8 10) (bits w 4 4))
    else if bits w 8 14 = 0x1000 ∧ bits w 0 4 = 0x0 then .ok (.mzero (hitchAt w 22) (bits w 4 4))
    else if bits w 0 22 = 0x140000 then .ok (.mnest (hitchAt w 22))
    else if bits w 0 22 = 0x180000 then .ok (.mtest (hitchAt w 22))
    else .error .reservedField
  | 0x0B =>
    if bits w 18 4 = 0x0 ∧ bits w 0 1 = 0x0 then .ok (.mtrsmLo (hitchAt w 22) (bits w 11 7) (bits w 1 10))
    else if bits w 18 4 = 0x0 ∧ bits w 0 1 = 0x1 then .ok (.mtrsmUp (hitchAt w 22) (bits w 11 7) (bits w 1 10))
    else if bits w 18 4 = 0x1 ∧ bits w 0 11 = 0x0 then .ok (.mlu (hitchAt w 22) (bits w 11 7))
    else if bits w 18 4 = 0x2 ∧ bits w 0 11 = 0x0 then .ok (.mchol (hitchAt w 22) (bits w 11 7))
    else if bits w 18 4 = 0x3 ∧ bits w 0 11 = 0x0 then .ok (.mgiv (hitchAt w 22) (bits w 11 7))
    else if bits w 11 11 = 0x200 ∧ bits w 0 1 = 0x0 then .ok (.mpiv (hitchAt w 22) (bits w 1 10))
    else if bits w 0 22 = 0x140000 then .ok (.mfst (hitchAt w 22))
    else .error .reservedField
  | 0x10 => .ok (.vadd (hitchAt w 22) (bits w 16 6) (bits w 10 6) (bits w 4 6) (bits w 0 4))
  | 0x11 => .ok (.vsub (hitchAt w 22) (bits w 16 6) (bits w 10 6) (bits w 4 6) (bits w 0 4))
  | 0x12 => .ok (.vmul (hitchAt w 22) (bits w 16 6) (bits w 10 6) (bits w 4 6) (bits w 0 4))
  | 0x13 => .ok (.vmin (hitchAt w 22) (bits w 16 6) (bits w 10 6) (bits w 4 6) (bits w 0 4))
  | 0x14 => .ok (.vmax (hitchAt w 22) (bits w 16 6) (bits w 10 6) (bits w 4 6) (bits w 0 4))
  | 0x15 =>
    if bits w 0 4 = 0x0 then .ok (.vand (hitchAt w 22) (bits w 16 6) (bits w 10 6) (bits w 4 6))
    else if bits w 0 4 = 0x1 then .ok (.vor (hitchAt w 22) (bits w 16 6) (bits w 10 6) (bits w 4 6))
    else if bits w 0 4 = 0x2 then .ok (.vxor (hitchAt w 22) (bits w 16 6) (bits w 10 6) (bits w 4 6))
    else if bits w 0 4 = 0x3 then .ok (.vshl (hitchAt w 22) (bits w 16 6) (bits w 10 6) (bits w 4 6))
    else if bits w 0 4 = 0x4 then .ok (.vshr (hitchAt w 22) (bits w 16 6) (bits w 10 6) (bits w 4 6))
    else if bits w 0 4 = 0x5 then .ok (.vsra (hitchAt w 22) (bits w 16 6) (bits w 10 6) (bits w 4 6))
    else if bits w 0 4 = 0x6 then .ok (.vaddsat (hitchAt w 22) (bits w 16 6) (bits w 10 6) (bits w 4 6))
    else if bits w 0 4 = 0x7 then .ok (.vsubsat (hitchAt w 22) (bits w 16 6) (bits w 10 6) (bits w 4 6))
    else .error .reservedField
  | 0x16 => .ok (.vcmp (hitchAt w 22) (bits w 18 4) (bits w 16 2) (bits w 10 6) (bits w 4 6) (bits w 0 4))
  | 0x17 =>
    if bits w 4 6 = 0x0 then .ok (.vabs (hitchAt w 22) (bits w 16 6) (bits w 10 6) (bits w 0 4))
    else if bits w 4 6 = 0x1 then .ok (.vneg (hitchAt w 22) (bits w 16 6) (bits w 10 6) (bits w 0 4))
    else if bits w 4 6 = 0x2 then .ok (.vnot (hitchAt w 22) (bits w 16 6) (bits w 10 6) (bits w 0 4))
    else if bits w 4 6 = 0x3 then .ok (.vmov (hitchAt w 22) (bits w 16 6) (bits w 10 6) (bits w 0 4))
    else if bits w 4 6 = 0x4 then .ok (.vrcp (hitchAt w 22) (bits w 16 6) (bits w 10 6) (bits w 0 4))
    else if bits w 4 6 = 0x5 then .ok (.vrsqrt (hitchAt w 22) (bits w 16 6) (bits w 10 6) (bits w 0 4))
    else if bits w 4 6 = 0x6 then .ok (.vsqrt (hitchAt w 22) (bits w 16 6) (bits w 10 6) (bits w 0 4))
    else if bits w 4 6 = 0x7 then .ok (.vexp2 (hitchAt w 22) (bits w 16 6) (bits w 10 6) (bits w 0 4))
    else if bits w 4 6 = 0x8 then .ok (.vlog2 (hitchAt w 22) (bits w 16 6) (bits w 10 6) (bits w 0 4))
    else .error .reservedField
  | 0x18 =>
    if bits w 7 3 = 0x0 then .ok (.vred (hitchAt w 22) (bits w 16 6) (bits w 10 6) (bits w 4 3) (bits w 0 4))
    else .error .reservedField
  | 0x19 => .ok (.vsel (hitchAt w 22) (bits w 16 6) (bits w 10 6) (bits w 4 6) (bits w 0 4))
  | 0x1A =>
    if bits w 0 4 = 0x0 then .ok (.vperm (hitchAt w 22) (bits w 16 6) (bits w 10 6) (bits w 4 6))
    else if bits w 0 4 = 0x1 then .ok (.vzip (hitchAt w 22) (bits w 16 6) (bits w 10 6) (bits w 4 6))
    else if bits w 0 4 = 0x2 then .ok (.vunzip (hitchAt w 22) (bits w 16 6) (bits w 10 6) (bits w 4 6))
    else .error .reservedField
  | 0x1B =>
    if bits w 0 6 = 0x0 then .ok (.vslide (hitchAt w 22) (bits w 16 6) (bits w 10 6) (bits w 6 4))
    else .error .reservedField
  | 0x1C =>
    if bits w 10 6 = 0x0 ∧ bits w 0 6 = 0x0 then .ok (.vsplat (hitchAt w 22) (bits w 16 6) (bits w 6 4))
    else .error .reservedField
  | 0x1D =>
    if bits w 14 2 = 0x0 ∧ bits w 0 6 = 0x0 then .ok (.vbcast (hitchAt w 22) (bits w 16 6) (bits w 10 4) (bits w 6 4))
    else .error .reservedField
  | 0x1E =>
    if bits w 10 8 = 0x0 ∧ bits w 0 6 = 0x0 then .ok (.pcnt (hitchAt w 22) (bits w 18 4) (bits w 6 4))
    else .error .reservedField
  | 0x1F =>
    if bits w 3 7 = 0x0 then .ok (.plogic (hitchAt w 22) (bits w 18 4) (bits w 14 4) (bits w 10 4) (bits w 0 3))
    else .error .reservedField
  | 0x20 =>
    if bits w 18 4 = 0x0 ∧ bits w 10 4 = 0x0 ∧ bits w 0 6 = 0x0 then .ok (.ppop (hitchAt w 22) (bits w 14 4) (bits w 6 4))
    else .error .reservedField
  | 0x21 =>
    if bits w 0 2 = 0x0 then .ok (.vcvt (hitchAt w 22) (bits w 16 6) (bits w 10 6) (bits w 6 4) (bits w 2 4))
    else .error .reservedField
  | 0x22 =>
    if bits w 0 3 = 0x0 then .ok (.vhad (hitchAt w 22) (bits w 16 6) (bits w 10 6) (bits w 6 4) (bits w 3 3))
    else .error .reservedField
  | 0x23 =>
    if bits w 16 6 = 0x0 ∧ bits w 0 6 = 0x0 then .ok (.vmaxe (hitchAt w 22) (bits w 10 6) (bits w 6 4))
    else .error .reservedField
  | 0x24 =>
    if bits w 2 4 = 0x0 then .ok (.vq (hitchAt w 22) (bits w 16 6) (bits w 10 6) (bits w 6 4) (bits w 0 2))
    else .error .reservedField
  | 0x25 =>
    if bits w 2 4 = 0x0 then .ok (.vdq (hitchAt w 22) (bits w 16 6) (bits w 10 6) (bits w 6 4) (bits w 0 2))
    else if bits w 2 1 = 0x1 then .ok (.vdqInv (hitchAt w 22) (bits w 16 6) (bits w 10 6) (bits w 6 4) (bits w 3 3) (bits w 0 2))
    else .error .reservedField
  | 0x26 => .ok (.vld (hitchAt w 22) (bits w 16 6) (bits w 12 4) (bits w 4 8) (bits w 0 4))
  | 0x27 => .ok (.vst (hitchAt w 22) (bits w 16 6) (bits w 12 4) (bits w 4 8) (bits w 0 4))
  | 0x28 => .ok (.vldFf (hitchAt w 22) (bits w 16 6) (bits w 12 4) (bits w 4 8) (bits w 0 4))
  | 0x29 =>
    if bits w 4 2 = 0x0 then .ok (.vldx (hitchAt w 22) (bits w 16 6) (bits w 12 4) (bits w 6 6) (bits w 0 4))
    else .error .reservedField
  | 0x2A =>
    if bits w 4 2 = 0x0 then .ok (.vstx (hitchAt w 22) (bits w 16 6) (bits w 12 4) (bits w 6 6) (bits w 0 4))
    else .error .reservedField
  | 0x2B =>
    if bits w 0 18 = 0x0 then .ok (.vshape (hitchAt w 22) (bits w 18 4))
    else .error .reservedField
  | 0x2C =>
    if bits w 0 22 = 0x0 then .ok (.vrot (hitchAt w 22))
    else .error .reservedField
  | 0x2D =>
    if bits w 0 18 = 0x0 then .ok (.vwin (hitchAt w 22) (bits w 18 4))
    else .error .reservedField
  | _ => .error .reservedOpcode

/-- The X map: VF and VM words by [31:28] (05 R94), the others by opcode. -/
def decodeX (w : Word32) : Except DecodeError Instr :=
  match (bits w 28 4).toNat with
  | 0x0C => .ok (.vfma (hitchAt w 24) (bits w 18 6) (bits w 12 6) (bits w 6 6) (bits w 0 6))
  | 0x0D => .ok (.vfms (hitchAt w 24) (bits w 18 6) (bits w 12 6) (bits w 6 6) (bits w 0 6))
  | 0x0E => .ok (.vfnma (hitchAt w 24) (bits w 18 6) (bits w 12 6) (bits w 6 6) (bits w 0 6))
  | 0x0F =>
    if bits w 0 20 = 0x0 then .ok (.vectorModifier (bits w 24 4) (bits w 23 1) (bits w 22 1) (bits w 20 2))
    else .error .reservedField
  | _ => decodeXHitch w

/-- decode_check of 05 R82 as far as the word alone decides it: the map of the strand, then the reserved values. -/
def decode (t : Strand) (w : Word32) : Except DecodeError Instr :=
  let r := match t with
    | .c => decodeC w
    | .l => decodeStep .l w (decodeL w)
    | .x => decodeStep .x w (decodeX w)
    | .s => decodeStep .s w (decodeS w)
  match r with
  | .ok i => if i.wf then .ok i else .error .reservedValue
  | .error e => .error e

/-! ### The encoder, from the same tables -/

/-- A word with the given value. -/
def word (n : Nat) : Word32 := BitVec.ofNat 32 n

/-- A word's value with a field placed at bit lo, where the value had zeros. -/
def put (lo : Nat) {n : Nat} (v : BitVec n) (acc : Nat) : Nat := acc + v.toNat * 2 ^ lo

/-- A word's value with its hitch field placed, the post code at bit lo (05 R91). -/
def withHitch (lo : Nat) (h : Hitch) (acc : Nat) : Nat := put lo h.post (put (lo + 2) h.wait acc)

/-- The word of an instruction (05 R85 to R97); an event has none and gives 0. -/
def encode : Instr → Word32
  | .add d a b => word (put 10 b (put 15 a (put 20 d 0x00000000)))
  | .sub d a b => word (put 10 b (put 15 a (put 20 d 0x00000001)))
  | .and d a b => word (put 10 b (put 15 a (put 20 d 0x00000002)))
  | .or d a b => word (put 10 b (put 15 a (put 20 d 0x00000003)))
  | .xor d a b => word (put 10 b (put 15 a (put 20 d 0x00000004)))
  | .shl d a b => word (put 10 b (put 15 a (put 20 d 0x00000005)))
  | .shr d a b => word (put 10 b (put 15 a (put 20 d 0x00000006)))
  | .sra d a b => word (put 10 b (put 15 a (put 20 d 0x00000007)))
  | .slt d a b => word (put 10 b (put 15 a (put 20 d 0x00000008)))
  | .sltu d a b => word (put 10 b (put 15 a (put 20 d 0x00000009)))
  | .seq d a b => word (put 10 b (put 15 a (put 20 d 0x0000000A)))
  | .min d a b => word (put 10 b (put 15 a (put 20 d 0x0000000B)))
  | .max d a b => word (put 10 b (put 15 a (put 20 d 0x0000000C)))
  | .minu d a b => word (put 10 b (put 15 a (put 20 d 0x0000000D)))
  | .maxu d a b => word (put 10 b (put 15 a (put 20 d 0x0000000E)))
  | .mul d a b => word (put 10 b (put 15 a (put 20 d 0x0000000F)))
  | .mulh d a b => word (put 10 b (put 15 a (put 20 d 0x00000010)))
  | .mulhu d a b => word (put 10 b (put 15 a (put 20 d 0x00000011)))
  | .divu d a b => word (put 10 b (put 15 a (put 20 d 0x00000012)))
  | .remu d a b => word (put 10 b (put 15 a (put 20 d 0x00000013)))
  | .clz d a => word (put 15 a (put 20 d 0x00000014))
  | .popc d a => word (put 15 a (put 20 d 0x00000015))
  | .extS d a w => word (put 10 w (put 15 a (put 20 d 0x00000016)))
  | .extZ d a w => word (put 10 w (put 15 a (put 20 d 0x00000017)))
  | .addi d a i => word (put 0 i (put 15 a (put 20 d 0x02000000)))
  | .andi d a i => word (put 0 i (put 15 a (put 20 d 0x04000000)))
  | .ori d a i => word (put 0 i (put 15 a (put 20 d 0x06000000)))
  | .xori d a i => word (put 0 i (put 15 a (put 20 d 0x08000000)))
  | .shli d a n => word (put 0 n (put 15 a (put 20 d 0x0A000000)))
  | .shri d a n => word (put 0 n (put 15 a (put 20 d 0x0C000000)))
  | .srai d a n => word (put 0 n (put 15 a (put 20 d 0x0E000000)))
  | .slti d a i => word (put 0 i (put 15 a (put 20 d 0x10000000)))
  | .sltui d a i => word (put 0 i (put 15 a (put 20 d 0x12000000)))
  | .lui d i => word (put 0 i (put 20 d 0x14000000))
  | .apc d i => word (put 0 i (put 20 d 0x16000000))
  | .ldB d a i => word (put 0 i (put 15 a (put 20 d 0x20000000)))
  | .ldH d a i => word (put 0 i (put 15 a (put 20 d 0x22000000)))
  | .ldW d a i => word (put 0 i (put 15 a (put 20 d 0x24000000)))
  | .ldD d a i => word (put 0 i (put 15 a (put 20 d 0x26000000)))
  | .lduB d a i => word (put 0 i (put 15 a (put 20 d 0x28000000)))
  | .lduH d a i => word (put 0 i (put 15 a (put 20 d 0x2A000000)))
  | .lduW d a i => word (put 0 i (put 15 a (put 20 d 0x2C000000)))
  | .ldLast d a i => word (put 0 i (put 15 a (put 20 d 0x2E000000)))
  | .stB b a i => word (put 0 i (put 15 a (put 20 b 0x30000000)))
  | .stH b a i => word (put 0 i (put 15 a (put 20 b 0x32000000)))
  | .stW b a i => word (put 0 i (put 15 a (put 20 b 0x34000000)))
  | .stD b a i => word (put 0 i (put 15 a (put 20 b 0x36000000)))
  | .amo d a b use op => word (put 4 op (put 8 use (put 10 b (put 15 a (put 20 d 0x38000000)))))
  | .cas d a b => word (put 10 b (put 15 a (put 20 d 0x3A000000)))
  | .beq a b o => word (put 0 o (put 15 b (put 20 a 0x40000000)))
  | .bne a b o => word (put 0 o (put 15 b (put 20 a 0x42000000)))
  | .blt a b o => word (put 0 o (put 15 b (put 20 a 0x44000000)))
  | .bge a b o => word (put 0 o (put 15 b (put 20 a 0x46000000)))
  | .bltu a b o => word (put 0 o (put 15 b (put 20 a 0x48000000)))
  | .bgeu a b o => word (put 0 o (put 15 b (put 20 a 0x4A000000)))
  | .jal d o => word (put 0 o (put 20 d 0x4C000000))
  | .jalr d a i => word (put 0 i (put 15 a (put 20 d 0x4E000000)))
  | .loop c o => word (put 0 o (put 20 c 0x50000000))
  | .loopi n o => word (put 0 o (put 15 n 0x52000000))
  | .qpush v p => word (put 13 p (put 20 v 0x60000000))
  | .qpop v p => word (put 13 p (put 20 v 0x62000000))
  | .qtry v e p => word (put 13 p (put 15 e (put 20 v 0x64000000)))
  | .tpost p => word (put 13 p 0x66000000)
  | .twait p => word (put 13 p 0x68000000)
  | .fmt a => word (put 15 a 0x6A000000)
  | .nestW a i => word (put 0 i (put 15 a 0x6C000000))
  | .nestGo => word 0x6E000000
  | .launch d a => word (put 15 a (put 20 d 0x80000000))
  | .stream a => word (put 15 a 0x82000000)
  | .ktrig => word 0x84000000
  | .kwait => word 0x86000000
  | .texit => word 0x88000000
  | .coll d a => word (put 15 a (put 20 d 0x8A000000))
  | .cleatArrive => word 0x8C000000
  | .cleatExpect a => word (put 15 a 0x8E000000)
  | .cleatWait a => word (put 15 a 0x90000000)
  | .fence scope => word (put 0 scope 0x92000000)
  | .csrr d csr => word (put 3 csr (put 20 d 0xA0000000))
  | .csrw a csr => word (put 3 csr (put 15 a 0xA2000000))
  | .csrx d a csr => word (put 3 csr (put 15 a (put 20 d 0xA4000000)))
  | .trap code => word (put 0 code 0xA6000000)
  | .rett => word 0xA8000000
  | .ecall => word 0xAA000000
  | .clkdiv a dom => word (put 0 dom (put 15 a 0xAC000000))
  | .pace a r => word (put 0 r (put 15 a 0xAE000000))
  | .idle => word 0xB0000000
  | .tlbinv a ctx => word (put 0 ctx (put 15 a 0xB2000000))
  | .fcast a h kind group => word (put 0 group (put 3 kind (put 5 h (put 15 a 0xB4000000))))
  | .fverd d h item => word (put 0 item (put 5 h (put 20 d 0xB6000000)))
  | .endStrand _ h => word (withHitch 22 h 0x00000000)
  | .gadd _ h d a b => word (put 10 b (put 14 a (put 18 d (withHitch 22 h 0x04000000))))
  | .gaddi _ h d a i => word (put 0 i (put 14 a (put 18 d (withHitch 22 h 0x08000000))))
  | .gli _ h d i => word (put 0 i (put 18 d (withHitch 22 h 0x0C000000)))
  | .stepLoopImm _ h lc n o => word (put 0 o (put 10 n (put 20 lc (withHitch 22 h 0x10080000))))
  | .stepLoopReg _ h lc g o => word (put 0 o (put 10 g (put 20 lc (withHitch 22 h 0x10000000))))
  | .brq _ h q cond o => word (put 0 o (put 17 cond (put 20 q (withHitch 22 h 0x14000000))))
  | .stepTpost _ h q => word (put 20 q (withHitch 22 h 0x18000000))
  | .stepTwait _ h q => word (put 20 q (withHitch 22 h 0x1C000000))
  | .stepQpush _ h q a => word (put 16 a (put 20 q (withHitch 22 h 0x20000000)))
  | .stepQpop _ h q d => word (put 16 d (put 20 q (withHitch 22 h 0x24000000)))
  | .vadd h d a b pn => word (put 0 pn (put 4 b (put 10 a (put 16 d (withHitch 22 h 0x40000000)))))
  | .vsub h d a b pn => word (put 0 pn (put 4 b (put 10 a (put 16 d (withHitch 22 h 0x44000000)))))
  | .vmul h d a b pn => word (put 0 pn (put 4 b (put 10 a (put 16 d (withHitch 22 h 0x48000000)))))
  | .vmin h d a b pn => word (put 0 pn (put 4 b (put 10 a (put 16 d (withHitch 22 h 0x4C000000)))))
  | .vmax h d a b pn => word (put 0 pn (put 4 b (put 10 a (put 16 d (withHitch 22 h 0x50000000)))))
  | .vand h d a b => word (put 4 b (put 10 a (put 16 d (withHitch 22 h 0x54000000))))
  | .vor h d a b => word (put 4 b (put 10 a (put 16 d (withHitch 22 h 0x54000001))))
  | .vxor h d a b => word (put 4 b (put 10 a (put 16 d (withHitch 22 h 0x54000002))))
  | .vshl h d a b => word (put 4 b (put 10 a (put 16 d (withHitch 22 h 0x54000003))))
  | .vshr h d a b => word (put 4 b (put 10 a (put 16 d (withHitch 22 h 0x54000004))))
  | .vsra h d a b => word (put 4 b (put 10 a (put 16 d (withHitch 22 h 0x54000005))))
  | .vaddsat h d a b => word (put 4 b (put 10 a (put 16 d (withHitch 22 h 0x54000006))))
  | .vsubsat h d a b => word (put 4 b (put 10 a (put 16 d (withHitch 22 h 0x54000007))))
  | .vcmp h d cond a b pn => word (put 0 pn (put 4 b (put 10 a (put 16 cond (put 18 d (withHitch 22 h 0x58000000))))))
  | .vabs h d a pn => word (put 0 pn (put 10 a (put 16 d (withHitch 22 h 0x5C000000))))
  | .vneg h d a pn => word (put 0 pn (put 10 a (put 16 d (withHitch 22 h 0x5C000010))))
  | .vnot h d a pn => word (put 0 pn (put 10 a (put 16 d (withHitch 22 h 0x5C000020))))
  | .vmov h d a pn => word (put 0 pn (put 10 a (put 16 d (withHitch 22 h 0x5C000030))))
  | .vrcp h d a pn => word (put 0 pn (put 10 a (put 16 d (withHitch 22 h 0x5C000040))))
  | .vrsqrt h d a pn => word (put 0 pn (put 10 a (put 16 d (withHitch 22 h 0x5C000050))))
  | .vsqrt h d a pn => word (put 0 pn (put 10 a (put 16 d (withHitch 22 h 0x5C000060))))
  | .vexp2 h d a pn => word (put 0 pn (put 10 a (put 16 d (withHitch 22 h 0x5C000070))))
  | .vlog2 h d a pn => word (put 0 pn (put 10 a (put 16 d (withHitch 22 h 0x5C000080))))
  | .vred h d a o pn => word (put 0 pn (put 4 o (put 10 a (put 16 d (withHitch 22 h 0x60000000)))))
  | .vsel h d a b pn => word (put 0 pn (put 4 b (put 10 a (put 16 d (withHitch 22 h 0x64000000)))))
  | .vperm h d a b => word (put 4 b (put 10 a (put 16 d (withHitch 22 h 0x68000000))))
  | .vzip h d a b => word (put 4 b (put 10 a (put 16 d (withHitch 22 h 0x68000001))))
  | .vunzip h d a b => word (put 4 b (put 10 a (put 16 d (withHitch 22 h 0x68000002))))
  | .vslide h d a g => word (put 6 g (put 10 a (put 16 d (withHitch 22 h 0x6C000000))))
  | .vsplat h d g => word (put 6 g (put 16 d (withHitch 22 h 0x70000000)))
  | .vbcast h d k g => word (put 6 g (put 10 k (put 16 d (withHitch 22 h 0x74000000))))
  | .pcnt h d g => word (put 6 g (put 18 d (withHitch 22 h 0x78000000)))
  | .plogic h d a b f => word (put 0 f (put 10 b (put 14 a (put 18 d (withHitch 22 h 0x7C000000)))))
  | .ppop h a g => word (put 6 g (put 14 a (withHitch 22 h 0x80000000)))
  | .vcvt h d a dt st => word (put 2 st (put 6 dt (put 10 a (put 16 d (withHitch 22 h 0x84000000)))))
  | .vhad h d a k seed => word (put 3 seed (put 6 k (put 10 a (put 16 d (withHitch 22 h 0x88000000)))))
  | .vmaxe h a k => word (put 6 k (put 10 a (withHitch 22 h 0x8C000000)))
  | .vq h d a k m => word (put 0 m (put 6 k (put 10 a (put 16 d (withHitch 22 h 0x90000000)))))
  | .vdq h d a k m => word (put 0 m (put 6 k (put 10 a (put 16 d (withHitch 22 h 0x94000000)))))
  | .vdqInv h d a k seed m => word (put 0 m (put 3 seed (put 6 k (put 10 a (put 16 d (withHitch 22 h 0x94000004))))))
  | .vld h v g o pn => word (put 0 pn (put 4 o (put 12 g (put 16 v (withHitch 22 h 0x98000000)))))
  | .vst h v g o pn => word (put 0 pn (put 4 o (put 12 g (put 16 v (withHitch 22 h 0x9C000000)))))
  | .vldFf h v g o pn => word (put 0 pn (put 4 o (put 12 g (put 16 v (withHitch 22 h 0xA0000000)))))
  | .vldx h v g vi pn => word (put 0 pn (put 6 vi (put 12 g (put 16 v (withHitch 22 h 0xA4000000)))))
  | .vstx h v g vi pn => word (put 0 pn (put 6 vi (put 12 g (put 16 v (withHitch 22 h 0xA8000000)))))
  | .vshape h z => word (put 18 z (withHitch 22 h 0xAC000000))
  | .vrot h => word (withHitch 22 h 0xB0000000)
  | .vwin h g => word (put 18 g (withHitch 22 h 0xB4000000))
  | .vfma h d a b c => word (put 0 c (put 6 b (put 12 a (put 18 d (withHitch 24 h 0xC0000000)))))
  | .vfms h d a b c => word (put 0 c (put 6 b (put 12 a (put 18 d (withHitch 24 h 0xD0000000)))))
  | .vfnma h d a b c => word (put 0 c (put 6 b (put 12 a (put 18 d (withHitch 24 h 0xE0000000)))))
  | .vectorModifier pn inv zero rm => word (put 20 rm (put 22 zero (put 23 inv (put 24 pn 0xF0000000))))
  | .mldb h hd => word (put 8 hd (withHitch 22 h 0x28000000))
  | .mmab h hd t => word (put 4 t (put 8 hd (withHitch 22 h 0x28040000)))
  | .mmas h hd t => word (put 4 t (put 8 hd (withHitch 22 h 0x28080000)))
  | .mdrain h hd t => word (put 4 t (put 8 hd (withHitch 22 h 0x280C0000)))
  | .mzero h t => word (put 4 t (withHitch 22 h 0x28100000))
  | .mnest h => word (withHitch 22 h 0x28140000)
  | .mtest h => word (withHitch 22 h 0x28180000)
  | .mtrsmLo h s hd => word (put 1 hd (put 11 s (withHitch 22 h 0x2C000000)))
  | .mtrsmUp h s hd => word (put 1 hd (put 11 s (withHitch 22 h 0x2C000001)))
  | .mlu h s => word (put 11 s (withHitch 22 h 0x2C040000))
  | .mchol h s => word (put 11 s (withHitch 22 h 0x2C080000))
  | .mgiv h s => word (put 11 s (withHitch 22 h 0x2C0C0000))
  | .mpiv h hd => word (put 1 hd (withHitch 22 h 0x2C100000))
  | .mfst h => word (withHitch 22 h 0x2C140000)
  | .tld h hd a b => word (put 4 b (put 8 a (put 12 hd (withHitch 22 h 0x40000000))))
  | .tldT h hd a b => word (put 4 b (put 8 a (put 12 hd (withHitch 22 h 0x40000001))))
  | .tst h hd a b => word (put 4 b (put 8 a (put 12 hd (withHitch 22 h 0x40000000))))
  | .wopen h hd a b r => word (put 0 r (put 4 b (put 8 a (put 12 hd (withHitch 22 h 0x44000000)))))
  | .wopenW h hd a b r => word (put 0 r (put 4 b (put 8 a (put 12 hd (withHitch 22 h 0x44000004)))))
  | .tfar h hd a b => word (put 4 b (put 8 a (put 12 hd (withHitch 22 h 0x44000000))))
  | .wadv h a r => word (put 0 r (put 8 a (withHitch 22 h 0x48000000)))
  | .supd h hd a b u => word (put 0 u (put 4 b (put 8 a (put 12 hd (withHitch 22 h 0x48000000)))))
  | .wdrop h a r => word (put 0 r (put 8 a (withHitch 22 h 0x4C000000)))
  | .tsum h hd a b bfl com => word (put 0 com (put 1 bfl (put 4 b (put 8 a (put 12 hd (withHitch 22 h 0x4C000000))))))
  | .tfetch h hd a b => word (put 4 b (put 8 a (put 12 hd (withHitch 22 h 0x50000000))))
  | .tcopy h hd a b => word (put 4 b (put 8 a (put 12 hd (withHitch 22 h 0x50000000))))
  | .tpref h hd b => word (put 4 b (put 12 hd (withHitch 22 h 0x54000000)))
  | _ => 0

/-- The strand whose map holds an instruction's word; none for an event. -/
def Instr.home : Instr → Option Strand
  | .add _ _ _ => some .c
  | .sub _ _ _ => some .c
  | .and _ _ _ => some .c
  | .or _ _ _ => some .c
  | .xor _ _ _ => some .c
  | .shl _ _ _ => some .c
  | .shr _ _ _ => some .c
  | .sra _ _ _ => some .c
  | .slt _ _ _ => some .c
  | .sltu _ _ _ => some .c
  | .seq _ _ _ => some .c
  | .min _ _ _ => some .c
  | .max _ _ _ => some .c
  | .minu _ _ _ => some .c
  | .maxu _ _ _ => some .c
  | .mul _ _ _ => some .c
  | .mulh _ _ _ => some .c
  | .mulhu _ _ _ => some .c
  | .divu _ _ _ => some .c
  | .remu _ _ _ => some .c
  | .clz _ _ => some .c
  | .popc _ _ => some .c
  | .extS _ _ _ => some .c
  | .extZ _ _ _ => some .c
  | .addi _ _ _ => some .c
  | .andi _ _ _ => some .c
  | .ori _ _ _ => some .c
  | .xori _ _ _ => some .c
  | .shli _ _ _ => some .c
  | .shri _ _ _ => some .c
  | .srai _ _ _ => some .c
  | .slti _ _ _ => some .c
  | .sltui _ _ _ => some .c
  | .lui _ _ => some .c
  | .apc _ _ => some .c
  | .ldB _ _ _ => some .c
  | .ldH _ _ _ => some .c
  | .ldW _ _ _ => some .c
  | .ldD _ _ _ => some .c
  | .lduB _ _ _ => some .c
  | .lduH _ _ _ => some .c
  | .lduW _ _ _ => some .c
  | .ldLast _ _ _ => some .c
  | .stB _ _ _ => some .c
  | .stH _ _ _ => some .c
  | .stW _ _ _ => some .c
  | .stD _ _ _ => some .c
  | .amo _ _ _ _ _ => some .c
  | .cas _ _ _ => some .c
  | .beq _ _ _ => some .c
  | .bne _ _ _ => some .c
  | .blt _ _ _ => some .c
  | .bge _ _ _ => some .c
  | .bltu _ _ _ => some .c
  | .bgeu _ _ _ => some .c
  | .jal _ _ => some .c
  | .jalr _ _ _ => some .c
  | .loop _ _ => some .c
  | .loopi _ _ => some .c
  | .qpush _ _ => some .c
  | .qpop _ _ => some .c
  | .qtry _ _ _ => some .c
  | .tpost _ => some .c
  | .twait _ => some .c
  | .fmt _ => some .c
  | .nestW _ _ => some .c
  | .nestGo => some .c
  | .launch _ _ => some .c
  | .stream _ => some .c
  | .ktrig => some .c
  | .kwait => some .c
  | .texit => some .c
  | .coll _ _ => some .c
  | .cleatArrive => some .c
  | .cleatExpect _ => some .c
  | .cleatWait _ => some .c
  | .fence _ => some .c
  | .csrr _ _ => some .c
  | .csrw _ _ => some .c
  | .csrx _ _ _ => some .c
  | .trap _ => some .c
  | .rett => some .c
  | .ecall => some .c
  | .clkdiv _ _ => some .c
  | .pace _ _ => some .c
  | .idle => some .c
  | .tlbinv _ _ => some .c
  | .fcast _ _ _ _ => some .c
  | .fverd _ _ _ => some .c
  | .endStrand t _ => some t.strand
  | .gadd t _ _ _ _ => some t.strand
  | .gaddi t _ _ _ _ => some t.strand
  | .gli t _ _ _ => some t.strand
  | .stepLoopImm t _ _ _ _ => some t.strand
  | .stepLoopReg t _ _ _ _ => some t.strand
  | .brq t _ _ _ _ => some t.strand
  | .stepTpost t _ _ => some t.strand
  | .stepTwait t _ _ => some t.strand
  | .stepQpush t _ _ _ => some t.strand
  | .stepQpop t _ _ _ => some t.strand
  | .vadd _ _ _ _ _ => some .x
  | .vsub _ _ _ _ _ => some .x
  | .vmul _ _ _ _ _ => some .x
  | .vmin _ _ _ _ _ => some .x
  | .vmax _ _ _ _ _ => some .x
  | .vand _ _ _ _ => some .x
  | .vor _ _ _ _ => some .x
  | .vxor _ _ _ _ => some .x
  | .vshl _ _ _ _ => some .x
  | .vshr _ _ _ _ => some .x
  | .vsra _ _ _ _ => some .x
  | .vaddsat _ _ _ _ => some .x
  | .vsubsat _ _ _ _ => some .x
  | .vcmp _ _ _ _ _ _ => some .x
  | .vabs _ _ _ _ => some .x
  | .vneg _ _ _ _ => some .x
  | .vnot _ _ _ _ => some .x
  | .vmov _ _ _ _ => some .x
  | .vrcp _ _ _ _ => some .x
  | .vrsqrt _ _ _ _ => some .x
  | .vsqrt _ _ _ _ => some .x
  | .vexp2 _ _ _ _ => some .x
  | .vlog2 _ _ _ _ => some .x
  | .vred _ _ _ _ _ => some .x
  | .vsel _ _ _ _ _ => some .x
  | .vperm _ _ _ _ => some .x
  | .vzip _ _ _ _ => some .x
  | .vunzip _ _ _ _ => some .x
  | .vslide _ _ _ _ => some .x
  | .vsplat _ _ _ => some .x
  | .vbcast _ _ _ _ => some .x
  | .pcnt _ _ _ => some .x
  | .plogic _ _ _ _ _ => some .x
  | .ppop _ _ _ => some .x
  | .vcvt _ _ _ _ _ => some .x
  | .vhad _ _ _ _ _ => some .x
  | .vmaxe _ _ _ => some .x
  | .vq _ _ _ _ _ => some .x
  | .vdq _ _ _ _ _ => some .x
  | .vdqInv _ _ _ _ _ _ => some .x
  | .vld _ _ _ _ _ => some .x
  | .vst _ _ _ _ _ => some .x
  | .vldFf _ _ _ _ _ => some .x
  | .vldx _ _ _ _ _ => some .x
  | .vstx _ _ _ _ _ => some .x
  | .vshape _ _ => some .x
  | .vrot _ => some .x
  | .vwin _ _ => some .x
  | .vfma _ _ _ _ _ => some .x
  | .vfms _ _ _ _ _ => some .x
  | .vfnma _ _ _ _ _ => some .x
  | .vectorModifier _ _ _ _ => some .x
  | .mldb _ _ => some .x
  | .mmab _ _ _ => some .x
  | .mmas _ _ _ => some .x
  | .mdrain _ _ _ => some .x
  | .mzero _ _ => some .x
  | .mnest _ => some .x
  | .mtest _ => some .x
  | .mtrsmLo _ _ _ => some .x
  | .mtrsmUp _ _ _ => some .x
  | .mlu _ _ => some .x
  | .mchol _ _ => some .x
  | .mgiv _ _ => some .x
  | .mpiv _ _ => some .x
  | .mfst _ => some .x
  | .tld _ _ _ _ => some .l
  | .tldT _ _ _ _ => some .l
  | .tst _ _ _ _ => some .s
  | .wopen _ _ _ _ _ => some .l
  | .wopenW _ _ _ _ _ => some .l
  | .tfar _ _ _ _ => some .s
  | .wadv _ _ _ => some .l
  | .supd _ _ _ _ _ => some .s
  | .wdrop _ _ _ => some .l
  | .tsum _ _ _ _ _ _ => some .s
  | .tfetch _ _ _ _ => some .l
  | .tcopy _ _ _ _ => some .s
  | .tpref _ _ _ => some .l
  | _ => none

/-- The bits of a word that its instruction's row fixes (spec/opcode_table.json); 0 for events. -/
def Instr.mask : Instr → Nat
  | .add _ _ _ => 0xFE0003FF
  | .sub _ _ _ => 0xFE0003FF
  | .and _ _ _ => 0xFE0003FF
  | .or _ _ _ => 0xFE0003FF
  | .xor _ _ _ => 0xFE0003FF
  | .shl _ _ _ => 0xFE0003FF
  | .shr _ _ _ => 0xFE0003FF
  | .sra _ _ _ => 0xFE0003FF
  | .slt _ _ _ => 0xFE0003FF
  | .sltu _ _ _ => 0xFE0003FF
  | .seq _ _ _ => 0xFE0003FF
  | .min _ _ _ => 0xFE0003FF
  | .max _ _ _ => 0xFE0003FF
  | .minu _ _ _ => 0xFE0003FF
  | .maxu _ _ _ => 0xFE0003FF
  | .mul _ _ _ => 0xFE0003FF
  | .mulh _ _ _ => 0xFE0003FF
  | .mulhu _ _ _ => 0xFE0003FF
  | .divu _ _ _ => 0xFE0003FF
  | .remu _ _ _ => 0xFE0003FF
  | .clz _ _ => 0xFE007FFF
  | .popc _ _ => 0xFE007FFF
  | .extS _ _ _ => 0xFE0003FF
  | .extZ _ _ _ => 0xFE0003FF
  | .addi _ _ _ => 0xFE000000
  | .andi _ _ _ => 0xFE000000
  | .ori _ _ _ => 0xFE000000
  | .xori _ _ _ => 0xFE000000
  | .shli _ _ _ => 0xFE007FC0
  | .shri _ _ _ => 0xFE007FC0
  | .srai _ _ _ => 0xFE007FC0
  | .slti _ _ _ => 0xFE000000
  | .sltui _ _ _ => 0xFE000000
  | .lui _ _ => 0xFE000000
  | .apc _ _ => 0xFE000000
  | .ldB _ _ _ => 0xFE000000
  | .ldH _ _ _ => 0xFE000000
  | .ldW _ _ _ => 0xFE000000
  | .ldD _ _ _ => 0xFE000000
  | .lduB _ _ _ => 0xFE000000
  | .lduH _ _ _ => 0xFE000000
  | .lduW _ _ _ => 0xFE000000
  | .ldLast _ _ _ => 0xFE000000
  | .stB _ _ _ => 0xFE000000
  | .stH _ _ _ => 0xFE000000
  | .stW _ _ _ => 0xFE000000
  | .stD _ _ _ => 0xFE000000
  | .amo _ _ _ _ _ => 0xFE00000F
  | .cas _ _ _ => 0xFE0003FF
  | .beq _ _ _ => 0xFE000000
  | .bne _ _ _ => 0xFE000000
  | .blt _ _ _ => 0xFE000000
  | .bge _ _ _ => 0xFE000000
  | .bltu _ _ _ => 0xFE000000
  | .bgeu _ _ _ => 0xFE000000
  | .jal _ _ => 0xFE000000
  | .jalr _ _ _ => 0xFE000000
  | .loop _ _ => 0xFE0F8000
  | .loopi _ _ => 0xFE000000
  | .qpush _ _ => 0xFE0F9FFF
  | .qpop _ _ => 0xFE0F9FFF
  | .qtry _ _ _ => 0xFE001FFF
  | .tpost _ => 0xFFFF9FFF
  | .twait _ => 0xFFFF9FFF
  | .fmt _ => 0xFFF07FFF
  | .nestW _ _ => 0xFFF07FF0
  | .nestGo => 0xFFFFFFFF
  | .launch _ _ => 0xFE007FFF
  | .stream _ => 0xFFF07FFF
  | .ktrig => 0xFFFFFFFF
  | .kwait => 0xFFFFFFFF
  | .texit => 0xFFFFFFFF
  | .coll _ _ => 0xFE007FFF
  | .cleatArrive => 0xFFFFFFFF
  | .cleatExpect _ => 0xFFF07FFF
  | .cleatWait _ => 0xFFF07FFF
  | .fence _ => 0xFFFFFFFC
  | .csrr _ _ => 0xFE0F8007
  | .csrw _ _ => 0xFFF00007
  | .csrx _ _ _ => 0xFE000007
  | .trap _ => 0xFFFFFF00
  | .rett => 0xFFFFFFFF
  | .ecall => 0xFFFFFFFF
  | .clkdiv _ _ => 0xFFF07FFC
  | .pace _ _ => 0xFFF07FFC
  | .idle => 0xFFFFFFFF
  | .tlbinv _ _ => 0xFFF07FFE
  | .fcast _ _ _ _ => 0xFFF00000
  | .fverd _ _ _ => 0xFE0F801C
  | .endStrand _ _ => 0xFC3FFFFF
  | .gadd _ _ _ _ _ => 0xFC0003FF
  | .gaddi _ _ _ _ _ => 0xFC000000
  | .gli _ _ _ _ => 0xFC000000
  | .stepLoopImm _ _ _ _ _ => 0xFC080000
  | .stepLoopReg _ _ _ _ _ => 0xFC0FC000
  | .brq _ _ _ _ _ => 0xFC000000
  | .stepTpost _ _ _ => 0xFC0FFFFF
  | .stepTwait _ _ _ => 0xFC0FFFFF
  | .stepQpush _ _ _ _ => 0xFC00FFFF
  | .stepQpop _ _ _ _ => 0xFC00FFFF
  | .vadd _ _ _ _ _ => 0xFC000000
  | .vsub _ _ _ _ _ => 0xFC000000
  | .vmul _ _ _ _ _ => 0xFC000000
  | .vmin _ _ _ _ _ => 0xFC000000
  | .vmax _ _ _ _ _ => 0xFC000000
  | .vand _ _ _ _ => 0xFC00000F
  | .vor _ _ _ _ => 0xFC00000F
  | .vxor _ _ _ _ => 0xFC00000F
  | .vshl _ _ _ _ => 0xFC00000F
  | .vshr _ _ _ _ => 0xFC00000F
  | .vsra _ _ _ _ => 0xFC00000F
  | .vaddsat _ _ _ _ => 0xFC00000F
  | .vsubsat _ _ _ _ => 0xFC00000F
  | .vcmp _ _ _ _ _ _ => 0xFC000000
  | .vabs _ _ _ _ => 0xFC0003F0
  | .vneg _ _ _ _ => 0xFC0003F0
  | .vnot _ _ _ _ => 0xFC0003F0
  | .vmov _ _ _ _ => 0xFC0003F0
  | .vrcp _ _ _ _ => 0xFC0003F0
  | .vrsqrt _ _ _ _ => 0xFC0003F0
  | .vsqrt _ _ _ _ => 0xFC0003F0
  | .vexp2 _ _ _ _ => 0xFC0003F0
  | .vlog2 _ _ _ _ => 0xFC0003F0
  | .vred _ _ _ _ _ => 0xFC000380
  | .vsel _ _ _ _ _ => 0xFC000000
  | .vperm _ _ _ _ => 0xFC00000F
  | .vzip _ _ _ _ => 0xFC00000F
  | .vunzip _ _ _ _ => 0xFC00000F
  | .vslide _ _ _ _ => 0xFC00003F
  | .vsplat _ _ _ => 0xFC00FC3F
  | .vbcast _ _ _ _ => 0xFC00C03F
  | .pcnt _ _ _ => 0xFC03FC3F
  | .plogic _ _ _ _ _ => 0xFC0003F8
  | .ppop _ _ _ => 0xFC3C3C3F
  | .vcvt _ _ _ _ _ => 0xFC000003
  | .vhad _ _ _ _ _ => 0xFC000007
  | .vmaxe _ _ _ => 0xFC3F003F
  | .vq _ _ _ _ _ => 0xFC00003C
  | .vdq _ _ _ _ _ => 0xFC00003C
  | .vdqInv _ _ _ _ _ _ => 0xFC000004
  | .vld _ _ _ _ _ => 0xFC000000
  | .vst _ _ _ _ _ => 0xFC000000
  | .vldFf _ _ _ _ _ => 0xFC000000
  | .vldx _ _ _ _ _ => 0xFC000030
  | .vstx _ _ _ _ _ => 0xFC000030
  | .vshape _ _ => 0xFC03FFFF
  | .vrot _ => 0xFC3FFFFF
  | .vwin _ _ => 0xFC03FFFF
  | .vfma _ _ _ _ _ => 0xF0000000
  | .vfms _ _ _ _ _ => 0xF0000000
  | .vfnma _ _ _ _ _ => 0xF0000000
  | .vectorModifier _ _ _ _ => 0xF00FFFFF
  | .mldb _ _ => 0xFC3C00FF
  | .mmab _ _ _ => 0xFC3C000F
  | .mmas _ _ _ => 0xFC3C000F
  | .mdrain _ _ _ => 0xFC3C000F
  | .mzero _ _ => 0xFC3FFF0F
  | .mnest _ => 0xFC3FFFFF
  | .mtest _ => 0xFC3FFFFF
  | .mtrsmLo _ _ _ => 0xFC3C0001
  | .mtrsmUp _ _ _ => 0xFC3C0001
  | .mlu _ _ => 0xFC3C07FF
  | .mchol _ _ => 0xFC3C07FF
  | .mgiv _ _ => 0xFC3C07FF
  | .mpiv _ _ => 0xFC3FF801
  | .mfst _ => 0xFC3FFFFF
  | .tld _ _ _ _ => 0xFC00000F
  | .tldT _ _ _ _ => 0xFC00000F
  | .tst _ _ _ _ => 0xFC00000F
  | .wopen _ _ _ _ _ => 0xFC00000C
  | .wopenW _ _ _ _ _ => 0xFC00000C
  | .tfar _ _ _ _ => 0xFC00000F
  | .wadv _ _ _ => 0xFC3FF0FC
  | .supd _ _ _ _ _ => 0xFC000000
  | .wdrop _ _ _ => 0xFC3FF0FC
  | .tsum _ _ _ _ _ _ => 0xFC00000C
  | .tfetch _ _ _ _ => 0xFC00000F
  | .tcopy _ _ _ _ => 0xFC00000F
  | .tpref _ _ _ => 0xFC000F0F
  | _ => 0

/-- The number of 1 bits among the low n. -/
def ones : Nat → Nat → Nat
  | 0, _ => 0
  | n + 1, v => v % 2 + ones n (v / 2)

/-- How well a reading fits a table word: best where no operand bit is set, then by the number of fixed bits. -/
def Instr.fit (i : Instr) (w : Word32) : Nat :=
  (if (w &&& ~~~BitVec.ofNat 32 i.mask) = 0 then 64 else 0) + ones 32 i.mask

/-- The better of two readings of one table word, the first if they fit as well. -/
def betterReading (w : Word32) (a b : Option (Strand × Instr)) : Option (Strand × Instr) :=
  match a, b with
  | none, b => b
  | a, none => a
  | some (t, i), some (u, j) => if i.fit w < j.fit w then some (u, j) else some (t, i)

/-- The reading of a word in one strand's map, if it is an instruction there. -/
def readingIn (t : Strand) (w : Word32) : Option (Strand × Instr) :=
  match decode t w with
  | .ok i => some (t, i)
  | .error _ => none

/-- A word of the table does not say in which strand's memory it stands (02 R20, 05 R82): the maps of C, L, X and S use the
same bits.  It is read in the map where it fits a row best, in the order C, X, L, S where it fits several as well.
Log 8. -/
def tableReading (nbits w : Nat) : Option (Strand × Instr) :=
  if nbits ≤ 32 ∧ 0 < nbits then
    let u := word w
    betterReading u (betterReading u (readingIn .c u) (readingIn .x u)) (betterReading u (readingIn .l u) (readingIn .s u))
  else none

/-- The instruction the decoder reads from a table word. -/
def decodeTableWord (nbits w : Nat) : Option Instr := (tableReading nbits w).map (·.2)

end Sys2Proof
end

