-- ==== Sys2Proof/Machine/Bits.lean ====
section
/-!
DEFINITION. Numbers in bytes and bits: little-endian fields, sign and zero extension (00 R3, R8), lists of bits.
-/
namespace Sys2Proof.Machine

/-- The n low bytes of a value, lowest first (00 R3). -/
def leBytes : Nat → Nat → List Byte
  | 0, _ => []
  | n + 1, v => BitVec.ofNat 8 v :: leBytes n (v / 256)

/-- The value of bytes, lowest first (00 R3). -/
def leNat : List Byte → Nat
  | [] => 0
  | b :: bs => b.toNat + 256 * leNat bs

/-- Bits [lo + n - 1 : lo] of a value. -/
def field (v lo n : Nat) : Nat := v / 2 ^ lo % 2 ^ n

/-- Bit i of a value. -/
def bitOf (v i : Nat) : Bool := v / 2 ^ i % 2 == 1

/-- The w-bit value read as signed (00 R8). -/
def toI (w v : Nat) : Int := if v % 2 ^ w < 2 ^ (w - 1) then (v % 2 ^ w : Nat) else (v % 2 ^ w : Nat) - (2 ^ w : Nat)

/-- An integer modulo 2^w. -/
def ofI (w : Nat) (i : Int) : Nat := (i % (2 ^ w : Nat)).toNat

/-- ceil(a / b). -/
def ceilDiv (a b : Nat) : Nat := (a + b - 1) / b

/-- a rounded up to a multiple of b. -/
def roundUp (a b : Nat) : Nat := ceilDiv a b * b

/-- Entry i of a list, a default past its end. -/
def nth {α : Type} (l : List α) (i : Nat) (dflt : α) : α := l.getD i dflt

/-- Split into pieces of n entries (the last may be shorter), at most `fuel` of them. -/
def pieces {α : Type} (n : Nat) : Nat → List α → List (List α)
  | 0, _ => []
  | _ + 1, [] => []
  | f + 1, l => l.take n :: pieces n f (l.drop n)

/-- The positions 0 to n - 1 at which a test holds. -/
def positions (n : Nat) (p : Nat → Bool) : List Nat := (List.range n).filter p

/-- The 1 bits among the low n bits of a value, as a list of truth values. -/
def bitsOf (n v : Nat) : List Bool := (List.range n).map (bitOf v)

/-- The value of bits, lowest first. -/
def ofBits : List Bool → Nat
  | [] => 0
  | b :: bs => b.toNat + 2 * ofBits bs

/-- The number of leading zero bits of a w-bit value (06 R105). -/
def leadingZeros (w v : Nat) : Nat := if v == 0 then w else w - 1 - Nat.log2 v

/-- The number of 1 bits among the low w bits (06 R105). -/
def popCount (w v : Nat) : Nat := ((bitsOf w v).filter id).length

/-- Replace entry i of a list. -/
def setNth {α : Type} : List α → Nat → α → List α
  | [], _, _ => []
  | _ :: l, 0, a => a :: l
  | b :: l, i + 1, a => b :: setNth l i a

/-- Apply f to the first entry that p accepts. -/
def updFirst {α : Type} (p : α → Bool) (f : α → α) : List α → List α
  | [] => []
  | a :: l => if p a then f a :: l else a :: updFirst p f l

/-- A list sorted, equal entries in their order. -/
def insertBy {α : Type} (le : α → α → Bool) (a : α) : List α → List α
  | [] => [a]
  | b :: l => if le a b then a :: b :: l else b :: insertBy le a l
def sortBy {α : Type} (le : α → α → Bool) (l : List α) : List α := l.foldr (insertBy le) []

/-- A saturating count: at most n. -/
def sat (n v : Nat) : Nat := if v ≤ n then v else n

end Sys2Proof.Machine
end

