-- ==== Sys2Proof/Machine/Num.lean ====
section
/-!
DEFINITION. The arithmetic of 04: element types, the rounding function rnd, the floating-point operations with their special
cases, conversions, block-scaled integers, the signed block rotation and its inverse, scale choice and quantisation.  Every
operation is computed exactly on integers and rounded once; it answers the result's code and the flags it raises.
-/
namespace Sys2Proof.Machine

/-- Sticky flags NV DZ OF UF NX, bits 4 to 0 (06 R133). -/
abbrev Flags := BitVec 5

abbrev fNV : Flags := 16
abbrev fDZ : Flags := 8
abbrev fOF : Flags := 4
abbrev fUF : Flags := 2
abbrev fNX : Flags := 1

/-! ### Element types (04 R63, R64, R67; codes of 05 R83) -/

abbrev tBf16 : Nat := 8
abbrev tF32 : Nat := 9
abbrev tMx8 : Nat := 10
abbrev tMx6 : Nat := 11
abbrev tMx4 : Nat := 12

/-- A signed integer type. -/
def isI (t : Nat) : Bool := decide (t ≤ 3)
/-- An unsigned integer type. -/
def isN (t : Nat) : Bool := decide (4 ≤ t) && decide (t ≤ 7)
/-- An integer type. -/
def isInt (t : Nat) : Bool := decide (t ≤ 7)
/-- A floating-point type. -/
def isFp (t : Nat) : Bool := t == tBf16 || t == tF32
/-- A block-scaled type. -/
def isMx (t : Nat) : Bool := decide (10 ≤ t) && decide (t ≤ 12)

/-- Width of an element in a register lane (07 R144, 04 R70). -/
def laneWidth (t : Nat) : Nat :=
  match t with
  | 0 => 4
  | 1 => 8
  | 2 => 16
  | 3 => 32
  | 4 => 4
  | 5 => 8
  | 6 => 16
  | 7 => 32
  | 8 => 16
  | 9 => 32
  | 10 => 8
  | 11 => 8
  | _ => 4

/-- Width of an element in memory (04 R63, R70): mx6 packs four codes in three bytes. -/
def memWidth (t : Nat) : Nat := if t == tMx6 then 6 else laneWidth t

/-- Code width of an mx type (04 R67). -/
def mxWidth (t : Nat) : Nat := if t == tMx8 then 8 else if t == tMx6 then 6 else 4

/-- Fraction bits of an mx type (04 R67). -/
def mxFrac (t : Nat) : Nat := if t == tMx8 then 6 else if t == tMx6 then 4 else 2

/-- Least value of an integer type (04 R63). -/
def intMin (t : Nat) : Int := if isI t then -(2 ^ (laneWidth t - 1) : Nat) else 0

/-- Greatest value of an integer type (04 R63). -/
def intMax (t : Nat) : Int := if isI t then (2 ^ (laneWidth t - 1) : Nat) - 1 else (2 ^ laneWidth t : Nat) - 1

/-- A lane of an integer type as an integer. -/
def intVal (t v : Nat) : Int := if isI t then toI (laneWidth t) v else (v % 2 ^ laneWidth t : Nat)

/-- An integer clamped to the range of a type (04 R71 int_narrow). -/
def clampInt (t : Nat) (i : Int) : Int := if i < intMin t then intMin t else if intMax t < i then intMax t else i

/-! ### Floating-point values (04 R64, R65) -/

/-- An exact value or a special: a NaN (signalling or not), an infinity, or sign, magnitude m and exponent e of m * 2^e. -/
inductive Fp where
  | nan (signalling : Bool)
  | inf (neg : Bool)
  | fin (neg : Bool) (m : Nat) (e : Int)
  deriving DecidableEq, Repr

/-- Significand bits p of a floating-point type (04 R66). -/
def prec (t : Nat) : Nat := if t == tBf16 then 8 else 24

/-- The canonical quiet NaN (04 R65). -/
def cNaN (t : Nat) : Nat := if t == tBf16 then 0x7FC0 else 0x7FC00000

/-- An infinity's code. -/
def infCode (t : Nat) (neg : Bool) : Nat := 255 * 2 ^ (prec t - 1) + (if neg then 2 ^ (laneWidth t - 1) else 0)

/-- The value a code stands for (04 R65). -/
def fpOf (t v : Nat) : Fp :=
  let k := prec t - 1
  let neg := bitOf v (laneWidth t - 1)
  let ex := v / 2 ^ k % 256
  let fr := v % 2 ^ k
  if ex == 255 then (if fr == 0 then .inf neg else .nan (!bitOf v (k - 1)))
  else if ex == 0 then .fin neg fr (-126 - (k : Int))
  else .fin neg (2 ^ k + fr) ((ex : Int) - 127 - (k : Int))

/-- The sign inverted. -/
def Fp.neg : Fp → Fp
  | .nan q => .nan q
  | .inf n => .inf (!n)
  | .fin n m e => .fin (!n) m e

/-- Round q = num / 2^k, with a remainder below it if `sticky`, to an integer in a mode (04 R66): 0 RNE, 1 RTZ, 2 RUP,
3 RDN.  Answers the integer and whether it differs from q. -/
def roundBits (mode : Nat) (neg : Bool) (m k : Nat) (sticky : Bool) : Nat × Bool :=
  let n := m / 2 ^ k
  let r := m % 2 ^ k
  let exact := r == 0 && !sticky
  let up :=
    if exact then false
    else if mode == 0 then
      (if k == 0 then false
       else decide (2 ^ (k - 1) < r) || (r == 2 ^ (k - 1) && (sticky || n % 2 == 1)))
    else if mode == 1 then false
    else if mode == 2 then !neg
    else neg
  (if up then n + 1 else n, !exact)

/-- rnd of 04 R66 of the real (-1)^neg * (m * 2^e + a remainder below 2^e if `sticky`); m is not 0.  A caller with a
remainder gives m at least p + 2 bits.  Where x rounds to the real 0, which the rule returns without a sign, the zero has the sign of x: DESIGN CHOICE
(log 68). -/
def rndFin (t mode : Nat) (neg : Bool) (m : Nat) (e : Int) (sticky : Bool) : Nat × Flags :=
  let p := prec t
  let sgn := if neg then 2 ^ (laneWidth t - 1) else 0
  let l := (Nat.log2 m : Int) + e
  let ee := if l < -126 then -126 else l
  let d := e - ee + (p : Int) - 1
  let r := if 0 ≤ d then roundBits mode neg (m * 2 ^ d.toNat) 0 sticky
           else if 4096 < -d then roundBits mode neg 1 4096 true
           else roundBits mode neg m (-d).toNat sticky
  let n := r.1
  let code := ((ee + 126) * (2 ^ (p - 1) : Nat)).toNat + n
  if 127 < ee ∨ 255 * 2 ^ (p - 1) ≤ code then
    (if mode == 0 || (mode == 2 && !neg) || (mode == 3 && neg) then sgn + 255 * 2 ^ (p - 1) else sgn + 255 * 2 ^ (p - 1) - 1,
     fOF ||| fNX)
  else
    (sgn + code, (if r.2 then fNX else 0) ||| (if r.2 && decide (n < 2 ^ (p - 1)) then fUF else 0))

/-- rnd of an exact integer times a power of two; zero gives +0 (04 R66). -/
def rndDy (t mode : Nat) (i : Int) (e : Int) : Nat × Flags :=
  if i = 0 then (0, 0) else rndFin t mode (decide (i < 0)) i.natAbs e false

/-- An exact finite value as a signed integer over a power of two. -/
def signed (neg : Bool) (m : Nat) : Int := if neg then -(m : Int) else m

/-- Two exact values over one exponent: the smaller of the two. -/
def align (a : Int) (ea : Int) (b : Int) (eb : Int) : Int × Int × Int :=
  if ea ≤ eb then (a, b * (2 ^ (eb - ea).toNat : Nat), ea) else (a * (2 ^ (ea - eb).toNat : Nat), b, eb)

/-- The exact sum of two dyadic numbers. -/
def dyAdd (a : Int × Int) (b : Int × Int) : Int × Int :=
  let r := align a.1 a.2 b.1 b.2
  (r.1 + r.2.1, r.2.2)

/-- A NaN result, with the invalid flag if an input signals (04 R65). -/
def nanOf (t : Nat) (sig : Bool) : Nat × Flags := (cNaN t, if sig then fNV else 0)

/-- The value is a signalling NaN. -/
def Fp.signals : Fp → Bool
  | .nan s => s
  | _ => false

/-- The code of an exact value rounded, keeping the sign of a zero. -/
def rndFp (t mode : Nat) : Fp → Nat × Flags
  | .nan s => nanOf t s
  | .inf n => (infCode t n, 0)
  | .fin n m e => if m = 0 then (if n then 2 ^ (laneWidth t - 1) else 0, 0) else rndFin t mode n m e false

/-- a + b with one rounding (04 R66; IEEE 754 specials). -/
def fpAdd (t mode : Nat) (a b : Fp) : Nat × Flags :=
  match a, b with
  | .nan s, b => nanOf t (s || b.signals)
  | a, .nan s => nanOf t (s || a.signals)
  | .inf n, .inf k => if n = k then (infCode t n, 0) else (cNaN t, fNV)
  | .inf n, .fin _ _ _ => (infCode t n, 0)
  | .fin _ _ _, .inf n => (infCode t n, 0)
  | .fin n m e, .fin k m' e' =>
    let r := align (signed n m) e (signed k m') e'
    if r.1 + r.2.1 = 0 then
      (if m = 0 ∧ m' = 0 ∧ n = k then (if n then 2 ^ (laneWidth t - 1) else 0) else if mode = 3 then 2 ^ (laneWidth t - 1) else 0, 0)
    else rndFin t mode (decide (r.1 + r.2.1 < 0)) (r.1 + r.2.1).natAbs r.2.2 false

/-- The exact product, and the invalid flag of 0 times infinity. -/
def fpMulX (a b : Fp) : Fp × Flags :=
  match a, b with
  | .nan s, b => (.nan (s || b.signals), 0)
  | a, .nan s => (.nan (s || a.signals), 0)
  | .inf n, .inf k => (.inf (n != k), 0)
  | .inf n, .fin k m _ => if m = 0 then (.nan false, fNV) else (.inf (n != k), 0)
  | .fin n m _, .inf k => if m = 0 then (.nan false, fNV) else (.inf (n != k), 0)
  | .fin n m e, .fin k m' e' => (.fin (n != k) (m * m') (e + e'), 0)

/-- a * b with one rounding. -/
def fpMul (t mode : Nat) (a b : Fp) : Nat × Flags :=
  let p := fpMulX a b
  let r := rndFp t mode p.1
  (r.1, r.2 ||| p.2)

/-- a * b + c with one rounding (07 R154). -/
def fpFma (t mode : Nat) (a b c : Fp) : Nat × Flags :=
  let p := fpMulX a b
  let r := fpAdd t mode p.1 c
  (r.1, r.2 ||| p.2)

/-- a / b with one rounding (04 R66; IEEE 754 specials). -/
def fpDiv (t mode : Nat) (a b : Fp) : Nat × Flags :=
  match a, b with
  | .nan s, b => nanOf t (s || b.signals)
  | a, .nan s => nanOf t (s || a.signals)
  | .inf _, .inf _ => (cNaN t, fNV)
  | .inf n, .fin k _ _ => (infCode t (n != k), 0)
  | .fin n _ _, .inf k => (if n != k then 2 ^ (laneWidth t - 1) else 0, 0)
  | .fin n m e, .fin k m' e' =>
    if m' = 0 then (if m = 0 then (cNaN t, fNV) else (infCode t (n != k), fDZ))
    else if m = 0 then (if n != k then 2 ^ (laneWidth t - 1) else 0, 0)
    else
      let sh := Nat.log2 m' + 64
      rndFin t mode (n != k) (m * 2 ^ sh / m') (e - e' - (sh : Int)) (m * 2 ^ sh % m' != 0)

/-- Newton's iteration for the integer square root, from an estimate not below it. -/
def isqrtGo (n : Nat) : Nat → Nat → Nat
  | 0, x => x
  | f + 1, x =>
    let y := (x + n / x) / 2
    if y < x then isqrtGo n f y else x

/-- floor of the square root. -/
def isqrt (n : Nat) : Nat := if n = 0 then 0 else isqrtGo n 4096 (2 ^ (Nat.log2 n / 2 + 1))

/-- The square root of m * 2^e, not 0, rounded once. -/
def rndSqrt (t mode : Nat) (m : Nat) (e : Int) : Nat × Flags :=
  let sh := 96 + (e % 2).toNat
  let n := m * 2 ^ sh
  rndFin t mode false (isqrt n) ((e - (sh : Int)) / 2) (isqrt n * isqrt n != n)

/-- vsqrt (07 R169). -/
def fpSqrt (t mode : Nat) : Fp → Nat × Flags
  | .nan s => nanOf t s
  | .inf true => (cNaN t, fNV)
  | .inf false => (infCode t false, 0)
  | .fin n m e =>
    if m = 0 then (if n then 2 ^ (laneWidth t - 1) else 0, 0) else if n then (cNaN t, fNV) else rndSqrt t mode m e

/-- vrsqrt (07 R169). -/
def fpRsqrt (t mode : Nat) : Fp → Nat × Flags
  | .nan s => nanOf t s
  | .inf true => (cNaN t, fNV)
  | .inf false => (0, 0)
  | .fin n m e =>
    if m = 0 then (infCode t n, fDZ)
    else if n then (cNaN t, fNV)
    else
      let sh := 2 * Nat.log2 m + 160 + (e % 2).toNat
      let q := isqrt (2 ^ sh / m)
      rndFin t mode false q (-(e + (sh : Int)) / 2) (q * q * m != 2 ^ sh)

/-- vrcp (07 R169). -/
def fpRcp (t mode : Nat) (a : Fp) : Nat × Flags := fpDiv t mode (.fin false 1 0) a

/-- Fraction bits of the fixed-point values with which vexp2 and vlog2 are computed (log 11). -/
abbrev wideBits : Nat := 420

/-- 2^f for a fraction whose remaining bits (highest first) are given; c is 2^(2^-k), acc the product so far. -/
def exp2Go : List Bool → Nat → Nat → Nat
  | [], _, acc => acc
  | b :: bs, c, acc =>
    let c' := isqrt (c * 2 ^ wideBits)
    exp2Go bs c' (if b then acc * c' / 2 ^ wideBits else acc)

/-- vexp2 (07 R169).  Log 11. -/
def fpExp2 (t mode : Nat) : Fp → Nat × Flags
  | .nan s => nanOf t s
  | .inf true => (0, 0)
  | .inf false => (infCode t false, 0)
  | .fin n m e =>
    if m = 0 then rndFin t mode false 1 0 false
    else if 16 < (Nat.log2 m : Int) + e then rndFin t mode false 1 (if n then -4000 else 4000) true
    else
      let x := signed n m
      let i := if 0 ≤ e then x * (2 ^ e.toNat : Nat) else x / (2 ^ (-e).toNat : Nat)
      let k := if 0 ≤ e then 0 else (-e).toNat
      let f := if 0 ≤ e then 0 else (x % (2 ^ k : Nat)).toNat
      if f = 0 then rndFin t mode false 1 i false
      else rndFin t mode false (exp2Go (bitsOf k f).reverse (2 * 2 ^ wideBits) (2 ^ wideBits)) (i - (wideBits : Int)) true

/-- Binary digits of log2 of y / 2^wideBits, in [1, 2): repeated squaring. -/
def log2Go : Nat → Nat → Nat → Nat
  | 0, _, acc => acc
  | f + 1, y, acc =>
    let z := y * y / 2 ^ wideBits
    if 2 * 2 ^ wideBits ≤ z then log2Go f (z / 2) (2 * acc + 1) else log2Go f z (2 * acc)

/-- vlog2 (07 R169).  Log 11. -/
def fpLog2 (t mode : Nat) : Fp → Nat × Flags
  | .nan s => nanOf t s
  | .inf true => (cNaN t, fNV)
  | .inf false => (infCode t false, 0)
  | .fin n m e =>
    if m = 0 then (infCode t true, fDZ)
    else if n then (cNaN t, fNV)
    else
      let l := (Nat.log2 m : Int) + e
      if m = 2 ^ Nat.log2 m then rndDy t mode l 0
      else
        let fr := log2Go 160 (m * 2 ^ (wideBits - Nat.log2 m)) 0
        let v := l * (2 ^ 160 : Nat) + fr
        if 0 ≤ v then rndFin t mode false v.natAbs (-160) true
        else rndFin t mode true (v.natAbs - 1) (-160) true

/-! ### Order and selection (07 R155, R157) -/

/-- a < b of two values that are no NaN, with -0 below +0 if `zeros`. -/
def fpLess (zeros : Bool) (a b : Fp) : Bool :=
  match a, b with
  | .inf n, .inf k => n && !k
  | .inf n, .fin _ _ _ => n
  | .fin _ _ _, .inf k => !k
  | .fin n m e, .fin k m' e' =>
    let r := align (signed n m) e (signed k m') e'
    if r.1 = 0 ∧ r.2.1 = 0 then zeros && n && !k else decide (r.1 < r.2.1)
  | _, _ => false

/-- The value is a NaN. -/
def Fp.isNan : Fp → Bool
  | .nan _ => true
  | _ => false

/-- The value is an infinity. -/
def Fp.isInf : Fp → Bool
  | .inf _ => true
  | _ => false

/-- vmin or vmax of two codes (07 R155). -/
def fpMinMax (t : Nat) (max : Bool) (a b : Nat) : Nat × Flags :=
  let x := fpOf t a
  let y := fpOf t b
  if x.isNan || y.isNan then nanOf t (x.signals || y.signals)
  else if fpLess true (if max then x else y) (if max then y else x) then (b, 0) else (a, 0)

/-! ### Conversions (04 R71, R72) -/

/-- The integer nearest to an exact value in a mode, and whether it differs. -/
def roundInt (mode : Nat) (neg : Bool) (m : Nat) (e : Int) : Int × Bool :=
  if 0 ≤ e then (signed neg (m * 2 ^ e.toNat), false)
  else
    let r := roundBits mode neg m (-e).toNat false
    (signed neg r.1, r.2)

/-- fp_to_int of an exact value (04 R72). -/
def fpToInt (t mode : Nat) : Fp → Nat × Flags
  | .nan _ => (0, fNV)
  | .inf n => (ofI (laneWidth t) (if n then intMin t else intMax t), fNV)
  | .fin n m e =>
    if m ≠ 0 ∧ 128 < (Nat.log2 m : Int) + e then (ofI (laneWidth t) (if n then intMin t else intMax t), fNV)
    else
      let r := roundInt mode n m e
      if r.1 < intMin t ∨ intMax t < r.1 then (ofI (laneWidth t) (clampInt t r.1), fNV)
      else (ofI (laneWidth t) r.1, if r.2 then fNX else 0)

/-- The conversion of one element from type st to type dt that 07 R162 lists. -/
def convert (dt st mode v : Nat) : Nat × Flags :=
  if dt == st then (v % 2 ^ laneWidth st, 0)
  else if isInt st && isInt dt then
    (ofI (laneWidth dt) (if laneWidth st < laneWidth dt then intVal st v else clampInt dt (intVal st v)), 0)
  else if isInt st then rndDy dt mode (intVal st v) 0
  else if isInt dt then fpToInt dt mode (fpOf st v)
  else if dt == tF32 then
    (match fpOf st v with
     | .nan s => nanOf tF32 s
     | _ => (v % 2 ^ 16 * 2 ^ 16, 0))
  else
    (match fpOf st v with
     | .nan s => nanOf dt s
     | x => rndFp dt mode x)

/-! ### Block-scaled integers (04 R67, R68) -/

/-- The signed code of an mx element: its low w bits. -/
def mxCode (t v : Nat) : Int := toI (mxWidth t) v

/-- The exact value of a code under scale s: e * 2^(s - 127 - f); a NaN when s is 255. -/
def mxVal (t v s : Nat) : Fp :=
  if s == 255 then .nan false
  else .fin (decide (mxCode t v < 0)) (mxCode t v).natAbs ((s : Int) - 127 - (mxFrac t : Int))

/-! ### Signed block rotation (04 R75 to R79) -/

/-- One butterfly stage of stride h over pairs (l, l + h). -/
def butterfly (h : Nat) (q : List Int) : List Int :=
  (List.range q.length).map fun l =>
    if bitOf l (Nat.log2 h) then nth q (l - h) 0 - nth q l 0 else nth q l 0 + nth q (l + h) 0

/-- H times a vector of 32 (04 R75). -/
def hadamard (q : List Int) : List Int := butterfly 16 (butterfly 8 (butterfly 4 (butterfly 2 (butterfly 1 q))))

/-- D times a vector: lane l negated if bit l of the seed is 1. -/
def signFlip (seed : Nat) (q : List Int) : List Int :=
  (List.range q.length).map fun l => if bitOf seed l then -nth q l 0 else nth q l 0

/-- The NaN-block marker (04 R76). -/
abbrev nanBlock : Int := 0x7FFF

/-- vhad_block (04 R76): lanes, exponent entry, flags. -/
def vhadBlock (t : Nat) (x : List Nat) (seed : Nat) : List Int × Int × Flags :=
  let v := x.map (fpOf t)
  if v.any (fun a => a.isNan || a.isInf) then (List.replicate 32 0, nanBlock, fNV)
  else
    let mags := v.map fun a => match a with | .fin _ m e => if m = 0 then none else some ((Nat.log2 m : Int) + e) | _ => none
    match (mags.filterMap id).foldl (fun acc a => match acc with | none => some a | some b => some (if a < b then b else a)) none with
    | none => (List.replicate 32 0, 0, 0)
    | some ex =>
      let q := v.map fun a =>
        match a with
        | .fin n m e => roundInt 0 n m (e + 24 - ex)
        | _ => (0, false)
      (hadamard (signFlip seed (q.map (·.1))), ex - 24, if q.any (·.2) then fNX else 0)

/-- block_scale (04 R78) of exact lane values y * 2^K, row by row. -/
def blockScale (rows : List (List Int × Int)) : Nat :=
  if rows.any (fun r => r.2 == nanBlock) then 255
  else
    let tops := rows.filterMap fun r =>
      let m := (r.1.map Int.natAbs).foldl Nat.max 0
      if m = 0 then none else some ((Nat.log2 m : Int) + r.2)
    match tops with
    | [] => 0
    | a :: rest =>
      let s := rest.foldl (fun x y => if x < y then y else x) a + 127
      if s < 0 then 0 else if 254 < s then 254 else s.toNat

/-- quant (04 R79) of the exact value y * 2^K, y an integer; answers the code as an integer. -/
def quant (t : Nat) (y : Int) (k : Int) (s : Nat) : Int × Flags :=
  if s == 255 then (0, 0)
  else
    let r := roundInt 0 (decide (y < 0)) y.natAbs (k + (mxFrac t : Int) - ((s : Int) - 127))
    let top : Int := (2 ^ (mxWidth t - 1) : Nat) - 1
    (if r.1 < -top then -top else if top < r.1 then top else r.1, if r.2 then fNX else 0)

/-- The inverse rotation of one row of codes (04 R77): exact sums, one rounding per lane. -/
def vdqRow (t mx mode : Nat) (codes : List Nat) (s : Nat) (seed : Option Nat) : List (Nat × Flags) :=
  if s == 255 then codes.map fun _ => (cNaN t, 0)
  else
    let e := (s : Int) - 127 - (mxFrac mx : Int)
    let v := codes.map (mxCode mx)
    match seed with
    | none => v.map fun i => rndDy t mode i e
    | some d => (signFlip d (hadamard v)).map fun i => rndDy t mode i (e - 5)

/-! ### Tags (04 R80) -/

/-- AXIS, SEEDX and CHECK of a tag. -/
def tagAxis (g : Nat) : Nat := g % 4
def tagSeed (g : Nat) : Nat := g / 4 % 8
def tagCheck (g : Nat) : Nat := g / 256 % 256

/-- The fold of a seed that CHECK holds. -/
def seedFold (v : Word32) : Nat :=
  ((v.extractLsb' 0 8) ^^^ (v.extractLsb' 8 8) ^^^ (v.extractLsb' 16 8) ^^^ (v.extractLsb' 24 8)).toNat

/-- Two tags compare equal. -/
def tagEq (a b : Nat) : Bool :=
  (tagAxis a == 0 && tagAxis b == 0) || (tagAxis a == tagAxis b && tagSeed a == tagSeed b && tagCheck a == tagCheck b)

/-- The extent rule of a tag: a rotated axis is a multiple of 32 long. -/
def tagExtentOk (g rows cols : Nat) : Bool :=
  (!(tagAxis g == 1 || tagAxis g == 3) || cols % 32 == 0) && (!(tagAxis g == 2 || tagAxis g == 3) || rows % 32 == 0)

/-! ### Sums of the matrix arrays (04 R73) -/

/-- The exact sum of dyadic numbers. -/
def dySum (l : List (Int × Int)) : Int × Int := l.foldl dyAdd (0, 0)

/-- group_total of 04 R73 for bf16 and f32: the exact products of one group. -/
def groupFp (ps : List (Fp × Flags)) (sig : Bool) : Fp × Flags :=
  let fl := (ps.foldl (fun a p => a ||| p.2) (0 : Flags)) ||| (if sig then fNV else 0)
  let infs := ps.filterMap fun p => match p.1 with | .inf n => some n | _ => none
  if ps.any (fun p => p.1.isNan) then (.nan false, fl)
  else if infs.any id && infs.any (!·) then (.nan false, fl ||| fNV)
  else match infs with
    | n :: _ => (.inf n, fl)
    | [] =>
      let tops := ps.filterMap fun p => match p.1 with | .fin _ m e => if m = 0 then none else some ((Nat.log2 m : Int) + e) | _ => none
      match tops with
      | [] => (.fin false 0 0, fl)
      | a :: rest =>
        let top := rest.foldl (fun x y => if x < y then y else x) a
        let cut := ps.map fun p =>
          match p.1 with
          | .fin n m e => if e ≤ top - 45 then signed n (m / 2 ^ (top - 45 - e).toNat) else signed n (m * 2 ^ (e - (top - 45)).toNat)
          | _ => 0
        let z := cut.foldl (· + ·) 0
        let r := rndDy tF32 0 z (top - 45)
        (fpOf tF32 r.1, fl ||| r.2)

/-- acc + total as R73 accumulates: a NaN of either makes the canonical NaN; a signalling NaN accumulator is invalid (R65). -/
def accumulate (acc : Nat) (total : Fp) : Nat × Flags :=
  match fpOf tF32 acc, total with
  | .nan q, t => nanOf tF32 (q || t.signals)
  | _, .nan q => nanOf tF32 q
  | a, b => fpAdd tF32 0 a b

end Sys2Proof.Machine
end

