-- ==== Sys2Proof/Machine/Memory.lean ====
section
/-!
DEFINITION. Memory as a list of cells in one canonical form: addresses strictly rising, no cell equal to what an unlisted
address reads as.  One memory holds the whole 52-bit physical space of 11 R256: HBM, the windows of the cores, host memory.
-/
namespace Sys2Proof.Machine

/-- What an address that no cell lists reads as: 0.  DESIGN CHOICE (log 2): the spec gives no contents after power-on. -/
def Memory.unlisted : Byte := 0

/-- The byte at an address. -/
def Memory.read : List Host.Cell → Nat → Byte
  | [], _ => Memory.unlisted
  | (a, b) :: m, x => if a = x then b else if x < a then Memory.unlisted else Memory.read m x

/-- Memory with one byte written, in canonical form. -/
def Memory.write : List Host.Cell → Nat → Byte → List Host.Cell
  | [], x, v => if v = Memory.unlisted then [] else [(x, v)]
  | (a, b) :: m, x, v =>
    if a = x then (if v = Memory.unlisted then m else (x, v) :: m)
    else if x < a then (if v = Memory.unlisted then (a, b) :: m else (x, v) :: (a, b) :: m)
    else (a, b) :: Memory.write m x v

/-- The canonical form: every address above `lo`, rising, no unlisted value stored. -/
def Memory.wfAbove : Option Nat → List Host.Cell → Bool
  | _, [] => true
  | lo, (a, b) :: m => (match lo with | none => true | some l => decide (l < a)) && b != Memory.unlisted && wfAbove (some a) m

/-- The canonical form of memory. -/
def Memory.wf (m : List Host.Cell) : Bool := Memory.wfAbove none m

/-- The cells at an address and above it. -/
def Memory.above (m : List Host.Cell) (a : Nat) : List Host.Cell := m.dropWhile fun c => decide (c.1 < a)

/-- The cells below an address. -/
def Memory.below (m : List Host.Cell) (a : Nat) : List Host.Cell := m.takeWhile fun c => decide (c.1 < a)

/-- n bytes from an address. -/
def Memory.readBytes : List Host.Cell → Nat → Nat → List Byte
  | _, _, 0 => []
  | m, a, n + 1 =>
    let r := Memory.above m a
    Memory.read r a :: Memory.readBytes r (a + 1) n

/-- Bytes put from an address up over cells none of which lies below it. -/
def Memory.overlay : List Host.Cell → Nat → List Byte → List Host.Cell
  | m, _, [] => m
  | m, a, b :: bs =>
    let r := Memory.overlay (Memory.above m (a + 1)) (a + 1) bs
    if b = Memory.unlisted then r else (a, b) :: r

/-- Bytes written from an address up. -/
def Memory.writeBytes (m : List Host.Cell) (a : Nat) (bs : List Byte) : List Host.Cell :=
  Memory.below m a ++ Memory.overlay (Memory.above m a) a bs

/-- The bits of `mask` of a byte replaced by those of v (11 R376). -/
def mergeByte (old mask v : Byte) : Byte := (old &&& ~~~mask) ||| (v &&& mask)

/-- Bytes with bit masks written from an address up: no bit outside a mask changes (11 R376). -/
def Memory.writeMasked (m : List Host.Cell) (a : Nat) (bs : List (Byte × Byte)) : List Host.Cell :=
  Memory.writeBytes m a ((Memory.readBytes m a bs.length).zipWith (fun old p => mergeByte old p.2 p.1) bs)

/-- Whole bytes as masked bytes. -/
def whole (bs : List Byte) : List (Byte × Byte) := bs.map fun b => (b, 0xFF)

/-- The little-endian value of n bytes at an address. -/
def Memory.readNat (m : List Host.Cell) (a n : Nat) : Nat := leNat (Memory.readBytes m a n)

end Sys2Proof.Machine
end

