-- ==== Sys2Proof/Config.lean ====
section
/-!
DEFINITION. What one module of the family fixes (grade, mode) and the values the spec leaves open.  An `opaque` constant
has no body: no proof can learn its value, so a claim holds for every value it may have.
-/
namespace Sys2Proof.Config

/-- The channel (0 to 31) of a stack that holds a 1024-byte line: interleaving without a stated function (23 R371).  Log 6. -/
opaque channelOfLine : Nat → Nat

/-- The identity key's signature, as 96 bytes (23 R375); argument: the SHA-384 digest it signs.  Log 6. -/
opaque reportSignature : Vector Byte 48 → Vector Byte 96

/-- The number of vector-domain cycles a global load's data takes, which the spec does not fix (07 R150); argument: the
free-value counter.  Log 4. -/
opaque loadDelay : Nat → Nat

/-- The number of copy-domain cycles a transfer takes whose completion 09 R219 marks "not fixed".  Log 4. -/
opaque transferDelay : Nat → Nat

/-- Byte i of what a read of a peer module's core returns (21 R352): that memory is outside this module.  First argument: the
free-value counter.  Log 4. -/
opaque peerByte : Nat → Nat → Byte

/-- Place of the command area, which firmware publishes (19 R317): counted in 64 bytes from the base of stack 0.  Log 22. -/
opaque commandPlace : Nat

/-- Size of the command ring that firmware sets at reset (19 R317): counted in doublings of 16.  Log 22. -/
opaque commandDoublings : Nat

/-- The SHA-384 digest of the firmware of a version (23 R375).  Log 6. -/
opaque firmwareDigest : BitVec 32 → Vector Byte 48

/-- The training algorithm version TVER of the firmware of a version, the serial number of a stack or port by its number, and the CRC-32C of a
training record's fields, whose bytes have no stated layout (23 R367).  Log 60. -/
opaque trainVersion : BitVec 32 → Nat
opaque stackSerial : Nat → Nat
opaque portSerial : Nat → Nat
opaque recordCrc : Nat → Nat → List Word64 → BitVec 32

/-- What training finds: the settings for a data-rate point, and whether a port's replay verifies (23 R367); first argument: the free-value counter.
Log 60. -/
opaque trainSetting : Nat → Nat → Word64
opaque replayVerifies : Nat → Bool

/-- Whether a core fails its boot test (23 R366, R374); arguments: the count of power cycles, the die, the core.  Log 60. -/
opaque bootFails : Nat → Nat → Nat → Bool

/-- By how much a cluster's TIMER is ahead of the module's, below the bound of 22 R364; argument: the cluster.  Log 60. -/
opaque timerSkew : Nat → Nat

/-- Whether the best master clock algorithm, which 21 R353 names and does not define, makes another port the slave port; argument: the free-value
counter.  Log 60. -/
opaque newSlave : Nat → Bool

/-- The bank and the row of a HBM address, for which the spec gives no function (23 R371, R372).  Log 6. -/
opaque bankOf : Nat → BitVec 16
opaque rowOf : Nat → BitVec 32

/-- How many refreshes of a bank stand postponed after one more fell due, as far as 23 R372 leaves it to the controller; argument: the
free-value counter.  Log 4. -/
opaque postponed : Nat → Nat

/-- What an agent of the module reads of a byte in a page that denies it, which the spec does not say; arguments: the tick and the
address.  Log 13. -/
opaque deniedByte : Nat → Nat → Byte

/-- The device identity certificate, zero-padded (23 R369).  Log 6. -/
opaque identityCertificate : Vector Byte 2048

/-- The credits that a peer grants a port when it comes up (21 R349); argument: the free-value counter.  Log 57. -/
opaque portCredits : Nat → Nat

/-- The number of copy-domain cycles in which an arrival or a met expectation reaches the dispatcher of the cleat from another die, which the
spec does not fix (02 R31); argument: the free-value counter.  Log 55. -/
opaque noticeDelay : Nat → Nat

/-- Tick length of one frame tick in reference ticks (00 R5). -/
abbrev frameTicks : Nat := 75

/-- Reference ticks of one boost interval (22 R358). -/
abbrev boostTicks : Nat := 75000

end Sys2Proof.Config
end

