-- ==== Sys2Proof/Machine/State.lean ====
section
/-!
DEFINITION. The state of the machine as plain data: a core with its four strands, vector state, matrix unit, transfer units,
queues, control registers and trap machinery; the module around it (memory, translation, dispatch, host port, links,
collectives, power, time, service); and the state after reset.  INVENTORY.md lists every field with the rule that names it.
Where the spec gives no reset value the field is 0 or empty (log 1).
-/
namespace Sys2Proof.Machine

/-- Why the machine stops.  Every fault the spec describes is a trap, an abort or a freeze and ends in a next state; the one
fault here is raised by `step`, when the outside world names a unit the module does not have (01 R11, 21 R349).  Safe: no
next state is invented. -/
inductive Fault where
  | noSuchUnit
  deriving DecidableEq, Repr

/-- What has no meaning: raised by `exec` for an instruction the model has not reached.  Safe: no next state is invented. -/
inductive Refusal where
  | notModelled (mnemonic : String)
  deriving DecidableEq, Repr

/-! ### Queues and strands -/

/-- For L, X and S the number of the latest word that something comes after in hitch order, and for C the number of its latest nest.go, the one
word of C whose accesses perform later than its issue (11 R267). -/
structure After where
  l : Nat
  x : Nat
  s : Nat
  c : Nat
  deriving DecidableEq, Repr

/-- After no word. -/
def After.none_ : After := ⟨0, 0, 0, 0⟩

/-- A word or token in a queue, the reference tick from which its consumer sees it (02 R36), and the words before it in hitch order.  What a handler's
own word pushes stands at the tick of the stop: its consumer sees it in its first resumed cycle (log 17). -/
structure QItem where
  word : Word64
  since : Nat
  after : After
  deriving DecidableEq, Repr

/-- A hitch, data or format queue (02 R35): its items, head first, and the ticks from which slots already popped are free
to the producer again (R36). -/
structure Queue where
  items : List QItem
  freed : List Nat
  deriving DecidableEq, Repr

/-- Where a strand waits (02 R41). -/
inductive WaitPlace where
  | hitch (n : Nat) (push : Bool)
  | data (n : Nat) (push : Bool)
  | format
  | cleat (phase : Word64)
  | kwait
  | scoreboard
  | verdict
  | ending
  | idleWord
  | matrixQueue
  | order
  deriving DecidableEq, Repr

/-- Issuing or waiting, ended, or idle (02 R21); a freeze is a field of the core. -/
inductive Cond where
  | running (wait : Option WaitPlace)
  | ended
  | idle
  deriving DecidableEq, Repr

/-- One entry of a hardware loop stack (06 R117). -/
structure LoopEntry where
  start : Nat
  last  : Nat
  count : Nat
  deriving DecidableEq, Repr

/-- C's chain: the next word, the pending redirection and its addresses (20 R335). -/
structure Chain where
  pc    : Word64
  rd    : BitVec 2
  npc   : Word64
  nnpc  : Word64
  deriving DecidableEq, Repr

/-- A line in a core's global cache (11 R268; 01 R16): its number, its leased contents as listed bytes, the end of its lease, and the tick
since which the core holds it. -/
structure GLine where
  line  : Nat
  cells : List Host.Cell
  lease : Nat
  since : Nat
  deriving DecidableEq, Repr

/-- A load of C that missed the global cache (06 R103): the register that waits for it (s0 for none), the tick at which its data
arrives, the line of the global cache it brings, if any, whether a handler word made it, and its address (20 R339). -/
structure CLoad where
  d      : BitVec 5
  due    : Nat
  line   : Option GLine
  sh     : Bool
  va     : Word64
  deriving DecidableEq, Repr

/-- The control strand.  `ready` holds the counts at which the primary registers are ready (06 R103) and `origin` the count and address of the words
that wrote them (20 R339), `before` what they held before the result that is on its way to them (R337); `hcount`, `shReady` and `shDivFree` are the
same for the cycles and registers of the handler; `after` holds the words of other strands that C's accesses come after (11 R267), `fence` those that
its accesses come after with their remote writes (06 R130; 11 R271), and `nGo` the number of its nest.go words. -/
structure CStrand where
  prim     : Vector Word64 32
  shadow   : Vector Word64 32
  handler  : Bool
  chain    : Chain
  saved    : Chain
  held     : Cond
  loops    : List LoopEntry
  shLoops  : List LoopEntry
  ready    : Vector Nat 32
  origin   : Vector (Nat × Nat) 32
  divFree  : Nat
  hcount   : Nat
  shReady  : Vector Nat 32
  shDivFree : Nat
  before   : Vector Word64 32
  loads    : List CLoad
  fflags   : BitVec 5
  count    : Nat
  next     : Nat
  cond     : Cond
  nLaunch  : Nat
  nArrive  : Nat
  nExpect  : Nat
  after    : After
  fence    : After
  nGo      : Nat
  deriving DecidableEq, Repr

/-- A zero-overhead loop counter of a step strand (07 R175), with the order in which it was started. -/
structure Lc where
  count  : Nat
  start  : Nat
  last   : Nat
  active : Bool
  order  : Nat
  deriving DecidableEq, Repr

/-- A result on its way to a g register (07 R174): the count at which it arrives, the register and the value, and the count of issue
and the address of its word (20 R339). -/
structure GLatch where
  due   : Nat
  reg   : BitVec 4
  value : Word64
  issue : Nat
  pc    : Word32
  deriving DecidableEq, Repr

/-- When a word of a step strand completes (02 R37): at a count of its strand, when a vector or matrix result or a transfer
reports it, or it already has. -/
inductive Done where
  | atCount (n : Nat)
  | waiting
  | done (at_ : Nat)
  deriving DecidableEq, Repr

/-- An issued word that is not yet both completed and delivered: its number in the strand, its completion, and the partner
codes to which it posts. -/
structure Flight where
  seq   : Nat
  done  : Done
  posts : List (BitVec 2)
  deriving DecidableEq, Repr

/-- A step strand: L, X or S; `doneMax` is the latest completion among words that left `flights`, `after` the words of other strands
that its accesses come after (11 R267). -/
structure Step where
  pc       : Word32
  g        : Vector Word64 16
  lc       : Vector Lc 4
  fflags   : BitVec 5
  flagSet  : Option (BitVec 5 × Nat)
  count    : Nat
  clock    : Nat
  next     : Nat
  cond     : Cond
  brqLeft  : Nat
  flights  : List Flight
  doneMax  : Nat
  seq      : Nat
  lastPace : Option Nat
  latches  : List GLatch
  loopSeq  : Nat
  after    : After
  deriving DecidableEq, Repr

/-! ### The vector engine -/

/-- A block-exponent register (07 R163): E[0] to E[31] and SC. -/
structure KReg where
  e  : List Int
  sc : Nat
  deriving DecidableEq, Repr

/-- The pending modifier word (05 R97) and its address. -/
structure Modifier where
  pn   : BitVec 4
  inv  : BitVec 1
  zero : BitVec 1
  rm   : BitVec 2
  pc   : Word32
  deriving DecidableEq, Repr

/-- What a vector latch writes when it arrives (07 R148, R151, R165, R166). -/
inductive LatchTarget where
  | vreg (phys w : Nat) (lanes : List (Option Nat))
  | pred (p : BitVec 4) (bits_ : List (Option Bool))
  | kshift (k : Nat) (rows : List Int)
  | ksc (k : Nat) (sc : Nat)
  | greg (g : BitVec 4) (v : Word64)
  deriving DecidableEq, Repr

/-- A vector result in flight: the X counts at which it arrives and was issued, the issuing word's number and address, what it
writes, its flags, and the active lanes where the word writes 0 to the others (05 R97; 20 R339 ZERO). -/
structure VLatch where
  due     : Nat
  issue   : Nat
  seq     : Nat
  pc      : Word32
  targets : List LatchTarget
  flags   : BitVec 5
  zeroed  : Option (List Bool)
  deriving DecidableEq, Repr

/-- A scoreboarded global load (07 R152): its word's number, its count of issue and the tick at which its data arrives, addresses of
the word and of the data, what it writes, the physical registers it holds, the first poisoned atom among its bytes (R170), its elements
as lanes and addresses, the predicate that a vld.ff shortens (R173), whether its access is to be performed again (20 R339 REDO),
whether its fault stands recorded, whether it was issued before its task's fcast (10 R245), whether the lanes that it does not load become 0
(R173), and, where its access has still to be performed, the words that it comes after (11 R267). -/
structure GLoad where
  seq     : Nat
  issue   : Nat
  due     : Nat
  pc      : Word32
  va      : Word64
  targets : List LatchTarget
  regs    : List Nat
  poison  : Option Nat
  elems   : List (Nat × Nat)
  ff      : Option (BitVec 4)
  again   : Bool
  trapped : Bool
  plain   : Bool
  zero    : Bool
  after   : Option After
  deriving DecidableEq, Repr

/-- A run of masked bytes at a virtual and physical address. -/
structure Run where
  va    : Nat
  pa    : Nat
  bytes : List (Byte × Byte)
  deriving DecidableEq, Repr

/-- A direct store of X that the core holds for the accesses ordered before it (11 R267): its word's number, the words it comes after, and
what it stores. -/
structure VStore where
  seq   : Nat
  after : After
  runs  : List Run
  deriving DecidableEq, Repr

/-- The vector state of X (07 R144 to R147, R163); `stores` are the stores held for order, first issued first (11 R267). -/
structure Vec where
  type_  : BitVec 4
  wbase  : Nat
  left   : Nat
  koff   : Nat
  off    : Nat
  size   : Nat
  base   : Nat
  p      : Vector (List Bool) 16
  k      : Vector KReg 16
  modif  : Option Modifier
  latches : List VLatch
  gloads : List GLoad
  stores : List VStore
  deriving DecidableEq, Repr

/-! ### The matrix unit -/

/-- The resident-B record (08 R181), and the SCALEM of the mldb that loaded B, whose scales stay as it says (08 R189). -/
structure ResB where
  loaded : Bool
  bt     : Nat
  kb     : Nat
  nb     : Nat
  sp     : Nat
  btag   : Nat
  home   : Nat
  row0   : Int
  col0   : Int
  scalem : Nat
  deriving DecidableEq, Repr

/-- The contents of the CIM macros (08 R191, R192, R200): the codes of B row by row, 0 where a sparse B drops an element, with
the padding of the factorisation tile for f32; and the scale bytes of 32-row groups by column. -/
structure Cim where
  code  : List (List Nat)
  scale : List (List Nat)
  deriving DecidableEq, Repr

/-- The tag record of an accumulator tile (08 R194); none is the empty record.  aout and bout hold SEEDX and CHECK. -/
structure TagRec where
  rho  : Bool
  aout : Option (Nat × Nat)
  bout : Option (Nat × Nat)
  deriving DecidableEq, Repr

/-- The operation of a command-queue entry. -/
inductive MOp where
  | mldb (h : Nat)
  | mmab (h t : Nat)
  | mmas (h t : Nat)
  | mdrain (h t : Nat)
  | mzero (t : Nat)
  | mtest
  | mtrsm (up : Bool) (s h : Nat)
  | mlu (s : Nat)
  | mchol (s : Nat)
  | mgiv (s : Nat)
  | mpiv (h : Nat)
  | mfst
  | nest
  deriving DecidableEq, Repr

/-- An entry of the command queue (08 R184): the operation, its format word, its origin, the issuing word's number on X (none for nest.go), its
address and the word itself (0 for nest.go), the count at which it entered, once started its S and O, whether a nest has points to come, whether its
start met a fault whose trap is still to return (20 R340), whether it was issued before its task's fcast (10 R245), the number of the nest.go word of
C (0 for a word of X), and the words its accesses come after (11 R267). -/
structure MEntry where
  op    : MOp
  fmt   : Word64
  row0  : Int
  col0  : Int
  seq   : Option Nat
  pc    : Word64
  word  : Word32
  entry : Nat
  start : Option Nat
  occ   : Nat
  rest  : Bool
  bad   : Bool
  plain : Bool
  go    : Nat
  after : After
  deriving DecidableEq, Repr

/-- A write of a matrix word that waits for its visibility cycle (08 R187, R188): elements of one accumulator row from column 0
on, or masked bytes at a virtual and physical address. -/
inductive MWrite where
  | acc (tile row : Nat) (vals : List Nat)
  | bytes (va pa : Nat) (bytes : List (Byte × Byte))
  deriving DecidableEq, Repr

/-- Results of one matrix operation not yet visible: their count, writes and flags, the word of X that they complete, the bytes reserved for them in
the splice buffer (10 R247), whether they end a factorisation word, and the number of the word of X, or of the nest.go of C, from which they come (11
R266, R267). -/
structure MResult where
  due    : Nat
  writes : List MWrite
  flags  : BitVec 5
  seq    : Option Nat
  room   : Nat
  last   : Bool
  ofX    : Option Nat
  go     : Nat
  deriving DecidableEq, Repr

/-- A loop nest: its 14 doublewords (05 R100), its format word, the index of its next point (08 R198), and the count at which it
issued its last operation, once it has (06 R121). -/
structure Nest where
  table : Vector Word64 14
  fmt   : Word64
  point : Nat
  ended : Option Nat
  deriving DecidableEq, Repr

/-- The factorisation word, mtrsm or mpiv that runs (08 R203, R209, R210): the column or row it is in, the count at which that
one ends, the cause at which it will break down, the right-hand side or rows it carries, whether a stop has already done its step, whether the
present stop has (R213), and whether its breakdown stands among the pending entries (20 R339).  After the last column the word runs W more
cycles: its column is then the number of columns. -/
structure Factor where
  col   : Nat
  due   : Nat
  broke : Option Nat
  rhs   : List (List Nat)
  early : Bool
  held  : Bool
  pended : Bool
  deriving DecidableEq, Repr

/-- The matrix unit. -/
structure Matrix where
  count   : Nat
  next    : Nat
  queue   : List MEntry
  results : List MResult
  resB    : ResB
  cim     : Cim
  tags    : Vector (Option TagRec) 16
  fcol    : Nat
  fstat   : Word64
  grow    : Word64
  pv      : List Nat
  shadow  : Vector Word64 14
  armed   : Option Nest
  running : Option Nest
  factor  : Option Factor
  free_   : Nat
  ops     : Nat
  mrem    : Word64
  testDue : Option Nat
  failing : Bool
  fenced  : Bool
  deriving DecidableEq, Repr

/-! ### Transfers -/

/-- The form of a transfer word (09 R215). -/
inductive XOp where
  | tld (h : Nat) (t : Bool)
  | tst (h : Nat)
  | wopen (h r : Nat) (w : Bool)
  | wadv (r : Nat) (drop : Bool) (close : Bool)
  | tfar (h : Nat)
  | tfetch (h : Nat)
  | supd (h u : Nat)
  | tsum (h : Nat) (bfl com : Bool)
  | tcopy (h : Nat)
  | tpref (h : Nat)
  deriving DecidableEq, Repr

/-- The state of an entry of a transfer unit (20 R337). -/
inductive XState where
  | queued | moving | faulted | dropped
  deriving DecidableEq, Repr

/-- The identity of a counted word (02 R32, 09 R232): virtual die and core, ordinal, and the count of earlier words. -/
structure Ident where
  vdie  : Nat
  vcore : Nat
  ord   : Nat
  idx   : Nat
  deriving DecidableEq, Repr

/-- A buffered effect (11 R266).  A store holds for each byte its value and the mask of the bits it writes (R376). -/
inductive EffKind where
  | store (va pa : Nat) (bytes : List (Byte × Byte))
  | amo (va pa : Nat) (op : BitVec 4) (v : Word64)
  | cas (va pa : Nat) (expected new : Word64)
  | addCom (va pa : Nat) (vals : List Word32)
  | remote (vdie vcore off node : Nat) (bytes : List (Byte × Byte)) (ident : Option Ident)
  | launch (handle descr : Word64)
  | ktrig
  | coll (descr : Word64)
  | arrive (id : Ident)
  | expect (id : Ident) (n : Nat)
  deriving DecidableEq, Repr

/-- An entry of a transfer unit: the form with its word and address, the registers read at issue, bytes it holds (supd's parameter atom, or what a remote
read brought), bytes moved, state, the issuing word's number and count, the unit's clock at which it completes (09 R219; free
where that is not fixed), the index of R232, and once it moves the effects still to be put into the splice buffer (R236) with the
flags it will deliver and the poisoned atom it met; the words its accesses come after (11 R267), the cleat phase of its issue (02 R33), and
whether it was issued before its task's fcast (10 R245); for a wadv, whether its write-back is done (09 R227). -/
structure Xfer where
  op    : XOp
  a     : Word64
  b     : Word64
  extra : List Byte
  moved : Nat
  st    : XState
  seq   : Nat
  issue : Nat
  due   : Nat
  idx   : Nat
  pc    : Word32
  word  : Word32
  todo  : Option (List EffKind)
  flags : BitVec 5
  bad   : Option Nat
  after : After
  phase : Nat
  plain : Bool
  back  : Bool
  deriving DecidableEq, Repr

/-- A transfer unit (09 R218): its queue of 16 and its clock, which runs through the freezes R218 and R296 exempt it from. -/
structure XUnitSt where
  queue : List Xfer
  clock : Nat
  deriving DecidableEq, Repr

/-- A window ring (09 R225). -/
structure Ring where
  open_ : Bool
  write : Bool
  h     : Nat
  base  : Nat
  pitch : Nat
  d     : Nat
  a     : Nat
  row0  : Nat
  f     : Nat
  col0  : Nat
  nc    : Nat
  dirty : List Bool
  deriving DecidableEq, Repr

/-! ### Tasks -/

/-- An effect with its place in buffer order (11 R266): copy-domain cycle, strand rank, and for X the number of its word, since a matrix word's
effects enter the buffer later than those of vector words behind it; and the cleat phase of its word's issue (02 R33). -/
structure Effect where
  kind  : EffKind
  cycle : Nat
  rank  : Nat
  seq   : Option Nat
  phase : Nat
  deriving DecidableEq, Repr

/-- The states of a task (02 R24). -/
inductive TaskState where
  | pending | running | frozen | parked | splicing | retired | aborted | failed
  deriving DecidableEq, Repr

/-- A forecast's verdict (10 R249, R250, R255): pending, passed, or failed with its reason (0 tolerance, 1 cascade,
2 orphan), with maxerr and maxidx. -/
inductive Verdict where
  | pending
  | passed (maxerr idx : Nat)
  | failed (why maxerr idx : Nat)
  deriving DecidableEq, Repr

/-- A declared forecast (10 R244); `since` is the tick from which the other strands see the fcast (02 R36; 10 R245). -/
structure Forecast where
  slot   : Nat
  h      : Nat
  kind   : Nat
  group  : Nat
  ftola  : Nat
  ftolr  : Nat
  delta  : Nat
  built  : Option (List Byte)
  judged : Option (Verdict × Nat)
  verdict : Verdict
  since  : Nat
  deriving DecidableEq, Repr

/-- The running task of a core; `plain` holds while a word issued before the task's fcast reads memory (10 R245). -/
structure Task where
  kid      : Nat
  vdie     : Nat
  vcore    : Nat
  ord      : Nat
  run      : Nat
  args     : Word64
  state    : TaskState
  pinned   : Bool
  buf      : List Effect
  undo     : List (Nat × List Byte)
  nTfar    : Nat
  forecast : Option Forecast
  declared : Option Nat
  failing  : Bool
  plain    : Bool
  wrote    : List Nat
  exitPc   : Word64
  lastEnd  : Option (Nat × Word64)
  deriving DecidableEq, Repr

/-! ### A core -/

/-- The registers the trap frame shows (20 R333), and the strand it names: none for C. -/
structure Frame where
  fpc    : BitVec 17
  fnpc   : BitVec 17
  fnnpc  : BitVec 17
  cause  : BitVec 8
  tval   : Word64
  cdiv   : BitVec 4
  src    : BitVec 4
  precise : Bool
  drop   : Bool
  rd     : BitVec 2
  strand : Option StepStrand
  entry  : Option (XUnit × Nat)
  gload  : Option Nat
  deriving DecidableEq, Repr

/-- An event that waits for a trap entry of its own (20 R339): cause, source, TVAL, the count of C at which it falls due, the address
of the word concerned, its order of occurrence, its kind, and whether it was left behind by a stop, so that it waits for the first
resumed cycle of C (R340). -/
structure Pending where
  cause : BitVec 8
  src   : BitVec 4
  tval  : Word64
  rem   : Nat
  pc    : Nat
  issue : Nat
  kind  : Nat
  kept  : Bool
  deriving DecidableEq, Repr

/-- A write of C to a register that another domain reads, or of the matrix unit to one that C reads: the old value, and the
tick from which the new one is seen (06 R131, 08 R201). -/
structure LateCsr where
  csr   : Nat
  old   : Word64
  since : Nat
  deriving DecidableEq, Repr

/-- Control and status registers that C alone keeps (06 R132). -/
structure Csr where
  fmtd   : Word64
  seed   : Vector Word32 8
  pace   : Vector (BitVec 8) 3
  fdamp  : Word32
  mtesti : Word32
  lodcEvents : Nat
  lodcCycles : Nat
  ctxid  : BitVec 16
  late   : List LateCsr
  deriving DecidableEq, Repr

/-- Engine divisors of the four domains (01 R15, 06 R136). -/
structure Divs where
  ctl  : Nat
  mat  : Nat
  vec  : Nat
  copy : Nat
  deriving DecidableEq, Repr

/-- The first step of a fall on a core (22 R361): the tick at which it began, and the domains (0 control, 1 matrix, 2 vector, 3 copy) whose
cycles last 6 and 5 ticks by turns. -/
structure Fall where
  origin : Nat
  doms   : List Nat
  deriving DecidableEq, Repr

/-- Why the whole core is frozen (17 R297, 20 R342); a frequency transition with the tick at which it ends (22 R362). -/
inductive Freeze where
  | walk (va : Nat) (write : Bool)
  | pager (va : Nat) (write : Bool)
  | fullQueue (u : XUnit)
  | operands
  | retry
  | transition (until_ : Nat)
  | preempted
  deriving DecidableEq, Repr

/-- A translation held in a core's translation buffer or a die's translation cache (20 R344): context, page base and size, physical base, rights. -/
structure Held where
  ctx  : BitVec 16
  va   : Nat
  size : Nat
  pa   : Nat
  rd   : Bool
  wr   : Bool
  deriving DecidableEq, Repr

/-- One core.  `gcache` is its global cache, newest line first, `pts` its program timestamp (11 R268), `tlb` its translation buffer, newest
first (20 R344); `extra` holds what the supervisor wrote into places of its snapshot block that no entry is in yet: doublewords by number,
which rett takes up (20 R337). -/
structure Core where
  die    : Nat
  q      : Nat
  sup    : Bool
  halted : Bool
  c      : CStrand
  l      : Step
  x      : Step
  s      : Step
  v      : Vec
  m      : Matrix
  inb    : XUnitSt
  outb   : XUnitSt
  rings  : Vector Ring 4
  hq     : Vector Queue 12
  dq     : Vector Queue 12
  fq     : Queue
  csr    : Csr
  frame  : Frame
  pend   : List Pending
  task   : Option Task
  freeze : Option Freeze
  stop   : Nat
  resume : Nat
  imC    : List Host.Cell
  imL    : List Host.Cell
  imX    : List Host.Cell
  imS    : List Host.Cell
  gcache : List GLine
  pts    : Nat
  tlb    : List Held
  extra  : List (Nat × Word64)
  irq    : List (BitVec 16)
  div    : Divs
  fall   : Option Fall
  deriving DecidableEq, Repr

/-! ### Translation -/

/-- A page request (20 R343). -/
structure PageReq where
  va     : Nat
  ctx    : BitVec 16
  write  : Bool
  pinned : Bool
  deriving DecidableEq, Repr

/-- The translation units, with the dies' translation caches by die position, and the supervisor's page-request ring with its registers (20
R343, R344; 11 R259). -/
structure Xlat where
  roots  : List (BitVec 16 × Nat)
  held   : List (Nat × Held)
  ring   : List (Option PageReq)
  queued : List PageReq
  prod   : Word64
  cons   : Word64
  done   : Word64
  tcmp   : Word64
  deriving DecidableEq, Repr

/-! ### Images and kernels -/

/-- A tile-handle entry (18 R308). -/
structure Handle where
  base   : Nat
  rows   : Nat
  cols   : Nat
  stride : Nat
  type_  : Nat
  tag    : Nat
  fslot  : Option Nat
  vers   : Nat
  scale  : Nat
  deriving DecidableEq, Repr

/-- A level of the loop table (18 R309): count, kind, and its flags. -/
structure Level where
  count  : Nat
  kind   : Nat
  super  : Bool
  ragged : Bool
  deriving DecidableEq, Repr

/-- A loaded image (18). -/
structure Image where
  id       : Nat
  ctx      : BitVec 16
  name     : List Byte
  code     : List (List Byte)
  dataBase : Nat
  dataSize : Nat
  handles  : List Handle
  levels   : List Level
  ticks    : List Nat
  carry    : List (Nat × Nat)
  ragged   : List Nat
  after    : List (List Byte)
  seeds    : Vector Word32 8
  place    : List (Nat × Nat)
  deriving DecidableEq, Repr

/-- The history of a forecast slot (10 R238 to R240): the version count, the newer and the older copy as stored bytes (none:
empty), the history as it stood at the start of the superstep, the versions published in this superstep, whether a publication is owed, and the 64
KiB pages of its footprint for which the home has sent a request since (R239). -/
structure Slot where
  vers      : Nat
  newer     : Option (List Byte)
  older     : Option (List Byte)
  atStart   : Nat × Option (List Byte) × Option (List Byte)
  published : Option (List (Option Byte))
  owed      : Bool
  asked     : List Nat
  deriving DecidableEq, Repr

/-- A context image (20 R345, R346): its SNAPVER, virtual place and task ordinal, the stopped core with its snapshot block, frame, shadow set
and splice buffer (a full image) or none (a carry image), and the listed bytes of its ranges of the window, by offset. -/
structure CtxImage where
  snapver : Nat
  kid     : Nat
  vdie    : Nat
  vcore   : Nat
  ord     : Nat
  core    : Option Core
  cells   : List Host.Cell
  deriving DecidableEq, Repr

/-- A virtual core of a kernel: its physical core, the place of its current task, and what the dispatcher keeps of it: `heard` is the tick from
which the dispatcher of the cleat knows of its arrival and its met expectation (02 R31), `trig` the one from which its trigger is seen (19 R325),
`site` the number of the core at whose switch it is
attached (01 R13). -/
structure VCore where
  vdie    : Nat
  vcore   : Nat
  die     : Nat
  q       : Nat
  pos     : Nat
  state   : TaskState
  run     : Nat
  parked  : Option Nat
  forecast : Option Forecast
  rerun   : Option (Nat × Nat × Nat)
  awaits  : Option Nat
  trig    : Option Nat
  arrived : Option Ident
  idents  : List Ident
  expects : List (Ident × Nat)
  expectSum : Nat
  landed  : List Ident
  landedCount : Nat
  heard   : Nat
  site    : Nat
  image   : Option CtxImage
  deriving DecidableEq, Repr

/-- A boost claim (22 R358): die, cluster, claim tick, and whether it continues. -/
structure Claim where
  die     : Nat
  cluster : Nat
  tick    : Nat
  cont    : Bool
  granted : Bool
  deriving DecidableEq, Repr

/-- A late task of a hold (02 R30): its virtual core and ordinal, the ordinal of its predecessor, that one's state when the hold began, and the
frame tick at which it retired. -/
structure LateTask where
  vdie    : Nat
  vcore   : Nat
  ord     : Nat
  pred    : Nat
  why     : Nat
  retired : Option Nat
  deriving DecidableEq, Repr

/-- The hold of a kernel's frame count (02 R30): the package frame tick at which it began and its late tasks. -/
structure Hold where
  began : Nat
  late  : List LateTask
  deriving DecidableEq, Repr

/-- A kernel (19).  `accepted` is the tick at which it last joined the scoreboard (R323), `since` the tick at which its present setting of divisors
began, from which its dispatchers' copy cycles count (log 55), `curCopy` the copy divisor of that setting, and `curFall` the tick at which the copy
domain's cycles of 6 and 5 ticks began, 0 outside them.  `fall` is the tick at which the alternation of R361 began, 0 outside it; `change` says that a
transition to the divisors `div` is due (22 R362). -/
structure Kernel where
  kid     : Nat
  image   : Nat
  ctx     : BitVec 16
  cls     : Nat
  accepted : Nat
  since   : Nat
  curCopy : Nat
  curFall : Nat
  args    : Word64
  status  : Option Nat
  evring  : Nat
  evsize  : Nat
  evseq   : Nat
  state   : Nat
  tasks   : Nat
  kframe  : Nat
  begun   : Bool
  hold    : Option Hold
  slipCount : Nat
  slipTicks : Nat
  phase   : Nat
  vcs     : List VCore
  handles : List Handle
  slots   : List Slot
  after   : List Nat
  streams : List (Nat × Nat)
  resident : Bool
  holds   : Bool
  handle  : Option Word64
  reqs    : List (Nat × Nat)
  eff     : Divs
  div     : Divs
  claims  : List Claim
  boosted : Bool
  fall    : Nat
  change  : Bool
  deriving DecidableEq, Repr

/-- A recorded launch of a segment (19 R327). -/
structure Recorded where
  desc  : List Byte
  image : Nat
  kid   : Nat
  ctx   : BitVec 16
  deriving DecidableEq, Repr

/-- A segment (19 R327): id, context, whether it is open, its launches. -/
structure Segment where
  id     : Nat
  ctx    : BitVec 16
  isOpen : Bool
  items  : List Recorded
  deriving DecidableEq, Repr

/-- A dropped range (19 R328). -/
structure Mark where
  ctx : BitVec 16
  lo  : Nat
  len : Nat
  seg : Nat
  deriving DecidableEq, Repr

/-- A replay in progress (19 R329): the kernel held, the segments to replay, the launches still to make, the live one. -/
structure Replay where
  kid   : Nat
  seg   : Nat
  rest  : List Recorded
  live  : Option Nat
  deriving DecidableEq, Repr

/-- The lead dispatcher and the die dispatchers; `pool` counts the 64 KiB frames that the loader has taken (log 20). -/
structure Dispatch where
  images   : List Image
  nextImage : Nat
  kernels  : List Kernel
  nextKid  : Nat
  order    : List Nat
  segments : List Segment
  marks    : List Mark
  replays  : List Replay
  ringStop : Bool
  frame    : Nat
  pool     : Nat
  deriving DecidableEq, Repr

/-! ### Links and collectives -/

/-- A remote write on its way to a core of this module (09 R232, R300): target physical core and offset, bytes with masks,
the tick at which it lands, the sender's identity where it counts toward the cleat, the sending core, the cleat phase in which it was
issued (02 R33), and whether a fence of the sender's C came behind it (11 R271). -/
structure Flying where
  kid    : Nat
  vdie   : Nat
  vcore  : Nat
  off    : Nat
  bytes  : List (Byte × Byte)
  lands  : Nat
  ident  : Option Ident
  sender : Nat × Nat
  phase  : Nat
  fenced : Bool
  deriving DecidableEq, Repr

/-- A training record of flash (23 R367): TVER, the serial number of its unit, the settings for its data-rate points, and the CRC-32C over them. -/
structure TrainRecord where
  tver     : Nat
  serial   : Nat
  settings : List Word64
  crc      : BitVec 32
  deriving DecidableEq, Repr

/-- A Ronben port (21 R349, R350): `unacked` are the flits kept for a replay, 128 at most, `queue` the flits that wait for one of them to be
acknowledged or for a credit, `credit` the flits that the peer still lets the port send, `grants` the credits that the port has returned to its peer
for flits taken from its buffer; `record` is its training record in flash, if one was written (23 R367). -/
structure Port where
  retry   : Nat
  retrain : Nat
  peer    : BitVec 16
  lanes   : Nat
  state   : Nat
  rxNext  : BitVec 12
  txNext  : BitVec 12
  unacked : List (BitVec 12 × Option PortWrite)
  queue   : List PortWrite
  inRow   : Nat
  naks    : Nat
  credit  : Nat
  grants  : Nat
  record  : Option TrainRecord
  deriving DecidableEq, Repr

/-- A contribution (data, for the rank `to_`) or a notice (none) that reached the module before the collective's start here (21 R354). -/
structure EarlyPart where
  id    : Nat
  gen   : Nat
  rank  : Nat
  to_   : Nat
  chunk : Nat
  data  : Option (List Byte)
  deriving DecidableEq, Repr

/-- A drop notice of a collective with its sender's commit bitmap, which came before the collective's start here (21 R356). -/
structure EarlyDrop where
  id      : Nat
  gen     : Nat
  from_   : Nat
  dropped : Nat
  map     : Nat
  deriving DecidableEq, Repr

/-- A peer's remote write held in the buffer of the port that received it (21 R352), with the peer it came from. -/
structure HeldWrite where
  port  : BitVec 5
  peer  : Nat
  write : PortWrite
  deriving DecidableEq, Repr

/-- The Ronben side: ports, remote writes in flight, writes held at a port, sent to a peer, and in
flight without a route (21 R352), and contributions, notices and drop notices of a collective that came before its start here. -/
structure Links where
  ports  : Vector Port 18
  flying : List Flying
  held   : List HeldWrite
  sent   : List (BitVec 16 × PortWrite)
  lost   : List (BitVec 16 × PortWrite)
  early  : List EarlyPart
  drops  : List EarlyDrop
  deriving DecidableEq, Repr

/-- A collective the engine holds (21 R354 to R357). -/
structure Coll where
  id      : Nat
  gen     : Nat
  op      : Nat
  red     : Nat
  npart   : Nat
  rank    : Nat
  root    : Nat
  timeout : Nat
  inp     : Nat
  out     : Nat
  bytes   : Nat
  chunk   : Nat
  status  : Nat
  ctx     : BitVec 16
  image   : Nat
  kid     : Nat
  nodes   : List (Nat × Nat × Nat)
  core    : Nat × Nat
  started : Nat
  contrib : List (Nat × Nat × List Byte)
  notices : List (Nat × Nat)
  done    : Nat
  live    : Nat
  maps    : List (Nat × Nat)
  state   : Nat
  deriving DecidableEq, Repr

/-! ### Host port, power, time, service -/

/-- The host port (21 R347, R348). -/
structure HostPort where
  modid   : Word64
  apbase  : Word64
  cmdbase : Word64
  ready   : Vector Word64 8
  fault   : BitVec 3
  msix    : Nat
  tables  : List Host.Cell
  answer  : Option (List Byte)
  unsupported : Bool
  cxl     : Bool
  flashCxl : Bool
  deriving DecidableEq, Repr

/-- The clock and power controller of a die (22 R358 to R360). -/
structure DiePower where
  permits : Nat
  quiet   : Nat
  last    : Nat
  charged : Nat
  deriving DecidableEq, Repr

/-- Time (22 R363 to R365): the offset of TIMER from the reference tick count, the last discipline step, the status; and the TIMER
value of the next boost boundary (R358), with the tick of the last one (R361).  `lastAdd` says what the last discipline step did, `stepped` that the
first lock has stepped every TIMER. -/
structure TimeSt where
  adjust  : Int
  lastAdj : Nat
  lastAdd : Bool
  stepped : Bool
  offset  : BitVec 32
  slave   : BitVec 8
  unlock  : Bool
  lock    : Bool
  freeRun : Bool
  supReady : Bool
  boundary : Nat
  bounded  : Nat
  deriving DecidableEq, Repr

/-- The thermal-cycle record of a die or stack (23 R369). -/
structure Thermal where
  count : Nat
  high  : Bool
  ext   : Int
  seen  : Bool
  deriving DecidableEq, Repr

/-- A stack's record and service state (23 R367, R370 to R374); `dead` are the channels fenced since the last reset, `errors` the rows and ticks of
the corrected errors that count toward a remap. -/
structure Stack where
  corr   : Nat
  uncorr : Nat
  fenced : BitVec 32
  dead   : BitVec 32
  remaps : Nat
  rate   : Nat
  boot   : Nat
  cool   : Nat
  failed : Bool
  record : Option TrainRecord
  reserved : Nat
  remapped : List (BitVec 32)
  errors : List (BitVec 32 × Nat)
  postponed : List (BitVec 16 × Nat)
  stalls : List (BitVec 16 × Nat)
  deriving DecidableEq, Repr

/-- A firmware slot of flash (23 R375): its version, and whether the boot ROM's check of its signature succeeds. -/
structure FwSlot where
  version  : BitVec 32
  verifies : Bool
  deriving DecidableEq, Repr

/-- Telemetry, flash and the reliability state (23); `booted` says that a firmware slot runs. -/
structure Service where
  cycles   : Nat
  seconds  : Nat
  bands    : Vector Nat 5
  dieTherm : Vector Thermal 24
  stkTherm : Vector Thermal 24
  dieTemp  : Vector Int 24
  retrains : Vector Nat 18
  hbmStacks : Vector Stack 24
  fencedCores : List (Nat × Nat)
  failedDies : List Nat
  discarded : Nat
  staleGen : Nat
  flash    : List Nat
  reportSeq : Nat
  measured : Nat
  mlog     : List Byte
  report   : List Byte
  powered  : Bool
  slots    : Vector FwSlot 2
  fused    : BitVec 32
  booted   : Bool
  supCore  : Nat
  deriving DecidableEq, Repr

/-- A line in the last-level cache at its home (11 R258, R268; 01 R18): its number, write timestamp and latest lease end, the 128-byte
sectors filled and those dirty at the home, the core that owns it with the sectors dirty there, whether it is the first to be replaced
(06 R111), and the kernels that pin it (19 R321). -/
structure Line where
  line   : Nat
  wts    : Nat
  rts    : Nat
  filled : BitVec 8
  dirty  : BitVec 8
  owner  : Option (Nat × Nat)
  owned  : BitVec 8
  last   : Bool
  pins   : List Nat
  deriving DecidableEq, Repr

/-- The last-level cache, a slice of 128 MiB in each base die (01 R11): its lines, the one used last first, a bound on the timestamps
and leases of lines that were replaced, and the timestamp of the host port, where accesses to host memory perform in the PCI Express mode (R269). -/
structure Llc where
  lines : List Line
  floor : Nat
  port  : Nat
  deriving DecidableEq, Repr

/-- The whole machine.  `mem` is global memory and, at each core's window, the core's local resources (01 R16; 11 R256, R257, R262).
Every access performs on it in one order, the order of the steps, which is the total order of 11 R265 with host memory and atomics in
it (R267, R269, R272); what a remote write brings is there before the next phase's tasks (02 R33).  `stops` holds every core that was stopped as its last stop
left it: what its snapshot block shows while it runs (20 R337). -/
structure State where
  mem    : List Host.Cell
  poison : List Nat
  core   : Core
  others : List Core
  stops  : List Core
  turn   : Strand
  now    : Nat
  free   : Nat
  agenda : List Instr
  full   : Bool
  llc    : Llc
  xlat   : Xlat
  disp   : Dispatch
  links  : Links
  colls  : List Coll
  host   : HostPort
  power  : Vector DiePower 24
  time   : TimeSt
  serv   : Service
  deriving DecidableEq, Repr

/-! ### Reset -/

/-- A queue with nothing in it (02 R35). -/
def Queue.empty : Queue := ⟨[], []⟩

/-- A chain at address 0 with no redirection. -/
def Chain.zero : Chain := ⟨0, 0, 0, 0⟩

/-- C at reset. -/
def CStrand.reset : CStrand :=
  { prim := Vector.replicate 32 0, shadow := Vector.replicate 32 0, handler := false, chain := .zero, saved := .zero, held := .idle,
    loops := [], shLoops := [], ready := Vector.replicate 32 0, origin := Vector.replicate 32 (0, 0), divFree := 0, hcount := 0,
    shReady := Vector.replicate 32 0, shDivFree := 0, before := Vector.replicate 32 0, loads := [], fflags := 0, count := 0, next := 0,
    cond := .idle, nLaunch := 0, nArrive := 0, nExpect := 0, after := .none_, fence := .none_, nGo := 0 }

/-- L, X or S at reset. -/
def Step.reset : Step :=
  { pc := 0, g := Vector.replicate 16 0, lc := Vector.replicate 4 ⟨0, 0, 0, false, 0⟩, fflags := 0, flagSet := none,
    count := 0, clock := 0, next := 0, cond := .idle, brqLeft := 0, flights := [], doneMax := 0, seq := 0, lastPace := none, latches := [],
    loopSeq := 0, after := .none_ }

/-- A k register of zeros (07 R163). -/
def KReg.zero : KReg := ⟨List.replicate 32 0, 0⟩

/-- A predicate that is false in all 1024 bits (02 R23). -/
def allFalse : List Bool := List.replicate 1024 false

/-- The vector state at reset: f32 shape, window at 0, no bight (07 R144, R145). -/
def Vec.reset : Vec :=
  { type_ := 9, wbase := 0, left := 0, koff := 0, off := 0, size := 0, base := 0, p := Vector.replicate 16 allFalse,
    k := Vector.replicate 16 .zero, modif := none, latches := [], gloads := [], stores := [] }

/-- The matrix unit at reset: nothing loaded, nothing running (08 R181, R201; 05 R100). -/
def Matrix.reset : Matrix :=
  { count := 0, next := 0, queue := [], results := [], resB := ⟨false, 0, 0, 0, 0, 0, 0, 0, 0, 0⟩, cim := ⟨[], []⟩,
    tags := Vector.replicate 16 none, fcol := 0, fstat := 0, grow := 0, pv := List.replicate 128 0,
    shadow := Vector.replicate 14 0, armed := none, running := none, factor := none, free_ := 0, ops := 0, mrem := 0,
    testDue := none, failing := false, fenced := false }

/-- A closed ring (09 R225). -/
def Ring.closed : Ring := ⟨false, false, 0, 0, 0, 0, 0, 0, 0, 0, 0, []⟩

/-- The frame registers at reset (20 R333). -/
def Frame.reset : Frame := ⟨0, 0, 0, 0, 0, 0, 0, false, false, 0, none, none, none⟩

/-- C's own control registers at reset (06 R132 to R135, 10 R242). -/
def Csr.reset : Csr :=
  { fmtd := 0, seed := Vector.replicate 8 0, pace := Vector.replicate 3 0, fdamp := 0, mtesti := 0x10000, lodcEvents := 0,
    lodcCycles := 0, ctxid := 0, late := [] }

/-- Every domain at divisor 6 (06 R136). -/
def Divs.nominal : Divs := ⟨6, 6, 6, 6⟩

/-- Physical core q of a die at reset: no task, every queue empty. -/
def Core.reset (die q : Nat) : Core :=
  { die := die, q := q, sup := false, halted := false, c := .reset, l := .reset, x := .reset, s := .reset, v := .reset,
    m := .reset, inb := ⟨[], 0⟩, outb := ⟨[], 0⟩, rings := Vector.replicate 4 .closed, hq := Vector.replicate 12 .empty,
    dq := Vector.replicate 12 .empty, fq := .empty, csr := .reset, frame := .reset, pend := [], task := none, freeze := none,
    stop := 0, resume := 0, imC := [], imL := [], imX := [], imS := [], gcache := [], pts := 0, tlb := [], extra := [], irq := [], div := .nominal, fall := none }

/-- A port that is down (21 R350). -/
def Port.down : Port := ⟨0, 0, 0, 0, 0, 0, 0, [], [], 0, 0, 0, 0, none⟩

/-- A stack with no record of errors, at the 12.8 Gb/s point (23 R370). -/
def Stack.reset : Stack := ⟨0, 0, 0, 0, 0, 0, 0, 0, false, none, 0, [], [], [], []⟩

/-- The service state at reset (23 R369, R375). -/
def Service.reset : Service :=
  { cycles := 0, seconds := 0, bands := Vector.replicate 5 0, dieTherm := Vector.replicate 24 ⟨0, false, 0, false⟩,
    stkTherm := Vector.replicate 24 ⟨0, false, 0, false⟩, dieTemp := Vector.replicate 24 0, retrains := Vector.replicate 18 0,
    hbmStacks := Vector.replicate 24 .reset, fencedCores := [], failedDies := [], discarded := 0, staleGen := 0, flash := [],
    reportSeq := 0, measured := 0, mlog := List.replicate 48 0, report := [], powered := false, slots := Vector.replicate 2 ⟨0, true⟩,
    fused := 0, booted := true, supCore := 31 }

/-- The module right after reset: no kernel, nothing ready, memory with nothing listed, the full grade (log 9), core 0 of
die 0 in focus and the supervisor's core beside it (01 R13). -/
def State.reset : State :=
  { mem := [], poison := [], core := .reset 0 0,
    others := [{ Core.reset 0 31 with sup := true }],
    stops := [],
    turn := .c, now := 0, free := 0, agenda := [], full := true, llc := ⟨[], 0, 0⟩,
    xlat := { roots := [], held := [], ring := List.replicate 192 none, queued := [], prod := 0, cons := 0, done := 0,
              tcmp := 0 },
    disp := { images := [], nextImage := 1, kernels := [], nextKid := 1, order := [], segments := [], marks := [],
              replays := [], ringStop := false, frame := 0, pool := 0 },
    links := { ports := Vector.replicate 18 .down, flying := [], held := [], sent := [], lost := [], early := [], drops := [] },
    colls := [],
    host := { modid := 0x10000, apbase := 0, cmdbase := 0, ready := Vector.replicate 8 0, fault := 0, msix := 0, tables := [],
              answer := none, unsupported := false, cxl := false, flashCxl := false },
    power := Vector.replicate 24 ⟨64, 0, 0, 0⟩,
    time := { adjust := 0, lastAdj := 0, lastAdd := false, stepped := false, offset := 0, slave := 0x1F, unlock := false, lock := false, freeRun := false,
              supReady := false, boundary := 75000, bounded := 0 },
    serv := .reset }

end Sys2Proof.Machine
end

