-- ==== Sys2Proof/Machine/Regs.lean ====
section
/-!
DEFINITION. Registers, queues and clocks of a core: the one place where each register is read and written (02 R20, R35, R36;
06 R101, R102; 07 R174).
-/
namespace Sys2Proof.Machine

/-! ### The parts of the state -/

/-- The machine with the core in focus changed. -/
def State.updCore (s : State) (f : Core → Core) : State := { s with core := f s.core }

/-- The machine with the C strand in focus changed. -/
def State.updC (s : State) (f : CStrand → CStrand) : State := { s with core := { s.core with c := f s.core.c } }

/-- A step strand of a core. -/
def Core.strand (c : Core) : StepStrand → Step
  | .l => c.l
  | .x => c.x
  | .s => c.s

/-- A core with one step strand replaced. -/
def Core.setStrand (c : Core) (t : StepStrand) (v : Step) : Core :=
  match t with
  | .l => { c with l := v }
  | .x => { c with x := v }
  | .s => { c with s := v }

/-- The machine with a step strand in focus changed. -/
def State.updStep (s : State) (t : StepStrand) (f : Step → Step) : State :=
  { s with core := s.core.setStrand t (f (s.core.strand t)) }

/-- The machine with the vector state changed. -/
def State.updV (s : State) (f : Vec → Vec) : State := { s with core := { s.core with v := f s.core.v } }

/-- The machine with the matrix unit changed. -/
def State.updM (s : State) (f : Matrix → Matrix) : State := { s with core := { s.core with m := f s.core.m } }

/-- The machine with the control registers changed. -/
def State.updCsr (s : State) (f : Csr → Csr) : State := { s with core := { s.core with csr := f s.core.csr } }

/-- The machine with the running task changed. -/
def State.updTask (s : State) (f : Task → Task) : State := { s with core := { s.core with task := s.core.task.map f } }

/-- Divisor of a strand's domain (02 R20, 09 R218: L and S run in the copy domain). -/
def Core.divOf (c : Core) : Strand → Nat
  | .c => c.div.ctl
  | .l => c.div.copy
  | .x => c.div.vec
  | .s => c.div.copy

/-! ### Cycles of a domain (01 R15; 22 R361) -/

/-- Ticks of the first n cycles of a fall's first step, of 6 and 5 ticks by turns, and the first of their boundaries that is not before a
tick. -/
def altTick (n : Nat) : Nat := 11 * (n / 2) + 6 * (n % 2)
def altIndex (u : Nat) : Nat := 2 * (u / 11) + (if u % 11 = 0 then 0 else if u % 11 ≤ 6 then 1 else 2)
def altFloor (u : Nat) : Nat := 2 * (u / 11) + (if u % 11 < 6 then 0 else 1)

/-- The number of a domain's divisor (06 R137). -/
def Divs.get (d : Divs) (dom : Nat) : Nat := if dom = 0 then d.ctl else if dom = 1 then d.mat else if dom = 2 then d.vec else d.copy
def Divs.set (d : Divs) (dom v : Nat) : Divs :=
  if dom = 0 then { d with ctl := v } else if dom = 1 then { d with mat := v } else if dom = 2 then { d with vec := v } else { d with copy := v }

/-- The fall's first step in which a domain of the core stands. -/
def Core.turns (c : Core) (dom : Nat) : Option Nat :=
  match c.fall with
  | some f => if f.doms.contains dom then some f.origin else none
  | none => none

/-- The tick at which the n'th cycle of a domain begins, counted from one that begins at `next`. -/
def Core.tickAfter (c : Core) (dom next n : Nat) : Nat :=
  match c.turns dom with
  | some o => if n = 0 then next else o + altTick (altIndex (next - o) + n)
  | none => next + n * c.div.get dom

/-- The cycles of a domain that begin from `next` on and before a tick. -/
def Core.cyclesTo (c : Core) (dom next t : Nat) : Nat :=
  match c.turns dom with
  | some o => altIndex (t - o) - altIndex (next - o)
  | none => ceilDiv (t - next) (c.div.get dom)

/-- The whole cycles of a domain that pass in `n` ticks from the beginning of one of them. -/
def Core.wholeCycles (c : Core) (dom next n : Nat) : Nat :=
  match c.turns dom with
  | some o => altFloor (next - o + n) - altIndex (next - o)
  | none => n / c.div.get dom

/-- The first tick, from one on, at which a cycle of a domain begins, counted from one that begins at `next`. -/
def Core.edge (c : Core) (dom next t : Nat) : Nat := c.tickAfter dom next (c.cyclesTo dom next t)

/-! ### Registers of C -/

/-- The register set in use: the shadow set in handler context (06 R102). -/
def CStrand.regs (c : CStrand) : Vector Word64 32 := if c.handler then c.shadow else c.prim

/-- s[r]; s0 reads 0 (02 R20). -/
def CStrand.read (c : CStrand) (r : BitVec 5) : Word64 :=
  if r = 0 then 0 else c.regs[r.toNat]'(by have := r.isLt; omega)

/-- s[r] written; a write to s0 is discarded (06 R101). -/
def CStrand.write (c : CStrand) (r : BitVec 5) (v : Word64) : CStrand :=
  if r = 0 then c
  else if c.handler then { c with shadow := c.shadow.set r.toNat v (by have := r.isLt; omega) }
  else { c with prim := c.prim.set r.toNat v (by have := r.isLt; omega) }

/-- The loop stack in use (06 R102, R117). -/
def CStrand.stack (c : CStrand) : List LoopEntry := if c.handler then c.shLoops else c.loops

/-- The loop stack in use replaced. -/
def CStrand.setStack (c : CStrand) (l : List LoopEntry) : CStrand :=
  if c.handler then { c with shLoops := l } else { c with loops := l }

/-- The cycles that the interlock of the context in use counts (06 R103): C's count, and in a handler, whose cycles advance no count
(20 R331), the handler's own. -/
def CStrand.cycles (c : CStrand) : Nat := if c.handler then c.hcount else c.count

/-- The cycle from which the value of a register of the set in use is ready (06 R103). -/
def CStrand.readyAt (c : CStrand) (r : BitVec 5) : Nat :=
  if c.handler then c.shReady[r.toNat]'(by have := r.isLt; omega) else c.ready[r.toNat]'(by have := r.isLt; omega)

/-- The cycle from which the value of a register is ready, with the word it comes from (06 R103; 20 R339). -/
def CStrand.setReady (c : CStrand) (r : BitVec 5) (n : Nat) : CStrand :=
  if c.handler then { c with shReady := c.shReady.set r.toNat n (by have := r.isLt; omega) }
  else { c with ready := c.ready.set r.toNat n (by have := r.isLt; omega),
                origin := c.origin.set r.toNat (c.count, c.chain.pc.toNat) (by have := r.isLt; omega) }

/-- A load to this register of the set in use has missed and its data has not arrived (06 R103). -/
def CStrand.missing (c : CStrand) (r : BitVec 5) : Bool := r != 0 && c.loads.any fun l => l.d == r && l.sh == c.handler

/-- A word that reads register r need not be held (06 R103). -/
def CStrand.isReady (c : CStrand) (r : BitVec 5) : Bool := r == 0 || (!c.missing r && decide (c.readyAt r ≤ c.cycles))

/-- The cycle from which a new result of a register is ready; no earlier load holds the register any more (06 R103). -/
def CStrand.newResult (c : CStrand) (r : BitVec 5) (latency : Nat) : CStrand :=
  { c.setReady r (c.cycles + latency) with
    loads := c.loads.map fun l => if l.d = r ∧ l.sh = c.handler then { l with d := 0 } else l }

/-- What a primary register holds kept while a result is on its way to it (20 R337). -/
def CStrand.remember (c : CStrand) (r : BitVec 5) : CStrand :=
  if c.handler || !c.isReady r then c
  else { c with before := c.before.set r.toNat (c.prim[r.toNat]'(by have := r.isLt; omega)) (by have := r.isLt; omega) }

/-- A result of C written: the register, its value, and the cycles until it is ready (06 R103). -/
def State.setS (s : State) (r : BitVec 5) (v : Word64) (latency : Nat) : State :=
  s.updC fun c => ((c.remember r).write r v).newResult r latency

/-! ### Registers of L, X and S -/

/-- g[r]; g0 reads 0 (02 R20). -/
def Step.readG (t : Step) (r : BitVec 4) : Word64 := if r = 0 then 0 else t.g[r.toNat]'(by have := r.isLt; omega)

/-- g[r] written; a write to g0 is discarded (07 R174). -/
def Step.writeG (t : Step) (r : BitVec 4) (v : Word64) : Step :=
  if r = 0 then t else { t with g := t.g.set r.toNat v (by have := r.isLt; omega) }

/-- The pn'th predicate register with p0 all true (02 R46, 07 R148). -/
def Vec.readP (v : Vec) (n : BitVec 4) : List Bool :=
  if n = 0 then List.replicate 1024 true else v.p[n.toNat]'(by have := n.isLt; omega)

/-- A predicate written; p0 is not a destination (07 R153). -/
def Vec.writeP (v : Vec) (n : BitVec 4) (b : List Bool) : Vec :=
  if n = 0 then v else { v with p := v.p.set n.toNat b (by have := n.isLt; omega) }

/-- The physical vector register of a window name (07 R146). -/
def Vec.phys (v : Vec) (n : Nat) : Nat :=
  v.wbase + (if 0 < v.size ∧ v.base ≤ n ∧ n < v.base + v.size
    then v.base + ((n - v.base + v.size - v.off % v.size) % v.size) else n)

/-- The physical k register of a name (07 R146). -/
def Vec.physK (v : Vec) (n : Nat) : Nat := (n + 16 - v.koff % 16) % 16

/-- A k register by physical number. -/
def Vec.readK (v : Vec) (n : Nat) : KReg := v.k[n % 16]'(Nat.mod_lt _ (by decide))

/-- A k register written. -/
def Vec.writeK (v : Vec) (n : Nat) (k : KReg) : Vec := { v with k := v.k.set (n % 16) k (Nat.mod_lt _ (by decide)) }

/-! ### Registers between domains -/

/-- What a register that another domain wrote shows at a tick: the old value until the write is seen (06 R131, 02 R36). -/
def Csr.seen (r : Csr) (csr : Nat) (now : Nat) (v : Word64) : Word64 :=
  match r.late.find? fun l => l.csr == csr && decide (now < l.since) with
  | some l => l.old
  | none => v

/-- A write that the other domain sees at once, whatever write was on its way: a handler's, whose readers are stopped (20 R331). -/
def Csr.writeNow (r : Csr) (csr : Nat) : Csr := { r with late := r.late.filter fun l => l.csr != csr }

/-- A write seen by the other domain from a tick on; writes already seen leave the list. -/
def Csr.writeLate (r : Csr) (csr : Nat) (old : Word64) (now since : Nat) : Csr :=
  { r with late := (r.late.filter fun l => decide (now < l.since)) ++ [⟨csr, old, since⟩] }

/-- Where a strand's pacing register stands: L, X, S (06 R132). -/
def paceOf : StepStrand → Fin 3
  | .l => 0
  | .x => 1
  | .s => 2

/-- The gap of a strand's pacing register as the strand sees it (06 R134, R138). -/
def State.gap (s : State) (t : StepStrand) : Nat :=
  (s.core.csr.seen (0x30 + (paceOf t).val) s.now ((s.core.csr.pace[paceOf t]).zeroExtend 64)).toNat

/-! ### Queues -/

/-- The strand a partner code names (05 R84); code 0 names none. -/
def partner (t : Strand) (p : BitVec 2) : Option Strand :=
  match t, p.toNat with
  | .c, 1 => some .l
  | .c, 2 => some .x
  | .c, 3 => some .s
  | .l, 1 => some .c
  | .l, 2 => some .x
  | .l, 3 => some .s
  | .x, 1 => some .c
  | .x, 2 => some .l
  | .x, 3 => some .s
  | .s, 1 => some .c
  | .s, 2 => some .l
  | .s, 3 => some .x
  | _, _ => none

/-- The number of the queue of a strand pair, producer first (05 R84). -/
def pairQ : Strand → Strand → Fin 12
  | .c, .l => 0
  | .c, .x => 1
  | .c, .s => 2
  | .l, .c => 3
  | .l, .x => 4
  | .l, .s => 5
  | .x, .c => 6
  | .x, .l => 7
  | .x, .s => 8
  | .s, .c => 9
  | .s, .l => 10
  | .s, .x => 11
  | .c, .c => 0
  | .l, .l => 0
  | .x, .x => 0
  | .s, .s => 0

/-- The queue toward a partner. -/
def outQ (t : Strand) (p : BitVec 2) : Fin 12 := pairQ t ((partner t p).getD .c)

/-- The queue from a partner. -/
def inQ (t : Strand) (p : BitVec 2) : Fin 12 := pairQ ((partner t p).getD .c) t

/-- Depths (02 R35). -/
abbrev hitchDepth : Nat := 32
abbrev dataDepth : Nat := 16
abbrev formatDepth : Nat := 16

/-- The head item is visible at a tick (02 R36). -/
def Queue.visible (q : Queue) (t : Nat) : Bool :=
  match q.items with
  | [] => false
  | i :: _ => decide (i.since ≤ t)

/-- How many items are visible at a tick. -/
def Queue.seen (q : Queue) (t : Nat) : Nat := (q.items.takeWhile fun i => decide (i.since ≤ t)).length

/-- The producer sees a free slot at a tick (02 R36): a slot popped earlier counts once its tick has come. -/
def Queue.room (q : Queue) (depth t : Nat) : Bool :=
  decide (q.items.length + (q.freed.filter fun f => decide (t < f)).length < depth)

/-- One item pushed, seen from a tick on. -/
def Queue.push (q : Queue) (w : Word64) (since : Nat) (after : After) : Queue := { q with items := q.items ++ [⟨w, since, after⟩] }

/-- The head popped at a tick by a consumer whose cycle ends at `frees`. -/
def Queue.pop (q : Queue) (t frees : Nat) : Queue :=
  ⟨q.items.tail, (q.freed.filter fun f => decide (t < f)) ++ [frees]⟩

/-- The words before the head item in hitch order. -/
def Queue.headAfter (q : Queue) : After :=
  match q.items with
  | [] => .none_
  | i :: _ => i.after

/-- After both of two. -/
def After.join (a b : After) : After := ⟨Nat.max a.l b.l, Nat.max a.x b.x, Nat.max a.s b.s, Nat.max a.c b.c⟩

/-- After a word of a strand too. -/
def After.with_ (a : After) (t : StepStrand) (n : Nat) : After :=
  match t with
  | .l => { a with l := Nat.max a.l n }
  | .x => { a with x := Nat.max a.x n }
  | .s => { a with s := Nat.max a.s n }

/-- The number of a strand's word that something comes after. -/
def After.of (a : After) : StepStrand → Nat
  | .l => a.l
  | .x => a.x
  | .s => a.s

/-- The head word. -/
def Queue.head (q : Queue) : Word64 :=
  match q.items with
  | [] => 0
  | i :: _ => i.word

/-- A hitch queue changed. -/
def Core.updHq (c : Core) (n : Fin 12) (f : Queue → Queue) : Core := { c with hq := c.hq.set n (f c.hq[n]) }

/-- A data queue changed. -/
def Core.updDq (c : Core) (n : Fin 12) (f : Queue → Queue) : Core := { c with dq := c.dq.set n (f c.dq[n]) }

/-- What a strand's next push comes after: what its own accesses do, and every word it has issued (11 R267). -/
def Core.afterOf (c : Core) (t : StepStrand) : After := (c.strand t).after.with_ t (c.strand t).seq

/-- What a push of C comes after: what its own accesses do, and every nest.go it has issued (11 R267). -/
def CStrand.pushAfter (c : CStrand) : After := { c.after with c := Nat.max c.after.c c.nGo }

/-- A strand's later accesses come after what an item that it takes came after (11 R267). -/
def State.comeAfter (s : State) (t : Strand) (a : After) : State :=
  match t with
  | .c => s.updC fun c => { c with after := c.after.join a }
  | .l => s.updStep .l fun p => { p with after := p.after.join a }
  | .x => s.updStep .x fun p => { p with after := p.after.join a }
  | .s => s.updStep .s fun p => { p with after := p.after.join a }

/-- The tick at which the cycle that begins now ends, in a strand's domain. -/
def State.cycleEnd (s : State) (t : Strand) : Nat := s.now + s.core.divOf t

/-- The tick from which other domains see what C's word does in this cycle (02 R36): the end of the cycle; for a handler's word the tick
of the stop, since every other domain goes on with its stop cycle (20 R331; log 17). -/
def State.cSeen (s : State) : Nat := if s.core.c.handler then s.core.stop else s.cycleEnd .c

/-- TVAL of cause 0x13 at a named queue (20 R334): [17] 1, [16] a data queue or fq, [3:0] its number. -/
def queueTval (data : Bool) (n : Nat) : Word64 := BitVec.ofNat 64 (0x20000 + (if data then 0x10000 else 0) + n)

/-! ### Pending entries -/

/-- The kind of a pending entry (20 R339): 1 fault, 2 interrupt, 3 breakdown. -/
def pendKind (cause : BitVec 8) : Nat :=
  if cause = 0x11 ∨ cause = 0x12 then 2 else if 9 ≤ cause.toNat ∧ cause.toNat ≤ 11 then 3 else 1

/-- A new pending entry of a core (20 R339): due at once, after every entry it holds; `pc` is the address of the word concerned, or 0. -/
def Core.pendEntry (c : Core) (cause : BitVec 8) (src : BitVec 4) (tval : Word64) (pc : Nat) : Pending :=
  ⟨cause, src, tval, c.c.count, pc, (c.pend.foldl (fun a p => Nat.max a p.issue) 0) + 1, pendKind cause, c.c.handler⟩

/-- A core with one more pending entry, of which it has room for 16 (20 R339). -/
def Core.pendMore (c : Core) (cause : BitVec 8) (src : BitVec 4) (tval : Word64) (pc : Nat) : Core :=
  if c.pend.length < 16 then { c with pend := c.pend ++ [c.pendEntry cause src tval pc] } else c

/-! ### Kernels and handles -/

/-- The kernel of an id. -/
def State.kernel? (s : State) (kid : Nat) : Option Kernel := s.disp.kernels.find? fun k => k.kid == kid

/-- The machine with one kernel changed. -/
def State.updKernel (s : State) (kid : Nat) (f : Kernel → Kernel) : State :=
  { s with disp := { s.disp with kernels := updFirst (fun k => k.kid == kid) f s.disp.kernels } }

/-- The virtual core of a kernel at coordinates. -/
def Kernel.vc? (k : Kernel) (vdie vcore : Nat) : Option VCore := k.vcs.find? fun v => v.vdie == vdie && v.vcore == vcore

/-- A kernel with one virtual core changed. -/
def Kernel.updVc (k : Kernel) (vdie vcore : Nat) (f : VCore → VCore) : Kernel :=
  { k with vcs := updFirst (fun v => v.vdie == vdie && v.vcore == vcore) f k.vcs }

/-- The kernel of the task in focus. -/
def State.myKernel (s : State) : Option Kernel := s.core.task.bind fun t => s.kernel? t.kid

/-- The tile-handle entry h of the kernel in focus (18 R308). -/
def State.handle? (s : State) (h : Nat) : Option Handle := s.myKernel.bind fun k => k.handles[h]?

/-- The machine with the task's own virtual core changed in its kernel. -/
def State.updMyVc (s : State) (f : VCore → VCore) : State :=
  match s.core.task with
  | none => s
  | some t => s.updKernel t.kid fun k => k.updVc t.vdie t.vcore f

/-- The core at a physical place: the one in focus, one of the others, or one as reset left it. -/
def State.coreAt (s : State) (die q : Nat) : Core :=
  if s.core.die = die ∧ s.core.q = q then s.core
  else (s.others.find? fun c => c.die == die && c.q == q).getD (Core.reset die q)

/-- A core put back at its place. -/
def State.putCore (s : State) (c : Core) : State :=
  if s.core.die = c.die ∧ s.core.q = c.q then { s with core := c }
  else if s.others.any fun d => d.die == c.die && d.q == c.q then
    { s with others := updFirst (fun d => d.die == c.die && d.q == c.q) (fun _ => c) s.others }
  else { s with others := s.others ++ [c] }

/-- The core at a place changed. -/
def State.updCoreAt (s : State) (die q : Nat) (f : Core → Core) : State := s.putCore (f (s.coreAt die q))

/-- Bring a core into focus. -/
def State.focus (s : State) (die q : Nat) : State :=
  if s.core.die = die ∧ s.core.q = q then s
  else { s with core := s.coreAt die q,
                others := (s.others.filter fun c => !(c.die == die && c.q == q)) ++ [s.core] }

/-- Do something with a core in focus, and return the focus to where it was. -/
def State.onCore (s : State) (die q : Nat) (f : State → State) : State :=
  (f (s.focus die q)).focus s.core.die s.core.q

/-- A fresh free value's number: the counter, and the machine with the counter advanced. -/
def State.fresh (s : State) : Nat × State := (s.free, { s with free := s.free + 1 })

end Sys2Proof.Machine
end

