-- ==== Sys2Proof/Machine/Xlate.lean ====
section
/-!
DEFINITION. The physical map (11 R256 to R258), tile-handle geometry (18 R308; 04 R69, R70), translation (11 R259 to R261;
20 R344), and the two operations through which every byte of memory is read and written: `State.taskByte` as a task sees it
(06 R109, 10 R245, 11 R376) and `State.poke`, with the undo log (02 R27), the DIRTY bits of rings (09 R228), poison
(23 R370) and fenced channels (23 R371, R374).
-/
namespace Sys2Proof.Machine

/-! ### The physical map -/

/-- Base of the on-chip windows (11 R256). -/
abbrev windowSpace : Nat := 0x8000000000000

/-- Base of the window of physical core q of a die position (11 R256). -/
def windowBase (die q : Nat) : Nat := windowSpace + die * 2 ^ 40 + q * 2 ^ 32

/-- Offsets of the resources of a window (11 R257). -/
abbrev vrfBase : Nat := 0
abbrev vrfSize : Nat := 0x200000
abbrev spadBase : Nat := 0x1000000
abbrev spadSize : Nat := 0x400000
abbrev accBase : Nat := 0x2000000
abbrev accSize : Nat := 0x40000
abbrev snapBase : Nat := 0xF000000
abbrev snapSize : Nat := 0x10000

/-- n bytes at a local offset lie wholly inside one resource (09 R217). -/
def resourceOk (off n : Nat) : Bool :=
  decide (off + n ≤ vrfSize) || (decide (spadBase ≤ off) && decide (off + n ≤ spadBase + spadSize))
    || (decide (accBase ≤ off) && decide (off + n ≤ accBase + accSize))

/-- The core and offset of a physical address in a window. -/
def windowOf (pa : Nat) : Option (Nat × Nat × Nat) :=
  if windowSpace ≤ pa ∧ pa < windowSpace + 24 * 2 ^ 40 ∧ (pa - windowSpace) % 2 ^ 40 < 32 * 2 ^ 32 then
    some ((pa - windowSpace) / 2 ^ 40, (pa - windowSpace) % 2 ^ 40 / 2 ^ 32, (pa - windowSpace) % 2 ^ 32)
  else none

/-- Die positions disabled at manufacture on the lesser grade: column x = 5 (01 R14). -/
def dieDisabled (full : Bool) (d : Nat) : Bool := !full && d % 6 == 5

/-- The die positions of enabled stacks, ascending: stack s belongs to the s'th of them (11 R258). -/
def stackDie (full : Bool) (n : Nat) : Nat := nth ((List.range 24).filter fun d => !dieDisabled full d) n 0

/-- HBM stacks of the grade (00 R1; 11 R258): 24, or 20 in the lesser grade. -/
def State.stackCount (s : State) : Nat := if s.full then 24 else 20

/-- First address past HBM (11 R256). -/
def State.hbmTop (s : State) : Nat := s.stackCount * 2 ^ 36

/-- The stack of a HBM address (11 R258). -/
def stackOf (pa : Nat) : Nat := pa / 2 ^ 36

/-- A stack's record by number. -/
def State.stack (s : State) (n : Nat) : Stack := s.serv.hbmStacks.toList.getD n Stack.reset

/-- The tick at which a bank's stall ends (23 R372), and that of the bank of an address: an access to it waits until then. -/
def Stack.stall (k : Stack) (bank : BitVec 16) : Nat := ((k.stalls.find? fun p => p.1 == bank).map (·.2)).getD 0
def State.stallOf (s : State) (pa : Nat) : Nat := if pa < s.hbmTop then (s.stack (stackOf pa)).stall (Config.bankOf pa) else 0

/-- The tick from which an access made now of these physical addresses is served: none of their banks stands in a stall (23 R372). -/
def State.servedFrom (s : State) (pas : List Nat) : Nat := pas.foldl (fun n pa => Nat.max n (s.stallOf pa)) s.now

/-- The byte lies in a fenced channel or a failed stack: reads take poison, stores are discarded (23 R371, R374). -/
def State.deadByte (s : State) (pa : Nat) : Bool :=
  decide (pa < s.hbmTop) &&
    ((s.stack (stackOf pa)).failed || ((s.stack (stackOf pa)).dead != 0 && (s.stack (stackOf pa)).dead.getLsbD (Config.channelOfLine (pa / 1024) % 32)))

/-- The byte exists (11 R256): HBM below the grade's top and below what fenced channels took after a reset (23 R371), a
resource of a window of an enabled core, or host memory.  The snapshot block exists for the supervisor alone. -/
def State.paExists (s : State) (pa : Nat) : Bool :=
  if pa < s.hbmTop then decide (pa % 2 ^ 36 < 2 ^ 36 - (s.stack (stackOf pa)).reserved * 2 ^ 31)
  else if 0xC000000000000 ≤ pa ∧ pa < 2 ^ 52 then true
  else match windowOf pa with
    | none => false
    | some (d, q, off) =>
      !dieDisabled s.full d && !s.serv.failedDies.contains d && !s.serv.fencedCores.contains (d, q)
        && (resourceOk off 1 || (s.core.sup && decide (snapBase ≤ off) && decide (off < snapBase + snapSize)))

/-! ### The last-level cache (01 R11, R18; 11 R258, R268) -/

/-- The 1024-byte line of a global byte: none in an on-chip window (11 R258, R262). -/
def lineOf (pa : Nat) : Option Nat := if windowSpace ≤ pa ∧ pa < 0xC000000000000 then none else some (pa / 1024)

/-- The die position of a line's home: its stack's base die, or die 0 for host and CXL memory (11 R258). -/
def State.homeOf (s : State) (line : Nat) : Nat := if line * 1024 < s.hbmTop then stackDie s.full (stackOf (line * 1024)) else 0

/-- A core may hold a copy of the line: not of host memory in the PCI Express mode (11 R269). -/
def State.leased (s : State) (line : Nat) : Bool := decide (line * 1024 < 0xC000000000000) || s.host.cxl

/-- Lines of one base die's slice, and of a core's global cache (01 R11, R16). -/
abbrev sliceLines : Nat := 131072
abbrev cacheLines : Nat := 256

/-- A lease (11 R268), and the ticks after which a held copy is renewed on its next use. -/
abbrev leaseLen : Nat := 256
abbrev copyTicks : Nat := 30000

/-- A line as its home records it; one that was replaced, or never used, stands under the cache's bound. -/
def Llc.find (c : Llc) (line : Nat) : Line := (c.lines.find? fun x => x.line == line).getD ⟨line, c.floor, c.floor, 0, 0, none, 0, false, []⟩

/-- The greatest write timestamp. -/
def Llc.top (c : Llc) : Nat := c.lines.foldl (fun a x => Nat.max a x.wts) c.floor

/-- The line of a slice to replace, among those that no kernel pins (19 R321): one marked by ld.last, else the one unused for longest. -/
def victimOf (l : List Line) : Option Line :=
  let free := l.filter (·.pins.isEmpty)
  match free.filter (·.last) with
  | x :: _ => some x
  | [] => free.getLast?

/-- A line recorded as the one used last; a slice with more lines than it holds replaces one (06 R111; the choice is log 7's). -/
def State.setLine (s : State) (x : Line) : State :=
  let rest := s.llc.lines.filter fun y => y.line != x.line
  let mine := rest.filter fun y => s.homeOf y.line == s.homeOf x.line
  let out := if mine.length < sliceLines then none else victimOf mine
  match out with
  | none => { s with llc := { s.llc with lines := x :: rest } }
  | some v => { s with llc := { s.llc with lines := x :: rest.filter (fun y => y.line != v.line), floor := Nat.max s.llc.floor (Nat.max v.wts v.rts) } }

/-- The sectors of a line that n bytes at an address touch. -/
def sectorsOf (line pa n : Nat) : BitVec 8 :=
  BitVec.ofNat 8 ((List.range 8).foldl (fun a k =>
    let lo := line * 1024 + k * 128
    if pa < lo + 128 ∧ lo < pa + n then a + 2 ^ k else a) 0)

/-- The lines that n bytes at an address touch. -/
def linesOf (pa n : Nat) : List Nat :=
  if n = 0 ∨ (lineOf pa).isNone then [] else (List.range ((pa + n - 1) / 1024 - pa / 1024 + 1)).map (pa / 1024 + ·)

/-- The home has its dirty sectors back from the owner, unless the owner asks itself (11 R268). -/
def Line.recall (x : Line) (by_ : Option (Nat × Nat)) : Line :=
  if x.owner = by_ then x else { x with owner := none, owned := 0, dirty := x.dirty ||| x.owned }

/-- A core's place. -/
def Core.place (c : Core) : Nat × Nat := (c.die, c.q)

/-- The home has back the sectors of a line that were dirty in a core, with a mark for ld.last (06 R111; 11 R268). -/
def State.giveBack (s : State) (line : Nat) (last : Bool) : State :=
  { s with llc := { s.llc with lines := s.llc.lines.map fun x => if x.line = line then { x.recall none with last := x.last || last } else x } }

/-- A line put first in the global cache of the core in focus, which holds 256: the line unused for longest leaves it (01 R16; log 7). -/
def State.keepLine (s : State) (g : GLine) : State :=
  let rest := s.core.gcache.filter fun h => h.line != g.line
  let s1 := match rest[cacheLines - 1]? with | some v => s.giveBack v.line false | none => s
  s1.updCore fun c => { c with gcache := g :: rest.take (cacheLines - 1) }

/-- The listed bytes of a line. -/
def lineCells (mem : List Host.Cell) (line : Nat) : List Host.Cell := mem.filter fun c => c.1 / 1024 == line

/-- The least timestamp that a store to a line may take (11 R268): above every lease of another core on it and no lower than its last store's; for a
core's own store no lower than the core's, for another agent's no lower than any store's. -/
def State.stampOf (s : State) (own : Bool) (l : Nat) : Nat :=
  let x := s.llc.find l
  let mine := own && x.owner == some s.core.place
  Nat.max (if own then s.core.pts else s.llc.top)
    (if s.leased l then Nat.max (if mine then 0 else x.rts + 1) x.wts else s.llc.port)

/-- The least timestamp that a store to all of some lines may take. -/
def State.stampAll (s : State) (own : Bool) (l : List Nat) : Nat := l.foldl (fun a n => Nat.max a (s.stampOf own n)) 0

/-- A store reached the homes of its lines (11 R264, R268): it takes one timestamp, `stamp` or a later one that its lines ask for; a core's store
advances the core's program timestamp to it and makes the core the owner, with the sectors dirty there.  One to host memory in the PCI Express mode
performs at the host port and enters no cache (R269). -/
def State.noteStore (s : State) (own : Bool) (stamp pa n : Nat) : State :=
  let t := Nat.max stamp (s.stampAll own (linesOf pa n))
  let see := fun (s : State) => if own then s.updCore fun c => { c with pts := t } else s
  (linesOf pa n).foldl (fun s l =>
    if !s.leased l then see { s with llc := { s.llc with port := t } }
    else
      let x := (s.llc.find l).recall (if own then some s.core.place else none)
      let k := sectorsOf l pa n
      if own then
        (see (s.setLine { x with wts := t, rts := Nat.max x.rts (t + leaseLen), filled := 0xFF,
                                 owner := some s.core.place, owned := x.owned ||| k, last := false })).keepLine
          ⟨l, lineCells s.mem l, t + leaseLen, s.now⟩
      else s.setLine { x with wts := t, filled := x.filled ||| k, dirty := x.dirty ||| k, last := false }) s

/-- Reads of the core in focus at the homes of n bytes (11 R268): sectors fill, dirty ones come back from their owner, the core's program
timestamp is at least that of the last store, and a later store's is above the read's. -/
def State.homeRead (s : State) (pa n : Nat) : State :=
  (linesOf pa n).foldl (fun s l =>
    if !s.leased l then
      let p := Nat.max s.core.pts s.llc.port
      { (s.updCore fun c => { c with pts := p }) with llc := { s.llc with port := p } }
    else
      let x := (s.llc.find l).recall (some s.core.place)
      let p := Nat.max s.core.pts x.wts
      (s.setLine { x with filled := x.filled ||| sectorsOf l pa n, rts := Nat.max x.rts p }).updCore fun c => { c with pts := p }) s

/-- Sectors of n bytes filled at their homes, with kernels that pin them (09 R224; 19 R321). -/
def State.fillLines (s : State) (pins : List Nat) (pa n : Nat) : State :=
  (linesOf pa n).foldl (fun s l =>
    if !s.leased l then s
    else
      let x := s.llc.find l
      s.setLine { x with filled := x.filled ||| sectorsOf l pa n, pins := pins ++ x.pins }) s

/-- A copy of a line leased to the core in focus (11 R268): the home's present contents, under a lease of 256 from the core's timestamp. -/
def State.lease (s : State) (line : Nat) : State × GLine :=
  let s1 := s.homeRead (line * 1024) 1024
  let x := s1.llc.find line
  let e := s1.core.pts + leaseLen
  (s1.setLine { x with rts := Nat.max x.rts e }, ⟨line, lineCells s.mem line, e, s.now⟩)

/-- The leased copy that a load of the core in focus hits (11 R268): held, inside its lease, and not older than 4 µs. -/
def State.hit (s : State) (pa : Nat) : Option GLine :=
  (lineOf pa).bind fun l => s.core.gcache.find? fun g =>
    g.line == l && decide (s.core.pts < g.lease) && decide (s.now ≤ g.since + copyTicks)

/-- The core's program timestamp brought past every store that has performed: what a release of a task and the end of a kwait order (11
R272). -/
def State.seeAll (s : State) : State := s.updCore fun c => { c with pts := Nat.max c.pts s.llc.top }

/-- A task's access to the byte waits at its home: its stack is not ready (23 R366). -/
def State.waitsHome (s : State) (pa : Nat) : Bool :=
  s.core.task.isSome && decide (pa < s.hbmTop) && !bitOf s.host.ready[1].toNat (stackOf pa) && !(s.stack (stackOf pa)).failed

/-- The byte is in the window of the core in focus. -/
def State.isLocal (s : State) (pa : Nat) : Bool :=
  match windowOf pa with
  | some (d, q, _) => d == s.core.die && q == s.core.q
  | none => false

/-! ### Tile handles -/

/-- Bytes of a row of n elements (04 R63, R70). -/
def rowBytesOf (t n : Nat) : Nat := ceilDiv (n * memWidth t) 8

/-- Bytes of a row of a handle. -/
def Handle.rowBytes (h : Handle) : Nat := rowBytesOf h.type_ h.cols

/-- Bytes of a handle's scale table (04 R69). -/
def Handle.scaleBytes (h : Handle) : Nat := if isMx h.type_ then ceilDiv h.rows 32 * ceilDiv h.cols 32 else 0

/-- Address of the scale byte of element (r, c) (04 R69). -/
def Handle.scaleAddr (h : Handle) (r c : Nat) : Nat := h.scale + r / 32 * ceilDiv h.cols 32 + c / 32

/-- Address of the byte that holds the first bit of element (r, c), and that bit's place in it (09 R216). -/
def Handle.elemAddr (h : Handle) (r c : Nat) : Nat × Nat :=
  (h.base + r * h.stride + c * memWidth h.type_ / 8, c * memWidth h.type_ % 8)

/-- Stored bytes of a handle: its rows, then its scale table (10 R238). -/
def Handle.storedBytes (h : Handle) : Nat := h.rows * h.rowBytes + h.scaleBytes

/-- The place of an address among a handle's stored bytes, if it is one of them (10 R238). -/
def Handle.footIndex (h : Handle) (va : Nat) : Option Nat :=
  if h.base ≤ va ∧ 0 < h.stride ∧ (va - h.base) / h.stride < h.rows ∧ (va - h.base) % h.stride < h.rowBytes then
    some ((va - h.base) / h.stride * h.rowBytes + (va - h.base) % h.stride)
  else if h.scale ≤ va ∧ va < h.scale + h.scaleBytes then some (h.rows * h.rowBytes + (va - h.scale))
  else none

/-- The addresses of a handle's stored bytes, in that order. -/
def Handle.footAddrs (h : Handle) : List Nat :=
  ((List.range h.rows).flatMap fun r => (List.range h.rowBytes).map fun b => h.base + r * h.stride + b)
    ++ (List.range h.scaleBytes).map (h.scale + ·)

/-- n lanes of w bits from a value, lowest first. -/
def splitLanes (w n v : Nat) : List Nat := (List.range n).map fun i => field v (i * w) w

/-- The value of lanes of w bits, lowest first. -/
def joinLanes (w : Nat) : List Nat → Nat
  | [] => 0
  | a :: l => a % 2 ^ w + 2 ^ w * joinLanes w l

/-! ### Table walk -/

/-- What a walk of the tables ends with (11 R260). -/
inductive Walk where
  | leaf (h : Held)
  | absent
  | malformed
  | poisoned
  deriving DecidableEq, Repr

/-- Bits of the page offset below each level's index (11 R259). -/
def levelShift (lvl : Nat) : Nat := if lvl == 3 then 43 else if lvl == 2 then 34 else if lvl == 1 then 25 else 16

/-- The walk from a table of a level (11 R259, R260); `fuel` is one more than the levels left.  An entry in a reserved range ends it with
cause 0x05 (R256). -/
def State.walkFrom (s : State) (ctx : BitVec 16) (va : Nat) : Nat → Nat → Walk
  | 0, _ => .malformed
  | lvl + 1, table =>
    let at_ := table + va / 2 ^ levelShift lvl % 512 * 8
    let e := Memory.readNat s.mem at_ 8
    if !s.paExists at_ then .malformed
    else if s.poison.contains (at_ / 32) || s.deadByte at_ then .poisoned
    else if !bitOf e 0 then .absent
    else
      let leaf := bitOf e 1
      let size := 2 ^ levelShift lvl
      let addr := field e 12 40 * 4096
      if field e 52 12 ≠ 0 ∨ field e 4 8 ≠ 0 ∨ (leaf && lvl == 3) ∨ (!leaf && lvl == 0)
          ∨ (!leaf && (bitOf e 2 || bitOf e 3)) ∨ (leaf && bitOf e 3 && !bitOf e 2) ∨ (leaf && addr % size != 0) then .malformed
      else if leaf then .leaf ⟨ctx, va / size * size, size, addr, bitOf e 2, bitOf e 3⟩
      else s.walkFrom ctx va lvl addr

/-- The addresses of the entries that a walk reads, from the table of a level down to the one that ends it (11 R259, R260). -/
def State.walkPathFrom (s : State) (va : Nat) : Nat → Nat → List Nat
  | 0, _ => []
  | lvl + 1, table =>
    let at_ := table + va / 2 ^ levelShift lvl % 512 * 8
    let e := Memory.readNat s.mem at_ 8
    if !s.paExists at_ then []
    else if s.poison.contains (at_ / 32) || s.deadByte at_ || !bitOf e 0 || bitOf e 1 then [at_]
    else at_ :: s.walkPathFrom va lvl (field e 12 40 * 4096)

def State.walkPath (s : State) (ctx : BitVec 16) (va : Nat) : List Nat :=
  match s.xlat.roots.find? fun r => r.1 == ctx with
  | none => []
  | some r => s.walkPathFrom va 4 r.2

/-- A walk for the task in focus waits for an entry whose stack is not ready (20 R344; 23 R366). -/
def State.walkWaits (s : State) (va : Nat) : Bool := (s.walkPath s.core.csr.ctxid va).any s.waitsHome

/-- A walk reads its entries through the last-level cache (20 R344): their sectors fill. -/
def State.walkReads (s : State) (va : Nat) : State :=
  (s.walkPath s.core.csr.ctxid va).foldl (fun s a => s.fillLines [] a 8) s

/-- A walk of a context's tables.  A context without a root table has no page (log 12). -/
def State.walk (s : State) (ctx : BitVec 16) (va : Nat) : Walk :=
  match s.xlat.roots.find? fun r => r.1 == ctx with
  | none => .absent
  | some r => s.walkFrom ctx va 4 r.2

/-! ### Translation -/

/-- What a translation answers: a physical address, a miss that needs a walk, or the cause it raises. -/
inductive Tr where
  | ok (pa : Nat)
  | miss
  | bad (cause : Nat)
  deriving DecidableEq, Repr

/-- The kernel whose grid the window region of a context shows (11 R261): the task's own, or for the supervisor the first
kernel of the context it names. -/
def State.windowKernel (s : State) : Option Kernel :=
  match s.core.task with
  | some t => s.kernel? t.kid
  | none => s.disp.kernels.find? fun k => k.ctx == s.core.csr.ctxid

/-- Translation of an address of the window region (11 R261). -/
def State.translateWindow (s : State) (va : Nat) : Tr :=
  let off := va % 2 ^ 32
  match s.windowKernel with
  | none => .bad 0x05
  | some k =>
    match k.vc? ((va - windowSpace) / 2 ^ 40) (va % 2 ^ 40 / 2 ^ 32) with
    | none => .bad 0x05
    | some v =>
      let pa := windowBase v.die v.q + off
      if resourceOk off 1 && s.paExists pa then .ok pa else .bad 0x05

/-- A translation covers an address of a context. -/
def Held.covers (h : Held) (ctx : BitVec 16) (va : Nat) : Bool := h.ctx == ctx && decide (h.va ≤ va) && decide (va < h.va + h.size)

/-- The translation of an address that the core in focus or its die holds (20 R344). -/
def State.heldFor (s : State) (ctx : BitVec 16) (va : Nat) : Option Held :=
  (s.core.tlb.find? fun h => h.covers ctx va).orElse fun _ =>
    (s.xlat.held.find? fun e => e.1 == s.core.die && e.2.covers ctx va).map (·.2)

/-- Translation of one byte for a read or a write in the context of the core (11 R259 to R261, R256). -/
def State.translate (s : State) (va : Nat) (write : Bool) : Tr :=
  if 2 ^ 52 ≤ va then .bad 0x05
  else if windowSpace ≤ va ∧ va < 0xC000000000000 then s.translateWindow va
  else match s.heldFor s.core.csr.ctxid va with
    | none => .miss
    | some h =>
      if (write && !h.wr) || (!write && !h.rd) then .bad 0x05
      else if s.paExists (h.pa + (va - h.va)) then .ok (h.pa + (va - h.va))
      else .bad 0x05

/-- An address of the window region of a context, as the kernel of that context shows it (11 R261): the one the access is made for, if it is named. -/
def State.agentWindow (s : State) (ctx : BitVec 16) (va : Nat) (kid : Option Nat := none) : Option Nat :=
  let mine : Option Kernel := match kid with
    | some n => (s.kernel? n).filter fun k => decide (k.state < 3)
    | none => s.core.task.bind fun t => (s.kernel? t.kid).filter fun k => k.ctx == ctx
  (mine.orElse fun _ => s.disp.kernels.find? fun k => k.ctx == ctx && decide (k.state < 3)).bind fun k =>
    (k.vc? ((va - windowSpace) / 2 ^ 40) (va % 2 ^ 40 / 2 ^ 32)).bind fun v =>
      let pa := windowBase v.die v.q + va % 2 ^ 32
      if resourceOk (va % 2 ^ 32) 1 && s.paExists pa then some pa else none

/-- Translation by an agent that walks at once: the supervisor's firmware, the dispatchers, the collective engine, the
forecast table (19 R318, R320; 10 R239; 21 R354). -/
def State.agentPa (s : State) (ctx : BitVec 16) (va : Nat) (write : Bool) (kid : Option Nat := none) : Option Nat :=
  if 2 ^ 52 ≤ va then none
  else if windowSpace ≤ va ∧ va < 0xC000000000000 then s.agentWindow ctx va kid
  else match s.walk ctx va with
  | .leaf h => if (write && !h.wr) || (!write && !h.rd) || !s.paExists (h.pa + (va - h.va)) then none
               else some (h.pa + (va - h.va))
  | _ => none

/-! ### Reading -/

/-- The bits a buffered effect writes of the byte at a virtual address, with their mask. -/
def EffKind.bitsAt (k : EffKind) (va : Nat) : Byte × Byte :=
  match k with
  | .store v _ bs => if v ≤ va ∧ va < v + bs.length then nth bs (va - v) (0, 0) else (0, 0)
  | _ => (0, 0)

/-- A byte with the task's own buffered stores over it, oldest first (06 R109, 11 R376). -/
def overlay (buf : List Effect) (va : Nat) (base : Byte) : Byte :=
  buf.foldl (fun b e => mergeByte b (e.kind.bitsAt va).2 (e.kind.bitsAt va).1) base

/-- Every bit of the byte comes from the task's own buffered stores. -/
def covered (buf : List Effect) (va : Nat) : Bool :=
  buf.foldl (fun (m : Byte) e => m ||| (e.kind.bitsAt va).2) 0 == 0xFF

/-- The forecast that the running task runs on, while it is forecasting (10 R244). -/
def State.forecasting (s : State) : Option Forecast :=
  match s.core.task with
  | none => none
  | some t => t.forecast

/-- The task's fcast is not visible yet to its other strands, in the cycle of C that issued it (02 R36; 10 R245). -/
def State.beforeFcast (s : State) : Bool := s.forecasting.any fun f => decide (s.now < f.since)

/-- The place of an address in the footprint of the slot that the task forecasts (10 R245). -/
def State.predictedIndex (s : State) (va : Nat) : Option (Forecast × Nat) :=
  if (s.core.task.map (·.plain)).getD false || s.beforeFcast then none
  else match s.forecasting with
  | none => none
  | some f =>
    match s.handle? f.h with
    | none => none
    | some h => (h.footIndex va).map fun i => (f, i)

/-- The predicted byte at an address has not been built yet (10 R245). -/
def State.notBuilt (s : State) (va : Nat) : Bool :=
  match s.predictedIndex va with
  | some (f, _) => f.built.isNone
  | none => false

/-- The byte at a virtual and physical address as the task sees it: its own newest buffered bits, then the predicted byte,
then what lies under them (06 R109; 10 R245; 11 R376). -/
def State.taskByteOver (s : State) (va : Nat) (under : Byte) : Byte :=
  let base := match s.predictedIndex va with
    | some (f, i) => nth (f.built.getD []) i 0
    | none => under
  match s.core.task with
  | none => base
  | some t => overlay t.buf va base

/-- The same over memory as it stands. -/
def State.taskByte (s : State) (va pa : Nat) : Byte := s.taskByteOver va (Memory.read s.mem pa)

/-- The byte read would take poison from memory (23 R370, R371; 06 R109). -/
def State.poisonedAt (s : State) (va pa : Nat) : Bool :=
  (s.poison.contains (pa / 32) || s.deadByte pa) && (s.predictedIndex va).isNone &&
    !(match s.core.task with | none => false | some t => covered t.buf va)

/-- n bytes at consecutive addresses of one page, as the task sees them. -/
def State.taskBytes (s : State) (va pa n : Nat) : List Byte := (List.range n).map fun i => s.taskByte (va + i) (pa + i)

/-! ### Writing -/

/-- The 1 KiB blocks that n bytes at an offset touch. -/
def blocksOf (off n : Nat) : List Nat :=
  if n = 0 then [] else (List.range ((off + n - 1) / 1024 - off / 1024 + 1)).map (off / 1024 + ·)

/-- The carry-set ranges of a core's running task as window offsets (18 R311). -/
def State.carryOf (s : State) (c : Core) : List (Nat × Nat) :=
  match c.task with
  | none => []
  | some t =>
    match s.kernel? t.kid with
    | none => []
    | some k => ((s.disp.images.find? fun i => i.id == k.image).map (·.carry)).getD []

/-- A logged block with masked bytes from an offset on applied where they fall in it. -/
def mergeRun (block : Nat) (old : List Byte) (off : Nat) (bytes : List (Byte × Byte)) : List Byte :=
  (List.range 1024).map fun i =>
    let a := block * 1024 + i
    let n := nth bytes (a - off) (0, 0)
    if off ≤ a ∧ a < off + bytes.length then mergeByte (nth old i 0) n.2 n.1 else nth old i 0

/-- Some of the masked bytes at an offset are written from one place to another. -/
def writtenIn (off : Nat) (bytes : List (Byte × Byte)) (lo hi : Nat) : Bool :=
  decide (off < hi) && decide (lo < off + bytes.length)
    && ((bytes.drop (lo - off)).take (hi - Nat.max lo off)).any fun b => b.2 != 0

/-- Masked bytes at a window offset are written into slot k of a ring. -/
def slotHit (r : Ring) (k off : Nat) (bytes : List (Byte × Byte)) : Bool :=
  writtenIn off bytes (spadBase + r.base + k * r.pitch) (spadBase + r.base + (k + 1) * r.pitch)

/-- A core after n bytes at an offset of its window are about to be written: blocks of the carry set logged on the task's
first own write (02 R27), masked bytes of another agent applied to the logged copies, DIRTY bits set (09 R228). -/
def State.noteWrite (s : State) (c : Core) (own : Bool) (off : Nat) (bytes : List (Byte × Byte)) : Core :=
  let base := windowBase c.die c.q
  let carry := s.carryOf c
  let task := c.task.map fun t =>
    if own then
      let fresh := (blocksOf off bytes.length).filter fun b =>
        carry.any (fun r => decide (r.1 ≤ b * 1024) && decide (b * 1024 < r.1 + r.2)) && !t.undo.any (fun u => u.1 == b)
          && writtenIn off bytes (b * 1024) (b * 1024 + 1024)
      { t with undo := t.undo ++ fresh.map (fun b => (b, Memory.readBytes s.mem (base + b * 1024) 1024)) }
    else
      { t with undo := t.undo.map (fun u => (u.1, mergeRun u.1 u.2 off bytes)) }
  let rings := c.rings.map fun r =>
    if r.open_ && 0 < r.pitch then
      { r with dirty := (List.range r.d).map (fun k => nth r.dirty k false || slotHit r k off bytes) }
    else r
  { c with task := task, rings := rings }

/-- Poison after masked bytes are stored at a physical address: an atom covered by 32 whole bytes is clean (23 R370). -/
def clearPoison (poison : List Nat) (pa : Nat) (bytes : List (Byte × Byte)) : List Nat :=
  poison.filter fun a =>
    !(decide (pa ≤ a * 32) && decide (a * 32 + 32 ≤ pa + bytes.length)
      && ((bytes.drop (a * 32 - pa)).take 32).all fun b => b.2 == 0xFF)

/-- Masked bytes at a physical address in parts that lie in one line each. -/
def lineParts (pa : Nat) (bytes : List (Byte × Byte)) : List (Nat × List (Byte × Byte)) :=
  (List.range ((pa % 1024 + bytes.length + 1023) / 1024)).map fun i =>
    let lo := Nat.max pa ((pa / 1024 + i) * 1024)
    (lo, (bytes.drop (lo - pa)).take ((pa / 1024 + i + 1) * 1024 - lo))

/-- Masked bytes of one line of global memory stored at their home, under a timestamp no earlier than `stamp`; in a fenced channel or a failed stack
they are discarded and counted (23 R371, R374). -/
def State.pokeLine (s : State) (own : Bool) (stamp pa : Nat) (bytes : List (Byte × Byte)) : State :=
  if s.deadByte pa then { s with serv := { s.serv with discarded := sat (2 ^ 64 - 1) (s.serv.discarded + 1) } }
  else State.noteStore { s with mem := Memory.writeMasked s.mem pa bytes, poison := clearPoison s.poison pa bytes } own stamp pa bytes.length

/-- Masked bytes written at a physical address and the addresses after it, in one resource or page: the one way in which
memory changes.  `own` says that the core in focus writes (02 R27); the lines of one store take one timestamp, no earlier than `stamp` (11 R266,
R273). -/
def State.poke (s : State) (own : Bool) (pa : Nat) (bytes : List (Byte × Byte)) (stamp : Nat := 0) : State :=
  match windowOf pa with
  | some (d, q, off) =>
    let s1 := s.updCoreAt d q fun c => s.noteWrite c (own && d == s.core.die && q == s.core.q) off bytes
    { s1 with mem := Memory.writeMasked s.mem pa bytes }
  | none =>
    let t := Nat.max stamp (s.stampAll own (linesOf pa bytes.length))
    (lineParts pa bytes).foldl (fun s p => s.pokeLine own t p.1 p.2) s

/-- Whole bytes written. -/
def State.pokeBytes (s : State) (own : Bool) (pa : Nat) (bytes : List Byte) (stamp : Nat := 0) : State := s.poke own pa (whole bytes) stamp

/-- A write of a ring's own fill leaves its DIRTY bits as they were (09 R228). -/
def State.pokeFill (s : State) (off : Nat) (bytes : List Byte) : State :=
  let r := s.core.rings
  let s1 := s.pokeBytes true (windowBase s.core.die s.core.q + off) bytes
  s1.updCore fun c => { c with rings := c.rings.zipWith (fun a b => { a with dirty := b.dirty }) r }

/-- Bytes of the own window at a local offset. -/
def State.localBytes (s : State) (off n : Nat) : List Byte :=
  Memory.readBytes s.mem (windowBase s.core.die s.core.q + off) n

/-- The first poisoned atom's virtual address among n bytes at one page. -/
def State.poisonIn (s : State) (va pa n : Nat) : Option Nat :=
  ((List.range n).find? fun i => s.poisonedAt (va + i) (pa + i)).map fun i => (va + i) / 32 * 32

end Sys2Proof.Machine
end

