-- ==== Sys2Proof/Machine/Kernels.lean ====
section
/-!
DEFINITION. What the dispatchers keep of kernels and tasks, as operations that other meanings call: status doublewords and
event records (19 R320, R326), task numbering (18 R309, R310, R316), trigger bits, travel times (17 R298, R299), remote
writes, freeing a core, and rolling a task back (02 R25, R27).
-/
namespace Sys2Proof.Machine

/-! ### Memory as an agent writes it -/

/-- Bytes at an address in parts that lie inside one 64 KiB page each. -/
def pageParts (va : Nat) (bytes : List Byte) : List (Nat × List Byte) :=
  (List.range ((va % 65536 + bytes.length + 65535) / 65536)).map fun i =>
    let lo := Nat.max va ((va / 65536 + i) * 65536)
    (lo, (bytes.drop (lo - va)).take ((va / 65536 + i + 1) * 65536 - lo))

/-- Bytes stored at a virtual address of a context by an agent of the module, in one step of the total order (11 R273); nothing where a page denies it
(log 13). -/
def State.agentStore (s : State) (ctx : BitVec 16) (va : Nat) (bytes : List Byte) (kid : Option Nat := none) : State :=
  let parts := (pageParts va bytes).filterMap fun p => (s.agentPa ctx p.1 true kid).map fun pa => (pa, p.2)
  let t := s.stampAll false (parts.flatMap fun p => linesOf p.1 p.2.length)
  parts.foldl (fun s p => s.pokeBytes false p.1 p.2 t) s

/-- What is done with the pieces of ranges of a context that lie in one page each, at their physical addresses; one in a page that is absent or denied is
left alone (log 13). -/
def State.overPages (s : State) (ctx : BitVec 16) (f : State → Nat → Nat → State) (l : List (Nat × Nat)) : State :=
  l.foldl (fun s r => (List.range ((r.1 % 65536 + r.2 + 65535) / 65536)).foldl (fun s i =>
    let lo := Nat.max r.1 ((r.1 / 65536 + i) * 65536)
    match s.agentPa ctx lo false with
    | none => s
    | some pa => f s pa (Nat.min (r.1 + r.2) ((r.1 / 65536 + i + 1) * 65536) - lo)) s) s

/-- Sectors of ranges of a context filled at their homes, with kernels that pin them: streams staged (19 R321). -/
def State.stage (s : State) (ctx : BitVec 16) (pins : List Nat) (l : List (Nat × Nat)) : State :=
  s.overPages ctx (fun s pa n => s.fillLines pins pa n) l

/-- n bytes at a virtual address of a context as an agent reads them; an unreadable byte is a free value (log 13). -/
def State.agentLoad (s : State) (ctx : BitVec 16) (va n : Nat) : List Byte :=
  let first := Nat.min n (65536 - va % 65536)
  let part := fun (a k : Nat) => match s.agentPa ctx a false with
    | none => (List.range k).map fun i => Config.deniedByte s.now (a + i)
    | some pa => Memory.readBytes s.mem pa k
  part va first ++ (List.range (ceilDiv (n - first) 65536)).flatMap fun i =>
    part (va + first + 65536 * i) (Nat.min 65536 (n - first - 65536 * i))

/-! ### TIMER, status, records -/

/-- TIMER (22 R363): reference ticks with the discipline's adjustment. -/
def State.timer (s : State) : Word64 := BitVec.ofInt 64 ((s.now : Int) + s.time.adjust)

/-- TIMER as a core's cluster keeps it (22 R363, R364): once the first lock has stepped every TIMER, ahead of the module's by a free value within the
bound of 30 ticks (log 60). -/
def State.clusterTimer (s : State) (c : Core) : Word64 :=
  if s.time.stepped then s.timer + BitVec.ofNat 64 (Config.timerSkew (8 * c.die + c.q / 4) % 31) else s.timer

/-- The status doubleword of a kernel (19 R320). -/
def Kernel.statusWord (k : Kernel) (code : Nat) : Nat := k.kid % 2 ^ 16 * 2 ^ 48 + k.state * 2 ^ 40 + code * 2 ^ 32 + sat (2 ^ 32 - 1) k.tasks

/-- A kernel moved to a STATE, with the status doubleword written (19 R320). -/
def State.setKernelState (s : State) (kid st code : Nat) : State :=
  let s1 := s.updKernel kid fun k => { k with state := st }
  match s1.kernel? kid with
  | none => s1
  | some k =>
    match k.status with
    | none => s1
    | some va => s1.agentStore k.ctx va (leBytes 8 (k.statusWord code))

/-- A record of a kind written into a kernel's event ring (19 R326). -/
def State.record (s : State) (kid kind : Nat) (rec_ : List Byte) : State :=
  match s.kernel? kid with
  | none => s
  | some k =>
    let seq := k.evseq + 1
    let s1 := s.updKernel kid fun k => { k with evseq := seq }
    if k.evsize = 0 then s1
    else s1.agentStore k.ctx (k.evring + (seq - 1) % k.evsize * 32) (rec_.take 16 ++ leBytes 8 seq ++ leBytes 2 kind ++ leBytes 6 0)

/-! ### Task numbering (02 R22; 18 R309, R310, R316) -/

/-- The image of an id. -/
def State.image? (s : State) (id : Nat) : Option Image := s.disp.images.find? fun i => i.id == id

/-- The levels that are temporal, outermost first. -/
def Image.temporal (i : Image) : List Level := i.levels.filter fun l => l.kind == 0

/-- The number of temporal levels up to and including the superstep level; all levels stand inside one superstep if none. -/
def Image.superDepth (i : Image) : Nat :=
  match i.temporal.findIdx? (·.super) with
  | some n => n + 1
  | none => 0

/-- The product of counts. -/
def countProduct (l : List Level) : Nat := l.foldl (fun a b => a * b.count) 1

/-- T: tasks of a virtual core in one superstep (18 R309). -/
def Image.inner (i : Image) : Nat := countProduct (i.temporal.drop i.superDepth)

/-- S: supersteps of a kernel (18 R316). -/
def Image.steps (i : Image) : Nat := countProduct (i.temporal.take i.superDepth)

/-- Ordinals of a kernel: the mixed-radix index over the temporal levels. -/
def Image.total (i : Image) : Nat := i.steps * i.inner

/-- Virtual cores per virtual die, and virtual dies (18 R309). -/
def Image.vcores (i : Image) : Nat := countProduct (i.levels.filter fun l => l.kind == 1)
def Image.vdies (i : Image) : Nat := countProduct (i.levels.filter fun l => l.kind == 2)

/-- The index of the ragged level in the temporal index vector of an ordinal, if a level is ragged (18 R310). -/
def Image.raggedIndex (i : Image) (ord : Nat) : Option Nat :=
  match i.temporal.findIdx? (·.ragged) with
  | none => none
  | some n => some (ord / countProduct (i.temporal.drop (n + 1)) % ((i.temporal.map (·.count)).getD n 1))

/-- The task of an ordinal is formed on a virtual core (18 R310). -/
def Image.formed (i : Image) (vdie vcore ord : Nat) : Bool :=
  decide (ord < i.total) &&
    match i.raggedIndex ord with
    | none => true
    | some x => decide (x < nth i.ragged (vdie * i.vcores + vcore) 0)

/-- The next formed ordinal of a virtual core from a place on, if any. -/
def Image.nextFormed (i : Image) (vdie vcore from_ : Nat) : Option Nat :=
  ((List.range (i.total - from_)).find? fun d => i.formed vdie vcore (from_ + d)).map (from_ + ·)

/-- SPAN (18 R316). -/
def Image.span (i : Image) : Nat := 100 * ceilDiv (i.ticks.foldl Nat.max 0 + 1) 100

/-- The KFRAME at which the task of an ordinal falls due (02 R28, 18 R316). -/
def Image.due (i : Image) (ord : Nat) : Nat := ord / i.inner * i.span + nth i.ticks (ord % i.inner) 0

/-- A virtual core forms some task in superstep p. -/
def Image.activeIn (i : Image) (vdie vcore p : Nat) : Bool :=
  (List.range i.inner).any fun d => i.formed vdie vcore (p * i.inner + d)

/-! ### Travel times (17 R298, R299) -/

def absDiff (a b : Nat) : Nat := if a ≤ b then b - a else a - b

/-- Mesh place of a virtual core's cluster, and of a virtual die. -/
def clusterHops (a b : Nat) : Nat := absDiff (a / 4 % 4) (b / 4 % 4) + absDiff (a / 16) (b / 16)
def dieColumn (u : Nat) : Nat := if u < 20 then u % 5 else 5
def dieRow (u : Nat) : Nat := if u < 20 then u / 5 else u - 20
def dieHops (a b : Nat) : Nat := absDiff (dieColumn a) (dieColumn b) + absDiff (dieRow a) (dieRow b)

/-- T of a virtual core pair, in copy-domain cycles. -/
def travel (ud uc vd vc : Nat) : Nat :=
  if ud = vd then 6 + 2 * clusterHops uc vc else 40 + 2 * clusterHops uc vc + 12 * dieHops ud vd

/-- The same over physical places (17 R301; 01 R11, R12). -/
def physTravel (d1 q1 d2 q2 : Nat) : Nat :=
  let hops := absDiff (q1 / 4 % 4) (q2 / 4 % 4) + absDiff (q1 / 16) (q2 / 16)
  if d1 = d2 then 6 + 2 * hops else 40 + 2 * hops + 12 * (absDiff (d1 % 6) (d2 % 6) + absDiff (d1 / 6) (d2 / 6))

/-! ### Copy cycles of a kernel's dispatchers (02 R31; 17 R302; 19 R322) -/

/-- The domains of a kernel that a fall's first step turns (22 R361), from a tick. -/
def Kernel.fallOf (k : Kernel) (origin : Nat) : Option Fall :=
  if k.fall = 0 then none else some ⟨origin, (List.range 4).filter fun dom => k.eff.get dom == 5⟩

/-- The first n copy cycles of a kernel from a tick on end there; in a fall's first step they last 6 and 5 ticks by turns (22 R361). -/
def Kernel.copySpan (k : Kernel) (now n : Nat) : Nat :=
  if k.curFall ≠ 0 then
    let u := now - k.curFall
    now + 11 * (n / 2) + (if n % 2 = 0 then 0 else if u % 11 < 6 then 6 else 5)
  else now + n * k.curCopy

/-- The whole copy cycles of a kernel that are left of a span which ends at a tick, and the ticks left of the one in progress. -/
def Kernel.copyLeft (k : Kernel) (now due : Nat) : Nat × Nat :=
  let r := due - now
  if k.curFall ≠ 0 then
    let last := if (due - r / 11 * 11 - k.curFall) % 11 < 6 then 5 else 6
    let n := if last ≤ r % 11 then 1 else 0
    (2 * (r / 11) + n, r % 11 - last * n)
  else (r / k.curCopy, r % k.curCopy)

/-- The first tick, from a tick on, at which a copy cycle of the kernel's dispatchers begins (log 55). -/
def Kernel.copyTick (k : Kernel) (now : Nat) : Nat :=
  if k.curFall ≠ 0 then k.curFall + altTick (altIndex (now - k.curFall))
  else k.since + ceilDiv (now - k.since) k.curCopy * k.curCopy

/-- The same for die 0's dispatcher, at divisor 6 from tick 0 (log 55). -/
def copyTick0 (now : Nat) : Nat := ceilDiv now 6 * 6

/-! ### Remote writes -/

/-- The identity of the task in focus with a count (02 R32). -/
def Task.ident (t : Task) (idx : Nat) : Ident := ⟨t.vdie, t.vcore, t.ord, idx⟩

/-- The number of the core at whose switch the core in focus is attached: for a spare that of the core it replaces (01 R13). -/
def State.mySite (s : State) : Nat :=
  ((s.core.task.bind fun t => s.myKernel.bind fun k => k.vc? t.vdie t.vcore).map (·.site)).getD s.core.q

/-- Copy cycles of the physical route from the core in focus to a virtual core (17 R300, R301). -/
def State.routeTo (s : State) (kid vdie vcore : Nat) : Nat :=
  match (s.kernel? kid).bind fun k => k.vc? vdie vcore with
  | none => 0
  | some v => physTravel s.core.die (s.mySite) v.die v.site

/-- A remote write put on its way, behind those of the same sender to the same target (11 R263). -/
def State.fly (s : State) (f : Flying) : State :=
  let before := s.links.flying.filter fun g => g.sender == f.sender && g.kid == f.kid && g.vdie == f.vdie && g.vcore == f.vcore
  let lands := before.foldl (fun a g => Nat.max a g.lands) f.lands
  { s with links := { s.links with flying := s.links.flying ++ [{ f with lands := lands }] } }

/-- The cleat phase in which what a strand of a rank has just done was issued (02 R33): for L and S that of the head of their unit, and no later
than the kernel's. -/
def State.issuePhase (s : State) (rank : Nat) : Nat :=
  let now := (s.myKernel.map (·.phase)).getD 0
  match (if rank = 1 then s.core.inb.queue else if rank = 3 then s.core.outb.queue else []) with
  | e :: _ => Nat.min e.phase now
  | [] => now

/-- A remote write, issued in a cleat phase, sent to a virtual core of a kernel of this module: its last byte lands after the route's time, and no
later than the tick `by_` that R300 gives it (17 R300). -/
def State.sendLocal (s : State) (kid vdie vcore off : Nat) (bytes : List (Byte × Byte)) (ident : Option Ident) (phase : Nat)
    (by_ : Option Nat) : State :=
  let route := s.core.tickAfter 3 s.now (s.routeTo kid vdie vcore)
  let lands := match by_ with | none => route | some t => Nat.max s.now (Nat.min t route)
  s.fly ⟨kid, vdie, vcore, off, bytes, lands, ident, s.core.place, phase, false⟩

/-- A remote write of the core in focus on its way to the core that holds a place. -/
def State.flyingTo (s : State) (d q : Nat) : Option Flying :=
  s.links.flying.find? fun f => f.sender == s.core.place &&
    (match (s.kernel? f.kid).bind fun k => k.vc? f.vdie f.vcore with | some v => v.die == d && v.q == q | none => false)

/-- A store performed: into another core's window behind what the core has on its way there (11 R263), else at once. -/
def State.storeTo (s : State) (pa : Nat) (bytes : List (Byte × Byte)) : State :=
  match windowOf pa with
  | none => s.poke true pa bytes
  | some (d, q, off) =>
    match (if (d, q) = s.core.place then none else s.flyingTo d q) with
    | none => s.poke true pa bytes
    | some f => s.fly { f with off := off, bytes := bytes, lands := s.now, ident := none }

/-- A field of the route table or the node table (21 R351, R352). -/
def State.table (s : State) (a n : Nat) : Nat := leNat (Memory.readBytes s.host.tables a n)

/-- The first valid node-table entry of which a condition on its address holds (21 R352): PMODULE, PIMAGE, PVD, PVC, NODE. -/
def State.nodeFind (s : State) (p : Nat → Bool) : Option (Nat × Nat × Nat × Nat × Nat) :=
  ((List.range 512).find? fun i =>
      let a := 0x4000 + i * 32
      bitOf (s.table (a + 19) 1) 0 && decide (1 ≤ s.table (a + 20) 1) && decide (s.table (a + 20) 1 ≤ 24)
        && decide (1 ≤ s.table (a + 21) 1) && decide (s.table (a + 21) 1 ≤ 30) && p a).map fun i =>
    let a := 0x4000 + i * 32
    (s.table (a + 16) 2, s.table (a + 8) 8, s.table (a + 20) 1, s.table (a + 21) 1, s.table (a + 18) 1)

/-- A valid route entry names a module (21 R351). -/
def State.routed (s : State) (module : Nat) : Bool :=
  (List.range 256).any fun r =>
    let e := s.table (0x1000 + r * 8) 8
    bitOf e 63 && field e 0 16 == module

/-- The valid node-table entry of a NODE for an image (21 R352): PMODULE, PIMAGE, PVD, PVC. -/
def State.nodeEntry (s : State) (image node : Nat) : Option (Nat × Nat × Nat × Nat) :=
  (s.nodeFind fun a => s.table (a + 18) 1 == node && s.table a 8 == image).map fun e => (e.1, e.2.1, e.2.2.1, e.2.2.2.1)

/-- The entry that binds a NODE for an image: one with a valid route too (21 R352). -/
def State.nodeBinding (s : State) (image node : Nat) : Option (Nat × Nat × Nat × Nat) :=
  (s.nodeFind fun a => s.table (a + 18) 1 == node && s.table a 8 == image && s.routed (s.table (a + 16) 2)).map fun e =>
    (e.1, e.2.1, e.2.2.1, e.2.2.2.1)

/-- The NODE under which a sender's image on a peer module is known here for an image; one that no entry names has a number past every NODE
(16 R288). -/
def State.senderNode (s : State) (image module sImage : Nat) : Nat :=
  ((s.nodeFind fun a => s.table a 8 == image && s.table (a + 16) 2 == module && s.table (a + 8) 8 == sImage).map (·.2.2.2.2)).getD (256 + module)

/-- A peer is reachable over a port: a route entry names it, its PEER is the module and its STATE is 2 or 3 (21 R351). -/
def State.leadsTo (s : State) (module : Nat) (p : Fin 18) : Bool :=
  (s.links.ports[p]).peer.toNat == module && decide (2 ≤ (s.links.ports[p]).state) && (List.range 256).any fun r =>
    let e := leNat (Memory.readBytes s.host.tables (0x1000 + r * 8) 8)
    bitOf e 63 && field e 0 16 == module && bitOf e (16 + p.val)

/-- Flits of a port that are not yet acknowledged. -/
def Port.load (q : Port) : Nat := q.unacked.length + q.queue.length

/-- The port that takes a peer's next flits: of those over which it is reachable the one with the fewest under way, so that traffic spreads over them
(21 R351; log 57). -/
def State.portTo (s : State) (module : Nat) : Option (Fin 18) :=
  ((List.finRange 18).filter (s.leadsTo module)).foldl (fun (a : Option (Fin 18)) p =>
    match a with
    | none => some p
    | some b => if (s.links.ports[p]).load < (s.links.ports[b]).load then some p else some b) none

/-- The peer is reachable. -/
def State.reachable (s : State) (module : Nat) : Bool := (s.portTo module).isSome

/-- A port changed. -/
def State.updPort (s : State) (p : Fin 18) (f : Port → Port) : State :=
  { s with links := { s.links with ports := s.links.ports.set p (f s.links.ports[p]) } }

/-- Bytes that one flit carries, and unacknowledged flits that a sender keeps (21 R349, R350). -/
abbrev flitBytes : Nat := 224
abbrev keptFlits : Nat := 128

/-- A remote write in parts of one flit each. -/
def flitParts (w : PortWrite) : List PortWrite :=
  let n := Nat.max 1 (ceilDiv w.bytes.length flitBytes)
  (List.range n).map fun i =>
    { w with off := w.off + BitVec.ofNat 32 (flitBytes * i), bytes := (w.bytes.drop (flitBytes * i)).take flitBytes, last := w.last && i + 1 == n }

/-- Flits sent in order as far as credits and the flits kept for a replay allow; the rest waits (21 R349, R350). -/
def Port.sendAll (q : Port) : List PortWrite → Port
  | [] => { q with queue := [] }
  | w :: l =>
    if q.credit = 0 ∨ keptFlits ≤ q.unacked.length ∨ q.state < 2 then { q with queue := w :: l }
    else { q with txNext := q.txNext + 1, unacked := q.unacked ++ [(q.txNext, some w)], credit := q.credit - 1 }.sendAll l

/-- A port sends what it can: what it puts into flits now stands in `sent`. -/
def State.pump (s : State) (p : Fin 18) : State :=
  let q := s.links.ports[p]
  let r := q.sendAll q.queue
  let s1 := s.updPort p fun _ => r
  { s1 with links := { s1.links with sent := s1.links.sent ++
      (r.unacked.drop q.unacked.length).filterMap fun u => u.2.map fun w => (q.peer, w) } }

/-- Two writes come from one sender to one target, so that they land in order (11 R263). -/
def sameWay (a b : PortWrite) : Bool :=
  a.image == b.image && a.vdie == b.vdie && a.vcore == b.vcore && a.sImage == b.sImage && a.sVdie == b.sVdie && a.sVcore == b.sVcore

/-- A write of the same sender to the same target stands in the port, so that a later one follows it there. -/
def Port.carries (q : Port) (w : PortWrite) : Bool :=
  q.queue.any (sameWay w) || q.unacked.any fun u => match u.2 with | some x => sameWay w x | none => false

/-- The port that takes a write to a peer (21 R351; 11 R263): the one in which an earlier write of its sender to its target stands, so that they are
delivered in issue order; none while an earlier one waits for a route. -/
def State.portFor (s : State) (module : Nat) (w : PortWrite) : Option (Fin 18) :=
  if s.links.lost.any fun l => l.1.toNat == module && sameWay w l.2 then none
  else ((List.finRange 18).find? fun p => (s.links.ports[p]).carries w).orElse fun _ => s.portTo module

/-- A remote write sent to a peer module, split into flits; without a route it is held and bit 2 of the fault word rises (21 R352). -/
def State.sendPeer (s : State) (module : Nat) (w : PortWrite) : State :=
  match s.portFor module w with
  | some p => (s.updPort p fun q => { q with queue := q.queue ++ flitParts w }).pump p
  | none =>
    let rose := !s.host.fault.getLsbD 2
    { s with links := { s.links with lost := s.links.lost ++ [(BitVec.ofNat 16 module, w)] },
             host := { s.host with fault := s.host.fault ||| 4, msix := s.host.msix + (if rose then 1 else 0) } }

/-- Writes that wait for a route sent where one has returned (21 R352). -/
def State.resendLost (s : State) : State :=
  let l := s.links.lost
  l.foldl (fun s w => if s.reachable w.1.toNat then s.sendPeer w.1.toNat w.2 else { s with links := { s.links with lost := s.links.lost ++ [w] } })
    { s with links := { s.links with lost := [] } }

/-- A remote write sent toward NODE (09 R231): this module for 0, the bound peer for any other.  One whose entry is gone since its issue waits
like one without a route, module 0 being no module (21 R348, R352). -/
def State.sendRemote (s : State) (node vdie vcore off : Nat) (bytes : List (Byte × Byte)) (ident : Option Ident) (phase : Nat)
    (by_ : Option Nat) : State :=
  match s.core.task with
  | none => s
  | some t =>
    if node = 0 then s.sendLocal t.kid vdie vcore off bytes ident phase by_
    else
      let image := (s.myKernel.map (·.image)).getD 0
      let b := (s.nodeEntry image node).getD (0, 0, 0, 0)
      s.sendPeer b.1 ⟨BitVec.ofNat 64 b.2.1, BitVec.ofNat 8 vdie, BitVec.ofNat 8 vcore, BitVec.ofNat 32 off,
        BitVec.ofNat 8 node, BitVec.ofNat 8 t.vdie, BitVec.ofNat 8 t.vcore, BitVec.ofNat 32 t.ord,
        (ident.map (·.idx)).getD 0, BitVec.ofNat 64 image, bytes.map (·.1), true⟩

/-! ### Dispatcher state of a virtual core -/

/-- The physical die that holds a kernel's virtual die 0: its dispatcher keeps the cleat (02 R31). -/
def Kernel.leadDie (k : Kernel) : Nat := ((k.vcs.find? fun v => v.vdie == 0).map (·.die)).getD 0

/-- The tick from which the cleat's dispatcher knows what happens now at a die: at once on its own die, after a free number of its copy cycles
from another (02 R31; log 55). -/
def State.noticeAt (s : State) (k : Kernel) (die : Nat) : Nat × State :=
  if die = k.leadDie then (s.now, s) else (k.copySpan s.now (Config.noticeDelay s.free), s.fresh.2)

/-- The virtual core triggers (06 R124), and others see it once C's cycle has ended (19 R325; 02 R36). -/
def State.trigger (s : State) : State := s.updMyVc fun v => { v with trig := v.trig.orElse fun _ => some (s.cycleEnd .c) }

/-- Every virtual core is seen to have triggered at a tick, or the kernel has ended (19 R325). -/
def Kernel.triggered (k : Kernel) (now : Nat) : Bool := decide (3 ≤ k.state) || k.vcs.all fun v => v.trig.any fun t => decide (t ≤ now)

/-- The identity under which the dispatcher arrives for a virtual core: no task's (02 R31). -/
def dispatcherIdent (i : Image) (vdie vcore phase : Nat) : Ident := ⟨vdie, vcore, i.total, phase⟩

/-- The arrival at a superstep's start of a virtual core that has no task in it (02 R31). -/
def Image.startArrival (i : Image) (vdie vcore phase : Nat) : Option Ident :=
  if phase < i.steps ∧ !i.activeIn vdie vcore phase then some (dispatcherIdent i vdie vcore phase) else none

/-- An arrival counted once per identity; a second one under another identity is answered false (02 R32). -/
def VCore.arrive (v : VCore) (id : Ident) : VCore × Bool :=
  if v.idents.contains id then (v, true)
  else match v.arrived with
    | none => ({ v with arrived := some id, idents := id :: v.idents }, true)
    | some _ => (v, false)

/-- An expectation added once per identity (02 R32, 06 R128). -/
def VCore.expect (v : VCore) (id : Ident) (n : Nat) : VCore :=
  if v.expects.any fun e => e.1 == id then v else { v with expects := (id, n) :: v.expects, expectSum := v.expectSum + n }

/-- A landed remote write counted once per identity in a phase (09 R232). -/
def VCore.land (v : VCore) (id : Ident) : VCore :=
  if v.landed.contains id then v else { v with landed := id :: v.landed, landedCount := v.landedCount + 1 }

/-- The expectations of a virtual core are met (02 R31). -/
def VCore.met (v : VCore) : Bool := decide (v.expectSum ≤ v.landedCount)

/-- A virtual core of a kernel changed by an arrival, an expectation or a landing; what it adds to the cleat reaches the dispatcher later (02
R31). -/
def State.updCleat (s : State) (kid vdie vcore : Nat) (f : VCore → VCore) : State :=
  match s.kernel? kid with
  | none => s
  | some k =>
    match k.vc? vdie vcore with
    | none => s
    | some v =>
      let w := f v
      if (v.arrived.isNone && w.arrived.isSome) || (!v.met && w.met) then
        let n := s.noticeAt k v.die
        n.2.updKernel kid fun k => k.updVc vdie vcore fun v => { f v with heard := Nat.max v.heard n.1 }
      else s.updKernel kid fun k => k.updVc vdie vcore f

/-- The same for the virtual core of the task in focus. -/
def State.updMyCleat (s : State) (f : VCore → VCore) : State :=
  match s.core.task with
  | none => s
  | some t => s.updCleat t.kid t.vdie t.vcore f

/-- A forecast slot with no history (10 R238). -/
def Slot.empty : Slot := ⟨0, none, none, (0, none, none), none, false, []⟩

/-! ### Leaving a core -/

/-- Local resources back as the undo log holds them (02 R27). -/
def State.rollback (s : State) : State :=
  match s.core.task with
  | none => s
  | some t => { s with mem := t.undo.foldl (fun m u => Memory.writeBytes m (windowBase s.core.die s.core.q + u.1 * 1024) u.2) s.mem }

/-- The listed cells of ranges of a window, by offset. -/
def windowCells (mem : List Host.Cell) (base : Nat) (ranges : List (Nat × Nat)) : List Host.Cell :=
  mem.filterMap fun c => if ranges.any fun r => decide (base + r.1 ≤ c.1) && decide (c.1 < base + r.1 + r.2) then some (c.1 - base, c.2) else none

/-- A core with no task: every strand idle, no frame, no waiting interrupt (02 R21; 20 R332). -/
def Core.vacate (c : Core) : Core :=
  { c with task := none, freeze := none, pend := [], irq := [],
           c := { c.c with cond := .idle, handler := false, loads := [] },
           l := { c.l with cond := .idle, flights := [], latches := [] },
           x := { c.x with cond := .idle, flights := [], latches := [] },
           s := { c.s with cond := .idle, flights := [], latches := [] },
           v := { c.v with latches := [], gloads := [], stores := [], modif := none },
           m := { c.m with queue := [], results := [], armed := none, running := none, factor := none, testDue := none, failing := false },
           inb := { c.inb with queue := [] }, outb := { c.outb with queue := [] } }

/-- The running task discarded (02 R25): buffer dropped, carry set rolled back, core freed; its virtual core moves to a state
that the caller gives. -/
def State.discardTask (s : State) (f : VCore → VCore) : State :=
  ((s.rollback).updMyVc f).updCore Core.vacate

/-- A forecast kept for the restarted run (10 R252). -/
def Task.keepForecast (t : Task) (old : Option Forecast) : Option Forecast :=
  match t.forecast with
  | some f => some f
  | none => old

/-- The running task aborted or parked (02 R25), its declaration kept (10 R252). -/
def State.abortTask (s : State) (st : TaskState) (parked : Option Nat) : State :=
  match s.core.task with
  | none => s
  | some t =>
    s.discardTask fun v => { v with state := st, parked := parked, run := v.run + 1, forecast := t.keepForecast v.forecast }

/-- The running task squashed (10 R250, R251): Aborted, not forecasting again, and a record in the event ring (R254). -/
def State.squashTask (s : State) (why maxerr idx : Nat) : State :=
  match s.core.task with
  | none => s
  | some t =>
    let slot := (((t.forecast.orElse fun _ => (s.myKernel.bind fun k => k.vc? t.vdie t.vcore).bind (·.forecast)).map (·.slot))).getD 0
    let there := (s.myKernel.map fun k => (nth k.slots slot Slot.empty).published.isSome).getD true
    let s1 := s.discardTask fun v =>
      { v with state := .aborted, run := v.run + 1, forecast := none, rerun := some (why, maxerr, idx),
               awaits := if why = 2 ∨ there then none else some slot }
    let i := if why = 0 then idx else 0
    let e := if why = 0 then maxerr else 0xFFFFFFFF
    s1.record t.kid 2 (leBytes 4 (why + slot * 16 + i % 2 ^ 22 * 1024) ++ leBytes 1 t.vcore ++ leBytes 1 t.vdie
      ++ leBytes 2 t.kid ++ leBytes 4 e ++ leBytes 4 t.ord)

end Sys2Proof.Machine
end

