-- ==== Sys2Proof/Machine/Launch.lean ====
section
/-!
DEFINITION. Acceptance of a launch by the lead dispatcher (19 R319 to R322, R325, R329): the same for a LAUNCH command and for
a launch word of C.
-/
namespace Sys2Proof.Machine

/-- A launch descriptor (19 R319). -/
structure Descriptor where
  image   : Nat
  args    : Word64
  status  : Nat
  cls     : Nat
  streams : List (Nat × Nat)
  evring  : Nat
  evsize  : Nat
  ok      : Bool

/-- A stream list of n entries at an address (19 R321). -/
def State.streamList (s : State) (ctx : BitVec 16) (va n : Nat) : List (Nat × Nat) :=
  (List.range n).map fun i =>
    (leNat (s.agentLoad ctx (va + 16 * i) 8), leNat (s.agentLoad ctx (va + 16 * i + 8) 8))

/-- The value is a power of two from lo to hi. -/
def pow2In (lo hi v : Nat) : Bool := decide (lo ≤ v) && decide (v ≤ hi) && v == 2 ^ Nat.log2 v

/-- The fields of a descriptor's 64 bytes; `ok` says that every field is within its limits (19 R319, R321). -/
def State.descriptor (s : State) (ctx : BitVec 16) (b : List Byte) : Descriptor :=
  let f := fun a n => leNat ((b.drop a).take n)
  let n := f 28 4
  let st := s.streamList ctx (f 32 8) (if n ≤ 64 then n else 0)
  { image := f 0 8, args := BitVec.ofNat 64 (f 8 8), status := f 16 8, cls := f 24 1, streams := st, evring := f 40 8,
    evsize := f 48 4,
    ok := f 25 3 == 0 && f 52 12 == 0 && decide (f 24 1 ≤ 3) && decide (n ≤ 64) && pow2In 16 65536 (f 48 4) && f 16 8 % 8 == 0
            && f 40 8 % 32 == 0 && st.all fun e => decide (1 ≤ e.2) && decide (e.2 ≤ 2 ^ 32) }

/-- A physical core is in service (23 R374). -/
def State.inService (s : State) (die q : Nat) : Bool :=
  !s.serv.failedDies.contains die && !s.serv.fencedCores.contains (die, q) && !dieDisabled s.full die

/-- READY bits of a die and of a cluster (21 R348). -/
def State.dieReady (s : State) (d : Nat) : Bool := bitOf s.host.ready[0].toNat d
def State.clusterReady (s : State) (d c : Nat) : Bool := bitOf ((s.host.ready.toList.map (·.toNat)).getD (3 + (8 * d + c) / 64) 0) ((8 * d + c) % 64)

/-- A core on which a virtual core may be placed. -/
def State.coreReady (s : State) (d q : Nat) : Bool :=
  s.dieReady d && s.clusterReady d (q / 4) && s.inService d q && !(d == 0 && q == s.serv.supCore)

/-- The ready hot spares of a die that may serve a kernel (01 R13, 18 R315, 23 R374). -/
def State.spares (s : State) (die : Nat) : List Nat := [30, 31].filter (s.coreReady die)

/-- Every route of a placement keeps the published travel time (17 R301): virtual places beside physical ones. -/
def placeOk (p : List ((Nat × Nat) × (Nat × Nat))) : Bool :=
  p.all fun a => p.all fun b =>
    decide (physTravel a.2.1 a.2.2 b.2.1 b.2.2 ≤ travel a.1.1 a.1.2 b.1.1 b.1.2) || a.1 == b.1

/-- Place for the physical test: a spare counts as attached at the switch of the core it replaces (01 R13), whose number on its die is
`site`. -/
def asReplaced (site : Nat) (die q : Nat) : Nat × Nat := if 30 ≤ q then (die, site) else (die, q)

/-- A placement with each core that left service replaced by a ready spare of its die, if one is left (19 R320; 17 R301). -/
def State.repairPlace (s : State) : List ((Nat × Nat) × (Nat × Nat)) → List (Nat × Nat) → Option (List ((Nat × Nat) × (Nat × Nat)))
  | [], _ => some []
  | (v, p) :: rest, used =>
    if s.inService p.1 p.2 then (s.repairPlace rest (p :: used)).map ((v, p) :: ·)
    else
      match (s.spares p.1).find? fun q => !used.contains (p.1, q) && !(rest.any fun r => r.2 == (p.1, q)) with
      | none => none
      | some q => (s.repairPlace rest ((p.1, q) :: used)).map ((v, (p.1, q)) :: ·)

/-- The virtual places of an image's grid with the physical cores of its placement. -/
def Image.grid (i : Image) : List ((Nat × Nat) × (Nat × Nat)) :=
  (List.range (i.vdies * i.vcores)).map fun n => ((n / i.vcores, n % i.vcores), nth i.place n (0, 0))

/-- A virtual core at the start of a launch. -/
def VCore.initial (i : Image) (p : (Nat × Nat) × (Nat × Nat)) : VCore :=
  let first := i.nextFormed p.1.1 p.1.2 0
  { vdie := p.1.1, vcore := p.1.2, die := p.2.1, q := p.2.2, pos := first.getD i.total,
    state := if first.isSome then .pending else .retired, run := 0, parked := none, forecast := none, rerun := none, awaits := none,
    trig := none, arrived := i.startArrival p.1.1 p.1.2 0, idents := [], expects := [], expectSum := 0, landed := [], landedCount := 0,
    heard := 0, site := p.1.2, image := none }

/-- The next KID: from the last one upward, skipping 0 and every kernel not yet ended (19 R319). -/
def State.pickKid (s : State) : Nat :=
  (((List.range (s.disp.kernels.length + 2)).map fun d => (s.disp.nextKid + d - 1) % 65535 + 1).find? fun k =>
    !(s.disp.kernels.any fun x => x.kid == k && decide (x.state < 3))).getD 1

/-- A handle's span meets a dropped range of its context (19 R329). -/
def Mark.meets (m : Mark) (ctx : BitVec 16) (h : Handle) : Bool :=
  m.ctx == ctx && decide (0 < m.len) && decide (m.lo < h.base + (h.rows - 1) * h.stride + h.rowBytes) && decide (h.base < m.lo + m.len)

/-- Kernels on the scoreboard: accepted, waiting or pre-empted (19 R322). -/
def State.onBoard (s : State) : Nat :=
  (s.disp.kernels.filter fun k => decide (k.state < 2) || (k.state == 2 && !k.holds)).length

/-- Bytes of streams. -/
def streamTotal (l : List (Nat × Nat)) : Nat := l.foldl (fun a e => a + e.2) 0

/-- A refusal: STATE 4 with its CODE in the status doubleword, and nothing else (19 R320). -/
def State.refuseLaunch (s : State) (ctx : BitVec 16) (d : Descriptor) (code : Nat) : State :=
  s.agentStore ctx d.status (leBytes 8 (4 * 2 ^ 40 + code * 2 ^ 32))

/-- The marks that a kernel's handles meet (19 R329), but for those of a segment that is being replayed. -/
def State.metMarks (s : State) (ctx : BitVec 16) (i : Image) (skip : Option Nat) : List Mark :=
  s.disp.marks.filter fun m => i.handles.any (m.meets ctx) && skip != some m.seg

/-- The recorded launches of a segment. -/
def State.segmentItems (s : State) (ctx : BitVec 16) (seg : Nat) : List Recorded :=
  ((s.disp.segments.find? fun g => g.id == seg && g.ctx == ctx).map (·.items)).getD []

/-- A kernel newly accepted whose handles meet a mark is held for a replay, with a start record (19 R329). -/
def State.holdForReplay (s : State) (kid : Nat) (skip : Option Nat) : State :=
  match s.kernel? kid with
  | none => s
  | some k =>
    match s.image? k.image with
    | none => s
    | some i =>
      match s.metMarks k.ctx i skip with
      | [] => s
      | m :: _ =>
        ({ s with disp := { s.disp with replays := s.disp.replays ++ [(Replay.mk kid m.seg (s.segmentItems k.ctx m.seg) none)] } }).record
          kid 5 (leBytes 8 m.seg ++ leBytes 8 s.timer.toNat)

/-- The producers of a kernel accepted now (19 R325): for each name on its image's after list the newest kernel of that image in the context; the
kernels stand in the order of their acceptance.  One whose KID a later kernel takes has ended, so it leaves every list then. -/
def State.producersOf (s : State) (ctx : BitVec 16) (i : Image) : List Nat :=
  i.after.filterMap fun n =>
    (s.disp.kernels.reverse.find? fun x => x.ctx == ctx &&
      (match s.image? x.image with | some y => y.name == n | none => false)).map (·.kid)

/-- Acceptance of a launch: its KID, or 0 where it is refused.  `minCls` is the launching kernel's class, `status` says
whether a status doubleword is written, `handle` the launch handle of a launch word, `skip` the segment of a replay. -/
def State.acceptLaunch (s : State) (ctx : BitVec 16) (desc : List Byte) (minCls : Nat) (status : Bool) (handle : Option Word64)
    (skip : Option Nat) : State × Nat :=
  let d := s.descriptor ctx desc
  let refuse := fun (c : Nat) => (if status then s.refuseLaunch ctx d c else s, 0)
  if !d.ok then refuse 2
  else match s.image? d.image with
    | none => refuse 1
    | some i =>
      if i.ctx ≠ ctx then refuse 1
      else if 1024 * 2 ^ 20 < streamTotal d.streams then refuse 4
      else if 256 ≤ s.onBoard then refuse 5
      else match s.repairPlace i.grid [] with
        | none => refuse 3
        | some place =>
          if !placeOk (place.map fun p => (p.1, asReplaced p.1.2 p.2.1 p.2.2)) then refuse 3
          else if (s.metMarks ctx i skip).any (fun m => !s.disp.segments.any fun g => g.id == m.seg && g.ctx == m.ctx) then refuse 6
          else
            let kid := s.pickKid
            let k : Kernel :=
              { kid := kid, image := i.id, ctx := ctx, cls := Nat.max d.cls minCls, args := d.args,
                status := if status then some d.status else none, evring := d.evring, evsize := d.evsize, evseq := 0,
                accepted := s.now, since := s.now, curCopy := 6, curFall := 0,
                state := 0, tasks := 0, kframe := 0, begun := false, hold := none, slipCount := 0, slipTicks := 0,
                phase := 0, vcs := place.map (VCore.initial i), handles := i.handles.map fun h => { h with vers := 0 },
                slots := List.replicate 64 Slot.empty,
                after := (s.producersOf ctx i).filter (· != kid),
                streams := d.streams, resident := d.streams.isEmpty, holds := false, handle := handle,
                reqs := [], eff := Divs.nominal, div := Divs.nominal, claims := [], boosted := false, fall := 0, change := false }
            let others : List Kernel := (s.disp.kernels.filter fun x => x.kid != kid).map fun x =>
              { x with after := x.after.filter (· != kid) }
            let s1 := { s with disp := { s.disp with
                kernels := others ++ [k], nextKid := kid % 65535 + 1, order := s.disp.order ++ [kid] } }
            (((s1.setKernelState kid 0 0).setKernelState kid 1 0).holdForReplay kid skip, kid)

/-- A kernel has ended, or is not known any more. -/
def State.kernelEnded (s : State) (kid : Nat) : Bool :=
  match s.kernel? kid with
  | none => true
  | some k => decide (3 ≤ k.state)

/-- The next recorded launches of a replay, up to one that is accepted: what is left and its KID (19 R329). -/
def State.replayLaunch (s : State) (seg : Nat) : List Recorded → State × List Recorded × Option Nat
  | [] => (s, [], none)
  | r :: rest =>
    let a := s.acceptLaunch r.ctx r.desc 0 false none (some seg)
    if a.2 = 0 then a.1.replayLaunch seg rest else (a.1, rest, some a.2)

/-- One replay carried on: the next launch once the last one has ended; at the end the segment's marks are cleared, an end record
is written, and the held launch counts as newly accepted (19 R329). -/
def State.replayOn (s : State) (r : Replay) : State :=
  if !(match r.live with | none => true | some n => s.kernelEnded n) then s
  else
    let n := s.replayLaunch r.seg r.rest
    let others := fun (l : List Replay) => l.filter fun x => x.kid != r.kid
    match n.2.2 with
    | some kid => { n.1 with disp := { n.1.disp with replays := others n.1.disp.replays ++ [⟨r.kid, r.seg, n.2.1, some kid⟩] } }
    | none =>
      let ctx := match s.kernel? r.kid with | some k => k.ctx | none => 0
      let s1 := n.1.record r.kid 5 (leBytes 8 (r.seg + 256) ++ leBytes 8 s.timer.toNat)
      let s2 := { s1 with disp := { s1.disp with
          replays := others s1.disp.replays, marks := s1.disp.marks.filter fun m => !(m.seg == r.seg && m.ctx == ctx),
          order := (s1.disp.order.filter (· != r.kid)) ++ [r.kid] } }
      let rest := s2.disp.kernels.filter fun x => x.kid != r.kid
      let s3 := { s2 with disp := { s2.disp with kernels := rest } }
      let again := (s2.disp.kernels.filter fun x => x.kid == r.kid).map fun k =>
        { k with accepted := s.now, after := match s2.image? k.image with | some i => s3.producersOf k.ctx i | none => k.after }
      State.holdForReplay { s2 with disp := { s2.disp with kernels := rest ++ again } } r.kid none

/-- A replay that can go on: its live launch has ended, or it has none. -/
def State.replayReady (s : State) (r : Replay) : Bool := match r.live with | none => true | some n => s.kernelEnded n

/-- Replays carried on one after the other, at most `fuel` of them, replays of kernels that ended dropped. -/
def State.replaysOn : Nat → State → State
  | 0, s => s
  | fuel + 1, s =>
    let l := s.disp.replays.filter fun r => !s.kernelEnded r.kid
    let s1 := { s with disp := { s.disp with replays := l } }
    match l.find? s1.replayReady with
    | none => s1
    | some r => State.replaysOn fuel (s1.replayOn r)

/-- Every replay carried on as far as ended kernels allow (19 R329): each of at most 256 held launches makes at most 64 launches for each of at
most 256 segments. -/
def State.replayPump (s : State) : State := s.replaysOn 4194304

/-- A launch word's submission reaches the lead dispatcher (06 R122, 19 R319): ignored if its handle is already held. -/
def State.submitLaunch (s : State) (handle descr : Word64) : State :=
  match s.myKernel with
  | none => s
  | some k =>
    if s.disp.kernels.any fun x => x.handle == some handle then s
    else ((s.acceptLaunch k.ctx (s.agentLoad k.ctx descr.toNat 64) k.cls true (some handle) none).1).replayPump

end Sys2Proof.Machine
end

