-- ==== Sys2Proof/Machine/Coll.lean ====
section
/-!
DEFINITION. The collective engine (21 R354 to R357; 11 R273): checks of a start, contributions, the fold in ascending rank, the
commit of a chunk, drop-outs and the status block.
-/
namespace Sys2Proof.Machine

/-- A field of a descriptor's 64 bytes. -/
def descField (b : List Byte) (a n : Nat) : Nat := leNat ((b.drop a).take n)

/-- Bytes of the input and of the output of a rank (21 R354). -/
def collInBytes (op npart bytes : Nat) : Nat := if op = 1 then npart * bytes else bytes
def collOutBytes (op npart bytes : Nat) : Nat := if op = 2 then npart * bytes else bytes

/-- n bytes of a context as the issuing task reads them, its own buffered stores over memory (06 R109, 11 R273). -/
def State.taskLoad (s : State) (ctx : BitVec 16) (va n : Nat) : List Byte :=
  (List.range n).map fun i =>
    match s.agentPa ctx (va + i) false with
    | none => 0
    | some pa => s.taskByte (va + i) pa

/-- The 64 KiB pages of n bytes, each by the first of the bytes it holds. -/
def pageStarts (va n : Nat) : List Nat :=
  if n = 0 then [] else (List.range ((va + n - 1) / 65536 - va / 65536 + 1)).map fun i => Nat.max va ((va / 65536 + i) * 65536)

/-- n bytes of a context all translate with the right asked for. -/
def State.rangeOk (s : State) (ctx : BitVec 16) (va n : Nat) (write : Bool) : Bool :=
  (pageStarts va n).all fun a => (s.agentPa ctx a write).isSome

/-- A descriptor's buffers: IN to be read, OUT and STATUS to be written (21 R354); only ROOT has an input in a broadcast (log 59). -/
def collBuffers (b : List Byte) : List (Nat × Nat × Bool) :=
  let f := descField b
  let size := collOutBytes (f 2 1) (f 4 1) (f 32 4)
  [(f 16 8, if f 2 1 = 3 ∧ f 5 1 ≠ f 6 1 then 0 else collInBytes (f 2 1) (f 4 1) (f 32 4), false), (f 24 8, size, true), (f 48 8, 32 + 8 * (size / f 36 4), true)]

/-- The cause of a descriptor's own fields, PTAB's entries apart (21 R354): alignment first (log 52). -/
def collFields (va : Nat) (b : List Byte) : Option Nat :=
  let f := descField b
  let op := f 2 1
  let n := f 4 1
  let size := collOutBytes op n (f 32 4)
  if va % 64 ≠ 0 ∨ f 16 8 % 256 ≠ 0 ∨ f 24 8 % 256 ≠ 0 ∨ f 48 8 % 32 ≠ 0 then some 0x03
  else if f 0 2 = 0 ∨ 3 < op ∨ (2 ≤ op ∧ f 3 1 ≠ 0)
      ∨ (op < 2 ∧ ¬(f 3 1 % 16 = 9 ∨ f 3 1 % 16 = 8 ∨ f 3 1 % 16 = 3)) ∨ 2 < f 3 1 / 16
      ∨ n = 0 ∨ 64 < n ∨ n ≤ f 5 1 ∨ (op = 3 ∧ n ≤ f 6 1) ∨ (op ≠ 3 ∧ f 6 1 ≠ 0) ∨ f 7 1 ≠ 0
      ∨ f 12 4 = 0 ∨ 1000000 < f 12 4 ∨ f 32 4 = 0 ∨ f 32 4 % 256 ≠ 0 ∨ f 36 4 = 0 ∨ f 36 4 % 256 ≠ 0
      ∨ size % f 36 4 ≠ 0 ∨ 64 < size / f 36 4 ∨ f 56 8 ≠ 0 then some 0x07
  else none

/-- A PTAB entry is a core of the grid, or of that of a bound NODE (21 R354). -/
def State.ptabOk (s : State) (k : Kernel) (e : Nat) : Bool :=
  decide (e < 2 ^ 24) &&
    (if e % 256 = 0 then (k.vc? (field e 8 8) (field e 16 8)).isSome
     else match s.nodeBinding k.image (e % 256) with
       | none => false
       | some p => decide (field e 8 8 < p.2.2.1) && decide (field e 16 8 < p.2.2.2))

/-- The cause a coll word raises at issue, if any (21 R354): alignment, then fields, then rights (log 52). -/
def State.collCheck (s : State) (va : Nat) : Option Nat :=
  match s.myKernel, s.core.task with
  | some k, some t =>
    let b := s.taskLoad k.ctx va 64
    let f := descField b
    let ptab := (List.range (f 4 1)).map fun q => leNat (s.taskLoad k.ctx (f 40 8 + 8 * q) 8)
    match collFields va b with
    | some c => some c
    | none =>
      if !ptab.all (s.ptabOk k) ∨ nth ptab (f 5 1) 0 ≠ t.vdie * 256 + t.vcore * 65536 then some 0x07
      else if (collBuffers b).all fun r => s.rangeOk k.ctx r.1 r.2.1 r.2.2 then none
      else some 0x05
  | _, _ => some 0x07

/-- Chunks of a collective. -/
def Coll.chunks (c : Coll) : Nat := collOutBytes c.op c.npart c.bytes / c.chunk

/-- The bytes of a rank's input that chunk j of a target's output takes: offset and length (21 R354). -/
def Coll.part (c : Coll) (from_ target j : Nat) : Nat × Nat :=
  if c.op = 0 then (j * c.chunk, c.chunk)
  else if c.op = 1 then (target * c.bytes + j * c.chunk, c.chunk)
  else if c.op = 2 then
    let lo := Nat.max (from_ * c.bytes) (j * c.chunk)
    let hi := Nat.min (from_ * c.bytes + c.bytes) (j * c.chunk + c.chunk)
    if lo < hi then (lo - from_ * c.bytes, hi - lo) else (0, 0)
  else if from_ = c.root then (j * c.chunk, c.chunk) else (0, 0)

/-- comb of two f32 values (21 R355): sum, or maximum and minimum by 07 R155. -/
def combF (red a b : Nat) : Nat :=
  if red = 0 then (fpAdd tF32 0 (fpOf tF32 a) (fpOf tF32 b)).1 else (fpMinMax tF32 (red == 1) a b).1

/-- comb of two i32 values. -/
def combI (red a b : Nat) : Nat :=
  if red = 0 then (a + b) % 2 ^ 32
  else if (if red = 1 then decide (toI 32 a < toI 32 b) else decide (toI 32 b < toI 32 a)) then b else a

/-- The fold of one element in ascending rank (21 R355); the first acc of f32 or bf16 is exact, and a NaN of the result canonical (04 R65). -/
def foldElem (type_ red : Nat) : List Nat → Nat
  | [] => 0
  | x :: rest =>
    if type_ = 3 then rest.foldl (combI red) x
    else
      let up := fun v => (convert tF32 type_ 0 v).1
      let acc := rest.foldl (fun a v => combF red a (up v)) (up x)
      if type_ = tBf16 then (convert tBf16 tF32 0 acc).1 else if (fpOf tF32 acc).isNan then cNaN tF32 else acc

/-- Chunk j as the fold of the contributions held. -/
def Coll.result (c : Coll) (j : Nat) : List Byte :=
  let data := fun q => ((c.contrib.find? fun x => x.1 == q && x.2.1 == j).map (·.2.2)).getD []
  if c.op = 2 then (List.range c.npart).flatMap data
  else if c.op = 3 then data c.root
  else
    let w := laneWidth (c.red % 16) / 8
    let lanes := (List.range c.npart).map fun q => pieces w c.chunk (data q)
    (List.range (c.chunk / w)).flatMap fun i =>
      leBytes w (foldElem (c.red % 16) (c.red / 16) (lanes.map fun l => leNat (nth l i [])))

/-- Every contribution to chunk j is held: one of each rank whose input has a part in it (21 R354, R356; log 59). -/
def Coll.hasAll (c : Coll) (j : Nat) : Bool :=
  (List.range c.npart).all fun q => (c.part q c.rank j).2 == 0 || c.contrib.any fun x => x.1 == q && x.2.1 == j

/-- The collective with notices of its own added for every chunk it holds whole (21 R356). -/
def Coll.noticeOwn (c : Coll) : Coll :=
  { c with notices := c.notices ++ ((List.range c.chunks).filter fun j => c.hasAll j && !c.notices.contains (c.rank, j)).map (c.rank, ·) }

/-- Chunk j may commit: every contribution is held and every rank has given notice (21 R356). -/
def Coll.ready (c : Coll) (j : Nat) : Bool :=
  !bitOf c.done j && c.hasAll j && (List.range c.npart).all fun q => c.notices.contains (q, j)

/-- The status block's header and contribution words (21 R357). -/
def Coll.header (c : Coll) : List Byte :=
  leBytes 8 (c.gen * 2 ^ 32 + c.id * 2 ^ 16 + c.state) ++ leBytes 8 c.done ++ leBytes 8 c.live ++ leBytes 8 0
def Coll.contribWord (c : Coll) (j : Nat) : Nat :=
  ((List.range c.npart).filter fun q => c.contrib.any fun x => x.1 == q && x.2.1 == j).foldl (fun a q => a + 2 ^ q) 0

/-- The status block written (21 R357): the contribution words, then the header as one atom. -/
def State.collStatus (s : State) (c : Coll) : State :=
  let s1 := (List.range c.chunks).foldl (fun s j => s.agentStore c.ctx (c.status + 32 + 8 * j) (leBytes 8 (c.contribWord j)) c.kid) s
  s1.agentStore c.ctx c.status c.header c.kid

/-- One chunk committed at a rank (21 R356; 11 R273). -/
def State.collCommit (s : State) (c : Coll) (j : Nat) : State × Coll :=
  (s.agentStore c.ctx (c.out + j * c.chunk) (c.result j) c.kid, { c with done := c.done + 2 ^ j })

/-- The other survivors whose commit bitmaps this rank has (21 R356). -/
def Coll.mapsComplete (c : Coll) : Bool :=
  (List.range c.npart).all fun q => q == c.rank || !bitOf c.live q || c.maps.any fun m => m.1 == q

/-- A rank carried as far as what it holds allows: ready chunks commit; after a drop-out, chunks that some survivor
committed commit and the end is reached when every survivor's bitmap is there (21 R356, R357). -/
def State.collAdvance (s : State) (c : Coll) : State × Coll :=
  if c.state ≠ 0 then (s, c)
  else
    let c0 := c.noticeOwn
    let union := c0.maps.foldl (fun (a : List Nat) m => a ++ positions 64 (bitOf m.2)) []
    let r := (List.range c0.chunks).foldl (fun (p : State × Coll) j =>
      if p.2.ready j || (!bitOf p.2.done j && union.contains j && p.2.hasAll j) then p.1.collCommit p.2 j else p) (s, c0)
    let all := r.2.done == 2 ^ r.2.chunks - 1
    let full := r.2.live == 2 ^ r.2.npart - 1
    if all && (full || r.2.mapsComplete) then
      let c1 := { r.2 with state := if full then 1 else 2 }
      let s1 := r.1.collStatus c1
      (if full then s1 else s1.updCoreAt c1.core.1 c1.core.2 fun k => k.pendMore 0x0E 8 (BitVec.ofNat 64 c1.id) 0, c1)
    else if !full && r.2.mapsComplete then
      let c1 := { r.2 with state := 2 }
      ((r.1.collStatus c1).updCoreAt c1.core.1 c1.core.2 fun k => k.pendMore 0x0E 8 (BitVec.ofNat 64 c1.id) 0, c1)
    else if r.2.done ≠ c.done then (r.1.collStatus r.2, r.2)
    else (r.1, r.2)

/-- What this rank's module mates of one collective hold is told to each other: contributions are exchanged when a rank
starts, notices and bitmaps as they arise. -/
def collShare (l : List Coll) (c : Coll) : Coll :=
  let mates := l.filter fun d => d.id == c.id && d.gen == c.gen && d.rank != c.rank
  { c with notices := mates.foldl (fun a d => a ++ (d.notices.filter fun n => n.1 == d.rank && !a.contains n)) c.notices,
           live := positions 64 (fun q => bitOf c.live q && mates.all fun d => bitOf d.live q) |>.foldl (fun a q => a + 2 ^ q) 0,
           maps := if c.live == 2 ^ c.npart - 1 && mates.all (fun d => d.live == 2 ^ d.npart - 1) then c.maps
                   else mates.foldl (fun a d => (d.rank, d.done) :: a.filter (fun m => m.1 != d.rank)) c.maps }

/-- One pass over every collective of the module. -/
def State.collPass (s : State) : State :=
  let l := (s.colls.map Coll.noticeOwn)
  let l1 := l.map (collShare l)
  l1.foldl (fun s c =>
    let r := s.collAdvance c
    { r.1 with colls := r.1.colls ++ [r.2] }) { s with colls := [] }

/-- The collective engine brought to rest: passes until nothing more can be told (three suffice: notices, commits, ends). -/
def State.collSettle (s : State) : State := s.collPass.collPass.collPass

/-- A participant of a collective dropped by this engine. -/
def Coll.dropRank (c : Coll) (q : Nat) : Coll :=
  if c.state = 0 ∧ q ≠ c.rank ∧ bitOf c.live q then { c with live := c.live - 2 ^ q } else c

/-- A survivor's commit bitmap held, in place of an earlier one of its own. -/
def Coll.hold (c : Coll) (from_ map : Nat) : Coll := { c with maps := (from_, map) :: c.maps.filter fun m => m.1 != from_ }

/-- A collective at its start with the drop notices that came before (21 R356). -/
def Coll.dropEarly (c : Coll) (l : List EarlyDrop) : Coll :=
  (l.filter fun d => d.id == c.id && d.gen == c.gen).foldl (fun c d => (c.dropRank d.dropped).hold d.from_ d.map) c

/-- A collective at its start with the contributions for it that came before and carry another GEN: their senders are dropped (21 R354, R356). -/
def Coll.dropStale (c : Coll) (l : List EarlyPart) : Coll := l.foldl (fun c e => c.dropRank e.rank) c

/-- A start (21 R354, 06 R126): ignored if its ID and GEN are already held for this rank; each chunk of IN is read once,
as global reads of the issuing task (11 R273), and sent: to the ranks of this module that have started, and for those that have not, kept until they
do.  What came before for it is taken, or discarded and counted where it carries another GEN, as are its parts for a mate that runs under another GEN;
and so are the notices and bitmaps that its mates in this module hold. -/
def State.startColl (s0 : State) (descr : Word64) : State :=
  match s0.myKernel with
  | none => s0
  | some k =>
    let b := s0.taskLoad k.ctx descr.toNat 64
    let f := descField b
    let s := s0.overPages k.ctx State.homeRead [(descr.toNat, 64), (f 40 8, 8 * f 4 1), (f 16 8, if f 2 1 = 3 ∧ f 5 1 ≠ f 6 1 then 0 else collInBytes (f 2 1) (f 4 1) (f 32 4))]
    if s.colls.any fun c => c.id == f 0 2 && c.gen == f 8 4 && c.rank == f 5 1 then s
    else
      let n := f 4 1
      let c : Coll :=
        { id := f 0 2, gen := f 8 4, op := f 2 1, red := f 3 1, npart := n, rank := f 5 1, root := f 6 1, timeout := f 12 4,
          inp := f 16 8, out := f 24 8, bytes := f 32 4, chunk := f 36 4, status := f 48 8, ctx := k.ctx, image := k.image, kid := k.kid,
          nodes := (List.range n).map fun q =>
            let e := leNat (s.taskLoad k.ctx (f 40 8 + 8 * q) 8)
            (e % 256, field e 8 8, field e 16 8),
          core := (s.core.die, s.core.q), started := s.now, contrib := [], notices := [], done := 0, live := 2 ^ n - 1,
          maps := [], state := 0 }
      let parts := fun (target : Nat) => (List.range c.chunks).filterMap fun j =>
        let p := c.part c.rank target j
        if p.2 = 0 then none else some (j, s.taskLoad k.ctx (c.inp + p.1) p.2)
      let mine_ := fun (e : EarlyPart) => e.id == c.id && e.gen == c.gen && (e.data.isNone || e.to_ == c.rank)
      let early := s.links.early.filter mine_
      let mates := s.colls.filter fun d => d.id == c.id && d.gen == c.gen
      let old := fun (e : EarlyPart) => e.id == c.id && e.gen != c.gen && e.data.isSome && e.to_ == c.rank
      let stale := s.links.early.filter old
      let c1 : Coll := { c with
        contrib := (parts c.rank).map (c.rank, ·) ++ early.filterMap (fun e => e.data.map fun d => (e.rank, e.chunk, d)),
        notices := (early.filterMap fun e => if e.data.isNone then some (e.rank, e.chunk) else none) ++ mates.flatMap (·.notices),
        maps := mates.flatMap fun d => d.maps.filter fun m => m.1 != c.rank }
      let other := fun (d : Coll) => d.id == c.id && d.gen != c.gen && d.state == 0 && d.rank != c.rank && decide (d.rank < n)
        && (nth c.nodes d.rank (1, 0, 0)).1 == 0
      let told := s.colls.map fun d =>
        if d.id == c.id && d.gen == c.gen then { d with contrib := d.contrib ++ (parts d.rank).map (c.rank, ·) }
        else if other d then d.dropRank c.rank else d
      let refused := ((s.colls.filter other).map fun d => (parts d.rank).length).foldl (· + ·) 0
      let waits := fun (q : Nat) => q != c.rank && (nth c.nodes q (1, 0, 0)).1 == 0
        && !s.colls.any fun d => d.rank == q && (d.id == c.id && d.gen == c.gen || other d)
      let ahead := ((List.range n).filter waits).flatMap fun q =>
        (parts q).map fun p => (⟨c.id, c.gen, c.rank, q, p.1, some p.2⟩ : EarlyPart)
      ({ s with colls := told ++ [(c1.dropEarly s.links.drops).dropStale stale],
                serv := { s.serv with staleGen := sat (2 ^ 64 - 1) (s.serv.staleGen + stale.length + refused) },
                links := { s.links with early := (s.links.early.filter fun e => !(mine_ e && e.data.isSome) && !old e) ++ ahead } }).collSettle

/-- Participants of every collective on modules that are no longer reachable are dropped (21 R351, R356). -/
def State.dropUnreachable (s : State) : State :=
  ({ s with colls := s.colls.map fun (c : Coll) =>
      (c.nodes.zipIdx.filter fun (p : (Nat × Nat × Nat) × Nat) => p.1.1 != 0 && (match s.nodeBinding c.image p.1.1 with
        | some b => !s.reachable b.1
        | none => true)).foldl (fun (c : Coll) (p : (Nat × Nat × Nat) × Nat) => c.dropRank p.2) c }).collSettle

end Sys2Proof.Machine
end

