-- ==== Sys2Proof/Machine/Ops.lean ====
section
/-!
DEFINITION. The shared operations of the machine: effects on global memory and the splice buffer (02 R26; 06 R110, R113; 11
R266), ending a kernel (19 R324), freezes (17 R297), taking an exception and returning from one (20 R331 to R341), and the
course of one word of C (06 R103, R117) and of one word of L, X or S (02 R37, 07 R175, 17 R294, R296).
-/
namespace Sys2Proof.Machine

/-! ### Effects -/

/-- amo's operation on old and operand (06 R112, 05 R88). -/
def amoFn (op : BitVec 4) (old v : Word64) : Word64 :=
  match op.toNat with
  | 0 => v
  | 1 => old + v
  | 2 => old &&& v
  | 3 => old ||| v
  | 4 => old ^^^ v
  | 5 => if old.slt v then old else v
  | 6 => if old.slt v then v else old
  | 7 => if old < v then old else v
  | _ => if old < v then v else old

/-- The doubleword at a physical address. -/
def State.mem64 (s : State) (pa : Nat) : Word64 := BitVec.ofNat 64 (Memory.readNat s.mem pa 8)

/-- One effect performed (11 R264, R266; 10 R246).  A buffered store keeps the physical address found at its word, also past a tlbinv of its page (06
R142): the spec does not say that the splice translates again (DESIGN CHOICE, log 54).  `phase` is the cleat phase of its word's issue (02 R33). -/
def State.perform (s : State) (k : EffKind) (phase : Nat := s.issuePhase 0) : State :=
  match k with
  | .store _ pa bs => s.storeTo pa bs
  | .amo _ pa op v => s.pokeBytes true pa (leBytes 8 (amoFn op (s.mem64 pa) v).toNat)
  | .cas _ pa e n => if s.mem64 pa = e then s.pokeBytes true pa (leBytes 8 n.toNat) else s.homeRead pa 8
  | .addCom _ pa l => s.pokeBytes true pa (l.zipIdx.flatMap fun v => leBytes 4 (Memory.readNat s.mem (pa + 4 * v.2) 4 + v.1.toNat))
  | .remote vd vc off node bs id => s.sendRemote node vd vc off bs id phase none
  | .launch h d => s.submitLaunch h d
  | .ktrig => s.trigger
  | .coll d => s.startColl d
  | .arrive id => s.updMyCleat fun v => (v.arrive id).1
  | .expect id n => s.updMyCleat fun v => v.expect id n

/-- Bytes an effect takes in the splice buffer (09 R236).  Items without bytes take none (log 14). -/
def EffKind.size : EffKind → Nat
  | .store _ _ bs => (bs.filter fun b => b.2 != 0).length
  | .amo _ _ _ _ => 8
  | .cas _ _ _ _ => 8
  | .addCom _ _ l => 4 * l.length
  | .remote _ _ _ _ bs _ => bs.length
  | _ => 0

/-- Room that drains of the core in focus have reserved in the splice buffer (10 R247). -/
def Matrix.reserved (m : Matrix) : Nat := m.results.foldl (fun a r => a + r.room) 0

/-- Bytes in a task's splice buffer. -/
def Task.used (t : Task) : Nat := t.buf.foldl (fun a e => a + e.kind.size) 0

/-- Capacity of the splice buffer (02 R26). -/
abbrev spliceBytes : Nat := 524288

/-- An effect comes behind another of its strand in program order (11 R266). -/
def Effect.behind (x e : Effect) : Bool := match x.seq, e.seq with | some n, some m => decide (m < n) | _, _ => false

/-- An effect put in its place in buffer order: after every effect of an earlier cycle, or of the same cycle and no later
strand, but before those of its own strand that its program has behind it (11 R266). -/
def insertEff (e : Effect) : List Effect → List Effect
  | [] => [e]
  | x :: l => if e.cycle < x.cycle ∨ (e.cycle = x.cycle ∧ e.rank < x.rank) ∨ x.behind e then e :: x :: l else x :: insertEff e l

/-- The copy-domain cycle of a moment: the tick at which it began. -/
def State.copyCycle (s : State) : Nat :=
  let d := s.core.div.copy
  s.now - (s.now + s.core.l.next * (d - 1)) % d

/-- The addresses of the bytes a memory effect writes, whole or in part. -/
def EffKind.touched : EffKind → List Nat
  | .store va _ bs => (bs.zipIdx.filter fun b => b.1.2 != 0).map fun b => va + b.2
  | .amo va _ _ _ => (List.range 8).map (va + ·)
  | .cas va _ _ _ => (List.range 8).map (va + ·)
  | .addCom va _ l => (List.range (4 * l.length)).map (va + ·)
  | _ => []

/-- The forecast slots whose footprint an effect writes (10 R239). -/
def State.slotsHit (s : State) (e : EffKind) : List Nat :=
  match s.myKernel with
  | none => []
  | some k => k.handles.filterMap fun h =>
      match h.fslot with
      | none => none
      | some f => if e.touched.any fun a => (h.footIndex a).isSome then some f else none

/-- The lines of global memory that an effect stores to. -/
def EffKind.stored : EffKind → List Nat
  | .store _ pa bs => linesOf pa bs.length
  | .amo _ pa _ _ => linesOf pa 8
  | .cas _ pa _ _ => linesOf pa 8
  | .addCom _ pa l => linesOf pa (4 * l.length)
  | _ => []

/-- The core's program timestamp brought to one that all the lines of some effects can take, so that their stores share it (11 R266, R268). -/
def State.oneStamp (s : State) (l : List Effect) : State :=
  let lines := l.flatMap fun e => e.kind.stored
  if lines.isEmpty then s else s.updCore fun c => { c with pts := s.stampAll true lines }

/-- Every buffered effect performed in buffer order, and the buffer empty: a splice, one step in the total order (11 R266). -/
def State.splice (s : State) : State :=
  match s.core.task with
  | none => s
  | some t => t.buf.foldl (fun s e => s.perform e.kind e.phase) ((s.updTask fun t => { t with buf := [] }).oneStamp t.buf)

/-- What happens to an effect: it is buffered or performed, or its word stalls until the verdict (10 R247). -/
inductive Put where
  | done (s : State)
  | stall

/-- An effect of the running task on global memory (02 R26; 06 R110; 10 R246, R247).  rank orders the strands of one
copy-domain cycle: C 0, L 1, X 2, S 3, and `seq` is the number of X's word (11 R266). -/
def State.put (s : State) (rank : Nat) (k : EffKind) (seq : Option Nat := none) : Put :=
  match s.core.task with
  | none => .done (s.perform k)
  | some t =>
    let s1 := s.updTask fun t => { t with wrote := t.wrote ++ (s.slotsHit k).filter fun f => !t.wrote.contains f }
    if t.pinned then .done (s1.perform k)
    else if t.used + s.core.m.reserved + k.size ≤ spliceBytes then
      .done (s1.updTask fun t => { t with buf := insertEff ⟨k, s.copyCycle, rank, seq, s.issuePhase rank⟩ t.buf })
    else if t.forecast.isSome then .stall
    else .done (((s1.splice).updTask fun t => { t with pinned := true }).perform k)

/-- Several effects in order; a stall of any leaves nothing done. -/
def State.putAll (s : State) (rank : Nat) (seq : Option Nat) : List EffKind → Put
  | [] => .done s
  | k :: l =>
    match s.put rank k seq with
    | .done s' => s'.putAll rank seq l
    | .stall => .stall

/-! ### Ending a kernel -/

/-- The task on the core in focus ended with its kernel (19 R324): a splice that has started completes, at once and counted where the matrix unit
rests, else on the core once it does; any other run is discarded. -/
def State.endTask (s : State) : State :=
  match s.core.task with
  | none => s
  | some t =>
    if t.state = .splicing ∧ t.forecast.isNone then
      if s.core.m.queue.isEmpty && s.core.m.results.isEmpty then
        (((s.splice).updMyVc fun v => { v with state := .retired }).updKernel t.kid fun k => { k with tasks := k.tasks + 1 }).updCore Core.vacate
      else s
    else s.discardTask fun v => { v with state := .aborted }

/-- Places of the cores that run a task of a kernel. -/
def State.coresOf (s : State) (kid : Nat) : List (Nat × Nat) :=
  ((s.core :: s.others).filter fun c => (c.task.map (·.kid)) == some kid).map fun c => (c.die, c.q)

/-- A kernel ended with STATE 3, 5 or 6: its cores, claims and place are free, and replays that waited for it go on (19 R320, R324,
R329). -/
def State.endKernel (s : State) (kid st code : Nat) : State :=
  let s1 := (s.updKernel kid fun k => { k with holds := false, hold := none, claims := [], change := false }).setKernelState kid st code
  ({ s1 with disp := { s1.disp with order := s1.disp.order.filter (· != kid) },
             llc := { s1.llc with lines := s1.llc.lines.map fun (x : Line) => { x with pins := x.pins.filter (· != kid) } } }).replayPump

/-- A kernel ended with STATE 5 or 6 (19 R320, R324). -/
def State.killKernel (s : State) (kid st code : Nat) : State :=
  let s1 := (s.coresOf kid).foldl (fun s p => s.onCore p.1 p.2 State.endTask) s
  s1.endKernel kid st code

/-- The running task ended Failed, and its kernel with STATE 6 (02 R24, R25; 19 R320). -/
def State.failTask (s : State) : State :=
  match s.core.task with
  | none => s
  | some t => (s.discardTask fun v => { v with state := .failed }).killKernel t.kid 6 0x0D

/-- The state of the task on a core (02 R24): while the core is frozen a running task is Frozen. -/
def Core.taskState (c : Core) : Option TaskState := c.task.map fun t => if t.state = .running ∧ c.freeze.isSome then .frozen else t.state

/-! ### Freezes -/

/-- The task waits to fail at its verdict (10 R246). -/
def Core.failing (c : Core) : Bool := match c.task with | some t => t.failing | none => false

/-- The core stands in a stop of trap entry: C runs its handler (20 R331). -/
def Core.handlerStop (c : Core) : Bool := c.c.handler

/-- The matrix cycles that began before a tick are past. -/
def Core.matSync (c : Core) (t : Nat) : Core :=
  let k := c.cyclesTo 1 c.m.next t
  { c with m := { c.m with count := c.m.count + k, next := c.tickAfter 1 c.m.next k } }
def State.matSync (s : State) (t : Nat) : State := s.updCore fun c => c.matSync t

/-- A transfer unit whose strand has ended, and so has no cycles of its own, brought up to a tick (09 R218; 17 R292). -/
def XUnitSt.syncTo (x : XUnitSt) (c : Core) (p : Step) (t : Nat) : XUnitSt :=
  if p.cond = .ended then { x with clock := x.clock + c.cyclesTo 3 p.next t } else x
def Step.syncTo (p : Step) (c : Core) (t : Nat) : Step := if p.cond = .ended then { p with next := c.edge 3 p.next t } else p

/-- The cycles of the core that no strand has had, up to a tick, are past: those of the matrix unit, and those of units whose strands have ended. -/
def Core.sync (c : Core) (t : Nat) : Core :=
  let c1 := c.matSync t
  { c1 with inb := c.inb.syncTo c c.l t, outb := c.outb.syncTo c c.s t, l := c.l.syncTo c t, s := c.s.syncTo c t }

/-- A frozen core as a stop or another freeze finds it (17 R297; 20 R331): its counts stand where the freeze began, but the clocks of the units that a full
queue lets run have gone on (09 R218). -/
def Core.thaw (c : Core) (at_ : Nat) : Core :=
  match c.freeze with
  | some (.fullQueue _) =>
    let k := c.wholeCycles 3 c.stop (at_ - c.stop)
    { c with inb := { c.inb with clock := c.inb.clock + k }, outb := { c.outb with clock := c.outb.clock + k } }
  | _ => c

/-- The whole core frozen from this moment (17 R297).  In handler context only C runs, and the core's stop stays where the trap
put it; a freeze in place of another goes on from where that began. -/
def State.freezeCore (s : State) (f : Freeze) : State :=
  s.updCore fun c =>
    if c.handlerStop then { c with freeze := some f }
    else if c.freeze.isSome then { c.thaw s.now with freeze := some f }
    else { c.sync s.now with freeze := some f, stop := s.now }

/-- A time that lies after the stop moved by its length. -/
def shiftPast (stop by_ t : Nat) : Nat := if stop ≤ t then t + by_ else t

/-- Items that no consumer saw before the stop, moved, with what a handler put there; after a trap they are seen from the consumer's second cycle at
the latest, its first beginning at `first` (20 R340). -/
def Queue.shift (q : Queue) (stop by_ : Nat) (first : Option Nat) : Queue :=
  let late := fun (t : Nat) => match first with | none => t | some f => Nat.min t (f + 1)
  ⟨q.items.map fun i => if stop ≤ i.since then { i with since := late (i.since + by_) } else i,
   q.freed.map fun t => if stop < t then t + by_ else t⟩

/-- The consumer of a queue number (02 R35). -/
def consumerOf (n : Nat) : Strand :=
  match n with
  | 0 => .l
  | 1 => .x
  | 2 => .s
  | 3 => .c
  | 4 => .x
  | 5 => .s
  | 6 => .c
  | 7 => .l
  | 8 => .s
  | 9 => .c
  | 10 => .l
  | _ => .x

/-- A step strand whose clock has run `by_` ticks and `k` cycles through a stop of the core (17 R296: clock cycles count frozen ones). -/
def Step.shift (t : Step) (stop by_ k : Nat) : Step :=
  { t with next := shiftPast stop by_ t.next, clock := t.clock + k,
           flagSet := t.flagSet.map fun f => (f.1, shiftPast stop by_ f.2) }

/-- The core after a stop that began at `stop` and lasted `by_` ticks: every later moment of it moves by that length, so no
event moves against another (17 R297); after a trap, items of cycles that spanned the stop are seen from each consumer's second
cycle at the latest (20 R340). -/
def Core.shift (c : Core) (by_ : Nat) (trap : Bool) : Core :=
  let t := c.stop
  let k := fun (dom : Nat) (p : Step) => c.wholeCycles dom p.next by_
  let c1 : Core := { c with
    c := { c.c with next := shiftPast t by_ c.c.next },
    l := c.l.shift t by_ (k 3 c.l), x := c.x.shift t by_ (k 2 c.x), s := c.s.shift t by_ (k 3 c.s),
    m := { c.m with next := shiftPast t by_ c.m.next },
    csr := { c.csr with late := c.csr.late.map fun e => { e with since := shiftPast t by_ e.since } } }
  let first := fun (n : Nat) =>
    if !trap then none
    else some (match consumerOf n with | .c => c1.c.next | .l => c1.l.next | .x => c1.x.next | .s => c1.s.next)
  if by_ = 0 then c1
  else { c1 with
    hq := Vector.ofFn fun n => (c.hq[n]).shift t by_ (first n.val),
    dq := Vector.ofFn fun n => (c.dq[n]).shift t by_ (first n.val),
    fq := c.fq.shift t by_ (if trap then some c1.m.next else none) }

/-- The core's freeze ended at a tick (17 R297). -/
def State.unfreezeAt (s : State) (tick : Nat) : State :=
  s.updCore fun c =>
    if c.handlerStop then { c with freeze := none, c := { c.c with next := Nat.max c.c.next tick } }
    else { (c.shift (tick - c.stop) (c.freeze == some .preempted)) with freeze := none }

/-- The core's freeze ended now. -/
def State.unfreeze (s : State) : State := s.unfreezeAt s.now

/-! ### Taking an exception -/

/-- A fault of a handler word (20 R341): the kernel ends as ABORT does, with STATE 5; the supervisor halts. -/
def State.handlerFault (s : State) : State :=
  if s.core.sup then
    let rose := !s.host.fault.getLsbD 1
    { (s.updCore fun c => { c with halted := true }) with
      host := { s.host with fault := s.host.fault ||| 2, msix := s.host.msix + (if rose then 1 else 0) } }
  else
    match s.core.task with
    | none => s.updCore fun c => { c with halted := true }
    | some t => s.killKernel t.kid 5 0

/-- Seventeen bits of an address, as the frame keeps them (20 R333). -/
def addr17 (a : Nat) : BitVec 17 := BitVec.ofNat 17 a

/-- What the frame names: C's chain, or a step strand's word and the word at which it resumes (20 R333, R335). -/
def Core.frameAddrs (c : Core) (strand : Option StepStrand) (pc : Nat) : BitVec 17 × BitVec 17 × BitVec 17 :=
  match strand with
  | some _ => (addr17 pc, addr17 pc, 0)
  | none =>
    let p := c.c.chain.pc.toNat
    if c.c.chain.rd = 0 then (addr17 p, addr17 (p + 4), addr17 (p + 8))
    else (addr17 p, addr17 c.c.chain.npc.toNat, addr17 c.c.chain.nnpc.toNat)

/-- C's condition as it goes on after a stop: after idle, C issues again (06 R141). -/
def CStrand.heldCond (c : CStrand) : Cond := if c.cond = .running (some .idleWord) then .running none else c.cond

/-- A stop of the core in focus kept for its snapshot block (20 R337). -/
def State.keepStop (s : State) : State :=
  { s with stops := s.core :: s.stops.filter fun c => !(c.die == s.core.die && c.q == s.core.q) }

/-- The tick from which the core's counts stand, in a stop at a tick: where a freeze has stopped them already, its own. -/
def Core.stopAt (c : Core) (at_ : Nat) : Nat := if c.freeze.isSome then c.stop else at_

/-- Taking an exception (20 R331 to R333): the stop falls at the tick `at_`; the frame is written; C's chain is kept; C takes
the shadow set, an empty shadow loop stack and the word at 0x0010; pending entries wait for the next resumption (R339).  In handler
context it is a handler fault (R341).  `strand` and `pc` name the faulting word of a step strand when the cause is precise there.  Cycles
of L, X and S that begin before the stop still run (R331; log 17). -/
def State.enterTrap (s : State) (cause : BitVec 8) (src : BitVec 4) (precise : Bool) (tval : Word64)
    (strand : Option StepStrand) (pc : Nat) (at_ : Nat) : State :=
  if s.core.c.handler then s.handlerFault
  else
    State.keepStop <| s.updCore fun c0 =>
      let c := if c0.freeze.isSome then c0.thaw at_ else c0.sync at_
      let a := c.frameAddrs strand pc
      { c with
        frame := { fpc := a.1, fnpc := a.2.1, fnnpc := a.2.2, cause := cause, tval := tval, cdiv := BitVec.ofNat 4 c.div.ctl,
                   src := src, precise := precise, drop := false, rd := if strand.isSome then 0 else c.c.chain.rd,
                   strand := strand, entry := none, gload := none },
        freeze := none, stop := c.stopAt at_, resume := Nat.max (c.stopAt at_) c.c.next,
        pend := c.pend.map fun p => { p with kept := p.kind != 3 },
        c := { c.c with handler := true, saved := c.c.chain, held := c.c.heldCond, chain := ⟨0x10, 0, 0, 0⟩, shLoops := [],
                        next := Nat.max at_ c.c.next, cond := .running none, hcount := 0, shReady := Vector.replicate 32 0, shDivFree := 0 } }

/-- An asynchronous cause kept until C can take it (20 R339): at most 16 entries. -/
def State.raiseAt (s : State) (cause : BitVec 8) (src : BitVec 4) (tval : Word64) (pc : Nat) : State :=
  s.updCore fun c => c.pendMore cause src tval pc

/-- An asynchronous cause that no word's address goes with. -/
def State.raiseLater (s : State) (cause : BitVec 8) (src : BitVec 4) (tval : Word64) : State := s.raiseAt cause src tval 0

/-- Where C goes on at rett (20 R335, R340). -/
def Frame.chain (f : Frame) : Chain :=
  let rd : BitVec 2 := if f.rd = 3 then 0 else f.rd
  ⟨f.fpc.zeroExtend 64, rd, f.fnpc.zeroExtend 64, f.fnnpc.zeroExtend 64⟩

/-- A matrix entry whose start met the fault of this trap: dropped, where a nest ends at its point; or performed again. -/
def Matrix.retry (m : Matrix) (drop : Bool) : Matrix :=
  match m.queue with
  | [] => m
  | e :: l =>
    if !e.bad then m
    else if !drop then { m with queue := { e with bad := false } :: l }
    else
      let r := m.running.map fun n => if e.op = .nest then { n with ended := some m.count } else n
      { m with queue := l, running := r, results := m.results ++ [(MResult.mk m.count [] 0 e.seq 0 false e.seq e.go)] }

/-- The entry that caused the trap dropped or performed again (20 R340). -/
def Core.dropEntry (c0 : Core) : Core :=
  let c := if c0.frame.src = 4 then { c0 with m := c0.m.retry c0.frame.drop } else c0
  let c1 : Core := match c.frame.gload with
    | none => c
    | some n => if c.frame.drop then { c with v := { c.v with gloads := c.v.gloads.filter fun g => g.seq != n },
                                              x := { c.x with flights := c.x.flights.map fun f => if f.seq = n then { f with done := .done c.x.count } else f } }
                else { c with v := { c.v with gloads := c.v.gloads.map fun g => if g.seq = n then { g with trapped := false } else g } }
  match c1.frame.entry with
  | none => c1
  | some (u, n) =>
    let st : XState := if c1.frame.drop then .dropped else .queued
    let mark := fun (x : XUnitSt) => { x with queue := x.queue.map fun e => if e.seq = n ∧ e.st = .faulted then { e with st := st } else e }
    match u with
    | .inb => { c1 with inb := mark c1.inb }
    | .outb => { c1 with outb := mark c1.outb }

/-- The factorisation word of a stop goes on after MREM matrix cycles (08 R213; 20 R337, R340): as many as it still had, unless the
supervisor wrote another number. -/
def Matrix.resume (m : Matrix) : Matrix :=
  match m.factor with
  | none => m
  | some f =>
    if !f.held || f.pended then { m with factor := some { f with held := false } }
    else
      let moved := fun (n : Nat) => n + m.mrem.toNat % 2 ^ 32 - (f.due - m.count)
      { m with factor := some { f with due := moved f.due, held := false }, free_ := moved m.free_,
               queue := (match m.queue with | [] => [] | e :: l => { e with occ := moved e.occ } :: l),
               results := m.results.map fun r => if r.last || r.due == f.due then { r with due := moved r.due } else r }

/-- The accesses marked REDO are performed again from a tick on (20 R340): their data arrives after a free number of cycles (log 4). -/
def State.redoLoads (s : State) (at_ : Nat) : State :=
  let pas := fun (g : GLoad) => g.elems.filterMap fun e => match s.translate e.2 false with | .ok pa => some pa | _ => none
  let redo := fun (g : GLoad) => g.again && !g.trapped
  if s.core.v.gloads.any redo then
    let f := s.fresh
    let again := fun (g : GLoad) => if redo g then { g with due := Nat.max at_ (s.servedFrom (pas g)) + Config.loadDelay f.1 * s.core.div.vec } else g
    f.2.updV fun v => { v with gloads := v.gloads.map again }
  else s

/-- Return from an exception (06 R140; 20 R335, R340): C's chain from the frame, or from the snapshot when the frame names a
step strand, whose next word then comes from TFNPC; the primary set and loop stack; every count of the core goes on. -/
def State.returnTrap (s : State) (at_ : Nat) : State :=
  ((s.keepStop.updCore fun c => let k := (c.matSync c.stop).dropEntry; { k with m := k.m.resume }).redoLoads at_).updCore fun c =>
    let chain := if c.frame.strand.isSome then c.c.saved else c.frame.chain
    let same := chain.pc == c.c.saved.pc && chain.rd == c.c.saved.rd
    let c2 : Core := { c with c := { c.c with handler := false, next := c.resume, chain := chain, cond := if same then c.c.held else .running none } }
    let c3 := match c.frame.strand with
      | none => c2
      | some t => c2.setStrand t { c2.strand t with pc := c.frame.fnpc.zeroExtend 32 }
    c3.shift (at_ - c.resume) true

/-! ### A word of C -/

/-- after_word (06 R117), top of the stack first. -/
def afterWord (w : Nat) : List LoopEntry → Nat × List LoopEntry
  | [] => (w + 4, [])
  | e :: rest =>
    if e.last = w then (if 1 < e.count then (e.start, { e with count := e.count - 1 } :: rest) else afterWord w rest)
    else (w + 4, e :: rest)

/-- The chain after the word at its head completed: after a slot, toward the redirection; at the redirection, loop entries
that do not hold the target are popped; else by the loops (05 R90; 06 R116, R117; 20 R335). -/
def CStrand.advance (c : CStrand) : CStrand :=
  if c.chain.rd = 1 then
    let t := c.chain.npc.toNat
    { c.setStack (c.stack.dropWhile fun e => !(decide (e.start ≤ t) && decide (t ≤ e.last))) with
      chain := ⟨c.chain.npc, 0, 0, 0⟩ }
  else if c.chain.rd = 2 then { c with chain := ⟨c.chain.npc, 1, c.chain.nnpc, c.chain.nnpc + 4⟩ }
  else
    let r := afterWord c.chain.pc.toNat c.stack
    { c.setStack r.2 with chain := ⟨BitVec.ofNat 64 r.1, 0, 0, 0⟩ }

/-- C's cycle ended: its count advances except in handler context (20 R331). -/
def State.cTick (s : State) (w : Option WaitPlace) : State :=
  s.updC fun c => { c with count := c.count + (if c.handler then 0 else 1), hcount := c.hcount + (if c.handler then 1 else 0),
                           next := s.now + s.core.div.ctl, cond := .running w }

/-- The word of C completed. -/
def State.cDone (s : State) : State := (s.updC CStrand.advance).cTick none

/-- C waits this cycle at a place (02 R41); in handler context that is a handler fault (20 R341). -/
def State.cWait (s : State) (p : WaitPlace) : State := if s.core.c.handler then s.handlerFault else s.cTick (some p)

/-- The eight branches (05 R90). -/
def isBranch : Instr → Bool
  | .beq _ _ _ => true
  | .bne _ _ _ => true
  | .blt _ _ _ => true
  | .bge _ _ _ => true
  | .bltu _ _ _ => true
  | .bgeu _ _ _ => true
  | .jal _ _ => true
  | .jalr _ _ _ => true
  | _ => false

/-- The word of C's instruction memory at an address is a branch. -/
def Core.branchAt (c : Core) (a : Nat) : Bool :=
  match decode .c (word (Memory.readNat c.imC a 4)) with
  | .ok i => isBranch i
  | .error _ => false

/-- A cause raised precisely at C's word (20 R334): the stop is the end of its issue cycle. -/
def State.cTrap (s : State) (cause : BitVec 8) (tval : Word64) : State :=
  if s.core.c.handler then s.handlerFault
  else (s.cTick none).enterTrap cause 0 true tval none 0 (s.now + s.core.div.ctl)

/-- A word stands in a slot: one of the two words before it in the instruction memory of C is a branch (05 R90). -/
def Core.inSlot (c : Core) : Bool :=
  let pc := c.c.chain.pc.toNat
  (decide (4 ≤ pc) && c.branchAt (pc - 4)) || (decide (8 ≤ pc) && c.branchAt (pc - 8))

/-- Words that may not stand in a slot (05 R90). -/
def slotForbidden : Instr → Bool
  | .loop _ _ => true
  | .loopi _ _ => true
  | .rett => true
  | .texit => true
  | i => isBranch i

/-- C's word breaks the delay-slot rules (05 R90): a forbidden word in a slot, or a slot word or branch that is the last word
of an active body. -/
def Core.slotFault (c : Core) (i : Instr) : Bool :=
  let atLast := c.c.stack.any fun e => e.last == c.c.chain.pc.toNat
  ((slotForbidden i || atLast) && c.inSlot) || (isBranch i && atLast)

/-- One word of C: the slot rules, the interlock on the registers it reads (06 R103), then its effect `k`. -/
def cWord (i : Instr) (srcs : List (BitVec 5)) (k : State → State) (s : State) : Host.Outcome State Fault Refusal :=
  if s.core.slotFault i then .next (s.cTrap 0x02 ((encode i).zeroExtend 64))
  else if srcs.any fun r => s.core.c.missing r then .next (s.cTick (some .scoreboard))
  else if srcs.all fun r => s.core.c.isReady r then .next (k s)
  else .next (s.cTick none)

/-- A context check (06 R102): outside the contexts permitted the word raises cause 0x05 with the word as TVAL,
one of those that 20 R334 lists and that R102 does not choose among: DESIGN CHOICE (log 51). -/
def cIf (ok : Bool) (i : Instr) (k : State → State) (s : State) : State :=
  if ok then k s else s.cTrap 0x05 ((encode i).zeroExtend 64)

/-! ### A word of L, X or S -/

/-- Where a step strand goes after a word: on, to the target of a taken branch, or past a body that a count of 0 skips. -/
inductive Go where
  | on
  | taken (a : Nat)
  | past (a : Nat)
  deriving DecidableEq, Repr

/-- What a word of a step strand comes to: an effect, with its completion and the target of a taken branch; a wait; a
precise fault; or a freeze of the core, after which the word is tried again. -/
inductive WordRes where
  | ok (s : State) (done : Done) (go : Go)
  | wait (p : WaitPlace)
  | fault (cause : BitVec 8) (tval : Word64)
  | freeze (f : Freeze)
  | also (s : State)

/-- A flight is completed at a count of its strand (02 R37). -/
def Flight.isDone (f : Flight) (count : Nat) : Bool :=
  match f.done with
  | .atCount n => decide (n ≤ count)
  | .waiting => false
  | .done _ => true

/-- The count of a word's completion, once it has one. -/
def Flight.at_ (f : Flight) : Nat :=
  match f.done with
  | .atCount n => n
  | .waiting => 0
  | .done n => n

/-- Completed words with nothing to post leave the list; the latest completion among them is kept. -/
def dropDone (count : Nat) : List Flight → Nat → List Flight × Nat
  | [], m => ([], m)
  | f :: l, m => if f.posts.isEmpty && f.isDone count then dropDone count l (Nat.max m f.at_) else (f :: l, m)

/-- The strand with its completed words dropped as far as they stand at the head. -/
def Step.settle (p : Step) : Step :=
  let r := dropDone p.count p.flights p.doneMax
  { p with flights := r.1, doneMax := r.2 }

/-- The strand's cycle ended (07 R151; 17 R292). -/
def State.stepTick (s : State) (t : StepStrand) (w : Option WaitPlace) : State :=
  let s1 := s.updStep t fun p =>
    ({ p with count := p.count + 1, clock := p.clock + 1, next := s.now + s.core.divOf t.strand, cond := .running w }).settle
  match t with
  | .l => s1.updCore fun c => { c with inb := { c.inb with clock := c.inb.clock + 1 } }
  | .s => s1.updCore fun c => { c with outb := { c.outb with clock := c.outb.clock + 1 } }
  | .x => s1

/-- A cycle of a paced gap (17 R296): the strand is frozen and so does not wait (R297), its clock runs, and for L and S the transfer unit runs on. -/
def State.pacedTick (s : State) (t : StepStrand) : State :=
  let s1 := s.updStep t fun p => { p with clock := p.clock + 1, next := s.now + s.core.divOf t.strand, cond := .running none }
  match t with
  | .l => s1.updCore fun c => { c with inb := { c.inb with clock := c.inb.clock + 1 } }
  | .s => s1.updCore fun c => { c with outb := { c.outb with clock := c.outb.clock + 1 } }
  | .x => s1.updM fun m => { m with next := Nat.max m.next (s.now + s.core.div.vec) }

/-- A cause raised precisely at a word of a step strand (20 R333, R334): the word's issue cycle passes, the word has no
effect, and TFPC names it, or the modifier it follows where `pc` says so (05 R97).  A word whose cycle began before a stop that another
cause has made issues again after it, and faults then (log 17). -/
def State.stepTrap (s : State) (t : StepStrand) (cause : BitVec 8) (tval : Word64) (pc : Nat) : State :=
  let src : BitVec 4 := match t with | .l => 1 | .x => 2 | .s => 3
  if s.core.c.handler then s.stepTick t none
  else (s.stepTick t none).enterTrap cause src true tval (some t) pc (s.now + s.core.divOf t.strand)

/-- after_word of the loop counters (07 R175): active loops that end here, most recently started first. -/
def Step.afterLoops (p : Step) (w : Nat) : Step × Nat :=
  let ends := (List.range 4).filter fun i => match p.lc.toList[i]? with | some c => c.active && c.last == w | none => false
  let order : Nat → Nat := fun i => match p.lc.toList[i]? with | some c => c.order | none => 0
  let sorted := sortBy (fun a b => decide (order b ≤ order a)) ends
  let r := sorted.foldl (fun (q : Vector Lc 4 × Option Nat) i =>
    match q.2 with
    | some _ => q
    | none =>
      if h : i < 4 then
        let c := q.1[i]
        if 1 < c.count then (q.1.set i { c with count := c.count - 1 }, some c.start)
        else (q.1.set i { c with count := 0, active := false }, none)
      else q) (p.lc, none)
  ({ p with lc := r.1 }, r.2.getD (w + 4))

/-- Loops whose body does not hold a taken target become inactive (07 R175). -/
def Step.leaveLoops (p : Step) (target : Nat) : Step :=
  { p with lc := p.lc.map fun c => if c.active && !(decide (c.start ≤ target) && decide (target ≤ c.last)) then { c with count := 0, active := false } else c }

/-- The modifier rules of 05 R97: words a pending modifier admits. -/
def admitsModifier (m : Modifier) : Instr → Bool
  | .vadd _ _ _ _ pn => pn == 0
  | .vsub _ _ _ _ pn => pn == 0
  | .vmul _ _ _ _ pn => pn == 0
  | .vmin _ _ _ _ pn => pn == 0 && m.rm == 0
  | .vmax _ _ _ _ pn => pn == 0 && m.rm == 0
  | .vand _ _ _ _ => m.rm == 0
  | .vor _ _ _ _ => m.rm == 0
  | .vxor _ _ _ _ => m.rm == 0
  | .vshl _ _ _ _ => m.rm == 0
  | .vshr _ _ _ _ => m.rm == 0
  | .vsra _ _ _ _ => m.rm == 0
  | .vaddsat _ _ _ _ => m.rm == 0
  | .vsubsat _ _ _ _ => m.rm == 0
  | .vcmp _ _ _ _ _ pn => pn == 0 && m.rm == 0
  | .vabs _ _ _ pn => pn == 0 && m.rm == 0
  | .vneg _ _ _ pn => pn == 0 && m.rm == 0
  | .vnot _ _ _ pn => pn == 0 && m.rm == 0
  | .vmov _ _ _ pn => pn == 0 && m.rm == 0
  | .vrcp _ _ _ pn => pn == 0
  | .vrsqrt _ _ _ pn => pn == 0
  | .vsqrt _ _ _ pn => pn == 0
  | .vexp2 _ _ _ pn => pn == 0
  | .vlog2 _ _ _ pn => pn == 0
  | .vred _ _ _ _ pn => pn == 0 && m.zero == 0
  | .vsel _ _ _ _ pn => pn == 0 && m.rm == 0
  | .vperm _ _ _ _ => m.rm == 0
  | .vzip _ _ _ _ => m.rm == 0
  | .vunzip _ _ _ _ => m.rm == 0
  | .vslide _ _ _ _ => m.rm == 0
  | .vsplat _ _ _ => m.rm == 0
  | .vbcast _ _ _ _ => m.rm == 0
  | .vcvt _ _ _ _ _ => true
  | .vhad _ _ _ _ _ => m.rm == 0 && m.pn == 0 && m.inv == 0 && m.zero == 0
  | .vmaxe _ _ _ => m.rm == 0 && m.pn == 0 && m.inv == 0 && m.zero == 0
  | .vq _ _ _ _ _ => m.rm == 0 && m.pn == 0 && m.inv == 0 && m.zero == 0
  | .vdq _ _ _ _ _ => m.pn == 0 && m.inv == 0 && m.zero == 0
  | .vdqInv _ _ _ _ _ _ => m.pn == 0 && m.inv == 0 && m.zero == 0
  | .vld _ _ _ _ pn => pn == 0 && m.rm == 0
  | .vst _ _ _ _ pn => pn == 0 && m.rm == 0
  | .vldFf _ _ _ _ pn => pn == 0 && m.rm == 0
  | .vldx _ _ _ _ pn => pn == 0 && m.rm == 0
  | .vstx _ _ _ _ pn => pn == 0 && m.rm == 0
  | .vfma _ _ _ _ _ => true
  | .vfms _ _ _ _ _ => true
  | .vfnma _ _ _ _ _ => true
  | _ => false

/-- A word after a modifier that does not admit it (05 R97): the modifier is cleared, TFPC names it, TVAL is the word.  It stays where the fault is
raised after a stop only, with the word (log 17). -/
def State.modifierFault (s : State) (m : Modifier) (w : Word32) : State :=
  (if s.core.c.handler then s else s.updV fun v => { v with modif := none }).stepTrap .x 0x01 (w.zeroExtend 64) m.pc.toNat

/-- Tokens a word needs from its hitch queue and its own operand queue (02 R37, 07 R177), per queue. -/
def tokensSeen (s : State) (t : StepStrand) (wants : List (BitVec 2)) : Option (Fin 12) :=
  (wants.map (inQ t.strand)).find? fun n =>
    decide ((s.core.hq[n]).seen s.now < ((wants.map (inQ t.strand)).filter (· == n)).length)

/-- The tokens taken in the issue cycle. -/
def State.takeTokens (s : State) (t : StepStrand) (wants : List (BitVec 2)) : State :=
  wants.foldl (fun s p =>
    let n := inQ t.strand p
    (s.updCore fun c => c.updHq n fun q => q.pop s.now (s.now + c.divOf t.strand)).comeAfter t.strand (s.core.hq[n]).headAfter) s

/-- The posts of a strand whose words, and every earlier word of it, have completed (02 R37): the word's number, the partner code, and
the count of the latest completion, in order. -/
def Step.ripePosts (p : Step) : List (Nat × BitVec 2 × Nat) :=
  ((p.flights.takeWhile fun f => f.isDone p.count).foldl (fun (a : List (Nat × BitVec 2 × Nat) × Nat) f =>
    let m := Nat.max a.2 f.at_
    (a.1 ++ f.posts.map fun q => (f.seq, q, m), m)) ([], p.doneMax)).1

/-- A post of the strand toward a partner is held: its word and the earlier ones have completed, and its queue is full (02 R37). -/
def Core.heldPost (c : Core) (t : StepStrand) (now : Nat) (p : BitVec 2) : Bool :=
  (c.strand t).ripePosts.any (fun r => r.2.1 == p) && !(c.hq[outQ t.strand p]).room hitchDepth now

/-- A partner code of a hitch field as a list: none for 0. -/
def codes (p : BitVec 2) : List (BitVec 2) := if p = 0 then [] else [p]

/-- The word issues (02 R37; 05 R97; 07 R175, R176): its tokens are taken, the strand goes on, the word is in flight with its posts, a
pending modifier is used up, and the cycle ends.  `p` is the strand as the word found it. -/
def State.issueWord (s' : State) (t : StepStrand) (i : Instr) (paced : Bool) (wants posted : List (BitVec 2)) (p : Step) (done : Done)
    (go : Go) : State :=
  let s1 := s'.takeTokens t wants
  let s2 := s1.updStep t fun q =>
    let r := match go with
      | .on => q.afterLoops p.pc.toNat
      | .taken a => (q.leaveLoops a, a)
      | .past a => (q, a)
    { r.1 with pc := BitVec.ofNat 32 r.2, seq := p.seq + 1,
               lastPace := if paced then some p.clock else p.lastPace,
               flights := q.flights ++ [⟨p.seq + 1, done, posted⟩] }
  let s3 := match t with
    | .x => if (match i with | .vectorModifier _ _ _ _ => false | _ => true) then s2.updV fun v => { v with modif := none } else s2
    | _ => s2
  s3.stepTick t none

/-- The gap of a paced word has not passed since the last one (17 R296). -/
def State.tooSoon (s : State) (t : StepStrand) : Bool :=
  match (s.core.strand t).lastPace with
  | some c => decide ((s.core.strand t).clock < c + s.gap t)
  | none => false

/-- The core frozen at a word of a step strand, which is frozen with it and so does not wait (17 R297). -/
def State.freezeAt (s : State) (t : StepStrand) (f : Freeze) : State := (s.updStep t fun p => { p with cond := .running none }).freezeCore f

/-- One word of L, X or S (02 R37; 05 R97; 17 R294, R296).  `paced` says that a pacing register applies; `tokens` and `posts`
are those of a twait or tpost word itself; `act` is what the word does once nothing holds it. -/
def stepWord (t : StepStrand) (h : Hitch) (i : Instr) (paced : Bool) (tokens posts : List (BitVec 2)) (act : State → WordRes)
    (s : State) : State :=
  let wants := codes h.wait ++ tokens
  let posted := codes h.post ++ posts
  let p := s.core.strand t
  let bad := match t, s.core.v.modif with
    | .x, some m => if admitsModifier m i then none else some m
    | _, _ => none
  match bad with
  | some m => s.modifierFault m (encode i)
  | none =>
    match tokensSeen s t wants with
    | some n => s.stepTick t (some (.hitch n.val false))
    | none =>
      match posted.find? (s.core.heldPost t s.now) with
      | some q => s.stepTick t (some (.hitch (outQ t.strand q).val true))
      | none => stepAct t i paced wants posted p act s
where
  /-- The word with no hitch condition left. -/
  stepAct (t : StepStrand) (i : Instr) (paced : Bool) (wants posted : List (BitVec 2)) (p : Step) (act : State → WordRes)
      (s : State) : State :=
    if paced && s.tooSoon t then s.pacedTick t
    else match act s with
    | .wait w => s.stepTick t (some w)
    | .fault c v => s.stepTrap t c v p.pc.toNat
    | .freeze f => if s.core.c.handler then s.stepTick t none else s.freezeAt t f
    | .also s' => s'
    | .ok s' done go => s'.issueWord t i paced wants posted p done go

/-- A result on its way to a g register, two cycles after issue (07 R174). -/
def State.gLatch (s : State) (t : StepStrand) (d : BitVec 4) (v : Word64) : State :=
  s.updStep t fun p => { p with latches := p.latches ++ [⟨p.count + 2, d, v, p.count, p.pc⟩] }

/-- A write of C to the strand's flags replaces them (06 R133). -/
def Step.takeFlags (p : Step) (now : Nat) : Step :=
  match p.flagSet with
  | some (f, since) => if since ≤ now then { p with fflags := f, flagSet := none } else p
  | none => p

/-- What a step strand's cycle begins with: a flag write that has become due (06 R133) and g results that arrive (07 R174). -/
def State.beginCycle (s : State) (t : StepStrand) : State :=
  s.updStep t fun p =>
    let p1 := p.takeFlags s.now
    { (p1.latches.filter fun l => decide (l.due ≤ p1.count)).foldl (fun q l => q.writeG l.reg l.value) p1 with
      latches := p1.latches.filter fun l => !decide (l.due ≤ p1.count) }

end Sys2Proof.Machine
end

