-- ==== Sys2Proof/Machine/Operands.lean ====
section
/-!
DEFINITION. Operand forms: the immediates and targets of C (05 R85, 06 R106, R107, R114, R115), the lanes, predicates and
window names of vector words (07 R144 to R149), and the tile a handle and two scalars name (09 R216).
-/
namespace Sys2Proof.Machine

/-! ### C -/

/-- imm15, sign-extended (06 R106). -/
def imm15 (i : BitVec 15) : Word64 := i.signExtend 64

/-- imm20, sign-extended and moved up by 15 (06 R107). -/
def imm20 (i : BitVec 20) : Word64 := i.signExtend 64 <<< 15

/-- An amount of imm15[5:0] as the register form takes it. -/
def amount (n : BitVec 6) : Word64 := n.zeroExtend 64

/-- pc + 4 * off15 (06 R114, R117), as an integer. -/
def target15 (pc : Word64) (o : BitVec 15) : Int := (pc.toNat : Int) + 4 * o.toInt

/-- pc + 4 * off20 (06 R115), as an integer. -/
def target20 (pc : Word64) (o : BitVec 20) : Int := (pc.toNat : Int) + 4 * o.toInt

/-- A target inside the 64 KiB of instruction memory (06 R116). -/
def targetOk (t : Int) : Bool := decide (0 ≤ t) && decide (t < 0x10000)

/-! ### Lanes of a vector word -/

/-- Lanes of one vector register under a type (07 R144). -/
def lanesOf (t : Nat) : Nat := 4096 / laneWidth t

/-- Bytes of one vector register (07 R144). -/
abbrev vregBytes : Nat := 512

end Sys2Proof.Machine
end

