-- ==== Sys2Proof/Machine/CAlu.lean ====
section
/-!
DEFINITION. C: arithmetic and logic (06 R105 to R107).
-/
namespace Sys2Proof.Machine

/-- A word of C that computes one result: s[d] receives v, ready after a latency (06 R103). -/
def State.result (s : State) (d : BitVec 5) (v : Word64) (latency : Nat) : State := (s.setS d v latency).cDone

/-- A register form over s[a] and s[b] (06 R105). -/
def aluR (i : Instr) (d a b : BitVec 5) (latency : Nat) (f : Word64 → Word64 → Word64) (s : State) : Host.Outcome State Fault Refusal :=
  cWord i [a, b] (fun s => s.result d (f (s.core.c.read a) (s.core.c.read b)) latency) s

/-- A form over s[a] alone. -/
def aluU (i : Instr) (d a : BitVec 5) (f : Word64 → Word64) (s : State) : Host.Outcome State Fault Refusal :=
  cWord i [a] (fun s => s.result d (f (s.core.c.read a)) 1) s

/-- A truth value as a register value. -/
def ofBool (b : Bool) : Word64 := if b then 1 else 0

/-- Bits [127:64] of the exact signed product (06 R105). -/
def mulhS (x y : Word64) : Word64 := BitVec.ofInt 64 (x.toInt * y.toInt / (2 ^ 64 : Nat))

/-- Bits [127:64] of the exact unsigned product (06 R105). -/
def mulhU (x y : Word64) : Word64 := BitVec.ofNat 64 (x.toNat * y.toNat / 2 ^ 64)

/-- An earlier divide of the context has not finished (06 R103). -/
def CStrand.dividing (c : CStrand) : Bool := decide (c.cycles < (if c.handler then c.shDivFree else c.divFree))

/-- A divide begins: the next waits four cycles (06 R103). -/
def CStrand.divide (c : CStrand) : CStrand :=
  if c.handler then { c with shDivFree := c.hcount + 4 } else { c with divFree := c.count + 4 }

/-- A divide: held until an earlier divide has finished (06 R103). -/
def aluDiv (i : Instr) (d a b : BitVec 5) (f : Word64 → Word64 → Word64) (s : State) : Host.Outcome State Fault Refusal :=
  cWord i [a, b] (fun s =>
    if s.core.c.dividing then s.cTick none
    else (s.updC CStrand.divide).result d (f (s.core.c.read a) (s.core.c.read b)) 4) s

/-- The low bits of a value that ext.s and ext.z name: w is the width in bytes (06 R105). -/
def extSFn (w : BitVec 5) (x : Word64) : Word64 :=
  if w = 1 then (x.truncate 8).signExtend 64 else if w = 2 then (x.truncate 16).signExtend 64 else (x.truncate 32).signExtend 64
def extZFn (w : BitVec 5) (x : Word64) : Word64 :=
  if w = 1 then (x.truncate 8).zeroExtend 64 else if w = 2 then (x.truncate 16).zeroExtend 64 else (x.truncate 32).zeroExtend 64

/-- The amount of a shift: the low six bits of the second operand (06 R105). -/
def shiftAmount (y : Word64) : Nat := y.toNat % 64

def shlFn (x y : Word64) : Word64 := x <<< shiftAmount y
def shrFn (x y : Word64) : Word64 := x >>> shiftAmount y
def sraFn (x y : Word64) : Word64 := x.sshiftRight (shiftAmount y)
def sltFn (x y : Word64) : Word64 := ofBool (x.slt y)
def sltuFn (x y : Word64) : Word64 := ofBool (x.ult y)
def divuFn (x y : Word64) : Word64 := if y = 0 then BitVec.allOnes 64 else x / y
def remuFn (x y : Word64) : Word64 := if y = 0 then x else x % y

def execAdd (d a b : BitVec 5) (s : State) : Host.Outcome State Fault Refusal := aluR (.add d a b) d a b 1 (· + ·) s
def execSub (d a b : BitVec 5) (s : State) : Host.Outcome State Fault Refusal := aluR (.sub d a b) d a b 1 (· - ·) s
def execAnd (d a b : BitVec 5) (s : State) : Host.Outcome State Fault Refusal := aluR (.and d a b) d a b 1 (· &&& ·) s
def execOr (d a b : BitVec 5) (s : State) : Host.Outcome State Fault Refusal := aluR (.or d a b) d a b 1 (· ||| ·) s
def execXor (d a b : BitVec 5) (s : State) : Host.Outcome State Fault Refusal := aluR (.xor d a b) d a b 1 (· ^^^ ·) s
def execShl (d a b : BitVec 5) (s : State) : Host.Outcome State Fault Refusal := aluR (.shl d a b) d a b 1 shlFn s
def execShr (d a b : BitVec 5) (s : State) : Host.Outcome State Fault Refusal := aluR (.shr d a b) d a b 1 shrFn s
def execSra (d a b : BitVec 5) (s : State) : Host.Outcome State Fault Refusal := aluR (.sra d a b) d a b 1 sraFn s
def execSlt (d a b : BitVec 5) (s : State) : Host.Outcome State Fault Refusal := aluR (.slt d a b) d a b 1 sltFn s
def execSltu (d a b : BitVec 5) (s : State) : Host.Outcome State Fault Refusal := aluR (.sltu d a b) d a b 1 sltuFn s
def execSeq (d a b : BitVec 5) (s : State) : Host.Outcome State Fault Refusal := aluR (.seq d a b) d a b 1 (fun x y => ofBool (x == y)) s
def execMin (d a b : BitVec 5) (s : State) : Host.Outcome State Fault Refusal := aluR (.min d a b) d a b 1 (fun x y => if y.slt x then y else x) s
def execMax (d a b : BitVec 5) (s : State) : Host.Outcome State Fault Refusal := aluR (.max d a b) d a b 1 (fun x y => if x.slt y then y else x) s
def execMinu (d a b : BitVec 5) (s : State) : Host.Outcome State Fault Refusal := aluR (.minu d a b) d a b 1 (fun x y => if y.ult x then y else x) s
def execMaxu (d a b : BitVec 5) (s : State) : Host.Outcome State Fault Refusal := aluR (.maxu d a b) d a b 1 (fun x y => if x.ult y then y else x) s
def execMul (d a b : BitVec 5) (s : State) : Host.Outcome State Fault Refusal := aluR (.mul d a b) d a b 3 (· * ·) s
def execMulh (d a b : BitVec 5) (s : State) : Host.Outcome State Fault Refusal := aluR (.mulh d a b) d a b 3 mulhS s
def execMulhu (d a b : BitVec 5) (s : State) : Host.Outcome State Fault Refusal := aluR (.mulhu d a b) d a b 3 mulhU s
def execDivu (d a b : BitVec 5) (s : State) : Host.Outcome State Fault Refusal := aluDiv (.divu d a b) d a b divuFn s
def execRemu (d a b : BitVec 5) (s : State) : Host.Outcome State Fault Refusal := aluDiv (.remu d a b) d a b remuFn s
def execClz (d a : BitVec 5) (s : State) : Host.Outcome State Fault Refusal := aluU (.clz d a) d a (fun x => BitVec.ofNat 64 (leadingZeros 64 x.toNat)) s
def execPopc (d a : BitVec 5) (s : State) : Host.Outcome State Fault Refusal := aluU (.popc d a) d a (fun x => BitVec.ofNat 64 (popCount 64 x.toNat)) s
def execExtS (d a w : BitVec 5) (s : State) : Host.Outcome State Fault Refusal := aluU (.extS d a w) d a (extSFn w) s
def execExtZ (d a w : BitVec 5) (s : State) : Host.Outcome State Fault Refusal := aluU (.extZ d a w) d a (extZFn w) s

def execAddi (d a : BitVec 5) (i : BitVec 15) (s : State) : Host.Outcome State Fault Refusal := aluU (.addi d a i) d a (· + imm15 i) s
def execAndi (d a : BitVec 5) (i : BitVec 15) (s : State) : Host.Outcome State Fault Refusal := aluU (.andi d a i) d a (· &&& imm15 i) s
def execOri (d a : BitVec 5) (i : BitVec 15) (s : State) : Host.Outcome State Fault Refusal := aluU (.ori d a i) d a (· ||| imm15 i) s
def execXori (d a : BitVec 5) (i : BitVec 15) (s : State) : Host.Outcome State Fault Refusal := aluU (.xori d a i) d a (· ^^^ imm15 i) s
def execShli (d a : BitVec 5) (n : BitVec 6) (s : State) : Host.Outcome State Fault Refusal := aluU (.shli d a n) d a (fun x => shlFn x (amount n)) s
def execShri (d a : BitVec 5) (n : BitVec 6) (s : State) : Host.Outcome State Fault Refusal := aluU (.shri d a n) d a (fun x => shrFn x (amount n)) s
def execSrai (d a : BitVec 5) (n : BitVec 6) (s : State) : Host.Outcome State Fault Refusal := aluU (.srai d a n) d a (fun x => sraFn x (amount n)) s
def execSlti (d a : BitVec 5) (i : BitVec 15) (s : State) : Host.Outcome State Fault Refusal := aluU (.slti d a i) d a (fun x => sltFn x (imm15 i)) s
def execSltui (d a : BitVec 5) (i : BitVec 15) (s : State) : Host.Outcome State Fault Refusal := aluU (.sltui d a i) d a (fun x => sltuFn x (imm15 i)) s

/-- lui (06 R107). -/
def execLui (d : BitVec 5) (i : BitVec 20) (s : State) : Host.Outcome State Fault Refusal :=
  cWord (.lui d i) [] (fun s => s.result d (imm20 i) 1) s

/-- apc (06 R107). -/
def execApc (d : BitVec 5) (i : BitVec 20) (s : State) : Host.Outcome State Fault Refusal :=
  cWord (.apc d i) [] (fun s => s.result d (s.core.c.chain.pc + imm20 i) 1) s

end Sys2Proof.Machine
end

