-- ==== Sys2Proof/Machine/Paging.lean ====
section
/-!
DEFINITION. Page requests and parked tasks (20 R343; 02 R25), the end of a translation walk (11 R260; 20 R342, R344), and the
page-wise check of an access that spans many bytes.
-/
namespace Sys2Proof.Machine

/-- Entries of the supervisor's page-request ring (20 R343). -/
abbrev pageRing : Nat := 192

/-- The 64 KiB page of an address. -/
def pageOf (va : Nat) : Nat := va / 65536

/-- A request names a page of a context. -/
def PageReq.names (r : PageReq) (ctx : BitVec 16) (va : Nat) : Bool := r.ctx == ctx && pageOf r.va == pageOf va

/-- The requests between PGCONS and PGPROD. -/
def Xlat.open_ (x : Xlat) : List PageReq :=
  (List.range (x.prod.toNat - x.cons.toNat)).filterMap fun i => nth x.ring ((x.cons.toNat + i) % pageRing) none

/-- A request written at PGPROD, or kept in the unit while the ring is full (20 R343). -/
def Xlat.enter (x : Xlat) (r : PageReq) : Xlat :=
  if x.prod.toNat - x.cons.toNat < pageRing then
    { x with ring := setNth x.ring (x.prod.toNat % pageRing) (some r), prod := x.prod + 1 }
  else { x with queued := x.queued ++ [r] }

/-- A page request, coalesced with one for the same page of the same context (20 R343). -/
def Xlat.request (x : Xlat) (r : PageReq) : Xlat :=
  if (x.open_ ++ x.queued).any fun o => o.names r.ctx r.va then x else x.enter r

/-- Queued requests moved into the ring as far as there is room. -/
def Xlat.drain (x : Xlat) : Xlat := x.queued.foldl Xlat.enter { x with queued := [] }

/-- A page request of a context. -/
def State.pageRequest (s : State) (ctx : BitVec 16) (va : Nat) (write pinned : Bool) : State :=
  { s with xlat := s.xlat.request ⟨va, ctx, write, pinned⟩ }

/-- A page-not-present fault of the task in focus (02 R25; 20 R341, R342): a pinned task freezes until the page is mapped;
any other is parked, and its core is freed. -/
def State.pageAbsent (s : State) (va : Nat) (write : Bool) : State :=
  match s.core.task with
  | none => s
  | some t =>
    let s1 := s.pageRequest s.core.csr.ctxid va write t.pinned
    if t.pinned then s1.freezeCore (.pager va write) else s1.abortTask .parked (some (pageOf va))

/-- Entries of a core's translation buffer and of a die's translation cache (20 R344). -/
abbrev tlbEntries : Nat := 512
abbrev dieEntries : Nat := 65536

/-- The first n of a die's translations, and every one of the other dies. -/
def boundDie (die n : Nat) : List (Nat × Held) → List (Nat × Held)
  | [] => []
  | e :: l => if e.1 ≠ die then e :: boundDie die n l else match n with
    | 0 => boundDie die 0 l
    | k + 1 => e :: boundDie die k l

/-- A translation held by the core in focus and its die, the oldest dropped where there is no room (20 R344; the choice is log 7's). -/
def State.hold (s : State) (h : Held) : State :=
  { s with xlat := { s.xlat with held := boundDie s.core.die dieEntries ((s.core.die, h) :: s.xlat.held) },
           core := { s.core with tlb := (h :: s.core.tlb).take tlbEntries } }

/-- What the byte at an address answers when nothing need be walked: the held translation or the walk itself. -/
inductive Probe where
  | ok (pa : Nat)
  | absent
  | bad (cause : BitVec 8)
  deriving DecidableEq, Repr

/-- The outcome of an access to one byte: a held translation first, else a walk at once (11 R260). -/
def State.probe (s : State) (va : Nat) (write : Bool) : Probe :=
  match s.translate va write with
  | .ok pa => .ok pa
  | .bad c => .bad (BitVec.ofNat 8 c)
  | .miss =>
    match s.walk s.core.csr.ctxid va with
    | .absent => .absent
    | .malformed => .bad 0x05
    | .poisoned => .bad 0x0C
    | .leaf h =>
      match (s.hold h).translate va write with
      | .ok pa => .ok pa
      | _ => .bad 0x05

/-- What one page of an access comes to for a word that may be held: ready, a walk, or a fault. -/
inductive Page where
  | ok (pa : Nat)
  | walk
  | bad (cause : BitVec 8)
  deriving DecidableEq, Repr

/-- The page of an address for a word (11 R260; 20 R344): a walk that will find an entry or none freezes the core, and so does a
stack that is not ready (23 R366), of the page or of an entry; a malformed or poisoned entry answers at once (log 4). -/
def State.page (s : State) (va : Nat) (write : Bool) : Page :=
  match s.translate va write with
  | .ok pa => if s.waitsHome pa then .walk else .ok pa
  | .bad c => .bad (BitVec.ofNat 8 c)
  | .miss =>
    if s.walkWaits va then .walk
    else match s.walk s.core.csr.ctxid va with
    | .malformed => .bad 0x05
    | .poisoned => .bad 0x0C
    | _ => .walk

/-- A translation that a walk found, held for the core from now on (20 R344). -/
def State.keepPage (s : State) (va : Nat) (h : Held) : State :=
  match s.heldFor s.core.csr.ctxid va with
  | some k => s.updCore fun c => { c with tlb := (k :: c.tlb.erase k).take tlbEntries }
  | none => (s.walkReads va).hold h

/-- The translation of a page that an access made again needs, walked for and held where none is (20 R344). -/
def State.keepWalked (s : State) (va : Nat) : State :=
  match s.translate va false, s.walk s.core.csr.ctxid va with
  | .miss, .leaf h => s.keepPage va h
  | _, _ => s

/-- The walk that the frozen core waits for has ended (20 R344; 02 R25): the core goes on with the translation once the stack is
ready (23 R366), or the page is not present. -/
def State.walkEnds (s : State) (va : Nat) (write : Bool) : State :=
  if s.walkWaits va then s
  else match s.walk s.core.csr.ctxid va with
  | .leaf h =>
    if s.waitsHome (h.pa + (va - h.va)) then s.keepPage va h else (s.keepPage va h).unfreeze
  | .absent =>
    if s.core.task.isNone then (s.unfreeze).cTrap 0x04 (BitVec.ofNat 64 va)
    else (s.unfreeze).pageAbsent va write
  | _ => s.unfreeze

/-- An access of C to one byte's page: its translation, or the fault or freeze it meets (06 R104).  In handler context too a
walk holds C until it ends; an absent page then parks the task (20 R341). -/
def State.cPage (s : State) (va : Nat) (write : Bool) (k : Nat → State → State) : State :=
  match s.page va write with
  | .ok pa => k pa s
  | .bad c => s.cTrap c (BitVec.ofNat 64 va)
  | .walk => s.freezeCore (.walk va write)

end Sys2Proof.Machine
end

