-- ==== Sys2Proof/Machine/Snapshot.lean ====
section
/-!
DEFINITION. The snapshot block of a core (20 R337 to R339): what the supervisor reads at offsets 0x0F00_0000 to 0x0F00_FFFF of
a core's window, and how what it writes there comes into the core's state (log 21).
-/
namespace Sys2Proof.Machine

/-- A truth value as a bit. -/
def b2n (b : Bool) : Nat := if b then 1 else 0

/-- The byte at a place of a block of bytes, 0 past its end. -/
def byteAt (l : List Byte) (i : Nat) : Byte := nth l i 0

/-- Doublewords as bytes. -/
def dwords (l : List Nat) : List Byte := l.flatMap (leBytes 8)

/-- A word of an instruction memory. -/
def imWord (m : List Host.Cell) (pc : Nat) : Nat := Memory.readNat m pc 4

/-- A loop stack, bottom first, with its depth in the top entry's start (20 R337). -/
def snapLoops (l : List LoopEntry) : List Byte :=
  let up := l.reverse
  dwords ((List.range 4).flatMap fun i =>
    match up[i]? with
    | none => [0, 0, 0]
    | some e => [e.start + (if i + 1 = up.length then up.length * 2 ^ 56 else 0), e.last, e.count])

/-- The modifier word that is pending (05 R97). -/
def Modifier.word (m : Modifier) : Nat := (encode (.vectorModifier m.pn m.inv m.zero m.rm)).toNat

/-- The partner code of a held post and whether one is held. -/
def heldBits (c : Core) (t : StepStrand) : Nat :=
  match (c.strand t).ripePosts with
  | r :: _ => r.2.1.toNat + 4
  | [] => 0

/-- A strand block (20 R338). -/
def snapStrand (c : Core) (t : StepStrand) : List Byte :=
  let p := c.strand t
  let modif := match t, c.v.modif with
    | .x, some m => m.word * 2 ^ 32 + 2 ^ 31
    | _, _ => 0
  let waiting := match p.cond with | .running (some _) => true | _ => false
  dwords ([p.pc.toNat % 2 ^ 17 + b2n (p.cond == .ended) * 2 ^ 17 + b2n waiting * 2 ^ 18 + p.brqLeft * 2 ^ 19,
           heldBits c t + modif, p.fflags.toNat,
           match p.lastPace with | some l => sat 255 (p.clock - l) | none => 255]
    ++ p.g.toList.map (·.toNat)
    ++ p.lc.toList.flatMap (fun l => [l.count, l.start + l.last * 2 ^ 16 + b2n l.active * 2 ^ 32])
    ++ [p.count])

/-- VSH, VWB and VROT (07 R144, R145). -/
def snapVec (v : Vec) : List Byte :=
  dwords [v.type_.toNat, v.wbase, v.left * 2 ^ 32 + v.koff * 2 ^ 22 + v.off * 2 ^ 16 + v.size * 2 ^ 8 + v.base]

/-- The predicates p1 to p15. -/
def snapPreds (v : Vec) : List Byte := (v.p.toList.drop 1).flatMap fun b => leBytes 128 (ofBits b)

/-- A k register (20 R337). -/
def snapK (k : KReg) : List Byte := k.e.flatMap (fun i => leBytes 2 (ofI 16 i)) ++ leBytes 64 k.sc

/-- Numbers of items: hitch counts, data depths with fq at byte 12, and items not yet visible at the stop. -/
def snapQueues (c : Core) : List Byte :=
  let len := fun (q : Queue) => BitVec.ofNat 8 q.items.length
  let late := fun (q : Queue) => BitVec.ofNat 8 (q.items.filter fun i => decide (c.stop < i.since)).length
  (c.hq.toList.map len ++ List.replicate 4 0) ++ (c.dq.toList.map len ++ len c.fq :: List.replicate 3 0)
    ++ (c.hq.toList.map late ++ late c.fq :: List.replicate 3 0) ++ (c.dq.toList.map late ++ List.replicate 4 0)

/-- Sixteen words of a queue, head first. -/
def snapItems (q : Queue) : List Byte := dwords ((List.range 16).map fun i => (q.items.map (·.word.toNat)).getD i 0)

/-- The resident-B record (08 R181). -/
def snapResB (r : ResB) : List Byte :=
  leBytes 32 (b2n r.loaded + r.bt * 2 ^ 8 + r.kb * 2 ^ 16 + r.nb * 2 ^ 32 + r.sp * 2 ^ 48 + r.btag * 2 ^ 64 + r.home * 2 ^ 80
    + ofI 64 r.row0 * 2 ^ 96 + ofI 64 r.col0 * 2 ^ 160)

/-- A tag record (20 R337). -/
def snapTag (r : Option TagRec) : List Byte :=
  match r with
  | none => leBytes 8 0
  | some r =>
    let s := fun (p : Option (Nat × Nat)) => (p.getD (0, 0)).1
    let k := fun (p : Option (Nat × Nat)) => (p.getD (0, 0)).2
    leBytes 8 (1 + b2n r.rho * 2 + b2n r.aout.isSome * 4 + b2n r.bout.isSome * 8 + s r.aout * 16 + s r.bout * 128
      + k r.aout * 2 ^ 16 + k r.bout * 2 ^ 24)

/-- The operation pops a format word (02 R38). -/
def MOp.popsFormat : MOp → Bool
  | .mzero _ => false
  | .mfst => false
  | .mtest => false
  | _ => true

/-- An entry of the command queue (20 R337). -/
def snapEntry (c : Core) (e : MEntry) : List Byte :=
  let left := match e.start with
    | none => e.occ
    | some st => st + e.occ - c.m.count
  dwords [e.word.toNat, e.fmt.toNat, ofI 32 e.row0 + ofI 32 e.col0 * 2 ^ 32,
          left % 2 ^ 32 + b2n e.start.isSome * 2 ^ 32 + b2n e.op.popsFormat * 2 ^ 33]

/-- A nest's table and format word. -/
def snapNest : Option Nest → List Byte
  | none => List.replicate 120 0
  | some n => dwords (n.table.toList.map (·.toNat) ++ [n.fmt.toNat])

/-- An entry of a transfer unit, in the order of R337. -/
def snapXfer (t : Option Task) (e : Xfer) : List Byte :=
  let st := match e.st with | .queued => 0 | .moving => 1 | .faulted => 2 | .dropped => 2
  let ident := match (match e.op with | .tfar _ => t | _ => none) with
    | some t => t.vdie + t.vcore * 2 ^ 8 + t.ord % 2 ^ 24 * 2 ^ 16 + e.idx * 2 ^ 40
    | none => 0
  dwords [e.word.toNat, e.a.toNat, e.b.toNat, e.moved, st, e.issue, ident, 0]

/-- A ring in 64 bytes; DIRTY shows its first 128 bits. -/
def snapRing (r : Ring) : List Byte :=
  dwords [b2n r.open_ + b2n r.write * 2 + r.h * 2 ^ 8 + r.d * 2 ^ 32 + r.a * 2 ^ 48, r.base + r.pitch * 2 ^ 32, r.row0 + r.f * 2 ^ 32,
          r.col0 + r.nc * 2 ^ 32, ofBits (r.dirty.take 64), ofBits ((r.dirty.drop 64).take 64), 0, 0]

/-! ### Latches -/

/-- Where a latch entry comes from: target j of vector result i, target j of global load i, result i of a strand, a register of C whose result has not
arrived, or a load of C that missed. -/
inductive LatchSrc where
  | vec (i j : Nat)
  | load (i j : Nat)
  | strand (t : StepStrand) (i : Nat)
  | reg (r : Nat)
  | missed (i : Nat)
  deriving DecidableEq, Repr

/-- One latch entry before slots are given: kind, target, value, issue, rem, flags, scoreboarded, whether inactive lanes are written 0,
whether the access is performed again, pc, data blocks of 512 bytes, and where it comes from. -/
structure SnapLatch where
  kind  : Nat
  target : Nat
  val   : Nat
  issue : Nat
  rem   : Nat
  flg   : Nat
  sb    : Bool
  zero  : Bool
  redo  : Bool
  pc    : Nat
  data  : List (List Byte)
  src   : LatchSrc

/-- Lanes of a vector register as bytes. -/
def laneBytes (w : Nat) (l : List (Option Nat)) : List Byte := leBytes 512 (joinLanes w (l.map (·.getD 0)))

/-- The write mask of a register group, one bit per element in interleave order (07 R149; 20 R339). -/
def groupMask (regs : List (List Bool)) : List Byte :=
  let r := regs.length
  leBytes 512 (ofBits ((List.range (r * (regs.head?.map List.length).getD 0)).map fun j => nth (nth regs (j % r) []) (j / r) false))

/-- The targets of a latch with the numbers of their entries: its register group is one entry, every other target one. -/
def numberTargets (ts : List LatchTarget) : List (LatchTarget × Nat) :=
  let isReg := fun (t : LatchTarget) => match t with | .vreg _ _ _ => true | _ => false
  (ts.foldl (fun (p : List (LatchTarget × Nat) × Nat) t => if isReg t then (p.1 ++ [(t, 0)], p.2) else (p.1 ++ [(t, p.2)], p.2 + 1))
    ([], if ts.any isReg then 1 else 0)).1

/-- The latch entries of a vector result or a load.  `act` says which lanes of one register are active where the entry does not write them all, and
`held` that the values are there. -/
def snapTargets (ts : List LatchTarget) (issue rem flg : Nat) (sb held zero redo : Bool) (act : Option (List Bool)) (pc va : Nat)
    (src : Nat → LatchSrc) : List SnapLatch :=
  let groups := ts.filterMap fun t => match t with | .vreg p w l => some (p, w, l) | _ => none
  let mask := fun (l : List (Option Nat)) => match act with
    | some a => l.zipIdx.map fun x => (x.1.isSome || !held) && nth a x.2 false
    | none => l.map Option.isSome
  let group : List SnapLatch := match groups with
    | [] => []
    | (p, _, _) :: _ => [⟨1, p, if sb then va else 0, issue, rem, flg, sb, zero, redo, pc,
        (if held then groups.map fun g => laneBytes g.2.1 g.2.2 else []) ++ [groupMask (groups.map fun g => mask g.2.2)], src 0⟩]
  group ++ (numberTargets ts).filterMap fun t => match t.1 with
    | .vreg _ _ _ => none
    | .pred p b => some ⟨2, p.toNat, 0, issue, rem, flg, sb, false, redo, pc,
        [leBytes 512 (ofBits (b.map (·.getD false))), leBytes 512 (ofBits (b.map Option.isSome))], src t.2⟩
    | .kshift k rows => some ⟨3, k, 0, issue, rem, flg, sb, false, redo, pc, [rows.flatMap fun i => leBytes 2 (ofI 16 i)], src t.2⟩
    | .ksc k sc => some ⟨4, k, sc, issue, rem, flg, sb, false, redo, pc, [], src t.2⟩
    | .greg g v => some ⟨6, g.toNat, v.toNat, issue, rem, flg, sb, false, redo, pc, [], src t.2⟩

/-- The entries of vector result i. -/
def VLatch.entries (l : VLatch) (count i : Nat) : List SnapLatch :=
  snapTargets l.targets l.issue (l.due - count) l.flags.toNat false true l.zeroed.isSome false l.zeroed l.pc.toNat 0 (.vec i)

/-- The entries of global load i: 255 as delay until its data is held, then the data (20 R339).  An access that has still to be performed is one that
is performed at resume. -/
def GLoad.entries (g : GLoad) (now i : Nat) : List SnapLatch :=
  let act := (List.range 1024).map fun i => g.elems.any fun e => e.1 == i
  let redo := g.again || g.after.isSome
  let held := decide (g.due ≤ now) && !redo
  snapTargets g.targets g.issue (if held then 0 else 255) 0 true held g.zero redo (some act) g.pc.toNat g.va.toNat (.load i)

/-- The result of register r of C has not arrived. -/
def CStrand.pending (c : CStrand) (r : Nat) : Bool := decide (c.count < c.ready.toList.getD r 0)

/-- What register r of C holds before the result that is on its way to it arrives (20 R337). -/
def CStrand.arrived (c : CStrand) (r : Nat) : Word64 :=
  if c.pending r || c.loads.any (fun l => !l.sh && l.d.toNat == r && r != 0) then c.before.toList.getD r 0 else c.prim.toList.getD r 0

/-- Every latch of a core in use, as it stands at a tick. -/
def Core.latchList (c : Core) (now : Nat) : List SnapLatch :=
  let origin := fun (r : Nat) => c.c.origin.toList.getD r (0, 0)
  (c.v.latches.zipIdx.flatMap fun l => l.1.entries c.x.count l.2)
    ++ (c.v.gloads.zipIdx.flatMap fun g => g.1.entries now g.2)
    ++ ([StepStrand.l, .x, .s].zipIdx.flatMap fun t => (c.strand t.1).latches.zipIdx.map fun l =>
          (⟨5 + t.2, l.1.reg.toNat, l.1.value.toNat, l.1.issue, l.1.due - (c.strand t.1).count, 0, false, false, false, l.1.pc.toNat, [],
            .strand t.1 l.2⟩ : SnapLatch))
    ++ ((List.range 32).filterMap fun r =>
          if c.c.pending r then
            some (⟨8, r, (c.c.prim.toList.getD r 0).toNat, (origin r).1, c.c.ready.toList.getD r 0 - c.c.count, 0, false, false, false, (origin r).2, [],
              .reg r⟩ : SnapLatch) else none)
    ++ (c.c.loads.zipIdx.filterMap fun l =>
          if l.1.sh ∨ l.1.d = 0 then none
          else some (⟨8, l.1.d.toNat, l.1.va.toNat, (origin l.1.d.toNat).1, 255, 0, true, false, false, (origin l.1.d.toNat).2, [], .missed l.2⟩ : SnapLatch))

/-- A latch entry with its first slot (20 R339). -/
def SnapLatch.entry (l : SnapLatch) (slot : Nat) : List Byte :=
  dwords [b2n l.redo * 2 ^ 12 + b2n l.sb * 2 ^ 13 + b2n l.zero * 2 ^ 14 + l.flg * 2 ^ 15 + l.target * 2 ^ 20 + slot * 2 ^ 32 + l.data.length * 2 ^ 40 + sat 255 l.rem * 2 ^ 48
            + l.kind * 2 ^ 56, l.issue, l.val, l.pc * 2 ^ 48]

/-- The latch table and the latch data. -/
def snapLatches (ls : List SnapLatch) : List Byte × List Byte :=
  let r := ls.foldl (fun (p : List Byte × List (List Byte)) l => (p.1 ++ l.entry p.2.length, p.2 ++ l.data)) ([], [])
  (r.1, r.2.flatMap fun d => d ++ List.replicate (512 - d.length) 0)

/-- A pending entry (20 R339). -/
def snapPend (c : Core) (p : Pending) : List Byte :=
  dwords [p.src.toNat * 2 ^ 36 + p.cause.toNat * 2 ^ 40 + sat 255 (p.rem - c.c.count) * 2 ^ 48 + p.kind % 256 * 2 ^ 56, p.issue, p.tval.toNat,
    p.pc % 2 ^ 16 * 2 ^ 48]

/-- A page request (20 R343). -/
def snapReq : Option PageReq → List Byte
  | none => leBytes 16 0
  | some r => leBytes 8 r.va ++ leBytes 2 r.ctx.toNat ++ leBytes 1 (b2n r.write) ++ leBytes 1 (b2n r.pinned) ++ leBytes 4 0

/-- C's chain: with no redirection the two words that follow the next (20 R335, R337). -/
def snapChain (k : Chain) : List Nat :=
  if k.rd = 0 then [k.pc.toNat, k.pc.toNat + 4, k.pc.toNat + 8, 0] else [k.pc.toNat, k.npc.toNat, k.nnpc.toNat, k.rd.toNat]

/-- The sections of the snapshot block of a core: their offsets and contents (20 R337). -/
def State.snapSection (s : State) (c : Core) (off : Nat) : Nat × List Byte :=
  if off < 0x10 then (0, dwords [1, b2n c.c.handler * 2 ^ 8 + sat 64 (c.latchList s.now).length * 2 ^ 16 + c.pend.length * 2 ^ 24])
  else if off < 0x30 then (0x10, dwords (snapChain c.c.saved))
  else if off < 0x40 then (0x30, dwords [c.c.count, c.c.fflags.toNat])
  else if off < 0x100 then (0x40, snapLoops c.c.loops)
  else if off < 0x400 then (0x100, dwords ((List.range 32).map fun r => (c.c.arrived r).toNat))
  else if off < 0x500 then (0x400, snapStrand c .l)
  else if off < 0x600 then (0x500, snapStrand c .x)
  else if off < 0x800 then (0x600, snapStrand c .s)
  else if off < 0x880 then (0x800, snapVec c.v)
  else if off < 0x1000 then (0x880, snapPreds c.v)
  else if off < 0x1800 then (0x1000, c.v.k.toList.flatMap snapK)
  else if off < 0x1900 then (0x1800, snapQueues c)
  else if off < 0x1F00 then (0x1900, c.dq.toList.flatMap snapItems)
  else if off < 0x2000 then (0x1F00, snapItems c.fq)
  else if off < 0x2020 then (0x2000, snapResB c.m.resB)
  else if off < 0x2080 then (0x2020, dwords [c.m.fcol, c.m.fstat.toNat, c.m.grow.toNat, c.m.mrem.toNat])
  else if off < 0x2100 then (0x2080, c.m.pv.map fun n => BitVec.ofNat 8 n)
  else if off < 0x2200 then (0x2100, c.m.tags.toList.flatMap snapTag)
  else if off < 0x2300 then (0x2200, c.m.queue.flatMap (snapEntry c))
  else if off < 0x3000 then (0x2300, snapNest c.m.running ++ snapNest c.m.armed
      ++ dwords [match c.m.running with | some n => n.point | none => 0, c.m.ops])
  else if off < 0x3400 then (0x3000, c.inb.queue.flatMap (snapXfer c.task))
  else if off < 0x3800 then (0x3400, c.outb.queue.flatMap (snapXfer c.task))
  else if off < 0x4000 then (0x3800, c.rings.toList.flatMap snapRing)
  else if off < 0x4800 then (0x4000, (snapLatches (c.latchList s.now)).1)
  else if off < 0x7000 then (0x4800, c.pend.flatMap (snapPend c))
  else if off < 0x7F00 then (0x7000, if c.sup then s.xlat.ring.flatMap snapReq else [])
  else if off < 0x8000 then (0x7F00, if c.sup then dwords [s.xlat.tcmp.toNat, s.xlat.prod.toNat, s.xlat.cons.toNat, s.xlat.done.toNat] else [])
  else (0x8000, (snapLatches (c.latchList s.now)).2)

/-- The tables that rett reads as the supervisor left them, entry by entry: SNAPST, the latch and pending tables, the latch data. -/
def tablePlace (off : Nat) : Bool := off / 8 == 1 || (decide (0x4000 ≤ off) && decide (off < 0x4A00)) || decide (0x8000 ≤ off)

/-- A byte of a core's snapshot block: of an entry in use, else what the supervisor wrote there; what it wrote into a table stands first; every other
offset reads 0. -/
def State.snapByte (s : State) (c : Core) (off : Nat) : Byte :=
  let r := s.snapSection c off
  let b := byteAt r.2 (off - r.1)
  if off - r.1 < r.2.length && !tablePlace off then b
  else match c.extra.find? fun e => e.1 == off / 8 with
    | some e => BitVec.ofNat 8 (e.2.toNat / 2 ^ (8 * (off % 8)))
    | none => b

/-- A core as its snapshot block shows it: itself while it is stopped, else as its last stop left it; before any, as reset left it (20
R337; log 21). -/
def State.shownCore (s : State) (die q : Nat) : Core :=
  let c := s.coreAt die q
  if c.c.handler then c else (s.stops.find? fun k => k.die == die && k.q == q).getD { Core.reset die q with sup := c.sup }

/-! ### Writes of the supervisor -/

/-- A strand block's doubleword written (20 R338). -/
def Step.snapSet (p : Step) (i : Nat) (v : Word64) : Step :=
  if i = 0 then
    { p with pc := (v.truncate 17).zeroExtend 32, brqLeft := (v.toNat / 2 ^ 19) % 4,
             cond := if v.getLsbD 17 then .ended else if p.cond = .ended then .running none else p.cond }
  else if i = 1 then
    let code : BitVec 2 := v.truncate 2
    match p.flights with
    | [] => if v.getLsbD 2 then { p with flights := [⟨p.seq, .done p.count, [code]⟩], seq := p.seq + 1 } else p
    | f :: l =>
      if !f.isDone p.count then p
      else if v.getLsbD 2 then { p with flights := { f with posts := code :: f.posts.drop 1 } :: l }
      else { p with flights := { f with posts := f.posts.drop 1 } :: l }
  else if i = 2 then { p with fflags := v.truncate 5 }
  else if i = 3 then
    { p with lastPace := if v.toNat % 256 = 255 ∧ p.lastPace.all (fun l => decide (255 ≤ p.clock - l)) then p.lastPace
                         else some (p.clock - v.toNat % 256) }
  else if 4 ≤ i ∧ i < 20 then p.writeG (BitVec.ofNat 4 (i - 4)) v
  else if h : 20 ≤ i ∧ i < 28 then
    let n := (i - 20) / 2
    have hn : n < 4 := by omega
    let l := p.lc[n]
    { p with lc := p.lc.set n (if (i - 20) % 2 = 0 then { l with count := v.toNat }
        else { l with start := v.toNat % 2 ^ 16, last := v.toNat / 2 ^ 16 % 2 ^ 16, active := v.getLsbD 32 }) }
  else if i = 28 then { p with count := v.toNat }
  else p

/-- A loop entry that no loop has. -/
def noLoop : LoopEntry := ⟨0, 0, 0⟩

/-- A loop stack after doubleword k of its table is written (20 R337): entries bottom first; a start whose [63:56] is not 0 is the
top's and sets the depth. -/
def loopsSet (l : List LoopEntry) (k v : Nat) : List LoopEntry :=
  let i := k / 3
  let up := l.reverse
  let e := up.getD i noLoop
  let e1 : LoopEntry := if k % 3 = 0 then { e with start := v % 2 ^ 56 } else if k % 3 = 1 then { e with last := v } else { e with count := v }
  let up1 := if i < up.length then up.set i e1 else if v = 0 then up else up ++ List.replicate (i - up.length) noLoop ++ [e1]
  let d := if k % 3 = 0 then v / 2 ^ 56 % 256 else 0
  (if d = 0 ∨ 4 < d then up1 else (up1 ++ List.replicate 4 noLoop).take d).reverse.dropWhile (· == noLoop)

/-- A queue with n items: the last ones taken away, or words of 0 put behind. -/
def Queue.resize (q : Queue) (n : Nat) : Queue :=
  { q with items := q.items.take n ++ List.replicate (Nat.min n 16 - q.items.length) ⟨0, 0, .none_⟩ }

/-- A queue whose last n items become visible only after the tick of the stop (20 R337, LATE). -/
def Queue.setLate (q : Queue) (n stop : Nat) : Queue :=
  { q with items := q.items.zipIdx.map fun e =>
      { e.1 with since := if e.2 + n < q.items.length then Nat.min e.1.since stop else Nat.max e.1.since (stop + 1) } }

/-- Word k of a queue replaced. -/
def Queue.setWord (q : Queue) (k : Nat) (v : Word64) : Queue :=
  { q with items := q.items.zipIdx.map fun e => if e.2 = k then { e.1 with word := v } else e.1 }

/-- The eight queues whose counts lie in a doubleword from number n on, changed by their bytes. -/
def Core.eachQueue (c : Core) (hitch : Bool) (first : Nat) (v : Word64) (f : Queue → Nat → Queue) : Core :=
  (List.range 8).foldl (fun c j =>
    let b := v.toNat / 2 ^ (8 * j) % 256
    let n := first + j
    if h : n < 12 then (if hitch then c.updHq ⟨n, h⟩ (f · b) else c.updDq ⟨n, h⟩ (f · b)) else c) c

/-- A section of doublewords as a number, doubleword j replaced. -/
def putDw (bytes : List Byte) (j : Nat) (v : Word64) : Nat :=
  leNat (bytes.take (8 * j) ++ leBytes 8 v.toNat ++ bytes.drop (8 * j + 8))

/-- The resident-B record as its 32 bytes give it (20 R337). -/
def resBOf (n scalem : Nat) : ResB :=
  ⟨bitOf n 0, field n 8 4, field n 16 12, field n 32 12, field n 48 2, field n 64 16, field n 80 10, toI 64 (field n 96 64), toI 64 (field n 160 64), scalem⟩

/-- A tag record as its doubleword gives it (20 R337). -/
def tagOf (n : Nat) : Option TagRec :=
  if bitOf n 0 then
    some ⟨bitOf n 1, if bitOf n 2 then some (field n 4 3, field n 16 8) else none, if bitOf n 3 then some (field n 7 3, field n 24 8) else none⟩
  else none

/-- A ring as its 64 bytes give it; DIRTY bits as many as the ring has. -/
def ringBytes (old : List Bool) (n : Nat) : Ring :=
  ⟨bitOf n 0, bitOf n 1, field n 8 24, field n 64 32, field n 96 32, field n 32 16, field n 48 16, field n 128 32, field n 160 32,
   field n 192 32, field n 224 32, (bitsOf 128 (field n 256 128)).take old.length ++ old.drop 128⟩

/-- The operation of a word of X (20 R337). -/
def mopOf (w : Word32) : Option MOp :=
  match decode .x w with
  | .ok (.mldb _ h) => some (.mldb h.toNat)
  | .ok (.mmab _ h t) => some (.mmab h.toNat t.toNat)
  | .ok (.mmas _ h t) => some (.mmas h.toNat t.toNat)
  | .ok (.mdrain _ h t) => some (.mdrain h.toNat t.toNat)
  | .ok (.mzero _ t) => some (.mzero t.toNat)
  | .ok (.mtest _) => some .mtest
  | .ok (.mtrsmLo _ c h) => some (.mtrsm false c.toNat h.toNat)
  | .ok (.mtrsmUp _ c h) => some (.mtrsm true c.toNat h.toNat)
  | .ok (.mlu _ c) => some (.mlu c.toNat)
  | .ok (.mchol _ c) => some (.mchol c.toNat)
  | .ok (.mgiv _ c) => some (.mgiv c.toNat)
  | .ok (.mpiv _ h) => some (.mpiv h.toNat)
  | .ok (.mfst _) => some .mfst
  | _ => none

/-- The bits of a format word that are not reserved (05 R99). -/
abbrev fmtMask : Word64 := 0xFFFFF1FFF1FFFFE0

/-- Doubleword j of a command-queue entry written (20 R337). -/
def MEntry.snapSet (e : MEntry) (count j : Nat) (v : Word64) : MEntry :=
  match j with
  | 0 => (match mopOf (v.truncate 32) with | some op => { e with op := op, word := v.truncate 32 } | none => { e with op := .nest, word := 0 })
  | 1 => { e with fmt := v &&& fmtMask }
  | 2 => { e with row0 := toI 32 v.toNat, col0 := toI 32 (v.toNat / 2 ^ 32) }
  | _ =>
    let left := v.toNat % 2 ^ 32
    if v.getLsbD 32 then
      let st := e.start.getD count
      { e with start := some st, occ := count + left - st }
    else { e with start := none, occ := left }

/-- Doubleword j of a nest with its reserved bits 0 (05 R99, R100). -/
def nestMask (j : Nat) : Word64 :=
  if j = 0 then 0x03FFFFC000000000 else if j < 13 ∧ j % 2 = 1 then 0xFFFFFFFF00000000 else if j = 14 then fmtMask else 0xFFFFFFFFFFFFFFFF

/-- Doubleword j of a nest written: its table, then its format word. -/
def Nest.snapSet (n : Nest) (j : Nat) (v : Word64) : Nest :=
  if h : j < 14 then { n with table := n.table.set j (v &&& nestMask j) h } else { n with fmt := v &&& fmtMask }

/-- The form of a transfer word (20 R337). -/
def xopOf (t : Strand) (w : Word32) (a : Word64) : Option XOp :=
  match decode t w with
  | .ok (.tld _ h _ _) => some (.tld h.toNat false)
  | .ok (.tldT _ h _ _) => some (.tld h.toNat true)
  | .ok (.tst _ h _ _) => some (.tst h.toNat)
  | .ok (.wopen _ h _ _ r) => some (.wopen h.toNat r.toNat false)
  | .ok (.wopenW _ h _ _ r) => some (.wopen h.toNat r.toNat true)
  | .ok (.wadv _ _ r) => some (.wadv r.toNat false (a.getLsbD 0))
  | .ok (.wdrop _ _ r) => some (.wadv r.toNat true (a.getLsbD 0))
  | .ok (.tfar _ h _ _) => some (.tfar h.toNat)
  | .ok (.tfetch _ h _ _) => some (.tfetch h.toNat)
  | .ok (.supd _ h _ _ u) => some (.supd h.toNat u.toNat)
  | .ok (.tsum _ h _ _ bfl com) => some (.tsum h.toNat (bfl == 1) (com == 1))
  | .ok (.tcopy _ h _ _) => some (.tcopy h.toNat)
  | .ok (.tpref _ h _) => some (.tpref h.toNat)
  | _ => none

/-- Doubleword j of a transfer entry written (20 R337). -/
def Xfer.snapSet (e : Xfer) (t : Strand) (j : Nat) (v : Word64) : Xfer :=
  match j with
  | 0 => (match xopOf t (v.truncate 32) e.a with | some op => { e with op := op, word := v.truncate 32 } | none => e)
  | 1 => { e with a := v }
  | 2 => { e with b := v }
  | 3 => { e with moved := v.toNat }
  | 4 => { e with st := match v.toNat % 256 with | 0 => .queued | 1 => .moving | _ => if e.st = .dropped then .dropped else .faulted }
  | 5 => { e with issue := v.toNat }
  | 6 => { e with idx := v.toNat / 2 ^ 40 }
  | _ => e

/-- An entry of a list changed. -/
def modNth {α : Type} (l : List α) (k : Nat) (f : α → α) : List α := l.zipIdx.map fun e => if e.2 = k then f e.1 else e.1

/-- Doubleword j of a pending entry written (20 R339). -/
def Pending.snapSet (p : Pending) (count j : Nat) (v : Word64) : Pending :=
  match j with
  | 0 => { p with src := v.extractLsb' 36 4, cause := v.extractLsb' 40 8, rem := count + v.toNat / 2 ^ 48 % 256, kind := v.toNat / 2 ^ 56 }
  | 1 => { p with issue := v.toNat }
  | 2 => { p with tval := v }
  | _ => { p with pc := v.toNat / 2 ^ 48 }

/-! ### Writes of the tables -/

/-- Lanes of register q of a group of r as its block and the group's mask give them (07 R149); inactive lanes 0 where the entry says so. -/
def latchLanes (w n r q : Nat) (zero : Bool) (block mask : List Byte) : List (Option Nat) :=
  (List.range n).map fun i => if bitOf (leNat mask) (i * r + q) then some (field (leNat block) (i * w) w) else if zero then some 0 else none

/-- The bits of doubleword j of a latch entry, or of a pending entry, that are not reserved (20 R339). -/
def latchMask (j : Nat) : Word64 := if j = 0 then 0xFFFFFFFFFFFFF000 else if j = 3 then 0xFFFF000000000000 else 0xFFFFFFFFFFFFFFFF
def pendMask (j : Nat) : Word64 := if j = 0 then 0xFFFFFFF000000000 else if j = 3 then 0xFFFF000000000000 else 0xFFFFFFFFFFFFFFFF

/-- A doubleword of the block kept as written. -/
def putExtra (l : List (Nat × Word64)) (i : Nat) (v : Word64) : List (Nat × Word64) := (i, v) :: l.filter fun e => e.1 != i

/-- The core after doubleword i of its snapshot block is written: rett goes on with what the supervisor left (20 R337; log 21). -/
def State.snapSet (s : State) (c : Core) (i : Nat) (v : Word64) : State × Core :=
  let off := 8 * i
  let keep := fun (v : Word64) => (s, { c with extra := putExtra c.extra i v })
  if off = 0x08 then keep (v &&& 0xFFFF0100)
  else if off = 0x10 then (s, { c with c := { c.c with saved := { c.c.saved with pc := v } } })
  else if off = 0x18 then (s, { c with c := { c.c with saved := { c.c.saved with npc := v } } })
  else if off = 0x20 then (s, { c with c := { c.c with saved := { c.c.saved with nnpc := v } } })
  else if off = 0x28 then (s, { c with c := { c.c with saved := { c.c.saved with rd := v.truncate 2 } } })
  else if off = 0x30 then (s, { c with c := { c.c with count := v.toNat } })
  else if off = 0x38 then (s, { c with c := { c.c with fflags := v.truncate 5 } })
  else if 0x40 ≤ off ∧ off < 0xA0 then (s, { c with c := { c.c with loops := loopsSet c.c.loops (i - 8) v.toNat } })
  else if h : 0x100 ≤ off ∧ off < 0x200 then
    let r := i - 0x20
    have hr : r < 32 := by omega
    (s, if r = 0 then c
        else if c.c.pending r || c.c.loads.any (fun l => !l.sh && l.d.toNat == r) then { c with c := { c.c with before := c.c.before.set r v hr } }
        else { c with c := { c.c with prim := c.c.prim.set r v hr } })
  else if 0x400 ≤ off ∧ off < 0x500 then (s, { c with l := c.l.snapSet (i - 0x80) v })
  else if off = 0x508 then
    let m := match decode .x (v.extractLsb' 32 32) with
      | .ok (.vectorModifier pn inv zero rm) => some (Modifier.mk pn inv zero rm ((c.v.modif.map (·.pc)).getD (c.x.pc - 4)))
      | _ => none
    (s, { c with x := c.x.snapSet 1 v, v := { c.v with modif := if v.getLsbD 31 then m else none } })
  else if 0x500 ≤ off ∧ off < 0x600 then (s, { c with x := c.x.snapSet (i - 0xA0) v })
  else if 0x600 ≤ off ∧ off < 0x700 then (s, { c with s := c.s.snapSet (i - 0xC0) v })
  else if off = 0x800 then (s, { c with v := { c.v with type_ := v.truncate 4 } })
  else if off = 0x808 then (s, { c with v := { c.v with wbase := v.toNat % 4096 } })
  else if off = 0x810 then
    (s, { c with v := { c.v with left := v.toNat / 2 ^ 32 % 2 ^ 24, koff := v.toNat / 2 ^ 22 % 16, off := v.toNat / 2 ^ 16 % 64,
                                 size := v.toNat / 2 ^ 8 % 128, base := v.toNat % 64 } })
  else if h : 0x880 ≤ off ∧ off < 0x1000 then
    let n := (off - 0x880) / 128 + 1
    let k := (off - 0x880) % 128 * 8
    (s, { c with v := { c.v with p := c.v.p.set n (c.v.p[n].take k ++ bitsOf 64 v.toNat ++ c.v.p[n].drop (k + 64)) } })
  else if 0x1000 ≤ off ∧ off < 0x1800 then
    let n := (off - 0x1000) / 128
    let k := (off - 0x1000) % 128
    let old := c.v.readK n
    (s, if k < 64 then
          { c with v := c.v.writeK n { old with e := old.e.take (k / 2) ++ (List.range 4).map (fun j => toI 16 (v.toNat / 2 ^ (16 * j) % 2 ^ 16)) ++ old.e.drop (k / 2 + 4) } }
        else if k = 64 then { c with v := c.v.writeK n { old with sc := v.toNat % 256 } } else c)
  else if off = 0x1800 then (s, c.eachQueue true 0 v Queue.resize)
  else if off = 0x1808 then (s, c.eachQueue true 8 v Queue.resize)
  else if off = 0x1810 then (s, c.eachQueue false 0 v Queue.resize)
  else if off = 0x1818 then
    let c1 := c.eachQueue false 8 v Queue.resize
    (s, { c1 with fq := c1.fq.resize (v.toNat / 2 ^ 32 % 256) })
  else if off = 0x1820 then (s, c.eachQueue true 0 v (·.setLate · c.stop))
  else if off = 0x1828 then
    let c1 := c.eachQueue true 8 v (·.setLate · c.stop)
    (s, { c1 with fq := c1.fq.setLate (v.toNat / 2 ^ 32 % 256) c.stop })
  else if off = 0x1830 then (s, c.eachQueue false 0 v (·.setLate · c.stop))
  else if off = 0x1838 then (s, c.eachQueue false 8 v (·.setLate · c.stop))
  else if h : 0x1900 ≤ off ∧ off < 0x1F00 then (s, c.updDq ⟨(off - 0x1900) / 128, by omega⟩ (·.setWord ((off - 0x1900) % 128 / 8) v))
  else if 0x1F00 ≤ off ∧ off < 0x1F80 then (s, { c with fq := c.fq.setWord ((off - 0x1F00) / 8) (v &&& fmtMask) })
  else if 0x2000 ≤ off ∧ off < 0x2020 then (s, { c with m := { c.m with resB := resBOf (putDw (snapResB c.m.resB) (i - 0x400) v) c.m.resB.scalem } })
  else if off = 0x2020 then (s, { c with m := { c.m with fcol := v.toNat % 256 } })
  else if off = 0x2028 then (s, { c with m := { c.m with fstat := v &&& ~~~0xFF00000C } })
  else if off = 0x2030 then (s, { c with m := { c.m with grow := v } })
  else if off = 0x2038 then (s, { c with m := { c.m with mrem := v &&& 0x80000000FFFFFFFF } })
  else if 0x2080 ≤ off ∧ off < 0x2100 then
    let k := off - 0x2080
    (s, { c with m := { c.m with pv := c.m.pv.take k ++ (List.range 8).map (fun j => v.toNat / 2 ^ (8 * j) % 256) ++ c.m.pv.drop (k + 8) } })
  else if h : 0x2100 ≤ off ∧ off < 0x2180 then (s, { c with m := { c.m with tags := c.m.tags.set (i - 0x420) (tagOf v.toNat) (by omega) } })
  else if 0x2200 ≤ off ∧ off < 0x2300 then
    let k := (off - 0x2200) / 32
    let j := i % 4
    let c1 := if k < c.m.queue.length then { c with m := { c.m with queue := modNth c.m.queue k (·.snapSet c.m.count j v) } }
      else { c with extra := putExtra c.extra i v }
    (s, if j = 3 ∧ k = 0 ∧ v.getLsbD 32 then { c1 with m := { c1.m with free_ := c.m.count + v.toNat % 2 ^ 32 } } else c1)
  else if 0x2300 ≤ off ∧ off < 0x2378 then (s, if c.m.running.isSome then { c with m := { c.m with running := c.m.running.map (·.snapSet (i - 0x460) v) } } else (keep (v &&& nestMask (i - 0x460))).2)
  else if 0x2378 ≤ off ∧ off < 0x23F0 then (s, if c.m.armed.isSome then { c with m := { c.m with armed := c.m.armed.map (·.snapSet (i - 0x46F) v) } } else (keep (v &&& nestMask (i - 0x46F))).2)
  else if off = 0x23F0 then (s, if c.m.running.isSome then { c with m := { c.m with running := c.m.running.map fun n => { n with point := v.toNat } } } else { c with extra := putExtra c.extra i v })
  else if off = 0x23F8 then (s, { c with m := { c.m with ops := v.toNat } })
  else if 0x3000 ≤ off ∧ off < 0x3400 then
    (s, if (off - 0x3000) / 64 < c.inb.queue.length then { c with inb := { c.inb with queue := modNth c.inb.queue ((off - 0x3000) / 64) (·.snapSet .l (i % 8) v) } }
        else { c with extra := putExtra c.extra i v })
  else if 0x3400 ≤ off ∧ off < 0x3800 then
    (s, if (off - 0x3400) / 64 < c.outb.queue.length then { c with outb := { c.outb with queue := modNth c.outb.queue ((off - 0x3400) / 64) (·.snapSet .s (i % 8) v) } }
        else { c with extra := putExtra c.extra i v })
  else if h : 0x3800 ≤ off ∧ off < 0x3900 then
    let n := (off - 0x3800) / 64
    have hn : n < 4 := by omega
    (s, { c with rings := c.rings.set n (ringBytes c.rings[n].dirty (putDw (snapRing c.rings[n]) (i % 8) v)) })
  else if 0x4000 ≤ off ∧ off < 0x4800 then keep (v &&& latchMask (i % 4))
  else if 0x4800 ≤ off ∧ off < 0x4A00 then keep (v &&& pendMask (i % 4))
  else if 0x8000 ≤ off ∧ off < 0x10000 then keep v
  else if c.sup ∧ off = 0x7F00 then ({ s with xlat := { s.xlat with tcmp := v } }, c)
  else if c.sup ∧ off = 0x7F10 then ({ s with xlat := { s.xlat with cons := v }.drain }, c)
  else if c.sup ∧ off = 0x7F18 then ({ s with agenda := s.agenda ++ [.pgdoneWrite v] }, c)
  else (s, c)

/-- Bytes of a snapshot block written by the supervisor's store of n bytes, n at most 8 and aligned.  The block of a core that is
not stopped keeps what is written until its next trap entry, and has no effect but on the supervisor's own registers. -/
def State.snapStore (s : State) (die q off : Nat) (bytes : List Byte) : State :=
  let live := (s.coreAt die q).c.handler ∨ (0x7F00 ≤ off ∧ off < 0x8000)
  let c := if live then s.coreAt die q else s.shownCore die q
  let at_ := off / 8 * 8
  let old := (List.range 8).map fun i => s.snapByte c (at_ + i)
  let new := (List.range 8).map fun i => if off ≤ at_ + i ∧ at_ + i < off + bytes.length then byteAt bytes (at_ + i - off) else byteAt old i
  let r := s.snapSet c (at_ / 8) (BitVec.ofNat 64 (leNat new))
  if live then r.1.putCore r.2 else { r.1 with stops := r.2 :: r.1.stops.filter fun k => !(k.die == die && k.q == q) }

/-! ### What rett takes up (20 R337, R340) -/

/-- A doubleword that the supervisor wrote where no entry was in use. -/
def Core.raw (c : Core) (i : Nat) : Word64 := ((c.extra.find? fun e => e.1 == i).map (·.2)).getD 0

/-- The tables of a core as bytes, before the supervisor's writes: latch table, latch data, pending table. -/
structure Tables where
  latch : List Byte
  data  : List Byte
  pend  : List Byte

/-- The tables of a core at a tick. -/
def Core.tables (c : Core) (now : Nat) : Tables :=
  let r := snapLatches (c.latchList now)
  ⟨r.1, r.2, c.pend.flatMap (snapPend c)⟩

/-- Doubleword j of some bytes. -/
def dwordOf (l : List Byte) (j : Nat) : Nat := leNat ((l.drop (8 * j)).take 8)

/-- Doubleword i of the block, one of a table, as the supervisor left it (20 R337). -/
def Core.left (c : Core) (b : Tables) (i : Nat) : Nat :=
  match c.extra.find? fun e => e.1 == i with
  | some e => e.2.toNat
  | none => if i < 0x900 then dwordOf b.latch (i - 0x800) else if i < 0x1000 then dwordOf b.pend (i - 0x900) else dwordOf b.data (i - 0x1000)

/-- The supervisor changed one of n doublewords of a table from i on. -/
def Core.changed (c : Core) (b : Tables) (i n : Nat) : Bool :=
  c.extra.any fun e => decide (i ≤ e.1) && decide (e.1 < i + n) && e.2.toNat != ({ c with extra := [] } : Core).left b e.1

/-- Latch entry k stands as the stop left it, its data with it. -/
def Core.latchKept (c : Core) (b : Tables) (k : Nat) : Bool :=
  let d := dwordOf b.latch (4 * k)
  !c.changed b (0x800 + 4 * k) 4 && !c.changed b (0x1000 + 64 * field d 32 8) (64 * field d 40 8)

/-- A latch with the targets whose entries are kept; none where none is. -/
def keepTargets (ts : List LatchTarget) (keep : Nat → Bool) : List LatchTarget := ((numberTargets ts).filter fun t => keep t.2).map (·.1)

/-- The core with the latch entries alone that are kept: a result taken away does not arrive, and its register stays as it is (20 R339, R340). -/
def Core.keepLatches (c : Core) (kept : List LatchSrc) : Core :=
  let has := fun (x : LatchSrc) => kept.contains x
  let regGone := fun (r : Nat) => (c.c.pending r && !has (.reg r)) || c.c.loads.zipIdx.any fun l => !l.1.sh && l.1.d.toNat == r && r != 0 && !has (.missed l.2)
  let strand := fun (t : StepStrand) (p : Step) => { p with latches := (p.latches.zipIdx.filter fun l => has (.strand t l.2)).map (·.1) }
  { c with
    v := { c.v with
      latches := c.v.latches.zipIdx.filterMap fun l =>
        let ts := keepTargets l.1.targets fun j => has (.vec l.2 j)
        if ts.isEmpty && !l.1.targets.isEmpty then none else some { l.1 with targets := ts },
      gloads := c.v.gloads.zipIdx.filterMap fun g =>
        if has (.load g.2 0) then some { g.1 with targets := keepTargets g.1.targets fun j => has (.load g.2 j) } else none },
    l := strand .l c.l, x := strand .x c.x, s := strand .s c.s,
    c := { c.c with prim := Vector.ofFn fun r => if regGone r.val then c.c.before[r] else c.c.prim[r],
                    ready := Vector.ofFn fun r => if regGone r.val then c.c.count else c.c.ready[r],
                    loads := (c.c.loads.zipIdx.filter fun l => l.1.sh || l.1.d == 0 || has (.missed l.2)).map (·.1) } }

/-- Entry k of the latch table as the supervisor left it, made a latch of the core (20 R339).  Of an entry that stood there before (`old`, of the core `c0`
at the stop) it keeps what the layout does not show: a load's word and, for the lanes it still has, their addresses. -/
def Core.newLatch (c c0 : Core) (b : Tables) (old : Option LatchSrc) (k : Nat) : Core :=
  let d0 := c0.left b (0x800 + 4 * k)
  let issue := c0.left b (0x801 + 4 * k)
  let val := c0.left b (0x802 + 4 * k)
  let pc : Word32 := BitVec.ofNat 32 (c0.left b (0x803 + 4 * k) / 2 ^ 48)
  let kind := field d0 56 8
  let rem := field d0 48 8
  let slots := field d0 40 8
  let slot0 := field d0 32 8
  let target := field d0 20 12
  let zero := bitOf d0 14
  let block := fun (j : Nat) => dwords ((List.range 64).map fun n => c0.left b (0x1000 + 64 * (slot0 + j) + n))
  let w := laneWidth c.v.type_.toNat
  let n := 4096 / w
  let was := match old with | some (.vec i _) => c0.v.latches[i]? | _ => none
  let latch := fun (ts : List LatchTarget) =>
    { c with v := { c.v with latches := c.v.latches ++
      [⟨c.x.count + rem, issue, (was.map (·.seq)).getD issue, pc, ts, BitVec.ofNat 5 (field d0 15 5),
        if zero then (was.bind (·.zeroed)).orElse (fun _ => some (List.replicate 1024 true)) else none⟩] } }
  let mask := block (slots - 1)
  if kind = 1 ∧ bitOf d0 13 then
    let g : Option GLoad := match old with | some (.load i 0) => c0.v.gloads[i]? | _ => none
    let lanes := positions n (bitOf (leNat mask))
    let held := decide (2 ≤ slots) && decide (rem = 0)
    let none_ : List (Option Nat) := List.replicate n none
    let was : List (Option Nat) := match g with
      | none => none_
      | some h => (match h.targets with
        | .vreg _ _ l :: _ => l.zipIdx.map fun (v : Option Nat × Nat) => if lanes.contains v.2 then v.1 else if zero then some 0 else none
        | _ => none_)
    let elem := fun (i : Nat) => match g with
      | none => val + i * w / 8
      | some h => if h.va = BitVec.ofNat 64 val then ((h.elems.find? fun e => e.1 == i).map (·.2)).getD (val + i * w / 8) else val + i * w / 8
    { c with v := { c.v with gloads := c.v.gloads ++
      [{ seq := (g.map (·.seq)).getD issue, issue := issue, due := if held then 0 else (g.map (·.due)).getD 0, pc := pc, va := BitVec.ofNat 64 val,
         targets := .vreg target w (if held then latchLanes w n 1 0 zero (block 0) mask else was) :: ((g.map fun g => g.targets.drop 1).getD []),
         regs := [target], poison := g.bind (·.poison),
         elems := lanes.map fun i => (i, elem i),
         ff := g.bind (·.ff), again := bitOf d0 12 || (g.isNone && !held), trapped := (g.map (·.trapped)).getD false,
         plain := (g.map (·.plain)).getD false, zero := zero, after := if bitOf d0 12 then none else g.bind (·.after) }] } }
  else if kind = 1 then latch ((List.range (slots - 1)).map fun q => .vreg (target + q) w (latchLanes w n (slots - 1) q zero (block q) mask))
  else if kind = 2 then
    latch [.pred (BitVec.ofNat 4 target) ((List.range 1024).map fun i => if bitOf (leNat mask) i then some (bitOf (leNat (block 0)) i) else none)]
  else if kind = 3 then latch [.kshift (target % 16) ((List.range 32).map fun i => toI 16 (field (leNat (block 0)) (16 * i) 16))]
  else if kind = 4 then latch [.ksc (target % 16) (val % 256)]
  else if 5 ≤ kind ∧ kind ≤ 7 then
    let t : StepStrand := if kind = 5 then .l else if kind = 6 then .x else .s
    c.setStrand t { c.strand t with latches := (c.strand t).latches ++
      [⟨(c.strand t).count + rem, BitVec.ofNat 4 target, BitVec.ofNat 64 val, issue, pc⟩] }
  else if kind = 8 then
    let r : BitVec 5 := BitVec.ofNat 5 target
    { c with c := { c.c with before := if r = 0 then c.c.before else c.c.before.set r.toNat (c.c.prim[r.toNat]'(by have := r.isLt; omega)),
                             prim := if r = 0 then c.c.prim else c.c.prim.set r.toNat (BitVec.ofNat 64 val),
                             ready := c.c.ready.set r.toNat (c.c.count + rem), origin := c.c.origin.set r.toNat (issue, pc.toNat) } }
  else c

/-- A pending entry as its doublewords give it. -/
def Pending.blank (count : Nat) : Pending := ⟨0, 0, 0, count, 0, 0, 0, true⟩

/-- The pending table as the supervisor left it: NPEND entries, those of KIND 0 empty (20 R339). -/
def Core.leftPend (c : Core) (b : Tables) (n : Nat) : List Pending :=
  ((List.range (Nat.min n 16)).map fun k =>
    let i := 0x900 + 4 * k
    let old := c.pend.getD k (.blank c.c.count)
    if k < c.pend.length && !c.changed b i 4 then old
    else (List.range 4).foldl (fun p j => p.snapSet c.c.count j (BitVec.ofNat 64 (c.left b (i + j)))) { old with kept := true }).filter fun p => p.kind != 0

/-- The partner codes a word of L, X or S posts to by its hitch field (05 R91). -/
def postsOf (w : Word32) : List (BitVec 2) := if w.extractLsb' 22 2 = 0 then [] else [w.extractLsb' 22 2]

/-- A word in flight put behind those of a strand, with its posts. -/
def Step.addFlight (p : Step) (w : Word32) : Step := { p with seq := p.seq + 1, flights := p.flights ++ [⟨p.seq + 1, .waiting, postsOf w⟩] }

/-- Command-queue entry k as the supervisor wrote it (20 R337). -/
def Core.newEntry (c : Core) (k : Nat) : Core :=
  let d := fun j => c.raw (0x440 + 4 * k + j)
  let w : Word32 := (d 0).truncate 32
  match (if w = 0 then some MOp.nest else mopOf w) with
  | none => c
  | some op =>
    if w = 0 ∧ d 1 = 0 then c
    else
      let blank : MEntry := { op := op, fmt := d 1, row0 := 0, col0 := 0, seq := if w = 0 then none else some (c.x.seq + 1), pc := 0, word := w,
                              entry := c.m.count, start := none, occ := 0, rest := false, bad := false, plain := false, go := 0, after := .none_ }
      let c1 := if w = 0 then c else c.setStrand .x (c.x.addFlight w)
      { c1 with m := { c.m with queue := c.m.queue ++ [(blank.snapSet c.m.count 2 (d 2)).snapSet c.m.count 3 (d 3)] } }

/-- Transfer entry k of a unit as the supervisor wrote it (20 R337). -/
def Core.newXfer (c : Core) (t : StepStrand) (k : Nat) : Core :=
  let d := fun j => c.raw ((if t = .l then 0x600 else 0x680) + 8 * k + j)
  let w : Word32 := (d 0).truncate 32
  match xopOf t.strand w (d 1) with
  | none => c
  | some op =>
    let clock := if t = .l then c.inb.clock else c.outb.clock
    let blank : Xfer := { op := op, a := d 1, b := d 2, extra := [], moved := (d 3).toNat, st := .queued, seq := (c.strand t).seq + 1, issue := (d 5).toNat,
                          due := clock, idx := (d 6).toNat / 2 ^ 40, pc := 0, word := w, todo := none, flags := 0,
                          bad := none, after := .none_, phase := 0, plain := false, back := false }
    let c1 := c.setStrand t ((c.strand t).addFlight w)
    let e := blank.snapSet t.strand 4 (d 4)
    if t = .l then { c1 with inb := { c1.inb with queue := c1.inb.queue ++ [e] } } else { c1 with outb := { c1.outb with queue := c1.outb.queue ++ [e] } }

/-- A nest's 15 doublewords as the supervisor wrote them, if any is not 0. -/
def Core.newNest (c : Core) (first point : Nat) : Option Nest :=
  let l := (List.range 15).map fun j => c.raw (first + j)
  if l.all (· == 0) then none
  else some { table := Vector.ofFn fun j => c.raw (first + j.val), fmt := c.raw (first + 14), point := point, ended := none }

/-- The core with the tables as the supervisor left them (20 R337, R339): the entries it did not change stand, the others are made anew. -/
def Core.takeTables (c : Core) (now : Nat) : Core :=
  if !(c.extra.any fun e => tablePlace (8 * e.1)) then c
  else
    let b := c.tables now
    let list := c.latchList now
    let st := c.extra.find? fun e => e.1 == 1
    let nlat := Nat.min 64 (match st with | some e => e.2.toNat / 2 ^ 16 % 256 | none => list.length)
    let npend := match st with | some e => e.2.toNat / 2 ^ 24 % 256 | none => c.pend.length
    let keeps := fun (k : Nat) => decide (k < list.length) && c.latchKept b k
    let c1 := c.keepLatches ((list.zipIdx.filter fun e => decide (e.2 < nlat) && keeps e.2).map (·.1.src))
    let c2 := ((List.range nlat).filter fun k => !keeps k).foldl (fun k n => k.newLatch c b ((list[n]?).map (·.src)) n) c1
    { c2 with pend := c.leftPend b npend }

/-- The core with everything that the supervisor wrote taken up, as rett does (20 R337, R340; log 21). -/
def Core.takeUp (c0 : Core) (now : Nat) : Core :=
  if c0.extra.isEmpty then c0
  else
    let c := c0.takeTables now
    let c2 := (List.range (8 - c.m.queue.length)).foldl (fun k j => k.newEntry (c.m.queue.length + j)) c
    let c3 := (List.range (16 - c.inb.queue.length)).foldl (fun k j => k.newXfer .l (c.inb.queue.length + j)) c2
    let c4 := (List.range (16 - c.outb.queue.length)).foldl (fun k j => k.newXfer .s (c.outb.queue.length + j)) c3
    let run := c4.m.running.orElse fun _ => c.newNest 0x460 (c.raw 0x47E).toNat
    { c4 with extra := [], m := { c4.m with running := run, armed := c4.m.armed.orElse fun _ => c.newNest 0x46F 0 } }

/-- The core and the offset in its snapshot block of a physical address. -/
def snapOf (pa : Nat) : Option (Nat × Nat × Nat) :=
  match windowOf pa with
  | some (d, q, off) => if snapBase ≤ off ∧ off < snapBase + snapSize then some (d, q, off - snapBase) else none
  | none => none

/-- A byte as a word of C reads it: the snapshot block is computed, everything else is the task's view of memory, or of the leased copy
that a load hits (11 R268). -/
def State.seenByte (s : State) (va pa : Nat) : Byte :=
  match snapOf pa with
  | some (d, q, off) => s.snapByte (if 0x7000 ≤ off ∧ off < 0x8000 then s.coreAt d q else s.shownCore d q) off
  | none => s.taskByteOver va (match s.hit pa with
    | some g => Memory.read g.cells pa
    | none => Memory.read s.mem pa)

end Sys2Proof.Machine
end

