-- ==== Sys2Proof/Machine/Order.lean ====
section
/-!
DEFINITION. Hitch order (11 R266, R267, R271): which words of L, X and S that something comes after have still to perform, and the holds of
a later access.
-/
namespace Sys2Proof.Machine

/-- The handle of a nest's points (05 R100). -/
def Nest.hnd (n : Nest) : Nat := field n.table[0].toNat 48 10

/-- A byte of the task's lies outside the core's own window: an access to it is a global access or a remote one. -/
def State.away (s : State) (va : Nat) : Bool :=
  match s.probe va false with
  | .ok pa => !s.isLocal pa
  | _ => true

/-- The tensor of a handle lies outside the core's own window. -/
def State.handleAway (s : State) (h : Nat) : Bool := match s.handle? h with | some H => s.away H.base | none => false

/-- The tensor of a handle lies in another core's window. -/
def State.handleRemote (s : State) (h : Nat) : Bool :=
  match s.handle? h with
  | none => false
  | some H => match s.probe H.base true with
    | .ok pa => (windowOf pa).isSome && !s.isLocal pa
    | _ => false

/-- The task in focus is pinned: its stores perform directly (02 R26). -/
def State.pinnedTask (s : State) : Bool := match s.core.task with | some t => t.pinned | none => false

/-- A transfer word reads global memory, or stores to it directly (11 R267). -/
def State.xferAccess (s : State) : XOp → Bool
  | .tld h _ => s.handleAway h
  | .tst h => s.pinnedTask && s.handleAway h
  | .wopen h _ _ => s.handleAway h
  | .wadv n _ _ => s.handleAway (s.core.rings.toList.getD n Ring.closed).h
  | .supd h _ => s.handleAway h
  | .tsum h _ com => (!com || s.pinnedTask) && s.handleAway h
  | .tcopy h => s.handleAway h
  | .tfar _ => false
  | .tfetch _ => false
  | .tpref _ => false

/-- A transfer word writes into another core, or adds at a home (11 R271). -/
def State.xferRemote (s : State) : XOp → Bool
  | .tfar _ => true
  | .tst h => s.handleRemote h
  | .supd h _ => s.handleRemote h
  | .tsum h _ com => com || s.handleRemote h
  | .tcopy h => s.handleRemote h
  | _ => false

/-- An operation of the matrix unit reads global memory. -/
def State.opReads (s : State) : MOp → Bool
  | .mldb h => s.handleAway h
  | .mmab h _ => s.handleAway h
  | .mmas h _ => s.handleAway h
  | .mtrsm _ _ h => s.handleAway h
  | .mpiv h => s.handleAway h
  | _ => false

/-- The handle through which an operation of the matrix unit writes memory. -/
def State.opWrites (s : State) : MOp → Option Nat
  | .mdrain h _ => some h
  | .mtrsm _ _ h => some h
  | .mpiv h => some h
  | .mlu _ => some s.core.m.resB.home
  | .mchol _ => some s.core.m.resB.home
  | .mgiv _ => some s.core.m.resB.home
  | _ => none

/-- An entry of the matrix queue has still to read global memory, where `reads` asks for that, or to write it, where `writes` does. -/
def State.entryAccess (s : State) (e : MEntry) (reads writes : Bool) : Bool :=
  if e.rest then ([s.core.m.running, s.core.m.armed].filterMap id).any fun n =>
    n.ended.isNone && s.handleAway n.hnd && (if field n.table[0].toNat 45 3 == 2 then writes else reads)
  else (reads && e.start.isNone && s.opReads e.op) || (writes && match s.opWrites e.op with | some h => s.handleAway h | none => false)

/-- A result of the matrix unit that has still to reach memory outside the own window. -/
def State.resultAccess (s : State) (r : MResult) : Bool :=
  r.writes.any fun w => match w with | .bytes _ pa _ => !s.isLocal pa | .acc _ _ _ => false

/-- Every word of L and S that something comes after has performed; for a fence its remote writes too. -/
def State.unitsDone (s : State) (a : After) (fence : Bool) : Bool :=
  let rest := fun (e : Xfer) => s.xferAccess e.op || (fence && s.xferRemote e.op)
  (s.core.inb.queue.all fun e => decide (a.l < e.seq) || !rest e) && (s.core.outb.queue.all fun e => decide (a.s < e.seq) || !rest e)

/-- Every operation of the matrix unit whose word `mine` accepts, by its number on X or as a nest.go of C, has performed its reads and its writes,
as far as they are asked for. -/
def State.matrixDone (s : State) (mine : Option Nat → Nat → Bool) (reads writes : Bool) : Bool :=
  (s.core.m.queue.all fun e => !mine e.seq e.go || !s.entryAccess e reads writes)
    && (!writes || s.core.m.results.all fun r => !mine r.ofX r.go || !s.resultAccess r)

/-- A matrix word of X of at most, or of less than, a number; a nest.go of C of at most a number. -/
def upToX (n : Nat) (seq : Option Nat) (_ : Nat) : Bool := match seq with | some m => decide (m ≤ n) | none => false
def belowX (n : Nat) (seq : Option Nat) (_ : Nat) : Bool := match seq with | some m => decide (m < n) | none => false
def upToGo (n : Nat) (seq : Option Nat) (go : Nat) : Bool := seq.isNone && decide (go ≤ n)

/-- No vector access of a word of X below a number is held: its loads have taken their values and its direct stores performed. -/
def Vec.noneHeld (v : Vec) (n : Nat) : Bool :=
  (v.gloads.all fun g => decide (n ≤ g.seq) || g.after.isNone) && v.stores.all fun t => decide (n ≤ t.seq)

/-- An access comes after words of X (11 R267): a pinned task's direct stores count, others wait for the splice. -/
def State.xDoneFor (s : State) (a : After) : Bool :=
  s.matrixDone (upToX a.x) true s.pinnedTask && s.core.v.noneHeld (a.x + 1)

/-- The words of L and S, and the nests of C, that an access of X comes after have performed (11 R267). -/
def State.doneForX (s : State) (a : After) : Bool := s.unitsDone a false && s.matrixDone (upToGo a.c) true s.pinnedTask

/-- C's accesses come after nothing more by its fences (06 R130; 11 R271): transfers and remote writes that they come after have performed, and
what the core had put on its way to other windows has landed. -/
def State.fenceDone (s : State) : Bool :=
  s.core.c.handler || s.core.task.isNone
    || (s.unitsDone s.core.c.fence true && s.links.flying.all fun f => !(f.fenced && f.sender == (s.core.die, s.core.q)))

/-- C's global access may perform (11 R267; 06 R130): in a handler at once, since every other strand is stopped. -/
def State.cOrdered (s : State) : Bool :=
  s.fenceDone && (s.core.c.handler || s.core.task.isNone
    || (s.unitsDone s.core.c.after false && s.xDoneFor s.core.c.after && s.matrixDone (fun q _ => q.isNone) true s.pinnedTask))

/-- The global access of the word of X of a number, whose pops come after `a`, may perform (11 R267): a load, or a direct store.  A store of a task
that is not pinned enters the splice buffer at issue (07 R171), in the place that the program gives it (11 R266). -/
def State.xOrdered (s : State) (n : Nat) (a : After) (store : Bool) : Bool :=
  (store && !s.pinnedTask)
    || (s.doneForX a && s.matrixDone (belowX n) true s.pinnedTask && s.core.v.noneHeld n)

/-- The operation that an entry of the matrix queue is about to start has no global access, or may perform it (11 R267): after what its strand's pops
come after, and what that strand accessed before. -/
def State.opOrdered (s : State) (e : MEntry) (op : MOp) : Bool :=
  !(s.opReads op || match s.opWrites op with | some h => s.pinnedTask && s.handleAway h | none => false)
    || (match e.seq with
        | some n => s.doneForX e.after && s.core.v.noneHeld n
        | none => s.unitsDone e.after false && s.xDoneFor e.after)
      && (!s.pinnedTask || s.core.m.results.all fun r => !s.resultAccess r)

/-- A transfer word may move (11 R267). -/
def State.xferOrdered (s : State) (e : Xfer) : Bool := !s.xferAccess e.op || (s.doneForX e.after && s.xDoneFor e.after)

/-- A global access of C at a translated address, or C waits for what it comes after (11 R267). -/
def State.cAccess (s : State) (pa : Nat) (k : State → State) : State :=
  if s.isLocal pa || (snapOf pa).isSome || s.cOrdered then k s else s.cWait .order

end Sys2Proof.Machine
end

