-- ==== Sys2Proof/Machine/CMem.lean ====
section
/-!
DEFINITION. C: loads, stores and atomics (06 R108 to R113, R104; 11 R264, R270, R376).
-/
namespace Sys2Proof.Machine

/-- An address as a value for TVAL. -/
def w64 (n : Nat) : Word64 := BitVec.ofNat 64 n

/-- A result whose data arrives after a free number of cycles (06 R103; log 4). -/
def State.resultLate (s : State) (d : BitVec 5) (v : Word64) (line : Option GLine) (va pa : Nat) : State :=
  let f := s.fresh
  ((f.2.setS d v 1).updC fun c =>
    { c with loads := c.loads ++ [⟨d, s.servedFrom [pa] + (1 + Config.loadDelay f.1) * s.core.div.ctl, line, c.handler, BitVec.ofNat 64 va⟩] }).cDone

/-- A loaded value given to s[d] when its data is there: the own window after 6 cycles, a hit of the global cache after 8 with the core's
timestamp advanced by 1, a miss or a renewal when the data arrives (06 R103; 11 R268). -/
def State.loaded (s : State) (d : BitVec 5) (v : Word64) (va pa : Nat) : State :=
  if s.isLocal pa then s.result d v 6
  else match lineOf pa with
    | none => s.resultLate d v none va pa
    | some l =>
      if !s.leased l then (s.homeRead pa 1).resultLate d v none va pa
      else match s.hit pa with
        | some _ => (s.updCore fun c => { c with pts := c.pts + 1 }).result d v 8
        | none => let r := s.lease l; r.1.resultLate d v (some r.2) va pa

/-- n bytes as a word of C reads them. -/
def State.seenBytes (s : State) (va pa n : Nat) : List Byte := (List.range n).map fun i => s.seenByte (va + i) (pa + i)

/-- load_bytes of 06 R109 at a translated address, then `k` with the value. -/
def State.loadAt (s : State) (va pa n : Nat) (k : Nat → State → State) : State :=
  if (List.range n).any fun i => s.notBuilt (va + i) then s.cWait .scoreboard
  else match s.poisonIn va pa n with
    | some a => s.cTrap 0x0C (w64 a)
    | none => k (leNat (s.seenBytes va pa n)) s

/-- A load of C (06 R108, R109): alignment, translation and rights, poison, then the value `ext` makes of the bytes. -/
def cLoad (i : Instr) (d a : BitVec 5) (imm : BitVec 15) (n : Nat) (ext : Nat → Word64) (after : Nat → State → State) (s : State) :
    Host.Outcome State Fault Refusal :=
  cWord i [a] (fun s =>
    let va := s.core.c.read a + imm15 imm
    if va.toNat % n ≠ 0 then s.cTrap 0x03 va
    else s.cPage va.toNat false fun pa s => s.cAccess pa fun s => s.loadAt va.toNat pa n fun v s => after pa (s.loaded d (ext v) va.toNat pa)) s

/-- Sign extension of n bytes. -/
def sextBytes (n v : Nat) : Word64 := BitVec.ofInt 64 (toI (8 * n) v)

def execLdB (d a : BitVec 5) (i : BitVec 15) (s : State) : Host.Outcome State Fault Refusal := cLoad (.ldB d a i) d a i 1 (sextBytes 1) (fun _ s => s) s
def execLdH (d a : BitVec 5) (i : BitVec 15) (s : State) : Host.Outcome State Fault Refusal := cLoad (.ldH d a i) d a i 2 (sextBytes 2) (fun _ s => s) s
def execLdW (d a : BitVec 5) (i : BitVec 15) (s : State) : Host.Outcome State Fault Refusal := cLoad (.ldW d a i) d a i 4 (sextBytes 4) (fun _ s => s) s
def execLdD (d a : BitVec 5) (i : BitVec 15) (s : State) : Host.Outcome State Fault Refusal := cLoad (.ldD d a i) d a i 8 w64 (fun _ s => s) s
def execLduB (d a : BitVec 5) (i : BitVec 15) (s : State) : Host.Outcome State Fault Refusal := cLoad (.lduB d a i) d a i 1 w64 (fun _ s => s) s
def execLduH (d a : BitVec 5) (i : BitVec 15) (s : State) : Host.Outcome State Fault Refusal := cLoad (.lduH d a i) d a i 2 w64 (fun _ s => s) s
def execLduW (d a : BitVec 5) (i : BitVec 15) (s : State) : Host.Outcome State Fault Refusal := cLoad (.lduW d a i) d a i 4 w64 (fun _ s => s) s

/-- The last-use step of 06 R111: the line leaves the core's global cache, whether it was there or is on its way; its home has its dirty
sectors and replaces it first. -/
def State.giveUpLine (s : State) (pa : Nat) : State :=
  (s.giveBack (pa / 1024) true).updCore fun c =>
    { c with gcache := c.gcache.filter (·.line != pa / 1024),
             c := { c.c with loads := c.c.loads.map fun l => if (l.line.map (·.line)) = some (pa / 1024) then { l with line := none } else l } }

def execLdLast (d a : BitVec 5) (i : BitVec 15) (s : State) : Host.Outcome State Fault Refusal :=
  cLoad (.ldLast d a i) d a i 8 w64 (fun pa s => s.giveUpLine pa) s

/-- A store of C at a translated address (06 R110): the own window at once, another core's window as a remote write (02 R43, 10
R246), global memory through the splice buffer; the snapshot block takes the supervisor's stores. -/
def State.storeAt (s : State) (va pa : Nat) (bytes : List Byte) : State :=
  match snapOf pa with
  | some (d, q, off) => (s.snapStore d q off bytes).cDone
  | none =>
    if s.isLocal pa then (s.pokeBytes true pa bytes).cDone
    else if (windowOf pa).isSome && s.forecasting.isNone then (s.perform (.store va pa (whole bytes))).cDone
    else match s.put 0 (.store va pa (whole bytes)) with
      | .done s' => s'.cDone
      | .stall => s.cWait .verdict

/-- A store of C (06 R108, R110). -/
def cStore (i : Instr) (b a : BitVec 5) (imm : BitVec 15) (n : Nat) (s : State) : Host.Outcome State Fault Refusal :=
  cWord i [a, b] (fun s =>
    let va := s.core.c.read a + imm15 imm
    if va.toNat % n ≠ 0 then s.cTrap 0x03 va
    else s.cPage va.toNat true fun pa s =>
      (if s.pinnedTask then s.cAccess pa else fun k => k s) fun s => s.storeAt va.toNat pa (leBytes n (s.core.c.read b).toNat)) s

def execStB (b a : BitVec 5) (i : BitVec 15) (s : State) : Host.Outcome State Fault Refusal := cStore (.stB b a i) b a i 1 s
def execStH (b a : BitVec 5) (i : BitVec 15) (s : State) : Host.Outcome State Fault Refusal := cStore (.stH b a i) b a i 2 s
def execStW (b a : BitVec 5) (i : BitVec 15) (s : State) : Host.Outcome State Fault Refusal := cStore (.stW b a i) b a i 4 s
def execStD (b a : BitVec 5) (i : BitVec 15) (s : State) : Host.Outcome State Fault Refusal := cStore (.stD b a i) b a i 8 s

/-- A cause that would move a forecasting task to Failed: from here until the verdict every strand waits (10 R246).  In handler
context it is a handler fault (20 R341). -/
def State.failLater (s : State) : State := (s.updTask fun t => { t with failing := true }).cWait .verdict

/-- Cause 0x0D where it arises: a forecasting task fails at its verdict, any other at once (02 R25; 10 R246; 20 R342). -/
def State.overflow (s : State) : State := if s.forecasting.isSome then s.failLater else if s.core.c.handler then s.handlerFault else s.failTask

/-- An early drain: what is buffered commits as one splice, and the task is pinned (02 R26). -/
def State.pin (s : State) : State := (s.splice).updTask fun t => { t with pinned := true }

/-- An atomic of C on the doubleword at s[a] (06 R112, R113): `eff` is its effect at a virtual and physical address, `use` its use: one that is not
buffered performs in the order of R267, an unpaired one in that of the fences alone (11 R270).  One that performs at its word, the task pinned, finds
poison there (06 R104, R113); one for whose sake the task is pinned finds it after the early drain, whose stores may have cleared it.  The cause 0x0D
of a forecasting task's atomic with a result stands after the checks of the address and before poison, a place that the rules do not state: DESIGN
CHOICE (log 63). -/
def cAtomic (i : Instr) (srcs : List (BitVec 5)) (d a : BitVec 5) (use : BitVec 2) (eff : Nat → Nat → State → EffKind) (s : State) :
    Host.Outcome State Fault Refusal :=
  cWord i srcs (fun s =>
    let va := s.core.c.read a
    if va.toNat % 8 ≠ 0 then s.cTrap 0x03 va
    else if windowSpace ≤ va.toNat ∧ va.toNat < 0xC000000000000 then s.cTrap 0x05 va
    else s.cPage va.toNat true fun pa s =>
      if (windowOf pa).isSome then s.cTrap 0x05 va
      else if d = 0 ∧ s.core.task.isSome ∧ !s.pinnedTask then
        match s.put 0 (eff va.toNat pa s) with
        | .done s' => s'.cDone
        | .stall => s.cWait .verdict
      else if d ≠ 0 ∧ s.forecasting.isSome then s.overflow
      else if !(if use = 2 then s.fenceDone else s.cOrdered) then s.cWait .order
      else match s.poisonIn va.toNat pa 8 with
        | some p => s.cTrap 0x0C (w64 p)
        | none =>
          let s1 := s.pin
          match s1.poisonIn va.toNat pa 8 with
          | some p => s1.cTrap 0x0C (w64 p)
          | none =>
            match s1.put 0 (eff va.toNat pa s) with
            | .done s2 => if d = 0 then s2.cDone else s2.resultLate d (s1.mem64 pa) none va.toNat pa
            | .stall => s.cWait .verdict) s

/-- amo (06 R112): the use changes no value; ordering between agents is the order of steps (11 R270). -/
def execAmo (d a b : BitVec 5) (use : BitVec 2) (op : BitVec 4) (s : State) : Host.Outcome State Fault Refusal :=
  cAtomic (.amo d a b use op) [a, b] d a use (fun va pa s => .amo va pa op (s.core.c.read b)) s

/-- cas (06 R112): s[d] is the expected value, read at issue. -/
def execCas (d a b : BitVec 5) (s : State) : Host.Outcome State Fault Refusal :=
  cAtomic (.cas d a b) [a, b, d] d a 0 (fun va pa s => .cas va pa (s.core.c.read d) (s.core.c.read b)) s

end Sys2Proof.Machine
end

