-- ==== Sys2Proof/Machine/CFlow.lean ====
section
/-!
DEFINITION. C: branches with two delay slots and hardware loops (06 R114 to R117; 05 R90).
-/
namespace Sys2Proof.Machine

/-- A branch taken to a target: the two slots follow, then the redirection (05 R90; 20 R335). -/
def CStrand.redirect (c : CStrand) (t : Int) : CStrand :=
  { c with chain := ⟨c.chain.pc + 4, 2, c.chain.pc + 8, BitVec.ofInt 64 t⟩ }

/-- A branch not taken: two slots follow all the same (05 R90). -/
def CStrand.fallThrough (c : CStrand) : CStrand := { c with chain := ⟨c.chain.pc + 4, 0, 0, 0⟩ }

/-- A branch to a target: the target's checks are made at the branch, before its link and its slots (06 R116).  Of a target of jalr that is both
misaligned and outside the instruction memory the rule does not say which of its two causes comes: 0x03 does (DESIGN CHOICE, log 61). -/
def State.branch (s : State) (t : Int) (link : State → State) : State :=
  if t % 4 ≠ 0 then s.cTrap 0x03 (BitVec.ofInt 64 t)
  else if !targetOk t then s.cTrap 0x05 (BitVec.ofInt 64 t)
  else ((link s).updC fun c => c.redirect t).cTick none

/-- A conditional branch (06 R114). -/
def cBranch (i : Instr) (a b : BitVec 5) (o : BitVec 15) (p : Word64 → Word64 → Bool) (s : State) : Host.Outcome State Fault Refusal :=
  cWord i [a, b] (fun s =>
    if p (s.core.c.read a) (s.core.c.read b) then s.branch (target15 s.core.c.chain.pc o) id
    else (s.updC CStrand.fallThrough).cTick none) s

def execBeq (a b : BitVec 5) (o : BitVec 15) (s : State) : Host.Outcome State Fault Refusal := cBranch (.beq a b o) a b o (· == ·) s
def execBne (a b : BitVec 5) (o : BitVec 15) (s : State) : Host.Outcome State Fault Refusal := cBranch (.bne a b o) a b o (· != ·) s
def execBlt (a b : BitVec 5) (o : BitVec 15) (s : State) : Host.Outcome State Fault Refusal := cBranch (.blt a b o) a b o (fun x y => x.slt y) s
def execBge (a b : BitVec 5) (o : BitVec 15) (s : State) : Host.Outcome State Fault Refusal := cBranch (.bge a b o) a b o (fun x y => !x.slt y) s
def execBltu (a b : BitVec 5) (o : BitVec 15) (s : State) : Host.Outcome State Fault Refusal := cBranch (.bltu a b o) a b o (fun x y => x.ult y) s
def execBgeu (a b : BitVec 5) (o : BitVec 15) (s : State) : Host.Outcome State Fault Refusal := cBranch (.bgeu a b o) a b o (fun x y => !x.ult y) s

/-- The link: the word after the two slots (06 R115). -/
def State.link (s : State) (d : BitVec 5) : State := s.setS d (s.core.c.chain.pc + 12) 1

def execJal (d : BitVec 5) (o : BitVec 20) (s : State) : Host.Outcome State Fault Refusal :=
  cWord (.jal d o) [] (fun s => s.branch (target20 s.core.c.chain.pc o) fun s => s.link d) s

def execJalr (d a : BitVec 5) (i : BitVec 15) (s : State) : Host.Outcome State Fault Refusal :=
  cWord (.jalr d a i) [a] (fun s => s.branch ((s.core.c.read a + imm15 i).toNat : Int) fun s => s.link d) s

/-- loop_issue (06 R117).  TVAL of the 0x05 for a last word past the memory is its address, which the rule does not state: DESIGN CHOICE
(log 47). -/
def State.loopIssue (s : State) (count : Nat) (o : BitVec 15) : State :=
  let c := s.core.c
  let pc := c.chain.pc.toNat
  let last := (target15 c.chain.pc o).toNat
  if 0x10000 ≤ last then s.cTrap 0x05 (w64 last)
  else if c.stack.any fun e => e.last == pc then s.cTrap 0x13 0
  else if 4 ≤ c.stack.length then s.cTrap 0x13 0
  else if c.stack.head?.any fun e => decide (e.last < last) then s.cTrap 0x13 0
  else if count = 0 then
    let r := afterWord last c.stack
    (s.updC fun c => { c.setStack r.2 with chain := ⟨w64 r.1, 0, 0, 0⟩ }).cTick none
  else
    (s.updC fun c => { c.setStack (⟨pc + 4, last, count⟩ :: c.stack) with chain := ⟨c.chain.pc + 4, 0, 0, 0⟩ }).cTick none

def execLoop (c : BitVec 5) (o : BitVec 15) (s : State) : Host.Outcome State Fault Refusal :=
  cWord (.loop c o) [c] (fun s => s.loopIssue (s.core.c.read c).toNat o) s

def execLoopi (n : BitVec 10) (o : BitVec 15) (s : State) : Host.Outcome State Fault Refusal :=
  cWord (.loopi n o) [] (fun s => s.loopIssue n.toNat o) s

end Sys2Proof.Machine
end

