-- ==== Sys2Proof/Machine/Ending.lean ====
section
/-!
DEFINITION. The end of a task: the checks when its fourth strand ends (02 R25, R35; 10 R239, R250; 20 R336).
-/
namespace Sys2Proof.Machine

/-- Every strand of the core has ended (02 R25). -/
def Core.allEnded (c : Core) : Bool := c.c.cond == .ended && c.l.cond == .ended && c.x.cond == .ended && c.s.cond == .ended

/-- TVAL of the first non-empty queue, hitch queues before data queues, fq last (02 R35). -/
def Core.firstFull (c : Core) : Option Word64 :=
  let full := fun (l : List Queue) => l.findIdx? fun q => !q.items.isEmpty
  match full c.hq.toList with
  | some n => some (queueTval false n)
  | none => match full c.dq.toList with
    | some n => some (queueTval true n)
    | none => if c.fq.items.isEmpty then none else some (queueTval true 12)

/-- A slot whose footprint a task wrote and that already has a publication in this superstep, made or owed (10 R239). -/
def State.twice (s : State) : Option Nat :=
  match s.core.task, s.myKernel with
  | some t, some k => t.wrote.find? fun n => (nth k.slots n Slot.empty).published.isSome || (nth k.slots n Slot.empty).owed
  | _, _ => none

/-- The check that fails when every strand has ended: its TVAL (02 R35; 10 R239). -/
def State.endFault (s : State) : Option Word64 :=
  match s.core.firstFull with
  | some v => some v
  | none => s.twice.map fun n => w64 (0x100 + n)

/-- A check of the end of a task failed: C leaves its texit for its handler (20 R336), or the kernel ends when the same comes a second time. -/
def State.endTrap (s : State) (v : Word64) (at_ : Nat) : State :=
  match s.core.task with
  | none => s
  | some t =>
    if t.lastEnd = some (0x13, v) then s.killKernel t.kid 5 0
    else
      ((s.updTask fun t => { t with lastEnd := some (0x13, v) }).updC fun c =>
        { c with chain := ⟨t.exitPc, 0, 0, 0⟩, cond := .running none }).enterTrap 0x13 0 false v none 0 at_

/-- What follows an end: nothing until the fourth strand has ended; then the checks; where they pass the task splices (02 R25). -/
def State.afterEnd (s : State) (at_ : Nat) : State :=
  match s.core.task with
  | none => s
  | some _ =>
    if !s.core.allEnded then s
    else match s.endFault with
      | none => s.updTask fun t => { t with state := .splicing }
      | some v => s.endTrap v at_

end Sys2Proof.Machine
end

