-- ==== Sys2Proof/Machine/CQueue.lean ====
section
/-!
DEFINITION. C: queues, tokens, format words and the loop-nest table (06 R118 to R120; 02 R35 to R39; 05 R99, R100).
-/
namespace Sys2Proof.Machine

/-- A word of C pushed into a data queue, or C waits (06 R118). -/
def State.cPush (s : State) (p : BitVec 2) (w : Word64) : State :=
  let n := outQ .c p
  if (s.core.dq[n]).room dataDepth s.now then
    (s.updCore fun c => c.updDq n fun q => q.push w s.cSeen c.c.pushAfter).cDone
  else s.cWait (.data n.val true)

/-- Loss of decoupling counted when C blocks on xc: an event with the first blocked cycle, a cycle with each (02 R39). -/
def State.lodc (s : State) (n : Fin 12) : State :=
  if n ≠ 6 ∨ s.core.c.handler then s
  else s.updCsr fun r =>
    { r with lodcCycles := sat (2 ^ 32 - 1) (r.lodcCycles + 1),
             lodcEvents := if s.core.c.cond = .running (some (.data 6 false)) then r.lodcEvents else sat (2 ^ 32 - 1) (r.lodcEvents + 1) }

/-- The head word of a data queue, popped, or C waits (06 R118). -/
def State.cPop (s : State) (p : BitVec 2) (k : Word64 → State → State) : State :=
  let n := inQ .c p
  if (s.core.dq[n]).visible s.now then
    k (s.core.dq[n]).head ((s.updCore fun c => c.updDq n fun q => q.pop s.now s.cSeen).comeAfter .c (s.core.dq[n]).headAfter)
  else (s.lodc n).cWait (.data n.val false)

def execQpush (v : BitVec 5) (p : BitVec 2) (s : State) : Host.Outcome State Fault Refusal :=
  cWord (.qpush v p) [v] (fun s => s.cPush p (s.core.c.read v)) s

def execQpop (v : BitVec 5) (p : BitVec 2) (s : State) : Host.Outcome State Fault Refusal :=
  cWord (.qpop v p) [] (fun s => s.cPop p fun w s => s.result v w 1) s

/-- qtry (06 R118): it never blocks; when v = e the status is left. -/
def execQtry (v e : BitVec 5) (p : BitVec 2) (s : State) : Host.Outcome State Fault Refusal :=
  cWord (.qtry v e p) [] (fun s =>
    if (s.core.dq[inQ .c p]).visible s.now then s.cPop p fun w s => (s.setS v w 1).result e 1 1
    else s.result e 0 1) s

/-- A token of C posted at issue, or C waits while the queue is full (02 R37, 06 R118). -/
def execTpost (p : BitVec 2) (s : State) : Host.Outcome State Fault Refusal :=
  cWord (.tpost p) [] (fun s =>
    let n := outQ .c p
    if (s.core.hq[n]).room hitchDepth s.now then
      (s.updCore fun c => c.updHq n fun q => q.push 1 s.cSeen c.c.pushAfter).cDone
    else s.cWait (.hitch n.val true)) s

/-- A token consumed, or C waits (06 R118). -/
def execTwait (p : BitVec 2) (s : State) : Host.Outcome State Fault Refusal :=
  cWord (.twait p) [] (fun s =>
    let n := inQ .c p
    if (s.core.hq[n]).visible s.now then
      ((s.updCore fun c => c.updHq n fun q => q.pop s.now s.cSeen).comeAfter .c (s.core.hq[n]).headAfter).cDone
    else s.cWait (.hitch n.val false)) s

/-- The checks fmt makes of a format word (05 R99). -/
def fmtOk (w : Word64) : Bool :=
  let f := field w.toNat
  decide (f 60 4 ≤ 12) && decide (f 56 4 ≤ 12) && decide (f 52 4 ≤ 12) && f 18 2 != 3 && decide (f 16 2 ≤ 1) && f 0 5 == 0
    && f 41 3 == 0 && f 25 3 == 0

/-- fmt (06 R119): s[a], or FMTD for a = 0. -/
def execFmt (a : BitVec 5) (s : State) : Host.Outcome State Fault Refusal :=
  cWord (.fmt a) [a] (fun s =>
    let w := if a = 0 then s.core.csr.fmtd else s.core.c.read a
    if !fmtOk w then s.cTrap 0x07 w
    else if (s.core.fq).room formatDepth s.now then
      (s.updCore fun c => { c with fq := c.fq.push w s.cSeen c.c.pushAfter }).cDone
    else s.cWait .format) s

/-- The resv fields of a loop-nest table entry are zero (05 R100). -/
def nestOk (i : Nat) (w : Word64) : Bool :=
  if i = 0 then field w.toNat 58 6 == 0 && field w.toNat 0 38 == 0
  else if i % 2 = 1 ∧ i < 13 then field w.toNat 0 32 == 0
  else true

/-- nest.w (06 R120). -/
def execNestW (a : BitVec 5) (i : BitVec 4) (s : State) : Host.Outcome State Fault Refusal :=
  cWord (.nestW a i) [a] (fun s =>
    let w := s.core.c.read a
    if !nestOk i.toNat w then s.cTrap 0x07 ((encode (.nestW a i)).zeroExtend 64)
    else (s.updM fun m => { m with shadow := m.shadow.setIfInBounds i.toNat w }).cDone) s

end Sys2Proof.Machine
end

