-- ==== Sys2Proof/Machine/CKernel.lean ====
section
/-!
DEFINITION. C: kernels and tasks, the cleat, the fence (06 R122 to R130; 02 R31, R32; 10 R246; 11 R271).
-/
namespace Sys2Proof.Machine

/-- An effect of C put into the buffer or performed, then `k`; a stall waits for the verdict (10 R247). -/
def State.cPut (s : State) (e : EffKind) (k : State → State) : State :=
  match s.put 0 e with
  | .done s' => k s'
  | .stall => s.cWait .verdict

/-- The launch handle: KID, task ordinal, earlier launch words of this run (06 R122).  A launch word of the supervisor, which has neither kernel nor task,
is not covered by the rule: its handle is 0 and it submits nothing (DESIGN CHOICE, log 33). -/
def State.launchHandle (s : State) : Word64 :=
  match s.core.task with
  | none => 0
  | some t => w64 (t.kid % 2 ^ 16 * 2 ^ 48 + t.ord % 2 ^ 32 * 2 ^ 16 + s.core.c.nLaunch % 2 ^ 16)

/-- launch (06 R122): the handle at issue, the submission with the task's effects. -/
def execLaunch (d a : BitVec 5) (s : State) : Host.Outcome State Fault Refusal :=
  cWord (.launch d a) [a] (fun s =>
    s.cPut (.launch s.launchHandle (s.core.c.read a)) fun s' =>
      (s'.updC fun c => { c with nLaunch := c.nLaunch + 1 }).result d s.launchHandle 1) s

/-- The doubleword at an address of a context as the lead dispatcher reads it, if it can. -/
def State.agentWord (s : State) (ctx : BitVec 16) (va : Nat) : Option Nat := (s.agentPa ctx va false).map fun pa => Memory.readNat s.mem pa 8

/-- stream (06 R123; 19 R321): the ranges behind the count at s[a] are staged and not pinned.  The spec does not say what becomes of a count or an
entry that the dispatcher cannot read, or of a length out of its bounds: such an entry stages nothing (DESIGN CHOICE, log 44). -/
def State.streamWord (s : State) (ctx : BitVec 16) (va : Nat) : State :=
  let entry := fun (i : Nat) =>
    match s.agentWord ctx (va + 8 + 16 * i), s.agentWord ctx (va + 16 + 16 * i) with
    | some a, some n => if 1 ≤ n ∧ n ≤ 2 ^ 32 then some (a, n) else none
    | _, _ => none
  s.stage ctx [] ((List.range ((s.agentWord ctx va).getD 0)).filterMap entry)

/-- stream (06 R123). -/
def execStream (a : BitVec 5) (s : State) : Host.Outcome State Fault Refusal :=
  cWord (.stream a) [a] (fun s => (s.streamWord s.core.csr.ctxid (s.core.c.read a).toNat).cDone) s

/-- ktrig (06 R124): with the task's effects. -/
def execKtrig (s : State) : Host.Outcome State Fault Refusal := cWord .ktrig [] (fun s => s.cPut .ktrig State.cDone) s

/-- Every producer on the after list counts as triggered (19 R325). -/
def State.producersDone (s : State) : Bool :=
  match s.myKernel with
  | none => true
  | some k => k.after.all fun kid => match s.kernel? kid with | none => true | some p => p.triggered s.now

/-- kwait (06 R124): what the producers stored before their triggers is before what the core reads after it (11 R272). -/
def execKwait (s : State) : Host.Outcome State Fault Refusal :=
  cWord .kwait [] (fun s => if s.producersDone then s.seeAll.cDone else s.cWait .kwait) s

/-- C runs a task's own words: not a handler's, not the supervisor's (06 R102). -/
def Core.taskContext (c : Core) : Bool := !c.c.handler && !c.sup

/-- texit (06 R125): C ends, and what follows the fourth end follows. -/
def execTexit (s : State) : Host.Outcome State Fault Refusal :=
  cWord .texit [] (cIf s.core.taskContext .texit fun s =>
    ((s.updTask fun t => { t with exitPc := s.core.c.chain.pc }).updC fun c =>
      { c with cond := .ended, count := c.count + 1, next := s.cycleEnd .c }).afterEnd (s.cycleEnd .c)) s

/-- What the accesses of a coll word come to (06 R104): they are made, a page needs a walk, or a cause. -/
inductive CollAccess where
  | ok
  | walk (va : Nat) (write : Bool)
  | bad (cause : BitVec 8) (tval : Nat)
  deriving DecidableEq, Repr

/-- The first page of some ranges that needs a walk. -/
def State.collWalk (s : State) (l : List (Nat × Nat × Bool)) : CollAccess :=
  (l.flatMap fun r => (pageStarts r.1 r.2.1).map (·, r.2.2)).foldl (fun r p =>
    match r, s.page p.1 p.2 with
    | .ok, .walk => .walk p.1 p.2
    | r, _ => r) .ok

/-- n bytes that a coll word reads (06 R104): pages, rights, poison. The descriptor's address is TVAL but for poison (21 R354). -/
def State.collRead (s : State) (descr va n : Nat) : CollAccess :=
  match s.collWalk [(va, n, false)] with
  | .ok =>
    (List.range n).foldl (fun r i =>
      match r, s.page (va + i) false with
      | .ok, .bad c => .bad c descr
      | .ok, .ok pa => if s.poisonedAt (va + i) pa then .bad 0x0C ((va + i) / 32 * 32) else .ok
      | r, _ => r) .ok
  | r => r

/-- The accesses of a coll word (06 R104; 21 R354): its descriptor and PTAB, and the pages of its buffers, which the pager supplies once what the
descriptor says is good (log 52). -/
def State.collAccess (s : State) (va : Nat) : CollAccess :=
  match s.myKernel with
  | none => .ok
  | some k =>
    if va % 64 ≠ 0 then .ok
    else match s.collRead va va 64 with
      | .ok =>
        let b := s.taskLoad k.ctx va 64
        if (collFields va b).isSome then .ok
        else match s.collRead va (descField b 40 8) (8 * descField b 4 1) with
          | .ok => if s.collCheck va = some 0x03 ∨ s.collCheck va = some 0x07 then .ok else s.collWalk (collBuffers b)
          | r => r
      | r => r

/-- coll (06 R126; 21 R354): its accesses (06 R104), once what they come after has performed (11 R267), checks at issue, the id into s[d], the start
at issue or with a forecasting task's effects. -/
def execColl (d a : BitVec 5) (s : State) : Host.Outcome State Fault Refusal :=
  cWord (.coll d a) [a] (fun s =>
    let va := s.core.c.read a
    if va.toNat % 64 = 0 ∧ !s.cOrdered then s.cWait .order
    else match s.collAccess va.toNat, s.collCheck va.toNat with
    | .walk a w, _ => s.freezeCore (.walk a w)
    | .bad c a, _ => s.cTrap c (BitVec.ofNat 64 a)
    | .ok, some c => s.cTrap (BitVec.ofNat 8 c) va
    | .ok, none =>
      let id := match s.myKernel with
        | none => 0
        | some k => leNat (s.taskLoad k.ctx va.toNat 2)
      if s.forecasting.isSome then s.cPut (.coll va) fun s => s.result d (w64 id) 1
      else (s.startColl va).result d (w64 id) 1) s

/-- The task's own virtual core. -/
def State.myVc (s : State) : Option VCore := s.core.task.bind fun t => s.myKernel.bind fun k => k.vc? t.vdie t.vcore

/-- An arrival of a forecasting task already held under another identity, or counted (02 R32, 10 R246). -/
def State.otherArrival (s : State) (id : Ident) : Bool :=
  let held := match s.core.task with
    | none => false
    | some t => t.buf.any fun e => match e.kind with | .arrive i => i != id | _ => false
  match s.myVc with
  | none => false
  | some v => !v.idents.contains id && (held || v.arrived.isSome)

/-- cleat.arrive (06 R127). -/
def execCleatArrive (s : State) : Host.Outcome State Fault Refusal :=
  cWord .cleatArrive [] (fun s =>
    match s.core.task with
    | none => s.cDone
    | some t =>
      let id := t.ident s.core.c.nArrive
      let go := fun (s : State) => (s.updC fun c => { c with nArrive := c.nArrive + 1 }).cDone
      if s.otherArrival id then s.cTrap 0x13 0
      else if s.forecasting.isSome then s.cPut (.arrive id) go
      else go (s.perform (.arrive id))) s

/-- cleat.expect (06 R128). -/
def execCleatExpect (a : BitVec 5) (s : State) : Host.Outcome State Fault Refusal :=
  cWord (.cleatExpect a) [a] (fun s =>
    let n := (s.core.c.read a).toNat
    match s.core.task with
    | none => s.cDone
    | some t =>
      let e := EffKind.expect (t.ident s.core.c.nExpect) n
      let go := fun (s : State) => (s.updC fun c => { c with nExpect := c.nExpect + 1 }).cDone
      if 2 ^ 32 ≤ n then s.cTrap 0x13 0
      else if s.forecasting.isSome then s.cPut e go
      else go (s.perform e)) s

/-- cleat.wait (06 R129).  An arrival of a forecasting task that its buffer still holds has not been made: the wait for its phase is cause 0x13
(DEDUCED, log 53). -/
def execCleatWait (a : BitVec 5) (s : State) : Host.Outcome State Fault Refusal :=
  cWord (.cleatWait a) [a] (fun s =>
    let n := (s.core.c.read a).toNat
    match s.myKernel, s.myVc with
    | some k, some v =>
      if n < k.phase then s.cDone
      else if k.phase < n ∨ v.arrived.isNone then s.cTrap 0x13 0
      else s.cWait (.cleat (w64 n))
    | _, _ => s.cDone) s

/-- fence (06 R130; 11 R271): it holds up no word.  C's later global accesses come after the transfers and remote writes that C comes after here, and
after what the core has on its way to other windows.  In this model every agent sees an access where it performs, so the scopes are alike, and
atomics and contributions of C have performed at their words. -/
def execFence (scope : BitVec 2) (s : State) : Host.Outcome State Fault Refusal :=
  cWord (.fence scope) [] (fun s =>
    ({ s.updC (fun c => { c with fence := c.fence.join c.after }) with
       links := { s.links with flying := s.links.flying.map fun (f : Flying) =>
         if f.sender = (s.core.die, s.core.q) ∧ f.ident.isNone then { f with fenced := true } else f } }).cDone) s

end Sys2Proof.Machine
end

