-- ==== Sys2Proof/Machine/Flags.lean ====
section
/-!
DEFINITION. Flag computations: the sticky FFLAGS of the four strands (06 R133) and how results deliver into them.  The flags of
single operations are computed beside their results in Num.lean (04 R66, R72).
-/
namespace Sys2Proof.Machine

/-- Flags raised together. -/
def orAll (l : List Flags) : Flags := l.foldl (fun a f => a ||| f) 0

/-- Flags delivered into a step strand's FFLAGS with a result (06 R133, 07 R148). -/
def State.orFlags (s : State) (t : StepStrand) (f : Flags) : State :=
  s.updStep t fun p =>
    let q := if p.next ≤ s.now then p.takeFlags s.now else p
    { q with fflags := q.fflags ||| f }

/-- FFLAGS as csrr reads it: bits 63 to 5 are 0 (06 R133). -/
def flagsWord (f : Flags) : Word64 := f.zeroExtend 64

/-- The flags of a step strand as C reads them: a write of C that is still on its way is what C sees (06 R133). -/
def Step.flagsSeen (t : Step) : Flags :=
  match t.flagSet with
  | some (f, _) => f
  | none => t.fflags

/-- C's write of another strand's flags: it replaces them at the start of that strand's first cycle after C's cycle ends (06 R133); a
handler's word at once, for that strand is stopped. -/
def State.setFlagsOf (s : State) (t : StepStrand) (v : Word64) : State :=
  s.updStep t fun p =>
    if s.core.c.handler then { p with fflags := v.truncate 5, flagSet := none }
    else { p with flagSet := some (v.truncate 5, s.now + s.core.div.ctl) }

end Sys2Proof.Machine
end

