-- ==== Sys2Proof/Machine/CSys.lean ====
section
/-!
DEFINITION. C: control and status registers, clocks and pacing, traps and service words (06 R131 to R142; 20 R333, R340).
-/
namespace Sys2Proof.Machine

/-- SEED i as X and the matrix unit see it (04 R75). -/
def State.seed (s : State) (i : BitVec 3) : Word32 :=
  (s.core.csr.seen (0x20 + i.toNat) s.now ((s.core.csr.seed[i.toNat]'(by have := i.isLt; omega)).zeroExtend 64)).truncate 32

/-! ### The registers of 06 R132 -/

/-- Divisors as CLKST shows them: control lowest (06 R136). -/
def Divs.word (d : Divs) : Nat := d.ctl + d.mat * 2 ^ 4 + d.vec * 2 ^ 8 + d.copy * 2 ^ 12

/-- CLKST (06 R136). -/
def State.clkst (s : State) : Word64 :=
  let req := match s.myKernel with
    | none => 0
    | some k => k.reqs.foldl (fun a r => a + r.2 * 2 ^ (16 + 4 * r.1)) 0
  let permits := match s.power.toList[s.core.die]? with | some p => p.permits | none => 0
  w64 (s.core.div.word + req + permits * 2 ^ 32)

/-- SLIPC (02 R30). -/
def Kernel.slipc (k : Kernel) : Word64 := w64 (sat (2 ^ 32 - 1) k.slipTicks * 2 ^ 32 + sat (2 ^ 32 - 1) k.slipCount)

/-- TSTAT (20 R333). -/
def Core.tstat (c : Core) : Word64 :=
  let f := c.frame
  w64 (f.rd.toNat * 2 ^ 8 + f.drop.toNat * 2 ^ 10 + f.precise.toNat * 2 ^ 11 + f.src.toNat * 2 ^ 12 + f.cdiv.toNat * 2 ^ 16
    + sat 15 c.pend.length * 2 ^ 20)

/-- A register's value by number; none where no register stands (06 R131, R132). -/
def State.csrRead (s : State) (n : Nat) : Option Word64 :=
  let c := s.core
  if n = 0x000 then some (flagsWord c.c.fflags)
  else if n = 0x001 then some (flagsWord c.l.flagsSeen)
  else if n = 0x002 then some (flagsWord c.x.flagsSeen)
  else if n = 0x003 then some (flagsWord c.s.flagsSeen)
  else if n = 0x010 then some c.csr.fmtd
  else if h : 0x020 ≤ n ∧ n ≤ 0x027 then some ((c.csr.seed[n - 0x20]'(by omega)).zeroExtend 64)
  else if h : 0x030 ≤ n ∧ n ≤ 0x032 then some ((c.csr.pace[n - 0x30]'(by omega)).zeroExtend 64)
  else if n = 0x038 then some (if c.csr.fdamp = 0x80000000 then 0 else c.csr.fdamp.zeroExtend 64)
  else if n = 0x040 then some (c.csr.seen n s.now (w64 c.m.fcol))
  else if n = 0x041 then some (c.csr.seen n s.now c.m.fstat)
  else if n = 0x042 then some (c.csr.seen n s.now c.m.grow)
  else if n = 0x050 then some (c.csr.mtesti.zeroExtend 64)
  else if n = 0x080 then some (w64 c.c.count)
  else if n = 0x081 then some (match s.myKernel with | some k => w64 k.kframe | none => 0)
  else if n = 0x082 then some (s.clusterTimer s.core)
  else if n = 0x083 then some s.clkst
  else if n = 0x090 then some (match s.myKernel with | some k => k.slipc | none => 0)
  else if n = 0x091 then some (w64 (c.csr.lodcEvents * 2 ^ 32 + c.csr.lodcCycles))
  else if n = 0x0A0 then some (c.csr.ctxid.zeroExtend 64)
  else if n = 0x100 then some (c.frame.fpc.zeroExtend 64)
  else if n = 0x101 then some (c.frame.fnpc.zeroExtend 64)
  else if n = 0x102 then some (c.frame.fnnpc.zeroExtend 64)
  else if n = 0x103 then some (c.frame.cause.zeroExtend 64)
  else if n = 0x104 then some c.frame.tval
  else if n = 0x105 then some c.tstat
  else none

/-- The register is one of the trap frame (06 R132). -/
def isFrameCsr (n : Nat) : Bool := decide (0x100 ≤ n) && decide (n ≤ 0x105)

/-- A write of C to one of its own registers that another domain reads (06 R131). -/
def State.csrLate (s : State) (n : Nat) (f : Csr → Csr) : State :=
  let old := (s.csrRead n).getD 0
  s.updCsr fun r => if s.core.c.handler then (f r).writeNow n else (f r).writeLate n old s.now (s.cycleEnd .c)

/-- A register written by number; reserved bits and read-only registers ignore the write (00 R6; 06 R131). -/
def State.csrWrite (s : State) (n : Nat) (v : Word64) : State :=
  if n = 0x000 then s.updC fun c => { c with fflags := v.truncate 5 }
  else if n = 0x001 then s.setFlagsOf .l v
  else if n = 0x002 then s.setFlagsOf .x v
  else if n = 0x003 then s.setFlagsOf .s v
  else if n = 0x010 then s.updCsr fun r => { r with fmtd := v &&& ~~~0x1F }
  else if h : 0x020 ≤ n ∧ n ≤ 0x027 then
    s.csrLate n fun r => { r with seed := r.seed.set (n - 0x20) (v.truncate 32) (by omega) }
  else if h : 0x030 ≤ n ∧ n ≤ 0x032 then
    s.csrLate n fun r => { r with pace := r.pace.set (n - 0x30) (v.truncate 8) (by omega) }
  else if n = 0x038 then s.updCsr fun r => { r with fdamp := v.truncate 32 }
  else if n = 0x050 then s.csrLate n fun r => { r with mtesti := if (v.truncate 32 : Word32).toNat < 0x400 then 0x400 else v.truncate 32 }
  else if n = 0x091 then s.updCsr fun r => { r with lodcEvents := 0, lodcCycles := 0 }
  else if n = 0x0A0 then s.updCsr fun r => { r with ctxid := v.truncate 16 }
  else if n = 0x100 then s.updCore fun c => { c with frame := { c.frame with fpc := v.truncate 17 } }
  else if n = 0x101 then s.updCore fun c => { c with frame := { c.frame with fnpc := v.truncate 17 } }
  else if n = 0x102 then s.updCore fun c => { c with frame := { c.frame with fnnpc := v.truncate 17 } }
  else if n = 0x105 then s.updCore fun c => { c with frame := { c.frame with drop := v.getLsbD 10, rd := (v >>> 8).truncate 2 } }
  else s

/-- An access of a register: its number, then the contexts of 06 R102, then `k`.  The supervisor's own handler counts as the supervisor for a write of
MTESTI and CTXID, and TVAL of its 0x05 is the register's number; the rule states neither: DESIGN CHOICE (log 51). -/
def State.csrAccess (s : State) (i : Instr) (csr : BitVec 12) (write : Bool) (k : Word64 → State → State) : State :=
  match s.csrRead csr.toNat with
  | none => s.cTrap 0x01 ((encode i).zeroExtend 64)
  | some v =>
    if (isFrameCsr csr.toNat && !s.core.c.handler && !s.core.sup)
        || (write && (csr.toNat == 0x050 || csr.toNat == 0x0A0) && !s.core.sup) then s.cTrap 0x05 (csr.zeroExtend 64)
    else k v s

/-- csrr (06 R131). -/
def execCsrr (d : BitVec 5) (csr : BitVec 12) (s : State) : Host.Outcome State Fault Refusal :=
  cWord (.csrr d csr) [] (fun s => s.csrAccess (.csrr d csr) csr false fun v s => s.result d v 2) s

/-- csrw (06 R131). -/
def execCsrw (a : BitVec 5) (csr : BitVec 12) (s : State) : Host.Outcome State Fault Refusal :=
  cWord (.csrw a csr) [a] (fun s => s.csrAccess (.csrw a csr) csr true fun _ s => (s.csrWrite csr.toNat (s.core.c.read a)).cDone) s

/-- csrx (06 R131): the old value and the write as one step. -/
def execCsrx (d a : BitVec 5) (csr : BitVec 12) (s : State) : Host.Outcome State Fault Refusal :=
  cWord (.csrx d a csr) [a] (fun s => s.csrAccess (.csrx d a csr) csr true fun v s =>
    (s.csrWrite csr.toNat (s.core.c.read a)).result d v 2) s

/-! ### Clocks and pacing -/

/-- The larger request of a domain is kept (06 R137). -/
def addRequest (l : List (Nat × Nat)) (dom v : Nat) : List (Nat × Nat) :=
  match l.find? fun r => r.1 == dom with
  | none => l ++ [(dom, v)]
  | some r => (dom, Nat.max r.2 v) :: l.filter fun q => q.1 != dom

/-- A divisor that a domain may run at (01 R15, 06 R137). -/
def divisorOk (v : Nat) : Bool := [5, 6, 7, 8, 10, 12].contains v

/-- clkdiv (06 R137). -/
def execClkdiv (a : BitVec 5) (dom : BitVec 2) (s : State) : Host.Outcome State Fault Refusal :=
  cWord (.clkdiv a dom) [a] (fun s =>
    let v := s.core.c.read a
    if !divisorOk v.toNat then s.cTrap 0x05 v
    else match s.core.task with
      | none => s.cDone
      | some t => (s.updKernel t.kid fun k => { k with reqs := addRequest k.reqs dom.toNat v.toNat }).cDone) s

/-- pace (06 R138): the register of r takes min(s[a], 255). -/
def execPace (a : BitVec 5) (r : BitVec 2) (s : State) : Host.Outcome State Fault Refusal :=
  cWord (.pace a r) [a] (fun s => (s.csrWrite (0x030 + r.toNat) (w64 (sat 255 (s.core.c.read a).toNat))).cDone) s

/-! ### Traps and service words -/

/-- Cause 0x10, taken after its word (06 R139; 20 R334). -/
def State.softTrap (s : State) (v : Word64) : State :=
  if s.core.c.handler then s.handlerFault else (s.cDone).enterTrap 0x10 0 false v none 0 (s.cycleEnd .c)

/-- trap (06 R139). -/
def execTrap (code : BitVec 8) (s : State) : Host.Outcome State Fault Refusal :=
  cWord (.trap code) [] (fun s => s.softTrap (code.zeroExtend 64)) s

/-- ecall (06 R139). -/
def execEcall (s : State) : Host.Outcome State Fault Refusal := cWord .ecall [] (fun s => s.softTrap 0x100) s

/-- rett (06 R140; 20 R340). -/
def execRett (s : State) : Host.Outcome State Fault Refusal :=
  cWord .rett [] (cIf s.core.c.handler .rett fun s => (s.updCore fun c => c.takeUp s.now).returnTrap (s.cycleEnd .c)) s

/-- idle (06 R141): the word completes, and the supervisor's C issues nothing until an interrupt is taken.  In the supervisor's
own handler it passes the context check, which 06 R102 leaves open, and is a handler fault (20 R341), since no interrupt is taken there: DESIGN CHOICE
(log 51). -/
def execIdle (s : State) : Host.Outcome State Fault Refusal :=
  cWord .idle [] (cIf s.core.sup .idle fun s => (s.updC CStrand.advance).cWait .idleWord) s

/-- tlbinv (06 R142): the page that holds s[a], or every translation, of the context CTXID names; waiters of a walk walk again
(20 R344).  Permitted in every context of the supervisor, its own handler's too, which 06 R102 leaves open: DESIGN CHOICE (log 51). -/
def execTlbinv (a : BitVec 5) (ctx : BitVec 1) (s : State) : Host.Outcome State Fault Refusal :=
  cWord (.tlbinv a ctx) [a] (cIf s.core.sup (.tlbinv a ctx) fun s =>
    let va := (s.core.c.read a).toNat
    let stays := fun (h : Held) => !(h.ctx == s.core.csr.ctxid && (ctx == 1 || h.covers h.ctx va))
    let clear := fun (c : Core) => { c with tlb := c.tlb.filter stays }
    ({ s with xlat := { s.xlat with held := s.xlat.held.filter fun e => stays e.2 }, core := clear s.core,
              others := s.others.map clear }).cDone) s

end Sys2Proof.Machine
end

