-- ==== Sys2Proof/Machine/StepCommon.lean ====
section
/-!
DEFINITION. The ten forms common to L, X and S (07 R174 to R178; 09 R229).
-/
namespace Sys2Proof.Machine

/-- A result for a g register two cycles after issue (07 R174). -/
def gResult (t : StepStrand) (d : BitVec 4) (v : Word64) (s : State) : WordRes :=
  .ok (s.gLatch t d v) (.atCount ((s.core.strand t).count + 2)) .on

/-- A word that completes in its issue cycle. -/
def doneNow (t : StepStrand) (s : State) : Done := .atCount (s.core.strand t).count

def execGadd (t : StepStrand) (h : Hitch) (d a b : BitVec 4) (s : State) : Host.Outcome State Fault Refusal :=
  .next (stepWord t h (.gadd t h d a b) false [] [] (fun s =>
    gResult t d ((s.core.strand t).readG a + (s.core.strand t).readG b) s) s)

def execGaddi (t : StepStrand) (h : Hitch) (d a : BitVec 4) (i : BitVec 14) (s : State) : Host.Outcome State Fault Refusal :=
  .next (stepWord t h (.gaddi t h d a i) false [] [] (fun s =>
    gResult t d ((s.core.strand t).readG a + i.signExtend 64) s) s)

def execGli (t : StepStrand) (h : Hitch) (d : BitVec 4) (i : BitVec 18) (s : State) : Host.Outcome State Fault Refusal :=
  .next (stepWord t h (.gli t h d i) false [] [] (fun s => gResult t d (i.signExtend 64) s) s)

/-! ### Loops -/

/-- loop_issue of 07 R175 on counter n.  TVAL of its cause 0x05 is the address of last, which the rule does not name: DESIGN CHOICE (log 47). -/
def stepLoopAct (t : StepStrand) (n : BitVec 2) (count : Nat) (o : BitVec 10) (s : State) : WordRes :=
  let p := s.core.strand t
  let pc := p.pc.toNat
  let last := pc + 4 * o.toNat
  let c := p.lc[n.toNat]'(by have := n.isLt; omega)
  if 0x10000 ≤ last then .fault 0x05 (w64 last)
  else if c.active then .fault 0x13 0
  else if p.lc.any fun l => l.active && !(decide (l.start ≤ pc) && decide (last ≤ l.last)) then .fault 0x13 0
  else if count = 0 then
    let r := p.afterLoops last
    .ok (s.updStep t fun _ => r.1) (doneNow t s) (.past r.2)
  else
    .ok (s.updStep t fun p => { p with lc := p.lc.set n.toNat ⟨count, pc + 4, last, true, p.loopSeq⟩ (by have := n.isLt; omega),
                                       loopSeq := p.loopSeq + 1 }) (doneNow t s) .on

def execStepLoopImm (t : StepStrand) (h : Hitch) (lc : BitVec 2) (n : BitVec 9) (o : BitVec 10) (s : State) : Host.Outcome State Fault Refusal :=
  .next (stepWord t h (.stepLoopImm t h lc n o) false [] [] (stepLoopAct t lc n.toNat o) s)

def execStepLoopReg (t : StepStrand) (h : Hitch) (lc : BitVec 2) (g : BitVec 4) (o : BitVec 10) (s : State) : Host.Outcome State Fault Refusal :=
  .next (stepWord t h (.stepLoopReg t h lc g o) false [] [] (fun s => stepLoopAct t lc ((s.core.strand t).readG g).toNat o s) s)

/-! ### Queues and tokens -/

/-- A data word popped by a step strand. -/
def State.popData (s : State) (t : StepStrand) (q : BitVec 2) : State :=
  (s.updCore fun c => c.updDq (inQ t.strand q) fun d => d.pop s.now (s.cycleEnd t.strand)).comeAfter t.strand (s.core.dq[inQ t.strand q]).headAfter

/-- The condition of a brq (07 R176). -/
def brqTaken (cond : BitVec 3) (w : Word64) : Bool :=
  if cond = 0 then w == 0 else if cond = 1 then w != 0 else if cond = 2 then w.slt 0 else !w.slt 0

/-- brq (07 R176): a bad target faults before the pop; a taken one issues nothing for two more cycles. -/
def execBrq (t : StepStrand) (h : Hitch) (q : BitVec 2) (cond : BitVec 3) (o : BitVec 17) (s : State) : Host.Outcome State Fault Refusal :=
  .next (stepWord t h (.brq t h q cond o) false [] [] (fun s =>
    let n := inQ t.strand q
    if !(s.core.dq[n]).visible s.now then .wait (.data n.val false)
    else
      let target : Int := ((s.core.strand t).pc.toNat : Int) + 4 * o.toInt
      if brqTaken cond (s.core.dq[n]).head then
        if !targetOk target then .fault 0x05 (BitVec.ofInt 64 target)
        else .ok ((s.popData t q).updStep t fun p => { p with brqLeft := 2 }) (doneNow t s) (.taken target.toNat)
      else .ok (s.popData t q) (doneNow t s) .on) s)

/-- tpost (07 R177): a token of its own after the hitch field's. -/
def execStepTpost (t : StepStrand) (h : Hitch) (q : BitVec 2) (s : State) : Host.Outcome State Fault Refusal :=
  .next (stepWord t h (.stepTpost t h q) false [] [q] (fun s => .ok s (doneNow t s) .on) s)

/-- twait (07 R177): a token of its own beside the hitch field's. -/
def execStepTwait (t : StepStrand) (h : Hitch) (q : BitVec 2) (s : State) : Host.Outcome State Fault Refusal :=
  .next (stepWord t h (.stepTwait t h q) false [q] [] (fun s => .ok s (doneNow t s) .on) s)

/-- qpush (07 R177). -/
def execStepQpush (t : StepStrand) (h : Hitch) (q : BitVec 2) (a : BitVec 4) (s : State) : Host.Outcome State Fault Refusal :=
  .next (stepWord t h (.stepQpush t h q a) false [] [] (fun s =>
    let n := outQ t.strand q
    if (s.core.dq[n]).room dataDepth s.now then
      .ok (s.updCore fun c => c.updDq n fun d => d.push ((s.core.strand t).readG a) (s.cycleEnd t.strand) (c.afterOf t)) (doneNow t s) .on
    else .wait (.data n.val true)) s)

/-- qpop (07 R177). -/
def execStepQpop (t : StepStrand) (h : Hitch) (q : BitVec 2) (d : BitVec 4) (s : State) : Host.Outcome State Fault Refusal :=
  .next (stepWord t h (.stepQpop t h q d) false [] [] (fun s =>
    let n := inQ t.strand q
    if (s.core.dq[n]).visible s.now then gResult t d (s.core.dq[n]).head (s.popData t q)
    else .wait (.data n.val false)) s)

/-! ### end -/

/-- A token of a strand pushed into a hitch queue: its words have performed, and it comes after what they came after (11 R267). -/
def State.pushToken (s : State) (t : StepStrand) (n : Fin 12) (since : Nat) : State :=
  s.updCore fun c => c.updHq n fun q => q.push 1 since (c.strand t).after

/-- The strand ends: its own post is delivered, or held behind an earlier one to the same queue or for want of a slot (07 R178, 02 R37). -/
def State.endWith (s : State) (t : StepStrand) (posts : List (BitVec 2)) : State :=
  let now := s.now
  let since := s.cycleEnd t.strand
  let s1 := s.stepTick t none
  let s2 := match posts with
    | [p] =>
      let n := outQ t.strand p
      if ((s1.core.strand t).flights.any fun f => f.posts.contains p) || !(s1.core.hq[n]).room hitchDepth now then
        s1.updStep t fun q => { q with flights := q.flights ++ [(Flight.mk (q.seq + 1) (.done q.count) posts)] }
      else s1.pushToken t n since
    | _ => s1
  s2.updStep t fun q => { q with cond := .ended }

/-- end (07 R178): it waits until every earlier word has completed; on L an open ring faults (09 R229). -/
def execEndStrand (t : StepStrand) (h : Hitch) (s : State) : Host.Outcome State Fault Refusal :=
  .next (stepWord t h (.endStrand t h) false [] [] (fun s =>
    let p := s.core.strand t
    if !(p.flights.all fun f => f.isDone p.count) then .wait .ending
    else if t = .l ∧ s.core.rings.any (·.open_) then .fault 0x13 0
    else .also (((s.takeTokens t (codes h.wait)).endWith t (codes h.post)).afterEnd (s.cycleEnd t.strand))) s)

end Sys2Proof.Machine
end

