-- ==== Sys2Proof/Machine/VecOps.lean ====
section
/-!
DEFINITION. The course of a vector word (07 R146, R148 to R152): names, lanes, the governing predicate, the scoreboard and the
result latches.
-/
namespace Sys2Proof.Machine

/-- The predicate, its inversion, zeroing and rounding mode of a word: its own pn, or the pending modifier (05 R97). -/
structure Gov where
  pn   : BitVec 4
  inv  : Bool
  zero : Bool
  rm   : Nat

/-- The governing fields of a word. -/
def State.gov (s : State) (pn : BitVec 4) : Gov :=
  match s.core.v.modif with
  | none => ⟨pn, false, false, 0⟩
  | some m => ⟨m.pn, m.inv == 1, m.zero == 1, m.rm.toNat⟩

/-- act of 07 R148 for n elements. -/
def State.active (s : State) (g : Gov) (n : Nat) : List Bool := ((s.core.v.readP g.pn).take n).map fun b => b != g.inv

/-- VSH.TYPE (07 R144). -/
def State.vtype (s : State) : Nat := s.core.v.type_.toNat

/-- The lanes of a physical vector register under a type. -/
def State.lanesAt (s : State) (phys t : Nat) : List Nat :=
  splitLanes (laneWidth t) (lanesOf t) (leNat (s.localBytes (phys * vregBytes) vregBytes))

/-- The lanes of a named vector register under a type. -/
def State.lanes (s : State) (n t : Nat) : List Nat := s.lanesAt (s.core.v.phys n) t

/-- The names of a group of c registers from a name on (07 R149). -/
def groupOf (n c : Nat) : List Nat := (List.range c).map (n + ·)

/-- A group that runs past v63 (07 R149). -/
def groupBad (n c : Nat) : Bool := decide (63 < n + c - 1)

/-- One of the named registers waits for a global load (07 R152). -/
def State.scoreboarded (s : State) (names : List Nat) : Bool :=
  names.any fun n => s.core.v.gloads.any fun g => g.regs.contains (s.core.v.phys n)

/-- A vector result put into its latch (07 R151). -/
def State.vlatch (s : State) (lat : Nat) (targets : List LatchTarget) (flags : Flags) : State :=
  let zeroed := match s.core.v.modif with
    | some m => if m.zero = 1 then some ((s.core.v.readP m.pn).map fun b => b != (m.inv == 1)) else none
    | none => none
  s.updV fun v => { v with latches := v.latches ++
    [⟨s.core.x.count + lat, s.core.x.count, s.core.x.seq + 1, s.core.x.pc, targets, flags, zeroed⟩] }

/-- The instruction word as TVAL. -/
def wordTval (i : Instr) : Word64 := (encode i).zeroExtend 64

/-- Cause 0x07 at issue with the word as TVAL, where a condition holds (07 R154; 20 R334). -/
def unsupportedIf (bad : Bool) (i : Instr) : Option (BitVec 8 × Word64) := if bad then some (0x07, wordTval i) else none

/-- One vector word with a result: its faults at issue, the scoreboard on the names it reads or writes, then the result after a
latency (07 R150 to R152). -/
def vecWord (h : Hitch) (i : Instr) (fault : State → Option (BitVec 8 × Word64)) (names : State → List Nat) (lat : State → Nat)
    (k : State → List LatchTarget × Flags) (s : State) : Host.Outcome State Fault Refusal :=
  .next (stepWord .x h i false [] [] (fun s =>
    if s.scoreboarded (names s) then .wait .scoreboard
    else match fault s with
      | some f => .fault f.1 f.2
      | none =>
        let r := k s
        .ok (s.vlatch (lat s) r.1 r.2) (.atCount (s.core.x.count + lat s)) .on) s)

/-- The lanes a word writes: its results where active, 0 where zeroed (07 R148). -/
def merge (act : List Bool) (zero : Bool) (r : List (Nat × Flags)) : List (Option Nat) :=
  (act.zip r).map fun p => if p.1 then some p.2.1 else if zero then some 0 else none

/-- The flags of active lanes (07 R148). -/
def actFlags (act : List Bool) (r : List (Nat × Flags)) : Flags :=
  (act.zip r).foldl (fun f p => if p.1 then f ||| p.2.2 else f) 0

/-- A result of the VSH type into one register, predicated. -/
def State.lanesOut (s : State) (g : Gov) (d : Nat) (r : List (Nat × Flags)) : List LatchTarget × Flags :=
  let t := s.vtype
  let act := s.active g (lanesOf t)
  ([.vreg (s.core.v.phys d) (laneWidth t) (merge act g.zero r)], actFlags act r)

/-- A whole register of lanes, unpredicated. -/
def State.regOut (s : State) (d w : Nat) (l : List Nat) : LatchTarget := .vreg (s.core.v.phys d) w (l.map some)

/-- Elements j of a group of r registers in interleave order: register j mod r, lane j div r (07 R149). -/
def interleave (r : Nat) (regs : List (List Nat)) : List Nat :=
  match regs with
  | [] => []
  | a :: _ => (List.range a.length).flatMap fun l => (List.range r).map fun q => nth (nth regs q []) l 0

/-- The registers of a group whose elements in interleave order are given. -/
def deinterleave {α : Type} (r : Nat) (l : List α) (dflt : α) : List (List α) :=
  (List.range r).map fun q => (List.range (l.length / r)).map fun i => nth l (i * r + q) dflt

end Sys2Proof.Machine
end

