-- ==== Sys2Proof/Machine/VecArith.lean ====
section
/-!
DEFINITION. X: arithmetic, integer and bitwise words, comparison and predicates, special functions, reduction (07 R154 to R158,
R161, R169).
-/
namespace Sys2Proof.Machine

/-- A sign bit cleared or inverted, and the like: results without flags. -/
def noFlag (v : Nat) : Nat × Flags := (v, 0)

/-- An element function of two operands under the VSH type into vd (07 R148). -/
def vec2 (h : Hitch) (i : Instr) (d a b : BitVec 6) (pn : BitVec 4) (bad : Nat → Bool) (lat : Nat → Nat)
    (f : Nat → Nat → Nat → Nat → Nat × Flags) (s : State) : Host.Outcome State Fault Refusal :=
  vecWord h i (fun s => unsupportedIf (bad s.vtype) i) (fun _ => [d.toNat, a.toNat, b.toNat]) (fun s => lat s.vtype)
    (fun s =>
      let g := s.gov pn
      let t := s.vtype
      s.lanesOut g d.toNat (List.zipWith (f t g.rm) (s.lanes a.toNat t) (s.lanes b.toNat t))) s

/-- An element function of one operand. -/
def vec1 (h : Hitch) (i : Instr) (d a : BitVec 6) (pn : BitVec 4) (bad : Nat → Bool) (lat : Nat → Nat)
    (f : Nat → Nat → Nat → Nat × Flags) (s : State) : Host.Outcome State Fault Refusal :=
  vecWord h i (fun s => unsupportedIf (bad s.vtype) i) (fun _ => [d.toNat, a.toNat]) (fun s => lat s.vtype)
    (fun s =>
      let g := s.gov pn
      let t := s.vtype
      s.lanesOut g d.toNat ((s.lanes a.toNat t).map (f t g.rm))) s

/-- An element function of three operands. -/
def vec3 (h : Hitch) (i : Instr) (d a b c : BitVec 6) (f : Nat → Nat → Nat → Nat → Nat → Nat × Flags) (s : State) :
    Host.Outcome State Fault Refusal :=
  vecWord h i (fun s => unsupportedIf (isMx s.vtype) i) (fun _ => [d.toNat, a.toNat, b.toNat, c.toNat]) (fun _ => 4)
    (fun s =>
      let g := s.gov 0
      let t := s.vtype
      s.lanesOut g d.toNat (((s.lanes a.toNat t).zip ((s.lanes b.toNat t).zip (s.lanes c.toNat t))).map fun p => f t g.rm p.1 p.2.1 p.2.2)) s

/-- The values modulo 2^w. -/
def wrap (t : Nat) (i : Int) : Nat × Flags := (ofI (laneWidth t) i, 0)

/-! ### Element functions (07 R154 to R156) -/

def addE (t rm a b : Nat) : Nat × Flags := if isFp t then fpAdd t rm (fpOf t a) (fpOf t b) else wrap t (a + b)
def subE (t rm a b : Nat) : Nat × Flags := if isFp t then fpAdd t rm (fpOf t a) (fpOf t b).neg else wrap t ((a : Int) - b)
def mulE (t rm a b : Nat) : Nat × Flags := if isFp t then fpMul t rm (fpOf t a) (fpOf t b) else wrap t (a * b)
def fmaE (t rm a b c : Nat) : Nat × Flags :=
  if isFp t then fpFma t rm (fpOf t a) (fpOf t b) (fpOf t c) else wrap t ((a : Int) * b + c)
def fmsE (t rm a b c : Nat) : Nat × Flags :=
  if isFp t then fpFma t rm (fpOf t a) (fpOf t b) (fpOf t c).neg else wrap t ((a : Int) * b - c)
def fnmaE (t rm a b c : Nat) : Nat × Flags :=
  if isFp t then fpFma t rm (fpOf t a).neg (fpOf t b) (fpOf t c) else wrap t ((c : Int) - a * b)
def minE (t a b : Nat) : Nat × Flags := if isFp t then fpMinMax t false a b else noFlag (if intVal t b < intVal t a then b else a)
def maxE (t a b : Nat) : Nat × Flags := if isFp t then fpMinMax t true a b else noFlag (if intVal t a < intVal t b then b else a)
def absE (t a : Nat) : Nat × Flags :=
  if isFp t then noFlag (a % 2 ^ (laneWidth t - 1)) else noFlag (ofI (laneWidth t) ((intVal t a).natAbs : Int))
def negE (t a : Nat) : Nat × Flags :=
  if isFp t then noFlag ((a + 2 ^ (laneWidth t - 1)) % 2 ^ laneWidth t) else wrap t (-(a : Int))
def notE (t a : Nat) : Nat × Flags := noFlag (2 ^ laneWidth t - 1 - a)
def satE (t : Nat) (i : Int) : Nat × Flags := wrap t (clampInt t i)
def sraE (t a b : Nat) : Nat × Flags := wrap t (toI (laneWidth t) a / (2 ^ (b % laneWidth t) : Nat))

/-- Latency of vadd and vsub: 4 under a floating-point shape, else 2 (07 R150). -/
def addLat (t : Nat) : Nat := if isFp t then 4 else 2
def two (_ : Nat) : Nat := 2
def four (_ : Nat) : Nat := 4
def eight (_ : Nat) : Nat := 8
def never (_ : Nat) : Bool := false
def notInt (t : Nat) : Bool := !isInt t
def notFp (t : Nat) : Bool := !isFp t

def execVadd (h : Hitch) (d a b : BitVec 6) (pn : BitVec 4) (s : State) : Host.Outcome State Fault Refusal := vec2 h (.vadd h d a b pn) d a b pn isMx addLat addE s
def execVsub (h : Hitch) (d a b : BitVec 6) (pn : BitVec 4) (s : State) : Host.Outcome State Fault Refusal := vec2 h (.vsub h d a b pn) d a b pn isMx addLat subE s
def execVmul (h : Hitch) (d a b : BitVec 6) (pn : BitVec 4) (s : State) : Host.Outcome State Fault Refusal := vec2 h (.vmul h d a b pn) d a b pn isMx four mulE s
def execVmin (h : Hitch) (d a b : BitVec 6) (pn : BitVec 4) (s : State) : Host.Outcome State Fault Refusal := vec2 h (.vmin h d a b pn) d a b pn isMx two (fun t _ x y => minE t x y) s
def execVmax (h : Hitch) (d a b : BitVec 6) (pn : BitVec 4) (s : State) : Host.Outcome State Fault Refusal := vec2 h (.vmax h d a b pn) d a b pn isMx two (fun t _ x y => maxE t x y) s
def execVand (h : Hitch) (d a b : BitVec 6) (s : State) : Host.Outcome State Fault Refusal := vec2 h (.vand h d a b) d a b 0 never two (fun _ _ x y => noFlag (x &&& y)) s
def execVor (h : Hitch) (d a b : BitVec 6) (s : State) : Host.Outcome State Fault Refusal := vec2 h (.vor h d a b) d a b 0 never two (fun _ _ x y => noFlag (x ||| y)) s
def execVxor (h : Hitch) (d a b : BitVec 6) (s : State) : Host.Outcome State Fault Refusal := vec2 h (.vxor h d a b) d a b 0 never two (fun _ _ x y => noFlag (x ^^^ y)) s
def execVshl (h : Hitch) (d a b : BitVec 6) (s : State) : Host.Outcome State Fault Refusal := vec2 h (.vshl h d a b) d a b 0 notInt two (fun t _ x y => wrap t ((x * 2 ^ (y % laneWidth t) : Nat) : Int)) s
def execVshr (h : Hitch) (d a b : BitVec 6) (s : State) : Host.Outcome State Fault Refusal := vec2 h (.vshr h d a b) d a b 0 notInt two (fun t _ x y => noFlag (x / 2 ^ (y % laneWidth t))) s
def execVsra (h : Hitch) (d a b : BitVec 6) (s : State) : Host.Outcome State Fault Refusal := vec2 h (.vsra h d a b) d a b 0 notInt two (fun t _ x y => sraE t x y) s
def execVaddsat (h : Hitch) (d a b : BitVec 6) (s : State) : Host.Outcome State Fault Refusal := vec2 h (.vaddsat h d a b) d a b 0 notInt two (fun t _ x y => satE t (intVal t x + intVal t y)) s
def execVsubsat (h : Hitch) (d a b : BitVec 6) (s : State) : Host.Outcome State Fault Refusal := vec2 h (.vsubsat h d a b) d a b 0 notInt two (fun t _ x y => satE t (intVal t x - intVal t y)) s
def execVabs (h : Hitch) (d a : BitVec 6) (pn : BitVec 4) (s : State) : Host.Outcome State Fault Refusal := vec1 h (.vabs h d a pn) d a pn isMx two (fun t _ x => absE t x) s
def execVneg (h : Hitch) (d a : BitVec 6) (pn : BitVec 4) (s : State) : Host.Outcome State Fault Refusal := vec1 h (.vneg h d a pn) d a pn isMx two (fun t _ x => negE t x) s
def execVnot (h : Hitch) (d a : BitVec 6) (pn : BitVec 4) (s : State) : Host.Outcome State Fault Refusal := vec1 h (.vnot h d a pn) d a pn never two (fun t _ x => notE t x) s
def execVmov (h : Hitch) (d a : BitVec 6) (pn : BitVec 4) (s : State) : Host.Outcome State Fault Refusal := vec1 h (.vmov h d a pn) d a pn never two (fun _ _ x => noFlag x) s
def execVrcp (h : Hitch) (d a : BitVec 6) (pn : BitVec 4) (s : State) : Host.Outcome State Fault Refusal := vec1 h (.vrcp h d a pn) d a pn notFp eight (fun t rm x => fpRcp t rm (fpOf t x)) s
def execVrsqrt (h : Hitch) (d a : BitVec 6) (pn : BitVec 4) (s : State) : Host.Outcome State Fault Refusal := vec1 h (.vrsqrt h d a pn) d a pn notFp eight (fun t rm x => fpRsqrt t rm (fpOf t x)) s
def execVsqrt (h : Hitch) (d a : BitVec 6) (pn : BitVec 4) (s : State) : Host.Outcome State Fault Refusal := vec1 h (.vsqrt h d a pn) d a pn notFp eight (fun t rm x => fpSqrt t rm (fpOf t x)) s
def execVexp2 (h : Hitch) (d a : BitVec 6) (pn : BitVec 4) (s : State) : Host.Outcome State Fault Refusal := vec1 h (.vexp2 h d a pn) d a pn notFp eight (fun t rm x => fpExp2 t rm (fpOf t x)) s
def execVlog2 (h : Hitch) (d a : BitVec 6) (pn : BitVec 4) (s : State) : Host.Outcome State Fault Refusal := vec1 h (.vlog2 h d a pn) d a pn notFp eight (fun t rm x => fpLog2 t rm (fpOf t x)) s
def execVfma (h : Hitch) (d a b c : BitVec 6) (s : State) : Host.Outcome State Fault Refusal := vec3 h (.vfma h d a b c) d a b c fmaE s
def execVfms (h : Hitch) (d a b c : BitVec 6) (s : State) : Host.Outcome State Fault Refusal := vec3 h (.vfms h d a b c) d a b c fmsE s
def execVfnma (h : Hitch) (d a b c : BitVec 6) (s : State) : Host.Outcome State Fault Refusal := vec3 h (.vfnma h d a b c) d a b c fnmaE s

/-! ### Comparison (07 R157) -/

/-- a c b of two lanes, and its flags. -/
def cmpE (t : Nat) (cond : BitVec 2) (a b : Nat) : Bool × Flags :=
  if isFp t then
    let x := fpOf t a
    let y := fpOf t b
    if x.isNan || y.isNan then (cond == 1, if 2 ≤ cond.toNat || x.signals || y.signals then fNV else 0)
    else
      let lt := fpLess false x y
      let gt := fpLess false y x
      (if cond = 0 then !lt && !gt else if cond = 1 then lt || gt else if cond = 2 then lt else !gt, 0)
  else
    let x := intVal t a
    let y := intVal t b
    (if cond = 0 then x == y else if cond = 1 then x != y else if cond = 2 then decide (x < y) else decide (x ≤ y), 0)

/-- vcmp (07 R157): bits past the lanes become false. -/
def execVcmp (h : Hitch) (d : BitVec 4) (cond : BitVec 2) (a b : BitVec 6) (pn : BitVec 4) (s : State) : Host.Outcome State Fault Refusal :=
  let i := Instr.vcmp h d cond a b pn
  vecWord h i (fun s => unsupportedIf (isMx s.vtype) i) (fun _ => [a.toNat, b.toNat]) (fun _ => 2)
    (fun s =>
      let g := s.gov pn
      let t := s.vtype
      let n := lanesOf t
      let act := s.active g n
      let r := List.zipWith (cmpE t cond) (s.lanes a.toNat t) (s.lanes b.toNat t)
      let bits_ := (act.zip r).map fun p => if p.1 then some p.2.1 else if g.zero then some false else none
      ([.pred d (bits_ ++ List.replicate (1024 - n) (some false))],
       (act.zip r).foldl (fun f p => if p.1 then f ||| p.2.2 else f) 0)) s

/-! ### Whole predicates (07 R158) -/

/-- A predicate written whole after two cycles. -/
def predWord (h : Hitch) (i : Instr) (d : BitVec 4) (k : State → List Bool) (s : State) : Host.Outcome State Fault Refusal :=
  vecWord h i (fun _ => none) (fun _ => []) (fun _ => 2) (fun s => ([.pred d ((k s).map some)], 0)) s

def execPcnt (h : Hitch) (d g : BitVec 4) (s : State) : Host.Outcome State Fault Refusal :=
  predWord h (.pcnt h d g) d (fun s =>
    let n := sat 1024 (s.core.x.readG g).toNat
    List.replicate n true ++ List.replicate (1024 - n) false) s

/-- The functions of plogic (05 R96). -/
def plogicFn (f : BitVec 3) (a b : Bool) : Bool :=
  match f.toNat with
  | 0 => a && b
  | 1 => a || b
  | 2 => a != b
  | 3 => a && !b
  | 4 => a || !b
  | 5 => !(a && b)
  | 6 => !(a || b)
  | _ => a == b

def execPlogic (h : Hitch) (d a b : BitVec 4) (f : BitVec 3) (s : State) : Host.Outcome State Fault Refusal :=
  predWord h (.plogic h d a b f) d (fun s => List.zipWith (plogicFn f) (s.core.v.readP a) (s.core.v.readP b)) s

/-- ppop (07 R158): the lane count of VSH bounds the bits counted. -/
def execPpop (h : Hitch) (a g : BitVec 4) (s : State) : Host.Outcome State Fault Refusal :=
  vecWord h (.ppop h a g) (fun _ => none) (fun _ => []) (fun _ => 2)
    (fun s => ([.greg g (w64 (((s.core.v.readP a).take (lanesOf s.vtype)).filter id).length)], 0)) s

/-! ### Reduction (07 R161) -/

/-- ident of a reduction under a type. -/
def redIdent (o t : Nat) : Nat :=
  match o with
  | 1 => if isFp t then infCode t false else ofI (laneWidth t) (intMax t)
  | 2 => if isFp t then infCode t true else ofI (laneWidth t) (intMin t)
  | 3 => 2 ^ laneWidth t - 1
  | _ => 0

/-- comb of a reduction. -/
def redComb (o t rm a b : Nat) : Nat × Flags :=
  match o with
  | 0 => addE t rm a b
  | 1 => minE t a b
  | 2 => maxE t a b
  | 3 => noFlag (a &&& b)
  | 4 => noFlag (a ||| b)
  | _ => noFlag (a ^^^ b)

/-- One level of the tree: neighbours combined. -/
def redLevel (f : Nat → Nat → Nat × Flags) : List Nat → List Nat × Flags
  | a :: b :: l =>
    let r := redLevel f l
    ((f a b).1 :: r.1, (f a b).2 ||| r.2)
  | l => (l, 0)

/-- The tree, one level per unit of fuel. -/
def redTree (f : Nat → Nat → Nat × Flags) : Nat → List Nat → Flags → Nat × Flags
  | 0, l, fl => (l.headD 0, fl)
  | n + 1, l, fl =>
    match l with
    | [a] => (a, fl)
    | l => redTree f n (redLevel f l).1 (fl ||| (redLevel f l).2)

/-- vred (07 R161): lane 0 takes the result, every other lane 0. -/
def execVred (h : Hitch) (d a : BitVec 6) (o : BitVec 3) (pn : BitVec 4) (s : State) : Host.Outcome State Fault Refusal :=
  let i := Instr.vred h d a o pn
  vecWord h i (fun s => unsupportedIf (isMx s.vtype) i) (fun _ => [d.toNat, a.toNat]) (fun _ => 8)
    (fun s =>
      let g := s.gov pn
      let t := s.vtype
      let x := List.zipWith (fun p v => if p then v else redIdent o.toNat t) (s.active g (lanesOf t)) (s.lanes a.toNat t)
      let r := redTree (redComb o.toNat t g.rm) 10 x 0
      ([s.regOut d.toNat (laneWidth t) (r.1 :: List.replicate (lanesOf t - 1) 0)], r.2)) s

end Sys2Proof.Machine
end

