-- ==== Sys2Proof/Machine/VecMove.lean ====
section
/-!
DEFINITION. X: moves and permutes, the modifier word, shape, window and rotation (07 R147, R159, R160; 05 R97).
-/
namespace Sys2Proof.Machine

/-- vsel (07 R159): every lane is written. -/
def execVsel (h : Hitch) (d a b : BitVec 6) (pn : BitVec 4) (s : State) : Host.Outcome State Fault Refusal :=
  vecWord h (.vsel h d a b pn) (fun _ => none) (fun _ => [d.toNat, a.toNat, b.toNat]) (fun _ => 2)
    (fun s =>
      let g := s.gov pn
      let t := s.vtype
      let r := ((s.active g (lanesOf t)).zip ((s.lanes a.toNat t).zip (s.lanes b.toNat t))).map fun p =>
        if p.1 then p.2.1 else if g.zero then 0 else p.2.2
      ([s.regOut d.toNat (laneWidth t) r], 0)) s

/-- A permute: lanes of the result from the lanes of its sources (07 R160). -/
def permute (h : Hitch) (i : Instr) (d : BitVec 6) (names : List Nat) (f : State → Nat → List Nat) (s : State) :
    Host.Outcome State Fault Refusal :=
  vecWord h i (fun _ => none) (fun _ => d.toNat :: names) (fun _ => 2)
    (fun s => s.lanesOut (s.gov 0) d.toNat ((f s s.vtype).map noFlag)) s

def execVperm (h : Hitch) (d a b : BitVec 6) (s : State) : Host.Outcome State Fault Refusal :=
  permute h (.vperm h d a b) d [a.toNat, b.toNat] (fun s t =>
    let x := s.lanes a.toNat t
    (s.lanes b.toNat t).map fun j => nth x (j % lanesOf t) 0) s

def execVzip (h : Hitch) (d a b : BitVec 6) (s : State) : Host.Outcome State Fault Refusal :=
  permute h (.vzip h d a b) d [a.toNat, b.toNat] (fun s t =>
    (((s.lanes a.toNat t).zip (s.lanes b.toNat t)).flatMap fun p => [p.1, p.2]).take (lanesOf t)) s

/-- Every second entry of a list, from the first. -/
def evens : List Nat → List Nat
  | a :: _ :: l => a :: evens l
  | l => l

def execVunzip (h : Hitch) (d a b : BitVec 6) (s : State) : Host.Outcome State Fault Refusal :=
  permute h (.vunzip h d a b) d [a.toNat, b.toNat] (fun s t => evens (s.lanes a.toNat t ++ s.lanes b.toNat t)) s

/-- va[i + n], 0 outside the register (07 R160). -/
def slide (l : List Nat) (n : Int) : List Nat :=
  if n < 0 then (List.replicate (sat l.length (-n).toNat) 0 ++ l).take l.length
  else (l.drop n.toNat ++ List.replicate (sat l.length n.toNat) 0).take l.length

def execVslide (h : Hitch) (d a : BitVec 6) (g : BitVec 4) (s : State) : Host.Outcome State Fault Refusal :=
  permute h (.vslide h d a g) d [a.toNat] (fun s t => slide (s.lanes a.toNat t) (s.core.x.readG g).toInt) s

def execVsplat (h : Hitch) (d : BitVec 6) (g : BitVec 4) (s : State) : Host.Outcome State Fault Refusal :=
  permute h (.vsplat h d g) d [] (fun s t => List.replicate (lanesOf t) ((s.core.x.readG g).toNat % 2 ^ laneWidth t)) s

/-- The value vbcast spreads: an entry of kk, or SC for index 32 (07 R159). -/
def bcastValue (k : KReg) (e t : Nat) : Nat :=
  if e = 32 then k.sc % 2 ^ laneWidth t else ofI (laneWidth t) (nth k.e e 0)

def execVbcast (h : Hitch) (d : BitVec 6) (k g : BitVec 4) (s : State) : Host.Outcome State Fault Refusal :=
  let i := Instr.vbcast h d k g
  vecWord h i (fun s => unsupportedIf (decide (32 < (s.core.x.readG g).toNat)) i) (fun _ => [d.toNat]) (fun _ => 2)
    (fun s =>
      let t := s.vtype
      let v := bcastValue (s.core.v.readK (s.core.v.physK k.toNat)) (s.core.x.readG g).toNat t
      s.lanesOut (s.gov 0) d.toNat (List.replicate (lanesOf t) (v, 0))) s

/-- The modifier word (05 R97): one issue cycle, no hitch; it stays pending for the next word. -/
def execVectorModifier (pn : BitVec 4) (inv zero : BitVec 1) (rm : BitVec 2) (s : State) : Host.Outcome State Fault Refusal :=
  .next (stepWord .x ⟨0, 0⟩ (.vectorModifier pn inv zero rm) false [] [] (fun s =>
    .ok (s.updV fun v => { v with modif := some ⟨pn, inv, zero, rm, s.core.x.pc⟩ }) (doneNow .x s) .on) s)

/-! ### Shape, window, rotation (07 R147) -/

/-- A word whose effect the next cycle's word sees. -/
def windowWord (h : Hitch) (i : Instr) (fault : State → Option (BitVec 8 × Word64)) (f : State → Vec → Vec) (s : State) :
    Host.Outcome State Fault Refusal :=
  .next (stepWord .x h i false [] [] (fun s =>
    match fault s with
    | some e => .fault e.1 e.2
    | none => .ok (s.updV (f s)) (.atCount (s.core.x.count + 1)) .on) s)

def execVshape (h : Hitch) (z : BitVec 4) (s : State) : Host.Outcome State Fault Refusal :=
  windowWord h (.vshape h z) (fun _ => none) (fun _ v => { v with type_ := z }) s

/-- The stage predicates with p8 given and p9 to p15 shifted or cleared. -/
def Vec.stage (v : Vec) (first : Bool) (shift : Bool) : Vec :=
  { v with p := Vector.ofFn fun (i : Fin 16) =>
      if i.val < 8 then v.p[i] else if i.val = 8 then List.replicate 1024 first
      else if shift then v.p[i.val - 1]'(by omega) else allFalse }

/-- vrot. -/
def Vec.rotate (v : Vec) : Vec :=
  { (v.stage (decide (0 < v.left)) true) with
    off := if 0 < v.size then (v.off + 1) % v.size else v.off, koff := (v.koff + 1) % 16, left := v.left - 1 }

def execVrot (h : Hitch) (s : State) : Host.Outcome State Fault Refusal :=
  windowWord h (.vrot h) (fun _ => none) (fun _ v => v.rotate) s

/-- The checks vwin makes of the value read. -/
def vwinOk (x : Nat) : Bool :=
  x == field x 32 24 * 2 ^ 32 + field x 16 12 * 2 ^ 16 + field x 8 7 * 2 ^ 8 + field x 0 6
    && decide (field x 16 12 ≤ 4032) && decide (field x 8 7 ≤ 64) && decide (field x 0 6 + field x 8 7 ≤ 64)

/-- vwin. -/
def Vec.window (v : Vec) (x : Nat) : Vec :=
  let left := field x 32 24
  { (v.stage (decide (0 < left)) false) with
    wbase := field x 16 12, base := field x 0 6, size := field x 8 7, off := 0, koff := 0, left := left - 1 }

def execVwin (h : Hitch) (g : BitVec 4) (s : State) : Host.Outcome State Fault Refusal :=
  windowWord h (.vwin h g)
    (fun s => if vwinOk (s.core.x.readG g).toNat then none else some (0x07, s.core.x.readG g))
    (fun s v => v.window (s.core.x.readG g).toNat) s

end Sys2Proof.Machine
end

