-- ==== Sys2Proof/Machine/VecConv.lean ====
section
/-!
DEFINITION. X: conversion, rotation and quantisation (07 R162 to R168; 04 R71 to R79).
-/
namespace Sys2Proof.Machine

/-- The registers of one operand of vcvt: the ratio of its width to the narrower one. -/
def ratio (w v : Nat) : Nat := if v < w then w / v else 1

/-- The pair of types that vcvt does not convert (07 R162). -/
def cvtBad (dt st : Nat) : Bool :=
  isMx dt || isMx st || decide (laneWidth dt = 8 * laneWidth st) || decide (laneWidth st = 8 * laneWidth dt)

/-- vcvt (07 R162): elements in interleave order on the wider side, governed one by one. -/
def execVcvt (h : Hitch) (d a : BitVec 6) (dt st : BitVec 4) (s : State) : Host.Outcome State Fault Refusal :=
  let i := Instr.vcvt h d a dt st
  let td := dt.toNat
  let ts := st.toNat
  let rd := ratio (laneWidth td) (laneWidth ts)
  let rs := ratio (laneWidth ts) (laneWidth td)
  vecWord h i (fun _ => unsupportedIf (cvtBad td ts || groupBad d.toNat rd || groupBad a.toNat rs) i)
    (fun _ => groupOf d.toNat rd ++ groupOf a.toNat rs) (fun _ => 3)
    (fun s =>
      let g := s.gov 0
      let x := interleave rs ((groupOf a.toNat rs).map fun n => s.lanes n ts)
      let act := s.active g x.length
      let r := x.map (convert td ts g.rm)
      let out := deinterleave rd (merge act g.zero r) none
      ((out.zip (groupOf d.toNat rd)).map (fun p => .vreg (s.core.v.phys p.2) (laneWidth td) p.1), actFlags act r)) s

/-- Rows of a block that one source register of vhad holds (07 R164). -/
def rowsPerReg (t : Nat) : Nat := if t == tBf16 then 8 else 4

/-- The seed a word names, as X sees it. -/
def State.seedNat (s : State) (i : BitVec 3) : Nat := (s.seed i).toNat

/-- vhad (07 R165): B rows rotated, i32 lanes into one register or an interleaved pair, exponents shifted into kk. -/
def execVhad (h : Hitch) (d a : BitVec 6) (k : BitVec 4) (seed : BitVec 3) (s : State) : Host.Outcome State Fault Refusal :=
  let i := Instr.vhad h d a k seed
  let c := fun (t : Nat) => if t == tBf16 then 2 else 1
  vecWord h i (fun s => unsupportedIf (notFp s.vtype || groupBad d.toNat (c s.vtype)) i)
    (fun s => a.toNat :: groupOf d.toNat (c s.vtype)) (fun _ => 6)
    (fun s =>
      let t := s.vtype
      let rows := (pieces 32 8 (s.lanes a.toNat t)).map fun x => vhadBlock t x (s.seedNat seed)
      let y := (rows.flatMap (·.1)).map (ofI 32)
      let regs := deinterleave (c t) y 0
      ((regs.zip (groupOf d.toNat (c t))).map (fun p => s.regOut p.2 32 p.1)
         ++ [.kshift (s.core.v.physK k.toNat) (rows.map (·.2.1))],
       orAll (rows.map (·.2.2)))) s

/-- The 1024 lanes of a block group in element order 32r + l (07 R164). -/
def State.blockGroup (s : State) (a t : Nat) : List Nat :=
  if t == tBf16 then (List.range 4).flatMap fun m => interleave 2 [s.lanes (a + 2 * m) 3, s.lanes (a + 2 * m + 1) 3]
  else (List.range 8).flatMap fun m => s.lanes (a + m) 3

/-- The rows of a block group with their exponents. -/
def State.blockRows (s : State) (a t : Nat) (k : KReg) : List (List Int × Int) :=
  ((pieces 32 32 (s.blockGroup a t)).map (·.map (toI 32))).zip k.e

/-- vmaxe (07 R166): SC of kk after three cycles. -/
def execVmaxe (h : Hitch) (a : BitVec 6) (k : BitVec 4) (s : State) : Host.Outcome State Fault Refusal :=
  let i := Instr.vmaxe h a k
  vecWord h i (fun s => unsupportedIf (notFp s.vtype || groupBad a.toNat 8) i) (fun _ => groupOf a.toNat 8) (fun _ => 3)
    (fun s =>
      let n := s.core.v.physK k.toNat
      ([.ksc n (blockScale (s.blockRows a.toNat s.vtype (s.core.v.readK n)))], 0)) s

/-- The mx type that a two-bit field names (05 R94): mx8, mx6, mx4. -/
def mxOf (m : BitVec 2) : Nat := tMx8 + m.toNat

/-- Registers that the codes of a block take. -/
def codeRegs (m : Nat) : Nat := if m == tMx4 then 1 else 2

/-- vq (07 R167): codes of a block in element order. -/
def execVq (h : Hitch) (d a : BitVec 6) (k : BitVec 4) (m : BitVec 2) (s : State) : Host.Outcome State Fault Refusal :=
  let i := Instr.vq h d a k m
  let ty := mxOf m
  vecWord h i (fun s => unsupportedIf (notFp s.vtype || groupBad a.toNat 8 || groupBad d.toNat (codeRegs ty)) i)
    (fun _ => groupOf a.toNat 8 ++ groupOf d.toNat (codeRegs ty)) (fun _ => 3)
    (fun s =>
      let kr := s.core.v.readK (s.core.v.physK k.toNat)
      let q := (s.blockRows a.toNat s.vtype kr).flatMap fun r => r.1.map fun y => quant ty y r.2 kr.sc
      let w := laneWidth ty
      let codes := q.map fun c => ofI w c.1
      (((pieces (4096 / w) 2 codes).zip (groupOf d.toNat (codeRegs ty))).map (fun p => s.regOut p.2 w p.1), orAll (q.map (·.2)))) s

/-- vdq (07 R168; 04 R77): the codes of a block as values of the VSH type, with the inverse rotation where a seed is given. -/
def dequant (h : Hitch) (i : Instr) (d a : BitVec 6) (k : BitVec 4) (m : BitVec 2) (seed : Option (BitVec 3)) (s : State) :
    Host.Outcome State Fault Refusal :=
  let ty := mxOf m
  let c := fun (t : Nat) => if t == tBf16 then 4 else 8
  vecWord h i (fun s => unsupportedIf (notFp s.vtype || groupBad a.toNat (codeRegs ty) || groupBad d.toNat (c s.vtype)) i)
    (fun s => groupOf a.toNat (codeRegs ty) ++ groupOf d.toNat (c s.vtype)) (fun _ => 6)
    (fun s =>
      let t := s.vtype
      let kr := s.core.v.readK (s.core.v.physK k.toNat)
      let codes := (groupOf a.toNat (codeRegs ty)).flatMap fun n => s.lanes n ty
      let r := (pieces 32 32 codes).flatMap fun row => vdqRow t ty (s.gov 0).rm row kr.sc (seed.map s.seedNat)
      (((pieces (lanesOf t) 8 (r.map (·.1))).zip (groupOf d.toNat (c t))).map (fun p => s.regOut p.2 (laneWidth t) p.1),
       orAll (r.map (·.2)))) s

def execVdq (h : Hitch) (d a : BitVec 6) (k : BitVec 4) (m : BitVec 2) (s : State) : Host.Outcome State Fault Refusal :=
  dequant h (.vdq h d a k m) d a k m none s

def execVdqInv (h : Hitch) (d a : BitVec 6) (k : BitVec 4) (seed : BitVec 3) (m : BitVec 2) (s : State) : Host.Outcome State Fault Refusal :=
  dequant h (.vdqInv h d a k seed m) d a k m (some seed) s

end Sys2Proof.Machine
end

