-- ==== Sys2Proof/Machine/VecMem.lean ====
section
/-!
DEFINITION. X: vector loads and stores (07 R170 to R173; 11 R264, R376).
-/
namespace Sys2Proof.Machine

/-- One element of a vector memory word: its index, and the virtual address of its byte or bytes. -/
structure Elem where
  i  : Nat
  va : Nat
  deriving DecidableEq, Repr

/-- The active elements of a word at consecutive addresses. -/
def elemsAt (act : List Bool) (w va : Nat) : List Elem :=
  (act.zipIdx.filter (·.1)).map fun p => ⟨p.2, va + p.2 * w / 8⟩

/-- The active elements of an indexed word: g + sext(x[i]) * (w / 8) (07 R172). -/
def elemsIdx (act : List Bool) (w : Nat) (g : Word64) (x : List Nat) : List Elem :=
  ((act.zip x).zipIdx.filter (·.1.1)).map fun p => ⟨p.2, (g + BitVec.ofInt 64 (toI 32 p.1.2 * (w / 8 : Nat))).toNat⟩

/-- What the pages of a word's elements come to (07 R170): all there, a fault, or a walk. -/
inductive Pages where
  | ok (l : List (Elem × Nat))
  | bad (cause : BitVec 8) (va : Nat)
  | walk (va : Nat)
  deriving DecidableEq, Repr

/-- Translation and rights of every element, in ascending order. -/
def State.pages (s : State) (write : Bool) : List Elem → Pages
  | [] => .ok []
  | e :: l =>
    match s.page e.va write with
    | .bad c => .bad c e.va
    | .walk => .walk e.va
    | .ok pa =>
      match s.pages write l with
      | .ok r => .ok ((e, pa) :: r)
      | x => x

/-- The value of an element of w bits at its byte. -/
def State.elemValue (s : State) (w : Nat) (e : Elem) (pa : Nat) : Nat :=
  if w = 4 then (s.taskByte e.va pa).toNat / 2 ^ (4 * (e.i % 2)) % 16 else leNat (s.taskBytes e.va pa (w / 8))

/-- The first poisoned atom among a word's elements (07 R170). -/
def State.poisonElems (s : State) (w : Nat) (l : List (Elem × Nat)) : Option Nat :=
  l.findSome? fun p => s.poisonIn p.1.va p.2 (ceilDiv w 8)

/-- Lanes of n elements from the values of some. -/
def lanesFrom (n : Nat) (zero : Bool) (l : List (Nat × Nat)) : List (Option Nat) :=
  (List.range n).map fun i =>
    match l.find? fun p => p.1 == i with
    | some p => some p.2
    | none => if zero then some 0 else none

/-- The homes of the elements of a load outside the own window that are read (11 R268): each 128-byte sector once where they follow on. -/
def State.readElems (s : State) (w : Nat) (els : List (Elem × Nat)) : State :=
  (els.foldl (fun (a : State × Nat) p =>
    if s.isLocal p.2 || p.2 / 128 + 1 == a.2 then a else (a.1.homeRead p.2 (ceilDiv w 8), p.2 / 128 + 1)) (s, 0)).1

/-- A load of a local word: its data arrives after six cycles (07 R150, R171). -/
def State.loadLocal (s : State) (d : Nat) (zero : Bool) (els : List (Elem × Nat)) (extra : List LatchTarget) : WordRes :=
  let w := laneWidth s.vtype
  match s.poisonElems w els with
  | some a => .fault 0x0C (w64 a)
  | none => .ok (s.vlatch 6 (LatchTarget.vreg (s.core.v.phys d) w
      (lanesFrom (lanesOf s.vtype) zero (els.map fun p => (p.1.i, s.elemValue w p.1 p.2))) :: extra) 0) (.atCount (s.core.x.count + 6)) .on

/-- A load of a global word, scoreboarded until its data arrives (07 R150, R152, R171).  The register is what R152 calls its destination; that the
predicate which a vld.ff writes holds no word back is DESIGN CHOICE (log 62).  `all` are the elements its word asked for and `ff` the predicate of
a vld.ff, for an access performed later (11 R267) or again (20 R340). -/
def State.loadGlobal (s : State) (d : Nat) (zero : Bool) (els : List (Elem × Nat)) (extra : List LatchTarget) (all : List Elem)
    (ff : Option (BitVec 4)) : WordRes :=
  let w := laneWidth s.vtype
  let x := s.core.x
  let phys := s.core.v.phys d
  if els.any fun p => s.notBuilt p.1.va then .wait .scoreboard
  else
    let now := s.xOrdered (x.seq + 1) x.after false
    let lane := fun (p : Elem × Nat) => if now || s.isLocal p.2 then some (p.1.i, s.elemValue w p.1 p.2) else none
    let f := (if now then s.readElems w els else s).fresh
    let va := match els with | e :: _ => e.1.va | [] => 0
    .ok (f.2.updV fun v => { v with gloads := v.gloads ++
      [{ seq := x.seq + 1, issue := x.count, due := s.servedFrom (els.map (·.2)) + (1 + Config.loadDelay f.1) * s.core.div.vec, pc := x.pc, va := w64 va,
         targets := LatchTarget.vreg phys w (lanesFrom (lanesOf s.vtype) zero (els.filterMap lane)) :: extra, regs := [phys],
         poison := if now then s.poisonElems w els else none, elems := all.map fun e => (e.i, e.va), ff := ff, again := false, trapped := false,
         plain := s.beforeFcast, zero := zero, after := if now then none else some x.after }] }) .waiting .on

/-- A word with an element outside the own window, or whose place is not known, is a global word (07 R171). -/
def State.globalWord (s : State) (els : List Elem) : Bool := els.any fun e => s.away e.va

/-- The address of vld, vst and vld.ff: g + off, off8 counting 512 bytes (07 R153). -/
def State.vaddr (s : State) (g : BitVec 4) (o : BitVec 8) : Nat := (s.core.x.readG g + BitVec.ofInt 64 (o.toInt * 512)).toNat

/-- A vector load once its elements are known. -/
def vload (s : State) (d : Nat) (zero : Bool) (els : List Elem) : WordRes :=
  match s.pages false els with
  | .bad c va => .fault c (w64 va)
  | .walk va => .freeze (.walk va false)
  | .ok l => if s.globalWord els then s.loadGlobal d zero l [] els none else s.loadLocal d zero l []

/-- vld (07 R172). -/
def execVld (h : Hitch) (v : BitVec 6) (g : BitVec 4) (o : BitVec 8) (pn : BitVec 4) (s : State) : Host.Outcome State Fault Refusal :=
  .next (stepWord .x h (.vld h v g o pn) false [] [] (fun s =>
    let va := s.vaddr g o
    if s.scoreboarded [v.toNat] then .wait .scoreboard
    else if va % 64 ≠ 0 then .fault 0x03 (w64 va)
    else
      let gv := s.gov pn
      vload s v.toNat gv.zero (elemsAt (s.active gv (lanesOf s.vtype)) (laneWidth s.vtype) va)) s)

/-- The elements before the first whose access would fault (07 R173). -/
def State.beforeFault (s : State) (w : Nat) : List Elem → List (Elem × Nat)
  | [] => []
  | e :: l =>
    match s.probe e.va false with
    | .ok pa => if (s.poisonIn e.va pa (ceilDiv w 8)).isSome then [] else (e, pa) :: s.beforeFault w l
    | _ => []

/-- What a vld.ff writes to its predicate when elements are cut off (07 R173). -/
def ffClear (pn : BitVec 4) (cut : List Elem) : List LatchTarget :=
  if cut.isEmpty then []
  else [LatchTarget.pred pn ((List.range 1024).map fun j => if cut.any (fun e => e.i == j) then some false else none)]

/-- vld.ff (07 R173): a first active element that faults does so as vld; a later one shortens the predicate. -/
def execVldFf (h : Hitch) (v : BitVec 6) (g : BitVec 4) (o : BitVec 8) (pn : BitVec 4) (s : State) : Host.Outcome State Fault Refusal :=
  let i := Instr.vldFf h v g o pn
  .next (stepWord .x h i false [] [] (fun s =>
    let va := s.vaddr g o
    let gv := s.gov pn
    if s.scoreboarded [v.toNat] then .wait .scoreboard
    else if gv.pn = 0 ∨ gv.inv then .fault 0x01 (wordTval i)
    else if va % 64 ≠ 0 then .fault 0x03 (w64 va)
    else
      let w := laneWidth s.vtype
      let els := elemsAt (s.active gv (lanesOf s.vtype)) w va
      match s.pages false (els.take 1) with
      | .bad c a => .fault c (w64 a)
      | .walk a => .freeze (.walk a false)
      | .ok first =>
        let l := s.beforeFault w els
        match (els.take (l.length + 1)).find? fun e => s.page e.va false == .walk && (s.walkWaits e.va || s.probe e.va false != .absent) with
        | some e => .freeze (.walk e.va false)
        | none =>
          let good := if l.isEmpty then first else l
          let extra := if l.isEmpty then [] else ffClear gv.pn (els.drop l.length)
          if s.globalWord els then s.loadGlobal v.toNat gv.zero good extra els (some gv.pn) else s.loadLocal v.toNat gv.zero good extra) s)

/-- The registers that hold the indices of an indexed word (07 R172). -/
def State.indexRegs (s : State) (vi : BitVec 6) : List Nat := groupOf vi.toNat (ceilDiv (lanesOf s.vtype) 128)

/-- The elements of an indexed word, or its fault at issue: 4-bit types and groups past v63, then the alignment of every active element
before any page or right, an order the rule does not state (07 R170, R172): DESIGN CHOICE (log 45). -/
def State.indexed (s : State) (i : Instr) (vi : BitVec 6) (g pn : BitVec 4) : Except (BitVec 8 × Word64) (List Elem) :=
  let w := laneWidth s.vtype
  if w = 4 ∨ groupBad vi.toNat (ceilDiv (lanesOf s.vtype) 128) then .error (0x07, wordTval i)
  else
    let x := (s.indexRegs vi).flatMap fun n => s.lanes n 3
    let els := elemsIdx (s.active (s.gov pn) (lanesOf s.vtype)) w (s.core.x.readG g) x
    match els.find? fun e => e.va % (w / 8) != 0 with
    | some e => .error (0x03, w64 e.va)
    | none => .ok els

/-- vldx (07 R172). -/
def execVldx (h : Hitch) (v : BitVec 6) (g : BitVec 4) (vi : BitVec 6) (pn : BitVec 4) (s : State) : Host.Outcome State Fault Refusal :=
  let i := Instr.vldx h v g vi pn
  .next (stepWord .x h i false [] [] (fun s =>
    if s.scoreboarded (v.toNat :: s.indexRegs vi) then .wait .scoreboard
    else match s.indexed i vi g pn with
      | .error e => .fault e.1 e.2
      | .ok els => vload s v.toNat (s.gov pn).zero els) s)

/-! ### Stores -/

/-- The bytes an element of w bits writes. -/
def elemRun (w : Nat) (v : Nat) (e : Elem) (pa : Nat) : Run :=
  if w = 4 then ⟨e.va, pa, [(BitVec.ofNat 8 (v * 2 ^ (4 * (e.i % 2))), BitVec.ofNat 8 (15 * 2 ^ (4 * (e.i % 2))))]⟩
  else ⟨e.va, pa, whole (leBytes (w / 8) v)⟩

/-- Neighbouring runs put together: two nibbles of one byte, or bytes that follow on. -/
def joinRuns : List Run → List Run
  | [] => []
  | a :: l =>
    match joinRuns l with
    | [] => [a]
    | b :: r =>
      if a.va = b.va ∧ a.pa = b.pa ∧ a.bytes.length = 1 then
        (match a.bytes, b.bytes with
         | [x], y :: ys => ⟨a.va, a.pa, ((x.1 &&& x.2) ||| (y.1 &&& y.2), x.2 ||| y.2) :: ys⟩ :: r
         | _, _ => a :: b :: r)
      else if a.va + a.bytes.length = b.va ∧ a.pa + a.bytes.length = b.pa then ⟨a.va, a.pa, a.bytes ++ b.bytes⟩ :: r
      else a :: b :: r

/-- The stores of the word of X of a number: local runs at issue, global runs through the splice buffer, other windows as remote writes (07
R171). -/
def State.storeRuns (s : State) (seq : Option Nat) (l : List Run) : Put :=
  let direct := fun (r : Run) => s.isLocal r.pa || ((windowOf r.pa).isSome && s.forecasting.isNone)
  match s.putAll 2 seq ((l.filter fun r => !direct r).map fun r => .store r.va r.pa r.bytes) with
  | .stall => .stall
  | .done s1 => .done ((l.filter direct).foldl (fun s r => s.storeTo r.pa r.bytes) s1)

/-- A word's stores made at its issue, but for direct ones that come after accesses still to perform: those the core holds (11 R267). -/
def State.storeWord (s : State) (l : List Run) : Put × Bool :=
  let x := s.core.x
  let away := l.filter fun r => !s.isLocal r.pa
  if away.isEmpty || s.xOrdered (x.seq + 1) x.after true then (s.storeRuns (some (x.seq + 1)) l, false)
  else (match s.storeRuns none (l.filter fun r => s.isLocal r.pa) with
    | .done s1 => .done (s1.updV fun v => { v with stores := v.stores ++ [⟨x.seq + 1, x.after, away⟩] })
    | .stall => .stall, true)

/-- A vector store once its elements are known. -/
def vstore (s : State) (v : Nat) (els : List Elem) (joined : Bool) : WordRes :=
  match s.pages true els with
  | .bad c va => .fault c (w64 va)
  | .walk va => .freeze (.walk va true)
  | .ok l =>
    let w := laneWidth s.vtype
    let x := s.lanes v s.vtype
    let runs := l.map fun p => elemRun w (nth x p.1.i 0) p.1 p.2
    match s.storeWord (if joined then joinRuns runs else runs) with
    | (.stall, _) => .wait .verdict
    | (.done s1, held) => .ok s1 (if held then .waiting else doneNow .x s) .on

/-- vst (07 R172). -/
def execVst (h : Hitch) (v : BitVec 6) (g : BitVec 4) (o : BitVec 8) (pn : BitVec 4) (s : State) : Host.Outcome State Fault Refusal :=
  .next (stepWord .x h (.vst h v g o pn) false [] [] (fun s =>
    let va := s.vaddr g o
    if s.scoreboarded [v.toNat] then .wait .scoreboard
    else if va % 64 ≠ 0 then .fault 0x03 (w64 va)
    else vstore s v.toNat (elemsAt (s.active (s.gov pn) (lanesOf s.vtype)) (laneWidth s.vtype) va) true) s)

/-- vstx (07 R172): elements are stored in ascending order, so the higher one is kept. -/
def execVstx (h : Hitch) (v : BitVec 6) (g : BitVec 4) (vi : BitVec 6) (pn : BitVec 4) (s : State) : Host.Outcome State Fault Refusal :=
  let i := Instr.vstx h v g vi pn
  .next (stepWord .x h i false [] [] (fun s =>
    if s.scoreboarded (v.toNat :: s.indexRegs vi) then .wait .scoreboard
    else match s.indexed i vi g pn with
      | .error e => .fault e.1 e.2
      | .ok els => vstore s v.toNat els false) s)

end Sys2Proof.Machine
end

