-- ==== Sys2Proof/Machine/TileOps.lean ====
section
/-!
DEFINITION. Tiles as the matrix and transfer units reach them: spans of bytes, codes of elements read and written through a
tile handle (09 R216; 04 R69, R70; 11 R376), the checks of every byte before a word starts (08 R183), and the fields of a format
word (05 R98).
-/
namespace Sys2Proof.Machine

/-! ### Format words -/

abbrev fmtA (w : Word64) : Nat := field w.toNat 60 4
abbrev fmtB (w : Word64) : Nat := field w.toNat 56 4
abbrev fmtO (w : Word64) : Nat := field w.toNat 52 4
abbrev fmtATag (w : Word64) : Nat := field w.toNat 36 16
abbrev fmtBTag (w : Word64) : Nat := field w.toNat 20 16
abbrev fmtSpn (w : Word64) : Nat := field w.toNat 18 2
abbrev fmtScale (w : Word64) : Nat := field w.toNat 16 2
abbrev fmtRm (w : Word64) : Nat := field w.toNat 14 2
abbrev fmtSat (w : Word64) : Bool := bitOf w.toNat 13
abbrev fmtSigma (w : Word64) : Int := toI 8 (field w.toNat 5 8)

/-! ### Spans -/

/-- The bytes that hold n elements of row r from column c on: address and length. -/
def Handle.span (h : Handle) (r c n : Nat) : Nat × Nat :=
  let w := memWidth h.type_
  let lo := c * w / 8
  (h.base + r * h.stride + lo, ceilDiv ((c + n) * w) 8 - lo)

/-- The pieces of n bytes at an address that lie inside one 32-byte atom each. -/
def atomsOf (va n : Nat) : List (Nat × Nat) :=
  if n = 0 then []
  else (List.range ((va + n - 1) / 32 - va / 32 + 1)).map fun i =>
    let lo := Nat.max va ((va / 32 + i) * 32)
    (lo, Nat.min (va + n) ((va / 32 + i + 1) * 32) - lo)

/-- What the bytes of a word that must be there at its start come to (08 R183): all there; a page to be walked; a cause with
its TVAL; or a predicted byte not yet built (10 R245). -/
inductive Ready where
  | ok
  | walk (va : Nat) (write : Bool)
  | bad (cause : BitVec 8) (tval : Nat)
  | late
  deriving DecidableEq, Repr

/-- The first of two answers that is not `ok`. -/
def Ready.and : Ready → Ready → Ready
  | .ok, r => r
  | r, _ => r

/-- The translation of one byte for a transfer unit or the matrix unit, whatever its rights: a page that nothing holds is walked, and the
core freezes for it (20 R342). -/
def State.mapped (s : State) (va : Nat) (write : Bool) : Ready :=
  match s.translate va write with
  | .miss =>
    (match s.walk s.core.csr.ctxid va with
     | .malformed => .bad 0x05 va
     | .poisoned => .bad 0x0C (va / 32 * 32)
     | _ => .walk va write)
  | _ => .ok

/-- The rights of one byte that is translated. -/
def State.allowed (s : State) (va : Nat) (write : Bool) : Ready :=
  match s.translate va write with
  | .ok pa => if s.waitsHome pa then .late else .ok
  | .bad c => .bad (BitVec.ofNat 8 c) va
  | .miss => .ok

/-- One piece of an atom: translation and rights; for a read also poison and predicted bytes. -/
def State.atomReady (s : State) (write : Bool) (p : Nat × Nat) : Ready :=
  match (s.mapped p.1 write).and (s.allowed p.1 write), s.translate p.1 write with
  | .ok, .ok pa =>
    if write then .ok
    else if s.forecasting.isSome && (List.range p.2).any (fun i => s.notBuilt (p.1 + i)) then .late
    else match s.poisonIn p.1 pa p.2 with
      | some a => .bad 0x0C a
      | none => .ok
  | r, _ => r

/-- Every byte of some spans. -/
def State.spansReady (s : State) (write : Bool) (l : List (Nat × Nat)) : Ready :=
  (l.flatMap fun p => atomsOf p.1 p.2).foldr (fun p r => (s.atomReady write p).and r) .ok

/-- The pieces of n bytes at an address that lie inside one 64 KiB page each. -/
def pagesOf (va n : Nat) : List (Nat × Nat) :=
  if n = 0 then []
  else (List.range ((va + n - 1) / 65536 - va / 65536 + 1)).map fun i =>
    let lo := Nat.max va ((va / 65536 + i) * 65536)
    (lo, Nat.min (va + n) ((va / 65536 + i + 1) * 65536) - lo)

/-- Spans of addresses read at their homes by the core in focus (11 R268). -/
def State.readHomes (s : State) (l : List (Nat × Nat)) : State :=
  (l.flatMap fun p => pagesOf p.1 p.2).foldl (fun s p => match s.probe p.1 false with
    | .ok pa => (s.keepWalked p.1).homeRead pa p.2
    | _ => s) s

/-! ### Elements -/

/-- A byte as an engine of the task reads it; 0 where it has no translation, which `spansReady` has shut out. -/
def State.operandByte (s : State) (va : Nat) : Byte :=
  match s.probe va false with
  | .ok pa => s.taskByte va pa
  | _ => 0

/-- n bytes of one span. -/
def State.operandBytes (s : State) (va n : Nat) : List Byte := (List.range n).map fun i => s.operandByte (va + i)

/-- Codes of n elements of w bits that start at a bit of the first byte. -/
def unpackRow (w bit n : Nat) (bytes : List Byte) : List Nat := splitLanes w n (leNat bytes / 2 ^ bit)

/-- Codes of n elements of row r from column c on, all inside the extent. -/
def State.rowCodes (s : State) (h : Handle) (r c n : Nat) : List Nat :=
  let w := memWidth h.type_
  let p := h.span r c n
  unpackRow w (c * w % 8) n (s.operandBytes p.1 p.2)

/-- Codes of n elements of row r from column c on; an element outside the extent reads 0 (08 R182). -/
def State.rowRead (s : State) (h : Handle) (r c n : Nat) : List Nat :=
  if h.rows ≤ r ∨ h.cols ≤ c then List.replicate n 0
  else
    let k := Nat.min n (h.cols - c)
    s.rowCodes h r c k ++ List.replicate (n - k) 0

/-- The masked bytes that n codes of w bits write, from a bit of the first byte on (11 R376). -/
def packRow (w bit : Nat) (codes : List Nat) : List (Byte × Byte) :=
  let n := ceilDiv (bit + codes.length * w) 8
  (leBytes n (joinLanes w codes * 2 ^ bit)).zip (leBytes n ((2 ^ (codes.length * w) - 1) * 2 ^ bit))

/-- The scale byte of element (r, c) (04 R69). -/
def State.scaleByte (s : State) (h : Handle) (r c : Nat) : Nat := (s.operandByte (h.scaleAddr r c)).toNat

/-! ### Writes through a handle -/

/-- Masked bytes at a virtual address as writes, one per 64 KiB page. -/
def State.writesAt (s : State) (va : Nat) (bytes : List (Byte × Byte)) : List MWrite :=
  (List.range ((va % 65536 + bytes.length) / 65536 + 1)).filterMap fun i =>
    let lo := Nat.max va ((va / 65536 + i) * 65536)
    let part := (bytes.drop (lo - va)).take ((va / 65536 + i + 1) * 65536 - lo)
    if part.isEmpty then none
    else match s.probe lo true with
      | .ok pa => some (.bytes lo pa part)
      | _ => none

/-- A write of codes into row r from column c on, cut at the extent of the handle. -/
def State.rowWrite (s : State) (h : Handle) (r c : Nat) (codes : List Nat) : List MWrite :=
  if h.rows ≤ r ∨ h.cols ≤ c then []
  else
    let k := Nat.min codes.length (h.cols - c)
    let w := memWidth h.type_
    s.writesAt (h.span r c k).1 (packRow w (c * w % 8) (codes.take k))

/-- Bytes of writes that go through the splice buffer. -/
def State.globalBytes (s : State) (l : List MWrite) : Nat :=
  l.foldl (fun a w => match w with
    | .bytes _ pa bs => if s.isLocal pa then a else a + (bs.filter fun b => b.2 != 0).length
    | .acc _ _ _ => a) 0

/-- Writes performed: own resources at once, global bytes through the splice buffer, other windows as remote writes
(08 R188; 11 R264).  `seq` is the number of the word of X that they come from. -/
def State.writeAll (s : State) (seq : Option Nat) (l : List MWrite) : Put :=
  let runs := l.filterMap fun w => match w with
    | .bytes va pa bs => some (Run.mk va pa bs)
    | .acc _ _ _ => none
  match s.storeRuns seq runs with
  | .stall => .stall
  | .done s1 => .done (l.foldl (fun s w => match w with
      | .acc t r vals => s.pokeBytes true (windowBase s.core.die s.core.q + accBase + t * 16384 + r * 256) (vals.flatMap (leBytes 4))
      | .bytes _ _ _ => s) s1)

end Sys2Proof.Machine
end

