-- ==== Sys2Proof/Machine/MatOps.lean ====
section
/-!
DEFINITION. The matrix unit's command queue: the checks of a word at its entry with the queue-time state (08 R182, R185, R189 to
R197, R203, R209, R210; 04 R81), the entry itself (R184), nests (05 R100, 06 R121), and the operations as they start (R186 to
R196; 04 R73, R74).
-/
namespace Sys2Proof.Machine

/-! ### Capacities and costs (08 R180, R187) -/

/-- Largest resident K and N of a type and SPN. -/
def kMax (t sp : Nat) : Nat := if t = tF32 then 128 else 256 * 2 ^ sp
def nMax (t : Nat) : Nat := if t = tF32 then 256 else if t = tMx6 then 640 else if t = tMx4 then 1024 else 512

/-- A cycles per row. -/
def aCycles (t : Nat) : Nat := if t = tF32 then 12 else if t = tMx6 then 3 else if t = tMx4 then 2 else 4

/-- Kept elements of every 8 under SPN (08 R192). -/
def keptOf (sp : Nat) : Nat := if sp = 1 then 4 else if sp = 2 then 2 else 8

/-- Stored bytes of a B block with its index bytes (08 R187, R192; log 15). -/
def bBytes (t sp kb nb : Nat) : Nat :=
  if sp = 0 then kb * rowBytesOf t nb else kb * keptOf sp / 8 * (rowBytesOf t nb + nb)

/-- Order of the factorisation tile (08 R200). -/
def orderOf (kb : Nat) : Nat := if kb ≤ 32 then 32 else if kb ≤ 64 then 64 else if kb ≤ 96 then 96 else 128

/-- n and Nt of the resident tile. -/
def ResB.n (r : ResB) : Nat := orderOf r.kb
def ResB.nt (r : ResB) : Nat := Nat.max r.n r.nb

/-- The record that an mldb of handle entry H leaves (08 R191). -/
def loadedB (H : Handle) (h : Nat) (fmt : Word64) (row0 col0 : Int) : ResB :=
  { loaded := true, bt := H.type_, kb := Nat.min (H.rows - row0.toNat) (kMax H.type_ (fmtSpn fmt)),
    nb := Nat.min (H.cols - col0.toNat) (nMax H.type_), sp := fmtSpn fmt, btag := H.tag, home := h, row0 := row0, col0 := col0,
    scalem := fmtScale fmt }

/-- The accumulator tiles that a product into tile t writes (08 R193). -/
def tilesOf (t nb : Nat) : List Nat := (List.range (ceilDiv nb 64)).map fun i => (t + i) % 16

/-! ### Tags (04 R80, R81; 08 R194) -/

def axisOf (g : Nat) : Nat := tagAxis g
def alongCols (g : Nat) : Bool := axisOf g == 1 || axisOf g == 3
def alongRows (g : Nat) : Bool := axisOf g == 2 || axisOf g == 3

/-- The record that a product of A's tag and B's tag gives a tile (08 R194). -/
def tagRecOf (a b : Nat) : TagRec :=
  ⟨alongCols a, if alongRows a then some (tagSeed a, tagCheck a) else none, if alongCols b then some (tagSeed b, tagCheck b) else none⟩

/-- The fold of a live seed register (04 R75, R80). -/
def State.liveFold (s : State) (i : Nat) : Nat := seedFold (s.seed (BitVec.ofNat 3 i))

/-! ### Queue-time state (08 R185) -/

/-- What the earlier entries of the queue will leave: the resident-B record, the tag records, FSTAT.N and FSTAT.MODE. -/
structure Ahead where
  resB : ResB
  tags : List (Option TagRec)
  n    : Nat
  mode : Nat

/-- FSTAT's fields (08 R201). -/
abbrev fstatN (w : Word64) : Nat := field w.toNat 8 8
abbrev fstatMode (w : Word64) : Nat := field w.toNat 4 4

/-- The state as it stands. -/
def Matrix.present (m : Matrix) : Ahead := ⟨m.resB, m.tags.toList, fstatN m.fstat, fstatMode m.fstat⟩

/-- A product's tags put into tiles that hold none. -/
def Ahead.product (a : Ahead) (H : Option Handle) (tiles : List Nat) : Ahead :=
  match H with
  | none => a
  | some H => { a with tags := tiles.foldl (fun l t => setNth l t (some (tagRecOf H.tag a.resB.btag))) a.tags }

/-- What one operation leaves. -/
def State.aheadOp (s : State) (a : Ahead) (op : MOp) (fmt : Word64) (row0 col0 : Int) : Ahead :=
  match op with
  | .mldb h => (match s.handle? h with | none => a | some H => { a with resB := loadedB H h fmt row0 col0 })
  | .mmab h t => a.product (s.handle? h) (tilesOf t a.resB.nb)
  | .mmas h t => a.product (s.handle? h) (tilesOf t a.resB.nb)
  | .mzero t => { a with tags := setNth a.tags t none }
  | .mlu _ => { a with n := a.resB.n, mode := 1 }
  | .mchol _ => { a with n := a.resB.n, mode := 2 }
  | .mgiv _ => { a with n := a.resB.n, mode := 3 }
  | .mdrain _ _ => a
  | .mtest => a
  | .mtrsm _ _ _ => a
  | .mpiv _ => a
  | .mfst => a
  | .nest => a

/-! ### Nests (05 R100, 08 R198) -/

/-- Entry 0 of a table, beside its handle. -/
def Nest.kind (n : Nest) : Nat := field n.table[0].toNat 45 3
def Nest.depth (n : Nest) : Nat := field n.table[0].toNat 42 3
def Nest.acc0 (n : Nest) : Nat := field n.table[0].toNat 38 4

/-- A doubleword of the table by index. -/
def Nest.word (n : Nest) (i : Nat) : Nat := (n.table.toList.map (·.toNat)).getD i 0

/-- COUNT, DACC, DROW and DCOL of level L. -/
def Nest.count (n : Nest) (l : Nat) : Nat := field (n.word (1 + 2 * l)) 40 24
def Nest.dacc (n : Nest) (l : Nat) : Int := toI 8 (field (n.word (1 + 2 * l)) 32 8)
def Nest.drow (n : Nest) (l : Nat) : Int := toI 32 (field (n.word (2 + 2 * l)) 32 32)
def Nest.dcol (n : Nest) (l : Nat) : Int := toI 32 (field (n.word (2 + 2 * l)) 0 32)

/-- The number of points. -/
def Nest.total (n : Nest) : Nat := (List.range n.depth).foldl (fun a l => a * n.count l) 1

/-- The index of level L at a point: the last level moves fastest. -/
def Nest.index (n : Nest) (p l : Nat) : Nat :=
  let inner := (List.range n.depth).foldl (fun a k => if l < k then a * n.count k else a) 1
  p / inner % n.count l

/-- Row origin, column origin and tile of a point. -/
def Nest.at_ (n : Nest) (p : Nat) : Int × Int × Nat :=
  let sum := fun (d : Nat → Int) (o : Int) => (List.range n.depth).foldl (fun a l => a + (n.index p l : Int) * d l) o
  (sum n.drow (toI 32 (field (n.word 13) 32 32)), sum n.dcol (toI 32 (field (n.word 13) 0 32)),
   (sum n.dacc (n.acc0 : Int) % 16).toNat)

/-- The operation of a nest at a tile. -/
def Nest.op (n : Nest) (t : Nat) : MOp :=
  if n.kind = 0 then .mmab n.hnd t else if n.kind = 1 then .mmas n.hnd t else if n.kind = 2 then .mdrain n.hnd t else .mldb n.hnd

/-- The tiles that a nest's points name: each level moves the tile by at most 16 different amounts. -/
def Nest.tiles (n : Nest) : List Nat :=
  (List.range n.depth).foldl (fun (l : List Nat) k =>
    (List.range 16).filter fun t => l.any fun u => (List.range (Nat.min 16 (n.count k))).any fun i =>
      ((u : Int) + (i : Int) * n.dacc k) % 16 == (t : Int)) [n.acc0]

/-- What a whole nest leaves: a product's tags in every tile it names, an mldb's record of its last point. -/
def State.aheadNest (s : State) (a : Ahead) (n : Nest) : Ahead :=
  if n.total = 0 then a
  else if n.kind ≤ 1 then a.product (s.handle? n.hnd) (n.tiles.flatMap fun t => tilesOf t a.resB.nb)
  else if n.kind = 3 then
    let p := n.at_ (n.total - 1)
    s.aheadOp a (n.op 0) n.fmt p.1 p.2.1
  else a

/-- The armed nest takes the place of a nest that issued its last operation in an earlier cycle (06 R121). -/
def Matrix.promote (m : Matrix) (count : Nat) : Matrix :=
  match m.running with
  | some n =>
    (match n.ended with
     | some c => if c < count then { m with running := m.armed, armed := none } else m
     | none => m)
  | none => { m with running := m.armed, armed := none }

/-- The nests with points to come, in the order of their entries. -/
def Matrix.nests (m : Matrix) : List Nest := ([m.running, m.armed].filterMap id).filter fun n => n.ended.isNone

/-- The entries that are in the queue at a count: a request of C that is not visible to the matrix unit yet is none (06 R121; 08 R184). -/
def Matrix.entered (m : Matrix) (count : Nat) : List MEntry := m.queue.filter fun e => decide (e.entry ≤ count)

/-- The queue-time state of an entry at a count: what every entry before it that has not started, and the points to come of one that has,
will leave (08 R185). -/
def State.ahead (s : State) (count : Nat) : Ahead :=
  let m := s.core.m
  ((m.entered count).foldl (fun (p : Ahead × List Nest) e =>
    if e.rest then
      match p.2 with
      | [] => p
      | n :: l => (s.aheadNest p.1 n, l)
    else if e.start.isSome then p
    else (s.aheadOp p.1 e.op e.fmt e.row0 e.col0, p.2)) (m.present, m.nests)).1

/-! ### Checks at entry (08 R185) -/

/-- The handle index an operation names. -/
def MOp.hnd : MOp → Option Nat
  | .mldb h => some h
  | .mmab h _ => some h
  | .mmas h _ => some h
  | .mdrain h _ => some h
  | .mtrsm _ _ h => some h
  | .mpiv h => some h
  | .mzero _ => none
  | .mtest => none
  | .mlu _ => none
  | .mchol _ => none
  | .mgiv _ => none
  | .mfst => none
  | .nest => none

/-- The operation pops a format word (02 R38). -/
def MOp.pops : MOp → Bool
  | .mzero _ => false
  | .mtest => false
  | .mfst => false
  | _ => true

/-- A type that mldb may load. -/
def bType (t : Nat) : Bool := isMx t || t == tBf16 || t == tF32

/-- The implemented combinations (08 R189).  A handle that the image does not have is none of them (18 R307). -/
def State.comboOk (s : State) (a : Ahead) (op : MOp) (fmt : Word64) : Bool :=
  let H := op.hnd.bind s.handle?
  let is := fun (t : Nat) => match H with | some h => h.type_ == t | none => false
  let r := a.resB
  let product := fun (_ : Unit) =>
    ((isMx (fmtA fmt) && isMx (fmtB fmt)) || (fmtA fmt == tBf16 && fmtB fmt == tBf16) || (fmtA fmt == tF32 && fmtB fmt == tF32))
      && is (fmtA fmt) && (!r.loaded || fmtB fmt == r.bt)
  let square := fun (_ : Unit) =>
    fmtA fmt == tF32 && fmtB fmt == tF32 && (!r.loaded || r.bt == tF32) && fmtSpn fmt == 0 && tagAxis (fmtATag fmt) == 0
      && tagAxis (fmtBTag fmt) == 0
  match op with
  | .mldb _ => bType (fmtB fmt) && is (fmtB fmt) && (fmtSpn fmt == 0 || fmtB fmt != tF32)
  | .mmab _ _ => product () && fmtSpn fmt == 0 && (!r.loaded || r.sp == 0)
  | .mmas _ _ => product () && fmtB fmt != tF32 && fmtSpn fmt != 0 && (!r.loaded || fmtSpn fmt == r.sp)
  | .mdrain _ _ => (fmtO fmt == tF32 || fmtO fmt == tBf16 || fmtO fmt == 3 || fmtO fmt == 2 || fmtO fmt == 1) && is (fmtO fmt)
  | .mtrsm _ _ _ => square () && is tF32
  | .mlu _ => square ()
  | .mchol _ => square ()
  | .mgiv _ => square ()
  | .mpiv _ => !isMx (fmtA fmt) && is (fmtA fmt) && fmtSpn fmt == 0 && tagAxis (fmtATag fmt) == 0
      && (match H with | some h => tagEq (fmtATag fmt) h.tag | none => false)
  | _ => true

/-- The first of some checks that fails: its cause and TVAL. -/
def firstFault (l : List (Bool × BitVec 8 × Word64)) : Option (BitVec 8 × Word64) := (l.find? (·.1)).map (·.2)

/-- The checks of an origin in a handle (08 R182): outside the extent 0x07, misaligned 0x03, TVAL the handle index. -/
def originChecks (H : Handle) (h : Nat) (row0 col0 : Int) : List (Bool × BitVec 8 × Word64) :=
  [(decide (row0 < 0) || decide (col0 < 0) || decide ((H.rows : Int) ≤ row0) || decide ((H.cols : Int) ≤ col0), 0x07, w64 h),
   (((isMx H.type_ || alongRows H.tag) && row0 % 32 != 0) || ((isMx H.type_ || alongCols H.tag) && col0 % 32 != 0), 0x03, w64 h)]

/-- The rectangle of A that a product reads is as wide as KB (08 R193): for mx6 a multiple of 4 columns (04 R70).  That the check stands with those of
the origin, and that TVAL names the handle as theirs does, is DESIGN CHOICE (log 65). -/
def widthCheck (a : Ahead) (H : Handle) (h : Nat) : Bool × BitVec 8 × Word64 := (H.type_ == tMx6 && a.resB.kb % 4 != 0, 0x03, w64 h)

/-- The start rules of mlu, mchol and mgiv (08 R203). -/
def factorChecks (a : Ahead) (kind s : Nat) (word : Word64) : List (Bool × BitVec 8 × Word64) :=
  [(!a.resB.loaded, 0x13, 0), (decide (a.resB.n ≤ s), 0x07, word),
   (decide (0 < s) && (a.mode != kind || a.n != a.resB.n), 0x13, 0)]

/-- The tag checks of a product (04 R81; 08 R194).  Where the tags of A and B disagree with each other, TVAL names A's handle: R81 does not
say which of the two (DESIGN CHOICE, log 50). -/
def State.productTags (s : State) (a : Ahead) (H : Handle) (h : Nat) (fmt : Word64) (t : Nat) : List (Bool × BitVec 8 × Word64) :=
  let ta := H.tag
  let tb := a.resB.btag
  let home := w64 a.resB.home
  [(alongCols ta != alongRows tb, 0x08, w64 h),
   (alongCols ta && (tagSeed ta != tagSeed tb || tagCheck ta != tagCheck tb), 0x08, w64 h),
   (tagAxis ta != 0 && tagCheck ta != s.liveFold (tagSeed ta), 0x08, w64 h),
   (tagAxis tb != 0 && tagCheck tb != s.liveFold (tagSeed tb), 0x08, home),
   (!tagEq ta (fmtATag fmt), 0x08, w64 h),
   (!tagEq tb (fmtBTag fmt), 0x08, home),
   (!tagExtentOk ta H.rows H.cols, 0x08, w64 h),
   ((tilesOf t a.resB.nb).any fun u => match nth a.tags u none with | some r => r != tagRecOf ta tb | none => false, 0x08, w64 h)]

/-- Steps 3 to 6 of R185 for one operation at an origin: the first fault. -/
def State.entryFault (s : State) (a : Ahead) (op : MOp) (fmt : Word64) (row0 col0 : Int) (word : Word64) :
    Option (BitVec 8 × Word64) :=
  let onHandle := fun (h : Nat) (k : Handle → List (Bool × BitVec 8 × Word64)) =>
    match s.handle? h with
    | none => some ((0x07 : BitVec 8), word)
    | some H => firstFault (k H)
  match op with
  | .mldb h => onHandle h fun H =>
      (decide (0 < fmtSpn fmt) && H.rows % 8 != 0, 0x07, word) :: originChecks H h row0 col0
        ++ [(decide (0 < fmtSpn fmt) && row0 % 8 != 0, 0x03, w64 h),
            (!tagEq H.tag (fmtBTag fmt) || !tagExtentOk H.tag H.rows H.cols, 0x08, w64 h)]
  | .mmab h t => onHandle h fun H => (!a.resB.loaded, 0x13, 0) :: originChecks H h row0 col0 ++ widthCheck a H h :: s.productTags a H h fmt t
  | .mmas h t => onHandle h fun H => (!a.resB.loaded, 0x13, 0) :: originChecks H h row0 col0 ++ widthCheck a H h :: s.productTags a H h fmt t
  | .mdrain h t => onHandle h fun H =>
      let stale := fun (p : Option (Nat × Nat)) => match p with | some q => q.2 != s.liveFold q.1 | none => false
      originChecks H h row0 col0
        ++ ([(tagAxis H.tag != 0, 0x08, w64 h),
            (match nth a.tags t none with | some r => stale r.aout || stale r.bout | none => false, 0x08, w64 h)] :
            List (Bool × BitVec 8 × Word64))
  | .mlu c => firstFault (factorChecks a 1 c word)
  | .mchol c => firstFault (factorChecks a 2 c word)
  | .mgiv c => firstFault (factorChecks a 3 c word)
  | .mtrsm _ _ h => onHandle h fun H =>
      [(!a.resB.loaded, 0x13, 0), (decide (64 < H.cols) || H.type_ != tF32 || tagAxis H.tag != 0, 0x07, word)]
  | .mpiv _ => none
  | .mzero _ => none
  | .mtest => none
  | .mfst => none
  | .nest => none

/-! ### Occupancy (08 R187) -/

/-- O of an operation, given the record it meets and FSTAT.N.  An mtrsm whose s is n or more, for which the rules name no cause, has no row to solve and
none to take time for: DESIGN CHOICE (log 70). -/
def State.occupancy (s : State) (a : Ahead) (op : MOp) (fmt : Word64) (row0 col0 : Int) : Nat :=
  let n := a.resB.n
  let w := ceilDiv (n * a.resB.nt) 128
  let H := op.hnd.bind s.handle?
  match op, H with
  | .mldb h, some H =>
    let r := loadedB H h fmt row0 col0
    ceilDiv (bBytes r.bt r.sp r.kb r.nb) 512
  | .mmab _ _, some H => Nat.min 64 (H.rows - row0.toNat) * aCycles H.type_
  | .mmas _ _, some H => Nat.min 64 (H.rows - row0.toNat) * aCycles H.type_
  | .mdrain _ _, _ => 32
  | .mtest, _ => 16
  | .mlu c, _ => 14 * (n - c) + w
  | .mchol c, _ => 12 * (n - c) + w
  | .mgiv c, _ => 8 * ((n - 1 - c) * (n - c) / 2) + 2 * (n - c) + w
  | .mtrsm _ c _, some H => 6 * (n - c) + 2 * ceilDiv (n * Nat.min H.cols 64) 128
  | .mpiv _, some H => 2 * a.n + ceilDiv (H.rows * H.rowBytes) 256
  | _, _ => 1

/-! ### Entry (08 R184) -/

/-- What is about to start: the head entry, or the next point of a nest at the head: its operation and origin. -/
def Matrix.about (m : Matrix) : Option (MEntry × MOp × Int × Int) :=
  match m.queue with
  | [] => none
  | e :: _ =>
    if e.bad then none
    else if e.rest then
      match e.start, m.running with
      | some _, some n => let p := n.at_ n.point; some (e, n.op p.2.2, p.1, p.2.1)
      | _, _ => some (e, .nest, 0, 0)
    else if e.start.isSome then none
    else some (e, e.op, e.row0, e.col0)

/-- The count from which every result that an operation must see is visible (08 R186). -/
def Matrix.seenFrom (m : Matrix) : MOp → Nat
  | .mdrain _ t => m.results.foldl (fun a r => if r.writes.any (fun w => match w with | .acc u _ _ => u == t | .bytes _ _ _ => false) then Nat.max a r.due else a) 0
  | _ => 0

/-- The start cycle of what is about to start, but for want of room (08 R186). -/
def Matrix.startBase (m : Matrix) (e : MEntry) (op : MOp) : Nat :=
  Nat.max (Nat.max m.count e.entry) (Nat.max m.free_ (m.seenFrom op))

/-- The spans of a block that lie inside the handle's extent. -/
def Handle.blockSpans (H : Handle) (row0 col0 m n : Nat) : List (Nat × Nat) :=
  if H.cols ≤ col0 then []
  else (List.range (Nat.min m (H.rows - row0))).map fun i => H.span (row0 + i) col0 (Nat.min n (H.cols - col0))

/-- A drain of a forecasting task has no room for its global bytes (08 R186; 10 R247). -/
def State.noRoom (s : State) (op : MOp) (row0 col0 : Int) : Bool :=
  match op, s.forecasting, s.core.task with
  | .mdrain h _, some _, some t =>
    (match s.handle? h with
     | none => false
     | some H =>
       let spans := H.blockSpans row0.toNat col0.toNat 64 64
       let need := spans.foldl (fun a p => match s.probe p.1 true with
         | .ok pa => if s.isLocal pa then a else a + p.2
         | _ => a) 0
       decide (spliceBytes < t.used + s.core.m.reserved + need))
  | _, _, _ => false

/-- A drain of a forecasting task, a single word or the next point of a nest, is held at the head of the queue for want of room in the
splice buffer, as a count finds it (08 R184; 10 R247). -/
def State.heldDrain (s : State) (count : Nat) : Bool :=
  match s.core.m.about with
  | none => false
  | some (e, op, r, c) => decide (s.core.m.startBase e op ≤ count) && s.noRoom op r c

/-- An entry put behind every entry that enters no later (08 R197). -/
def insertEntry (e : MEntry) : List MEntry → List MEntry
  | [] => [e]
  | x :: l => if e.entry < x.entry then e :: x :: l else x :: insertEntry e l

/-- An entry added to the queue. -/
def State.addEntry (s : State) (e : MEntry) : State := s.updM fun m => { m with queue := insertEntry e m.queue }

/-- The head of fq popped by the matrix unit in the cycle that begins at a tick. -/
def State.popFormat (s : State) (t : Nat) : State :=
  s.updCore fun c => { c with fq := c.fq.pop t (t + c.div.mat) }

/-- TVAL of format underflow (20 R334). -/
abbrev fqTval : Word64 := queueTval true 12

/-- One matrix word of X (08 R184, R185; 02 R38): room in the queue, the format word, the checks, the entry.  A tag mismatch consumes the format
word where it is raised, which after another cause's stop is at the word's next issue (log 17). -/
def matWord (h : Hitch) (i : Instr) (op : MOp) (s : State) : Host.Outcome State Fault Refusal :=
  .next (stepWord .x h i true [] [] (fun s =>
    let m := s.core.m
    let word := wordTval i
    if 8 ≤ (m.entered m.count).length then (if s.heldDrain m.count then .wait .matrixQueue else .fault 0x13 0)
    else if op.pops && !s.core.fq.visible m.next then .fault 0x06 fqTval
    else
      let fmt : Word64 := if op.pops then s.core.fq.head else 0
      let a := s.ahead m.count
      if op.pops && !s.comboOk a op fmt then .fault 0x07 word
      else
        let taken := if op.pops then s.popFormat m.next else s
        match s.entryFault a op fmt 0 0 word with
        | some f => if f.1 = 0x08 then .also ((if s.core.c.handler then s else taken).stepTrap .x f.1 f.2 (s.core.x.pc.toNat)) else .fault f.1 f.2
        | none => .ok (taken.addEntry ⟨op, fmt, 0, 0, some (s.core.x.seq + 1), s.core.x.pc.zeroExtend 64, word.setWidth 32, m.count, none,
            s.occupancy a op fmt 0 0, false, false, s.beforeFcast, 0, s.core.x.after⟩) .waiting .on) s)

/-- A nest's header is reserved (05 R100). -/
def nestHeaderBad (n : Nest) : Bool := decide (3 < n.kind) || n.depth == 0 || n.depth == 7

/-- A nest armed, or running where none runs, with its entry (06 R121; 08 R197). -/
def State.addNest (s : State) (n : Nest) (seq : Option Nat) (go : Nat) (after : After) (pc : Word64) (word : Word64) (entry : Nat) : State :=
  (s.updM fun m => if m.running.isNone then { m with running := some n } else { m with armed := some n }).addEntry
    ⟨.nest, n.fmt, 0, 0, seq, pc, word.setWidth 32, entry, none, 0, true, false, s.beforeFcast, go, after⟩

/-- The shadow table as a nest with a format word. -/
def Matrix.shadowNest (m : Matrix) (fmt : Word64) : Nest := ⟨m.shadow, fmt, 0, none⟩

/-- What nest_go of R121 answers: a fault, a wait, or the nest. -/
inductive NestGo where
  | fault (cause : BitVec 8) (tval : Word64)
  | wait
  | go (n : Nest)
  deriving DecidableEq, Repr

/-- nest_go (06 R121) at a tick for an entry of a count, with the number of entries that the queue then holds. -/
def State.nestGo (s : State) (word : Word64) (held t count : Nat) : NestGo :=
  let n := s.core.m.shadowNest s.core.fq.head
  if nestHeaderBad n then .fault 0x07 word
  else if s.core.m.armed.isSome then .fault 0x13 0
  else if 8 ≤ held then (if s.heldDrain count then .wait else .fault 0x13 0)
  else if !s.core.fq.visible t then .fault 0x06 fqTval
  else if !s.comboOk (s.ahead count) (n.op 0) n.fmt then .fault 0x07 word
  else .go n

/-! ### An operation starts (08 R183, R186) -/

/-- Row i of an accumulator tile: memory, with results that are not yet visible over it (08 R186). -/
def State.accRow (s : State) (t i : Nat) : List Nat :=
  let base := windowBase s.core.die s.core.q + accBase + t * 16384 + i * 256
  let mem := (List.range 64).map fun c => Memory.readNat s.mem (base + 4 * c) 4
  s.core.m.results.foldl (fun row r => r.writes.foldl (fun row w =>
    match w with
    | .acc u j vals => if u = t ∧ j = i then vals ++ row.drop vals.length else row
    | .bytes _ _ _ => row) row) mem

/-- Elements (row0 + i, col0 + k) of a handle for i below m and k below n. -/
def State.block (s : State) (H : Handle) (row0 col0 m n : Nat) : List (List Nat) :=
  (List.range m).map fun i => s.rowRead H (row0 + i) col0 n

/-- The scale bytes of groups of 32 rows (or columns) of a block inside the extent, or none for types and words without. -/
def Handle.scaleSpans (H : Handle) (fmt : Word64) (row0 col0 m n : Nat) : List (Nat × Nat) :=
  if !isMx H.type_ || fmtScale fmt == 1 then []
  else (List.range (ceilDiv (Nat.min m (H.rows - row0)) 32)).flatMap fun g =>
    (List.range (ceilDiv (Nat.min n (H.cols - col0)) 32)).map fun j => (H.scaleAddr (row0 + 32 * g) (col0 + 32 * j), 1)

/-- A scale byte under SCALEM (08 R189). -/
def State.scaleOf (s : State) (H : Handle) (fmt : Word64) (r c : Nat) : Nat :=
  if fmtScale fmt = 1 then 127 else s.scaleByte H r c

/-- The index bytes of a sparse B for value row v: its column bytes (08 R192). -/
def Handle.indexSpan (H : Handle) (sp v col0 nb : Nat) : Nat × Nat :=
  (H.base + H.rows * keptOf sp / 8 * H.stride + v * H.cols + col0, nb)

/-- Value rows and index rows of a sparse block, from its first dense row on. -/
def sparseRows (sp row0 kb : Nat) : List Nat := (List.range (kb * keptOf sp / 8)).map (row0 * keptOf sp / 8 + ·)

/-- The handle whose rows are the value rows of a sparse one. -/
def Handle.values (H : Handle) (sp : Nat) : Handle := { H with rows := H.rows * keptOf sp / 8 }

/-- The spans that mldb reads. -/
def Handle.bSpans (H : Handle) (fmt : Word64) (r : ResB) : List (Nat × Nat) :=
  (if r.sp = 0 then H.blockSpans r.row0.toNat r.col0.toNat r.kb r.nb
   else (sparseRows r.sp r.row0.toNat r.kb).flatMap fun v =>
     [(H.values r.sp).span v r.col0.toNat r.nb, H.indexSpan r.sp v r.col0.toNat r.nb])
    ++ H.scaleSpans fmt r.row0.toNat r.col0.toNat r.kb r.nb

/-- The index bytes of a sparse block by value row. -/
def State.indexBytes (s : State) (H : Handle) (r : ResB) : List (List Nat) :=
  (sparseRows r.sp r.row0.toNat r.kb).map fun v =>
    let p := H.indexSpan r.sp v r.col0.toNat r.nb
    (s.operandBytes p.1 p.2).map (·.toNat)

/-- An index byte with high bits set, or indices of a column and group that do not ascend strictly (08 R192). -/
def indexBad (sp nb : Nat) (idx : List (List Nat)) : Bool :=
  idx.zipIdx.any fun p => (List.range nb).any fun j =>
    let x := nth p.1 j 0
    decide (7 < x) || (p.2 % keptOf sp != 0 && decide (x ≤ nth (nth idx (p.2 - 1) []) j 0))

/-- B's codes as a dense block (08 R191, R192). -/
def State.bCodes (s : State) (H : Handle) (r : ResB) : List (List Nat) :=
  if r.sp = 0 then s.block H r.row0.toNat r.col0.toNat r.kb r.nb
  else
    let k := keptOf r.sp
    let vals := (sparseRows r.sp r.row0.toNat r.kb).map fun v => s.rowRead (H.values r.sp) v r.col0.toNat r.nb
    let idx := s.indexBytes H r
    (List.range r.kb).map fun d => (List.range r.nb).map fun j =>
      match (List.range k).find? fun q => nth (nth idx (d / 8 * k + q) []) j 8 == d % 8 with
      | some q => nth (nth vals (d / 8 * k + q) []) j 0
      | none => 0

/-- The factorisation tile's padding (08 R200). -/
def padTile (r : ResB) (code : List (List Nat)) : List (List Nat) :=
  (List.range r.n).map fun i => (List.range r.nt).map fun j =>
    if i < r.kb ∧ j < r.nb then nth (nth code i []) j 0 else if i = j then 0x3F800000 else 0

/-- What an operation's start comes to: its effect with the results that wait; a cause; a page to be walked; or operand bytes
that have not arrived. -/
inductive Start where
  | ok (s : State)
  | bad (cause : BitVec 8) (tval : Word64)
  | walk (va : Nat) (write : Bool)
  | late

/-- What a start leaves, with the sources of its operation read at their homes. -/
def Start.after (r : Start) (l : List (Nat × Nat)) : Start :=
  match r with
  | .ok s => .ok (s.readHomes l)
  | x => x

/-- An effect once every span is ready. -/
def Ready.start (r : Ready) (k : Unit → Start) : Start :=
  match r with
  | .ok => k ()
  | .walk va w => .walk va w
  | .bad c v => .bad c (w64 v)
  | .late => .late

/-- The number of the word of X, and of the nest.go of C, at the head of the queue. -/
def Matrix.headX (m : Matrix) : Option Nat := m.queue.head?.bind (·.seq)
def Matrix.headGo (m : Matrix) : Nat := (m.queue.head?.map (·.go)).getD 0

/-- A result of the head entry put in line for its visibility cycle. -/
def State.result_ (s : State) (due : Nat) (writes : List MWrite) (flags : Flags) (seq : Option Nat) (room : Nat) : State :=
  s.updM fun m => { m with results := m.results ++ [(MResult.mk due writes flags seq room false m.headX m.headGo)] }

/-- mldb at its start S (08 R191). -/
def State.startMldb (s : State) (h : Nat) (fmt : Word64) (row0 col0 : Int) (seq : Option Nat) (word : Word64) (due : Nat) : Start :=
  match s.handle? h with
  | none => .bad 0x07 word
  | some H =>
    let r := loadedB H h fmt row0 col0
    Start.after (l := H.bSpans fmt r) <| (s.spansReady false (H.bSpans fmt r)).start fun _ =>
      if r.sp ≠ 0 ∧ indexBad r.sp r.nb (s.indexBytes H r) then .bad 0x07 word
      else
        let code := s.bCodes H r
        let scale := if isMx H.type_ then (List.range (ceilDiv r.kb 32)).map fun g =>
            (List.range r.nb).map fun j => s.scaleOf H fmt (row0.toNat + 32 * g) (col0.toNat + j) else []
        .ok ((s.updM fun m => { m with resB := r, cim := ⟨if H.type_ = tF32 then padTile r code else code, scale⟩ }).result_
          due [] 0 seq 0)

/-- group_total of 04 R73 for group g of row a and column j of B.  R73 says of an index past A's extent that it contributes 0 and, in a
group that has another index, that its missing element counts as 0: here it is multiplied as a 0, so that an infinity of B there is an
invalid 0 * infinity (DEDUCED, log 48). -/
def groupTotal (H : Handle) (r : ResB) (cim : Cim) (a : List Nat) (sa j g : Nat) : Fp × Flags :=
  let ks := (List.range 32).map (32 * g + ·) |>.filter (· < r.kb)
  let b := fun k => nth (nth cim.code k []) j 0
  if isMx r.bt then
    let sb := nth (nth cim.scale g []) j 0
    if sa = 255 ∨ sb = 255 then (.nan false, 0)
    else
      let z := ks.foldl (fun (acc : Int) k => acc + mxCode H.type_ (nth a k 0) * mxCode r.bt (b k)) 0
      let e := (sa : Int) - 127 - (mxFrac H.type_ : Int) + ((sb : Int) - 127 - (mxFrac r.bt : Int))
      let v := rndDy tF32 0 z e
      (fpOf tF32 v.1, v.2)
  else
    let ops := ks.map fun k => (fpOf H.type_ (nth a k 0), fpOf r.bt (b k))
    groupFp (ops.map fun p => fpMulX p.1 p.2) (ops.any fun p => p.1.signals || p.2.signals)

/-- accumulate(i, j) of 04 R73 onto one accumulator value; a group with no index inside both extents adds +0. -/
def accumulateAll (H : Handle) (r : ResB) (cim : Cim) (col0 : Nat) (a sas : List Nat) (j acc : Nat) : Nat × Flags :=
  (List.range (ceilDiv r.kb 32)).foldl (fun (p : Nat × Flags) g =>
    let t := if H.cols ≤ col0 + 32 * g then (Fp.fin false 0 0, (0 : Flags)) else groupTotal H r cim a (nth sas g 0) j g
    let v := accumulate p.1 t.1
    (v.1, p.2 ||| t.2 ||| v.2)) (acc, 0)

/-- mmab and mmas at S (08 R193, R194). -/
def State.startProduct (s : State) (h t : Nat) (fmt : Word64) (row0 col0 : Int) (seq : Option Nat) (word : Word64) (due : Nat) : Start :=
  match s.handle? h with
  | none => .bad 0x07 word
  | some H =>
    let m := s.core.m
    let r := m.resB
    let rows := Nat.min 64 (H.rows - row0.toNat)
    let c0 := col0.toNat
    let spans := H.blockSpans row0.toNat c0 rows r.kb ++ H.scaleSpans fmt row0.toNat c0 rows r.kb
    Start.after (l := spans) <| (s.spansReady false spans).start fun _ =>
      let tiles := tilesOf t r.nb
      let res := (List.range rows).map fun i =>
        let a := s.rowRead H (row0.toNat + i) c0 r.kb
        let sas := if isMx H.type_ then (List.range (ceilDiv r.kb 32)).map fun g =>
            if H.cols ≤ c0 + 32 * g then 0 else s.scaleOf H fmt (row0.toNat + i) (c0 + 32 * g) else []
        tiles.zipIdx.map fun u =>
          let old := s.accRow u.1 i
          let vals := (List.range (Nat.min 64 (r.nb - 64 * u.2))).map fun c => accumulateAll H r m.cim c0 a sas (64 * u.2 + c) (nth old c 0)
          (MWrite.acc u.1 i (vals.map (·.1)), vals.foldl (fun (f : Flags) v => f ||| v.2) 0)
      let all := res.flatMap id
      let tag := tagRecOf H.tag r.btag
      .ok ((s.updM fun m => { m with tags := tiles.foldl (fun v u => v.setIfInBounds u (some tag)) m.tags }).result_
        due (all.map (·.1)) (all.foldl (fun (f : Flags) v => f ||| v.2) 0) seq 0)

/-- The signed weights of R74 for index x of a tile axis: the axis's 32 positions when it is rotated, else the position. -/
def drainSide (seed : Option Word32) (x : Nat) : List (Nat × Bool) :=
  match seed with
  | none => [(x, false)]
  | some d => (List.range 32).map fun y => (x / 32 * 32 + y, d.getLsbD (x % 32) != (popCount 5 (x % 32 &&& y) % 2 == 1))

/-- The sum of R74: signed values of accumulators, exact. -/
def drainSum (l : List (Bool × Nat)) : Fp × Flags :=
  let v := l.map fun p => if p.1 then (fpOf tF32 p.2).neg else fpOf tF32 p.2
  let sig : Flags := if v.any (·.signals) then fNV else 0
  let infs := v.filterMap fun a => match a with | .inf n => some n | _ => none
  if v.any (·.isNan) then (.nan false, sig)
  else if infs.any id && infs.any (!·) then (.nan false, sig ||| fNV)
  else match infs with
    | n :: _ => (.inf n, sig)
    | [] =>
      let d := dySum (v.map fun a => match a with | .fin n m e => (signed n m, e) | _ => (0, 0))
      (.fin (decide (d.1 < 0)) d.1.natAbs d.2, sig)

/-- drain_value of R74 once summed: the exponent change, one rounding, saturation. -/
def drainRound (t rm : Nat) (satur : Bool) (shift : Int) (x : Fp × Flags) : Nat × Flags :=
  let y := match x.1 with | .fin n m e => Fp.fin n m (e + shift) | v => v
  if isFp t then
    let r := rndFp t rm y
    match fpOf t r.1 with
    | .inf n => if satur then (infCode t n - 1, x.2 ||| r.2 ||| fOF) else (r.1, x.2 ||| r.2)
    | _ => (r.1, x.2 ||| r.2)
  else
    let r := fpToInt t rm y
    (r.1, x.2 ||| r.2)

/-- mdrain at S (08 R196; 10 R247).  The inverse rotation uses the seed registers as they are read at S, the cycle in which the drain reads
its tile (04 R74 names no cycle: DESIGN CHOICE, log 49). -/
def State.startDrain (s : State) (h t : Nat) (fmt : Word64) (row0 col0 : Int) (seq : Option Nat) (word : Word64) (due : Nat) : Start :=
  match s.handle? h with
  | none => .bad 0x07 word
  | some H =>
    let r0 := row0.toNat
    let c0 := col0.toNat
    (s.spansReady true (H.blockSpans r0 c0 64 64)).start fun _ =>
      let tag := (nth s.core.m.tags.toList t none).getD ⟨false, none, none⟩
      let live := fun (p : Option (Nat × Nat)) => p.map fun q => s.seed (BitVec.ofNat 3 q.1)
      let sa := live tag.aout
      let sb := live tag.bout
      let shift := fmtSigma fmt - (if tag.rho then 5 else 0) - (if sa.isSome then 5 else 0) - (if sb.isSome then 5 else 0)
      let tile := (List.range 64).map (s.accRow t)
      let rows := (List.range (Nat.min 64 (H.rows - r0))).map fun i =>
        (List.range (Nat.min 64 (H.cols - c0))).map fun j =>
          drainRound (fmtO fmt) (fmtRm fmt) (fmtSat fmt) shift (drainSum ((drainSide sa i).flatMap fun p =>
            (drainSide sb j).map fun q => (p.2 != q.2, nth (nth tile p.1 []) q.1 0)))
      let writes := rows.zipIdx.flatMap fun p => s.rowWrite H (r0 + p.2) c0 (p.1.map (·.1))
      let flags := rows.foldl (fun (f : Flags) l => l.foldl (fun f v => f ||| v.2) f) 0
      .ok (s.result_ due writes flags seq (if s.forecasting.isSome then s.globalBytes writes else 0))

/-- A write of a tile that becomes visible after a later mzero of the tile writes the zeros of that one (08 R186, R195). -/
def MWrite.zeroed (t : Nat) : MWrite → MWrite
  | .acc u i vals => if u = t then .acc u i (vals.map fun _ => 0) else .acc u i vals
  | .bytes va b mask => .bytes va b mask

/-- mzero at S (08 R195): products into the tile that are not visible before its zeros are leave zeros too. -/
def State.startZero (s : State) (t : Nat) (seq : Option Nat) (due : Nat) : Start :=
  let late := fun (r : MResult) => if due < r.due then { r with writes := r.writes.map (MWrite.zeroed t) } else r
  .ok ((s.updM fun m => { m with tags := m.tags.setIfInBounds t none, results := m.results.map late }).result_ due
    ((List.range 64).map fun i => .acc t i (List.replicate 64 0)) 0 seq 0)

end Sys2Proof.Machine
end

