-- ==== Sys2Proof/Machine/FactorOps.lean ====
section
/-!
DEFINITION. The factorisation tile (08 R200 to R214): the column steps of mlu, mchol and mgiv, the row steps of mtrsm and mpiv,
the factorisation state, the write-back, and how one of these words starts, moves on, ends and breaks down.
-/
namespace Sys2Proof.Machine

/-! ### f32 codes -/

abbrev one32 : Nat := 0x3F800000
def nan32 (c : Nat) : Bool := decide (0x7F800000 < c % 2 ^ 31)

/-- The magnitude of an entry, 0 for a NaN (08 R201). -/
def mag32 (c : Nat) : Nat := if nan32 c then 0 else c % 2 ^ 31

/-- rnd(x - a * b) (08 R204). -/
def fUpd (x a b : Nat) : Nat × Flags := fpFma tF32 0 (fpOf tF32 a).neg (fpOf tF32 b) (fpOf tF32 x)

/-- rnd(a / b). -/
def fQuot (a b : Nat) : Nat × Flags := fpDiv tF32 0 (fpOf tF32 a) (fpOf tF32 b)

/-- rnd(a * b + c * d), the sum exact (08 R204). -/
def fSum2 (a b c d : Nat) (minus : Bool) : Nat × Flags :=
  let p := fpMulX (fpOf tF32 a) (fpOf tF32 b)
  let q := fpMulX (fpOf tF32 c) (fpOf tF32 d)
  let r := fpAdd tF32 0 p.1 (if minus then q.1.neg else q.1)
  (r.1, r.2 ||| p.2 ||| q.2)

/-- rnd(sqrt(a * a + b * b)) with the special values of 08 R208. -/
def fHypot (a b : Nat) : Nat × Flags :=
  match fpOf tF32 a, fpOf tF32 b with
  | .nan s, y => nanOf tF32 (s || y.signals)
  | x, .nan s => nanOf tF32 (s || x.signals)
  | .inf _, _ => (infCode tF32 false, 0)
  | _, .inf _ => (infCode tF32 false, 0)
  | .fin _ m e, .fin _ m' e' =>
    let d := dyAdd ((m * m : Nat), 2 * e) ((m' * m' : Nat), 2 * e')
    if d.1 = 0 then (0, 0) else rndSqrt tF32 0 d.1.natAbs d.2

/-- Entry (i, j) of a tile. -/
def entryOf (t : List (List Nat)) (i j : Nat) : Nat := nth (nth t i []) j 0

/-- A tile computed entry by entry, with the flags of all of them. -/
def tileOf (rows cols : Nat) (f : Nat → Nat → Nat × Flags) : List (List Nat) × Flags :=
  let t := (List.range rows).map fun i => (List.range cols).map (f i)
  (t.map fun r => r.map (·.1), t.foldl (fun (a : Flags) r => r.foldl (fun a p => a ||| p.2) a) 0)

/-- The largest magnitude among some entries. -/
def maxMag (l : List Nat) : Nat := l.foldl (fun a c => Nat.max a (mag32 c)) 0

/-- The largest magnitude in the square part (08 R201, AMAX0). -/
def squareMag (n : Nat) (t : List (List Nat)) : Nat := maxMag (t.flatMap fun r => r.take n)

/-! ### Column steps (08 R206 to R208) -/

/-- What a column step leaves: the tile, its flags, the largest magnitude it wrote into the square part, and PV's new entry. -/
structure ColStep where
  tile  : List (List Nat)
  flags : Flags
  top   : Nat
  pv    : Option Nat

/-- The row that mlu takes as pivot at column k: the first of largest magnitude. -/
def luPivot (n k : Nat) (t : List (List Nat)) : Nat :=
  let rows := (List.range (n - k)).map (k + ·)
  let m := maxMag (rows.map fun i => entryOf t i k)
  (rows.find? fun i => mag32 (entryOf t i k) == m).getD k

/-- Rows p and q exchanged. -/
def swapRows (p q : Nat) (t : List (List Nat)) : List (List Nat) := setNth (setNth t p (nth t q [])) q (nth t p [])

def luStep (n nt k : Nat) (t : List (List Nat)) : ColStep :=
  let p := luPivot n k t
  let w := swapRows k p t
  let d := entryOf w k k
  let l := fun i => fQuot (entryOf w i k) d
  let r := tileOf n nt fun i j =>
    if i ≤ k ∨ j < k then (entryOf w i j, 0) else if j = k then l i else fUpd (entryOf w i j) (l i).1 (entryOf w k j)
  let moved := if p = k then [d] else (nth w k []).take n ++ (nth w p []).take n
  ⟨r.1, r.2, Nat.max (maxMag moved) (maxMag ((r.1.drop (k + 1)).flatMap fun x => (x.take n).drop k)), some p⟩

def cholStep (n nt k : Nat) (t : List (List Nat)) : ColStep :=
  let r := fpSqrt tF32 0 (fpOf tF32 (entryOf t k k))
  let l := fun i => fQuot (entryOf t i k) r.1
  let b := fun j => fQuot (entryOf t k j) r.1
  let w := tileOf n nt fun i j =>
    if i < k ∨ j < k then (entryOf t i j, 0)
    else if i = k then (if j = k then r else if j < n then ((l j).1, 0) else b j)
    else if j = k then l i
    else if j ≤ i then fUpd (entryOf t i j) (l i).1 (l j).1
    else if j < n then (entryOf t i j, 0)
    else fUpd (entryOf t i j) (l i).1 (b j).1
  let written := (List.range (n - k)).flatMap fun q => (List.range (q + 1)).map fun p => entryOf w.1 (k + q) (k + p)
  ⟨w.1, w.2, maxMag written, none⟩

/-- One rotation of rows k and i (08 R208): the two rows and its flags.  With a = b = 0 the identity is c = 1 and sn = 0 in the sums of the rule's
pseudocode, so that an element -0 becomes +0 and an infinity in the other row gives a NaN: DESIGN CHOICE (log 69). -/
def givRows (k : Nat) (rk ri : List Nat) : List Nat × List Nat × Flags :=
  let a := nth rk k 0
  let b := nth ri k 0
  let r := fHypot a b
  let zero := r.1 % 2 ^ 31 == 0
  let c := if zero then (one32, 0) else fQuot a r.1
  let sn := if zero then (0, 0) else fQuot b r.1
  let col := fun j =>
    if j < k then ((nth rk j 0, 0), (nth ri j 0, 0))
    else if j = k then ((r.1, r.2), (0, 0))
    else (fSum2 c.1 (nth rk j 0) sn.1 (nth ri j 0) false, fSum2 c.1 (nth ri j 0) sn.1 (nth rk j 0) true)
  let all := (List.range rk.length).map col
  (all.map (·.1.1), all.map (·.2.1), all.foldl (fun (f : Flags) p => f ||| p.1.2 ||| p.2.2) (c.2 ||| sn.2))

def givStep (n k : Nat) (t : List (List Nat)) : ColStep :=
  (List.range (n - 1 - k)).foldl (fun q d =>
    let i := k + 1 + d
    let r := givRows k (nth q.tile k []) (nth q.tile i [])
    ⟨setNth (setNth q.tile k r.1) i r.2.1, q.flags ||| r.2.2,
     Nat.max q.top (maxMag ((r.1.take n).drop k ++ (r.2.1.take n).drop k)), none⟩) ⟨t, 0, 0, none⟩

/-- The cause at which column k breaks down, if it does (08 R206, R207, R212). -/
def breakOf (op : MOp) (n k : Nat) (t : List (List Nat)) : Option Nat :=
  let below := (List.range (n - k)).map fun i => entryOf t (k + i) k
  match op with
  | .mlu _ => if below.any nan32 then some 0x0B else if maxMag below = 0 then some 0x09 else none
  | .mchol _ =>
    let d := entryOf t k k
    if nan32 d || d % 2 ^ 31 == 0 || decide (2 ^ 31 ≤ d) then some 0x0A else none
  | _ => none

/-- One row of mtrsm (08 R209): row q solved, the later rows updated. -/
def solveRow (lower unit : Bool) (t y : List (List Nat)) (q m : Nat) : List (List Nat) × Flags :=
  let yq := (List.range m).map fun c => if unit then (entryOf y q c, 0) else fQuot (entryOf y q c) (entryOf t q q)
  tileOf y.length m fun i c =>
    if i = q then nth yq c (0, 0)
    else if (lower && decide (q < i)) || (!lower && decide (i < q)) then fUpd (entryOf y i c) (entryOf t i q) (nth yq c (0, 0)).1
    else (entryOf y i c, 0)

/-! ### The factorisation state (08 R201, R203) -/

/-- A register of the factorisation state written, seen by C from a tick on (06 R131, 02 R36). -/
def State.setFactorRegs (s : State) (fcol : Nat) (fstat grow : Word64) (since : Nat) : State :=
  let m := s.core.m
  let late := fun (r : Csr) (n : Nat) (old new : Word64) => if old = new then r else r.writeLate n old s.now since
  ((s.updCsr fun r => late (late (late r 0x40 (w64 m.fcol) (w64 fcol)) 0x41 m.fstat fstat) 0x42 m.grow grow).updM fun m =>
    { m with fcol := fcol, fstat := fstat, grow := grow })

/-- FSTAT from its fields. -/
def fstatOf (amax cause n mode state : Nat) : Word64 := w64 (amax * 2 ^ 32 + cause * 2 ^ 16 + n * 2 ^ 8 + mode * 2 ^ 4 + state)

/-- FSTAT with CAUSE and STATE replaced. -/
def fstatSet (w : Word64) (cause state : Nat) : Word64 := fstatOf (field w.toNat 32 32) cause (fstatN w) (fstatMode w) state

/-- GROW of a GMAX over an AMAX0: RATIO is +0 when AMAX0 is 0. -/
def growOf (gmax amax : Nat) : Word64 := w64 (gmax * 2 ^ 32 + (if amax = 0 then 0 else (fQuot gmax amax).1))

/-- GROW raised to at least a magnitude. -/
def State.growTo (s : State) (top : Nat) : Word64 :=
  growOf (Nat.max (field s.core.m.grow.toNat 32 32) top) (field s.core.m.fstat.toNat 32 32)

/-! ### The words while they run -/

/-- Cycles of one column or row (08 R187, R212). -/
def colCost (op : MOp) (n k : Nat) : Nat :=
  match op with
  | .mlu _ => 14
  | .mchol _ => 12
  | .mgiv _ => 8 * (n - 1 - k) + 2
  | .mtrsm _ _ _ => 6
  | _ => 2

/-- How many columns or rows a word runs through. -/
def Matrix.steps (m : Matrix) (op : MOp) : Nat :=
  match op with
  | .mpiv _ => fstatN m.fstat
  | _ => m.resB.n

/-- MODE of a factorisation word; 0 for mtrsm and mpiv. -/
def MOp.mode : MOp → Nat
  | .mlu _ => 1
  | .mchol _ => 2
  | .mgiv _ => 3
  | _ => 0

/-- The first column or row of a word. -/
def MOp.first : MOp → Nat
  | .mlu c => c
  | .mchol c => c
  | .mgiv c => c
  | .mtrsm _ c _ => c
  | _ => 0

/-- What a word writes back: the tile to its home handle (08 R205), Y, or the swapped rows. -/
def State.writeBack (s : State) (op : MOp) (rhs : List (List Nat)) : List MWrite :=
  let m := s.core.m
  match op with
  | .mtrsm _ _ h => (match s.handle? h with | none => [] | some H => rhs.zipIdx.flatMap fun p => s.rowWrite H p.2 0 p.1)
  | .mpiv h => (match s.handle? h with | none => [] | some H => rhs.zipIdx.flatMap fun p => s.rowWrite H p.2 0 p.1)
  | _ => (match s.handle? m.resB.home with
    | none => []
    | some H => m.cim.code.zipIdx.flatMap fun p => s.rowWrite H (m.resB.row0.toNat + p.2) m.resB.col0.toNat p.1)

/-- The step of one column or row performed (08 R203, R204): tile or rows, FCOL, GROW, PV and flags. -/
def State.colStep (s : State) (op : MOp) (f : Factor) (since : Nat) : State :=
  let m := s.core.m
  let n := m.resB.n
  let square := fun (r : ColStep) =>
    let s1 := s.updM fun m => { m with cim := { m.cim with code := r.tile },
                                       pv := match r.pv with | some p => setNth m.pv f.col p | none => m.pv }
    (s1.setFactorRegs (f.col + 1) m.fstat (s.growTo r.top) since).orFlags .x r.flags
  match op with
  | .mlu _ => square (luStep n m.resB.nt f.col m.cim.code)
  | .mchol _ => square (cholStep n m.resB.nt f.col m.cim.code)
  | .mgiv _ => square (givStep n f.col m.cim.code)
  | .mtrsm up _ _ =>
    let cols := match f.rhs with | r :: _ => r.length | [] => 0
    let r := solveRow (!up) (!up && fstatMode m.fstat == 1) m.cim.code f.rhs (if up then n - 1 - f.col else f.col) cols
    (s.updM fun m => { m with factor := m.factor.map fun g => { g with rhs := r.1 } }).orFlags .x r.2
  | .mpiv _ =>
    if f.col < m.fcol then
      s.updM fun m => { m with factor := m.factor.map fun g => { g with rhs := swapRows f.col (nth m.pv f.col 0) g.rhs } }
    else s
  | _ => s

/-- The word's last step is done: its write-back and its end fall at S + O (08 R187, R203). -/
def State.factorDone (s : State) (op : MOp) (seq : Option Nat) (due : Nat) : State :=
  let rhs := match s.core.m.factor with | some f => f.rhs | none => []
  s.updM fun m => { m with factor := m.factor.map fun f => { f with col := m.steps op, due := due, broke := none, early := false }
                           results := m.results ++ [(MResult.mk due (s.writeBack op rhs) 0 seq 0 (op.mode != 0) m.headX m.headGo)] }

/-- The running word has done its last column or row (08 R187: W cycles remain). -/
def Matrix.tail (m : Matrix) : Bool :=
  match m.factor, m.queue with
  | some f, e :: _ => decide (m.steps e.op ≤ f.col)
  | _, _ => false

/-- The word enters its next column or row, or has none left. -/
def State.factorNext (s : State) (op : MOp) (seq : Option Nat) (col begun due : Nat) : State :=
  let m := s.core.m
  if m.steps op ≤ col then s.factorDone op seq due
  else s.updM fun m => { m with factor := m.factor.map fun f =>
    { f with col := col, due := begun + colCost op m.resB.n col, broke := breakOf op m.resB.n col m.cim.code, early := false } }

/-- The spans a word may write at its end. -/
def State.factorSpans (s : State) (op : MOp) : List (Nat × Nat) :=
  let m := s.core.m
  match op with
  | .mtrsm _ _ h => (match s.handle? h with | none => [] | some H => H.blockSpans 0 0 m.resB.n 64)
  | .mpiv h => (match s.handle? h with | none => [] | some H => H.blockSpans 0 0 H.rows H.cols)
  | _ => (match s.handle? m.resB.home with
    | none => []
    | some H => H.blockSpans m.resB.row0.toNat m.resB.col0.toNat m.resB.n m.resB.nt)

/-- A swap of mpiv that names a row past the handle (08 R210). -/
def Matrix.swapBad (m : Matrix) (rows : Nat) : Bool :=
  (List.range m.fcol).any fun k => nth m.pv k 0 != k && (decide (rows ≤ k) || decide (rows ≤ nth m.pv k 0))

/-- The factorisation state at the start of mlu, mchol or mgiv (08 R203). -/
def State.factorBegin (s : State) (op : MOp) (since : Nat) : State :=
  let m := s.core.m
  if op.mode = 0 then s
  else if op.first = 0 then
    let amax := squareMag m.resB.n m.cim.code
    (s.updM fun m => { m with pv := List.range 128 }).setFactorRegs 0 (fstatOf amax 0 m.resB.n op.mode 1) (growOf amax amax) since
  else s.setFactorRegs m.fcol (fstatSet m.fstat 0 1) m.grow since

/-- A factorisation word, mtrsm or mpiv at S (08 R183, R203, R209, R210). -/
def State.startFactor (s : State) (op : MOp) (seq : Option Nat) (word : Word64) (begun due : Nat) : Start :=
  let m := s.core.m
  let spans := s.factorSpans op
  let reads := if op.mode = 0 then spans else []
  Start.after (l := reads) <| ((s.spansReady false reads).and (s.spansReady true spans)).start fun _ =>
    let H := op.hnd.bind s.handle?
    let bad := match op, H with | .mpiv _, some h => m.swapBad h.rows | _, _ => false
    if bad then .bad 0x07 word
    else
      let rhs := match op, H with
        | .mtrsm _ _ _, some h => s.block h 0 0 m.resB.n (Nat.min h.cols 64)
        | .mpiv _, some h => s.block h 0 0 h.rows h.cols
        | _, _ => []
      .ok (((s.factorBegin op (s.now + s.core.div.mat)).updM fun m =>
        { m with factor := some ⟨op.first, begun, none, rhs, false, false, false⟩ }).factorNext op seq op.first begun due)

end Sys2Proof.Machine
end

