-- ==== Sys2Proof/Machine/Matrix.lean ====
section
/-!
DEFINITION. Matrix and factorisation words of X and nest.go of C (06 R121; 08), and the events of the matrix unit: starts, ends of
occupancy, visibility, nest points, column boundaries, breakdowns, self-test products and late operand bytes.
-/
namespace Sys2Proof.Machine

/-! ### Words -/

def execMldb (h : Hitch) (hd : BitVec 10) (s : State) : Host.Outcome State Fault Refusal :=
  matWord h (.mldb h hd) (.mldb hd.toNat) s
def execMmab (h : Hitch) (hd : BitVec 10) (t : BitVec 4) (s : State) : Host.Outcome State Fault Refusal :=
  matWord h (.mmab h hd t) (.mmab hd.toNat t.toNat) s
def execMmas (h : Hitch) (hd : BitVec 10) (t : BitVec 4) (s : State) : Host.Outcome State Fault Refusal :=
  matWord h (.mmas h hd t) (.mmas hd.toNat t.toNat) s
def execMdrain (h : Hitch) (hd : BitVec 10) (t : BitVec 4) (s : State) : Host.Outcome State Fault Refusal :=
  matWord h (.mdrain h hd t) (.mdrain hd.toNat t.toNat) s
def execMzero (h : Hitch) (t : BitVec 4) (s : State) : Host.Outcome State Fault Refusal := matWord h (.mzero h t) (.mzero t.toNat) s
def execMtest (h : Hitch) (s : State) : Host.Outcome State Fault Refusal := matWord h (.mtest h) .mtest s
def execMtrsmLo (h : Hitch) (c : BitVec 7) (hd : BitVec 10) (s : State) : Host.Outcome State Fault Refusal :=
  matWord h (.mtrsmLo h c hd) (.mtrsm false c.toNat hd.toNat) s
def execMtrsmUp (h : Hitch) (c : BitVec 7) (hd : BitVec 10) (s : State) : Host.Outcome State Fault Refusal :=
  matWord h (.mtrsmUp h c hd) (.mtrsm true c.toNat hd.toNat) s
def execMlu (h : Hitch) (c : BitVec 7) (s : State) : Host.Outcome State Fault Refusal := matWord h (.mlu h c) (.mlu c.toNat) s
def execMchol (h : Hitch) (c : BitVec 7) (s : State) : Host.Outcome State Fault Refusal := matWord h (.mchol h c) (.mchol c.toNat) s
def execMgiv (h : Hitch) (c : BitVec 7) (s : State) : Host.Outcome State Fault Refusal := matWord h (.mgiv h c) (.mgiv c.toNat) s
def execMpiv (h : Hitch) (hd : BitVec 10) (s : State) : Host.Outcome State Fault Refusal := matWord h (.mpiv h hd) (.mpiv hd.toNat) s
def execMfst (h : Hitch) (s : State) : Host.Outcome State Fault Refusal := matWord h (.mfst h) .mfst s

/-- mnest (08 R197). -/
def execMnest (h : Hitch) (s : State) : Host.Outcome State Fault Refusal :=
  .next (stepWord .x h (.mnest h) true [] [] (fun s0 =>
    let s := s0.updM fun m => m.promote m.count
    match s.nestGo (wordTval (.mnest h)) (s.core.m.entered s.core.m.count).length s.core.m.next s.core.m.count with
    | .fault c v => .fault c v
    | .wait => .wait .matrixQueue
    | .go n => .ok ((s.popFormat s.core.m.next).addNest n (some (s.core.x.seq + 1)) 0 s.core.x.after (s.core.x.pc.zeroExtend 64) (wordTval (.mnest h)) s.core.m.count)
        .waiting .on) s)

/-- The count of the matrix cycle that is the first to begin at or after a tick. -/
def State.matCount (s : State) (t : Nat) : Nat := s.core.m.count + s.core.cyclesTo 1 s.core.m.next t

/-- nest.go (06 R121): the request is visible to the matrix unit from the end of C's cycle on. -/
def execNestGo (s : State) : Host.Outcome State Fault Refusal :=
  cWord .nestGo [] (fun s0 =>
    let s := s0.updM fun m => m.promote m.count
    let e := s.matCount (s.cycleEnd .c)
    let held := (s.core.m.queue.filter fun q => !(q.start.isSome && !q.rest && decide (s.core.m.free_ ≤ e))).length
    match s.nestGo (wordTval .nestGo) held s.now e with
    | .fault c v => s0.cTrap c v
    | .wait => s0.cWait .matrixQueue
    | .go n =>
      let go := s.core.c.nGo + 1
      (((s.popFormat s.now).addNest n none go s.core.c.after s.core.c.chain.pc (wordTval .nestGo) e).updC fun c => { c with nGo := go }).cDone) s

/-! ### The matrix unit's time -/

/-- The tick at which a matrix cycle of a count begins. -/
def State.matTick (s : State) (count : Nat) : Nat := s.core.tickAfter 1 s.core.m.next (count - s.core.m.count)

/-- The matrix unit brought to a count, and time to the tick at which that cycle begins. -/
def State.matTo (s : State) (count : Nat) : State :=
  let t := s.matTick count
  { s with now := Nat.max s.now t,
           core := { s.core with m := { s.core.m with count := Nat.max s.core.m.count count, next := t } } }

/-! ### Starts -/

/-- The first cycle from a count on at which xc has three free slots, if C has made them free (08 R211). -/
def State.roomForThree (s : State) (base : Nat) : Option Nat :=
  let q := s.core.dq[(6 : Fin 12)]
  let ok := fun (c : Nat) => decide (q.items.length + (q.freed.filter fun f => decide (s.matTick c < f)).length + 3 ≤ dataDepth)
  let times := base :: q.freed.map fun f => Nat.max base (s.matCount f)
  (times.filter ok).foldl (fun (a : Option Nat) c => match a with | none => some c | some b => some (Nat.min b c)) none

/-- The start cycle S of what is about to start (08 R186), unless it is held: for room in the splice buffer, or for the accesses that its own come
after (11 R267). -/
def State.startCount (s : State) : Option Nat :=
  match s.core.m.about with
  | none => none
  | some (e, op, r, c) =>
    let base := s.core.m.startBase e op
    if s.noRoom op r c || !s.opOrdered e op then none
    else match op with
      | .mfst => s.roomForThree base
      | _ => some base

/-- mfst at S: three words into xc, visible to C when the cycle ends (08 R211). -/
def State.startMfst (s : State) (seq : Option Nat) (begun : Nat) : Start :=
  let since := s.now + s.core.div.mat
  let m := s.core.m
  let s1 := [w64 m.fcol, m.fstat, m.grow].foldl (fun s w => s.updCore fun c => c.updDq 6 fun q => q.push w since (c.x.after.with_ .x (seq.getD 0))) s
  .ok (s1.result_ (begun + 1) [] 0 seq 0)

/-- An operation performed at its start cycle (08 R186, R187). -/
def State.startOp (s : State) (op : MOp) (fmt : Word64) (row0 col0 : Int) (seq : Option Nat) (word : Word64) (occ : Nat) : Start :=
  let b := s.core.m.count
  match op with
  | .mldb h => s.startMldb h fmt row0 col0 seq word (b + occ)
  | .mmab h t => s.startProduct h t fmt row0 col0 seq word (b + occ + 10)
  | .mmas h t => s.startProduct h t fmt row0 col0 seq word (b + occ + 10)
  | .mdrain h t => s.startDrain h t fmt row0 col0 seq word (b + occ + 8)
  | .mzero t => s.startZero t seq (b + 2)
  | .mtest => .ok ((s.updM fun m => { m with testDue := if m.failing then m.testDue else some (b + 16) }).result_ (b + 16) [] 0 seq 0)
  | .mfst => s.startMfst seq b
  | .nest => .ok s
  | _ => s.startFactor op seq word b (b + occ)

/-- An operation counts toward the self-test (08 R199).  A nest counts in its points, and an mnest once more as the matrix word that it is, where
nest.go is a word of C: DEDUCED (log 66). -/
def MOp.counted : MOp → Bool
  | .mzero _ => false
  | .mfst => false
  | .nest => false
  | _ => true

/-- The head entry changed. -/
def Matrix.updHead (m : Matrix) (f : MEntry → MEntry) : Matrix :=
  { m with queue := match m.queue with | [] => [] | e :: l => f e :: l }

/-- A start that meets a cause: the trap is raised on C (20 R334, R340), and the entry waits for it. -/
def State.startFault (s : State) (cause : BitVec 8) (tval : Word64) : State :=
  (s.updM fun m => m.updHead fun e => { e with bad := true }).raiseLater cause 4 tval

/-- The outcome of a start: what it leaves, or the fault, the absent page or the freeze it meets (08 R183). -/
def Start.settle (r : Start) (s : State) (occ : Nat) (counted : Bool) (mark : MEntry → MEntry) : State :=
  match r with
  | .bad c v => s.startFault c v
  | .walk va w => s.freezeCore (.walk va w)
  | .late => s.freezeCore .operands
  | .ok s1 => s1.updM fun m =>
      { m.updHead mark with free_ := m.count + occ, ops := m.ops + (if counted then 1 else 0) }

/-- A nest without points has nothing to do (05 R100). -/
def State.emptyNest (s : State) (e : MEntry) : State :=
  (s.updM fun m => { m.updHead (fun e => { e with start := some m.count, rest := false }) with
    running := m.running.map fun n => { n with ended := some m.count } }).result_ s.core.m.count [] 0 e.seq 0

/-- A start in the view of its entry: one issued before the task's fcast reads memory where a later one reads the prediction (10 R245). -/
def MEntry.inView (e : MEntry) (s : State) (f : State → Start) : Start :=
  if !e.plain then f s
  else match f (s.updTask fun t => { t with plain := true }) with
    | .ok s1 => .ok (s1.updTask fun t => { t with plain := false })
    | r => r

/-- The head entry starts (08 R186): a single word is performed; a nest begins its walk. -/
def execMatrixEntryStart (s0 : State) : Host.Outcome State Fault Refusal :=
  match s0.startCount, s0.core.m.about with
  | some c, some (e, op, r, k) =>
    let s1 := s0.matTo c
    if op = .nest then
      let s := s1.updM fun m => { m.promote (m.count + 1) with ops := m.ops + (if e.seq.isSome then 1 else 0) }
      (match s.core.m.running with
       | none => .next s
       | some n => .next (if n.total = 0 then s.emptyNest e
           else s.updM fun m => m.updHead fun e => { e with start := some m.count }))
    else if e.rest then .next s1
    else .next ((e.inView s1 fun s => s.startOp op e.fmt r k e.seq ((imWord s.core.imX e.pc.toNat : Nat) : Word64) e.occ).settle s1 e.occ op.counted
      fun e => { e with start := some s1.core.m.count })
  | _, _ => .next s0

/-- A nest's next point (08 R198): steps 3 to 6 of R185 at its start, then as the single word. -/
def execNestPoint (s0 : State) : Host.Outcome State Fault Refusal :=
  match s0.startCount, s0.core.m.about, s0.core.m.running with
  | some c, some (e, op, r, k), some n =>
    if !e.rest ∨ e.start.isNone then .next s0
    else
      let s := s0.matTo c
      let word := BitVec.ofNat 64 (imWord (if e.seq.isSome then s.core.imX else s.core.imC) e.pc.toNat)
      let a := s.core.m.present
      .next (match s.entryFault a op n.fmt r k word with
        | some f => s.startFault f.1 f.2
        | none =>
          let occ := s.occupancy a op n.fmt r k
          let last := decide (n.total ≤ n.point + 1)
          let s1 := (e.inView s fun s => s.startOp op n.fmt r k (if last then e.seq else none) word occ).settle s occ op.counted
            fun e => { e with occ := e.occ + occ, rest := !last }
          if s1.core.m.free_ = s.core.m.count + occ ∧ s1.core.m.queue.head?.any (fun e => !e.bad) ∧ s1.core.freeze.isNone then
            s1.updM fun m => { m with running := m.running.map fun n =>
              { n with point := n.point + 1, ended := if last then some m.count else none } }
          else s1)
  | _, _, _ => .next s0

/-! ### Ends -/

/-- The head entry's occupancy is over (08 R186): it leaves the queue at S + O. -/
def execMatrixOccupancyEnd (s0 : State) : Host.Outcome State Fault Refusal :=
  match s0.core.m.queue with
  | [] => .next s0
  | e :: l =>
    if e.start.isNone ∨ e.rest ∨ (s0.core.m.factor.isSome ∧ !s0.core.m.tail) then .next s0
    else
      let s := s0.matTo (Nat.max s0.core.m.count s0.core.m.free_)
      .next (s.updM fun m => ({ m with queue := l, factor := none }).promote m.count)

/-- A word of X completed: its flight is done at X's count (08 R188; 02 R37). -/
def State.xDone (s : State) (seq : Option Nat) : State :=
  match seq with
  | none => s
  | some n => s.updStep .x fun p => { p with flights := p.flights.map fun f => if f.seq = n then { f with done := .done p.count } else f }

/-- The result that is the first to be due, and the others. -/
def firstResult : List MResult → Option (MResult × List MResult)
  | [] => none
  | r :: l =>
    match firstResult l with
    | some (b, rest) => if b.due < r.due then some (b, r :: rest) else some (r, l)
    | none => some (r, l)

/-- Results become visible (08 R187, R188): writes, flags, the state of a factorisation word that completes, the completion of
the word.  Global writes without room wait (10 R247). -/
def execMatrixResultVisible (s0 : State) : Host.Outcome State Fault Refusal :=
  match firstResult s0.core.m.results with
  | none => .next s0
  | some (r, rest) =>
    let s1 := s0.matTo (Nat.max s0.core.m.count r.due)
    let s := s1.updM fun m => { m with results := rest }
    .next (match s.writeAll r.ofX r.writes with
      | .stall => s1.updM fun m => { m with results := { r with due := m.count + 1 } :: rest }
      | .done s2 =>
        let s3 := (s2.orFlags .x r.flags).xDone r.seq
        if r.last then
          s3.setFactorRegs (fstatN s3.core.m.fstat) (fstatSet s3.core.m.fstat 0 2) s3.core.m.grow (s3.now + s3.core.div.mat)
        else s3)

/-! ### Factorisation (08 R203 to R214) -/

/-- The count at which a word that breaks down ends (08 R212). -/
def State.breakCount (s : State) (e : MEntry) (f : Factor) : Nat :=
  f.due - colCost e.op s.core.m.resB.n f.col + 4 + ceilDiv (s.core.m.resB.n * s.core.m.resB.nt) 128

/-- The cycles of C's domain from its stop cycle on after which a matrix count begins (20 R339). -/
def State.remOf (s : State) (count : Nat) : Nat := ceilDiv (s.matTick count - s.core.resume) s.core.div.ctl

/-- The stop completes the current column and writes the tile back (08 R213): once in each stop.  A breakdown that it finds is a pending
entry with its scheduled end (20 R339). -/
def State.columnInStop (s : State) (e : MEntry) (f : Factor) : State :=
  if f.held then s
  else
    let s1 := if f.broke.isNone && !f.early && !s.core.m.tail then s.colStep e.op f s.now else s
    let rhs := match s1.core.m.factor with | some g => g.rhs | none => []
    let left := s1.writeAll e.seq (s1.writeBack e.op rhs)
    let s2 := match left with | .done s2 => s2 | .stall => s1
    let out := match left with | .done _ => 0 | .stall => 2 ^ 63
    let due := if f.broke.isSome then s.breakCount e f else f.due
    let s3 := s2.updM fun m => { m with mrem := w64 ((due - m.count) % 2 ^ 32 + out),
                                        factor := m.factor.map fun g => { g with early := f.broke.isNone, held := true, pended := f.broke.isSome } }
    match f.broke with
    | none => s3
    | some code =>
      if f.pended then s3
      else s3.updCore fun c =>
        let p := c.pendEntry (BitVec.ofNat 8 code) 4 (w64 f.col) e.pc.toNat
        if c.pend.length < 16 then { c with pend := c.pend ++ [{ p with rem := c.c.count + s.remOf due, kept := false }] } else c

/-- The stop's column step, where a factorisation word runs (08 R213). -/
def State.stopFactor (s : State) : State :=
  match s.core.m.factor, s.core.m.queue with
  | some f, e :: _ => s.columnInStop e f
  | _, _ => s

/-- A column or row boundary (08 R203, R204, R209): its step, unless a stop did it, then the next column. -/
def execFactorColumnBoundary (s0 : State) : Host.Outcome State Fault Refusal :=
  match s0.core.m.factor, s0.core.m.queue with
  | some f, e :: _ =>
    if s0.core.c.handler then .next ((s0.matSync s0.core.stop).columnInStop e f)
    else if f.broke.isSome ∨ s0.core.m.tail then .next s0
    else
      let s := s0.matTo (Nat.max s0.core.m.count f.due)
      let s1 := if f.early then s else s.colStep e.op f (s.now + s.core.div.mat)
      .next (s1.factorNext e.op e.seq (f.col + 1) f.due (e.start.getD 0 + e.occ))
  | _, _ => .next s0

/-- A breakdown (08 R212): the tile back in memory, FCOL, CAUSE and STATE, the end of the word, the trap on C, whose handler finds the
registers so. -/
def execFactorisationBreakdown (s0 : State) : Host.Outcome State Fault Refusal :=
  match s0.core.m.factor, s0.core.m.queue with
  | some f, e :: l =>
    (match f.broke with
     | none => .next s0
     | some code =>
       let s := s0.matTo (Nat.max s0.core.m.count (s0.breakCount e f))
       let s1 := s.updM fun m => { m with factor := none, queue := l, free_ := m.count,
                                          results := m.results ++ [(MResult.mk m.count (s.writeBack e.op []) 0 e.seq 0 false e.seq e.go)] }
       let s2 := s1.setFactorRegs f.col (fstatSet s1.core.m.fstat code 3) s1.core.m.grow s1.now
       .next (if f.pended then s2 else s2.raiseAt (BitVec.ofNat 8 code) 4 (w64 f.col) e.pc.toNat))
  | _, _ => .next s0

/-! ### Self-test and operands (08 R183, R199) -/

/-- MTESTI.INTERVAL as the matrix unit sees it (06 R135). -/
def State.testInterval (s : State) : Nat := (s.core.csr.seen 0x50 s.now (s.core.csr.mtesti.zeroExtend 64)).toNat

/-- A self-test product injected after the operation that reached the interval (08 R199). -/
def execSelfTestInject (s0 : State) : Host.Outcome State Fault Refusal :=
  let s := s0.matTo (Nat.max s0.core.m.count s0.core.m.free_)
  .next (s.updM fun m => { m with ops := 0, testDue := if m.failing then m.testDue else some (m.count + 16) })

/-- The operand bytes that the frozen core waits for have arrived (08 R183; 10 R245). -/
def execOperandFetchArrival (s : State) : Host.Outcome State Fault Refusal :=
  match s.core.freeze with
  | some .operands => .next s.unfreeze
  | _ => .next s

end Sys2Proof.Machine
end

