-- ==== Sys2Proof/Machine/XferOps.lean ====
section
/-!
DEFINITION. What the transfer units move (09 R215 to R236): descriptors, local images, the checks at issue, the rows read and
written, store-stage arithmetic, and the effects and local writes of each form.
-/
namespace Sys2Proof.Machine

/-! ### Descriptors and images (09 R216, R217) -/

/-- A rectangle: first row and column, row and column counts. -/
structure Rect where
  row0 : Nat
  col0 : Nat
  nr   : Nat
  nc   : Nat

/-- The fields of a tile descriptor. -/
def rectOf (g : Word64) : Rect := ⟨field g.toNat 48 16, field g.toNat 32 16, field g.toNat 16 16 + 1, field g.toNat 0 16 + 1⟩

/-- Bytes of one row of a local image: n elements of w bits, padded to 32 bytes. -/
def pitchOf (w n : Nat) : Nat := roundUp (ceilDiv (n * w) 8) 32

/-- A check: whether it fails, its cause and TVAL. -/
abbrev Check := Bool × BitVec 8 × Word64

/-- The descriptor's place in a handle: cause 0x07, then 0x03 for mx6 and 4-bit types (09 R216). -/
def rectPlace (H : Handle) (g : Word64) : List Check :=
  let r := rectOf g
  [(decide (H.rows ≤ r.row0) || decide (H.cols ≤ r.col0), 0x07, g)]
def rectAlign (H : Handle) (g : Word64) : List Check :=
  let r := rectOf g
  [((H.type_ == tMx6 && (r.col0 % 4 != 0 || r.nc % 4 != 0)) || (memWidth H.type_ == 4 && (r.col0 % 2 != 0 || r.nc % 2 != 0)), 0x03, g)]

/-- A local offset is a multiple of 32 (09 R217). -/
def offAlign (off : Word64) : List Check := [(off.toNat % 32 != 0, 0x03, off)]

/-- n bytes at a local offset lie in one resource (09 R217). -/
def offRange (off : Word64) (n : Nat) : List Check := [(!resourceOk off.toNat n, 0x05, off)]

/-- The extent rule of R80 for a handle that a word reads or writes. -/
def tagExtent (H : Handle) (h : Nat) : List Check := [(!tagExtentOk H.tag H.rows H.cols, 0x08, w64 h)]

/-! ### Rings (09 R225 to R227) -/

/-- A window descriptor's ring, not yet open. -/
def ringOf (H : Handle) (h : Nat) (w : Bool) (ga gb : Word64) : Ring :=
  let r := rectOf gb
  { open_ := true, write := w, h := h, base := field ga.toNat 0 22, pitch := pitchOf (memWidth H.type_) r.nc, d := r.nr,
    a := field ga.toNat 32 16, row0 := r.row0, f := r.row0, col0 := r.col0, nc := r.nc - 1,
    dirty := List.replicate r.nr false }

/-- A ring is open when a word issues: as it stands, and as the words in the unit will leave it. -/
def Core.ringOpen (c : Core) (n : Nat) : Bool :=
  c.inb.queue.foldl (fun o e => match e.op with
    | .wopen _ k _ => if k = n then true else o
    | .wadv k _ close => if k = n ∧ close then false else o
    | _ => o) (match c.rings.toList[n]? with | some r => r.open_ | none => false)

/-- A core's ring. -/
def Core.ring (c : Core) (n : Nat) : Ring := c.rings.toList.getD n Ring.closed

/-- A ring replaced. -/
def State.setRing (s : State) (n : Nat) (r : Ring) : State := s.updCore fun c => { c with rings := c.rings.setIfInBounds n r }

/-- The slot of a row, and its local offset. -/
def Ring.slot (r : Ring) (row : Nat) : Nat := (row - r.row0) % r.d
def Ring.slotOff (r : Ring) (row : Nat) : Nat := spadBase + r.base + r.slot row * r.pitch

/-! ### Remote addresses (09 R230) -/

abbrev farNode (g : Word64) : Nat := field g.toNat 52 8
abbrev farDie (g : Word64) : Nat := field g.toNat 40 8
abbrev farCore (g : Word64) : Nat := field g.toNat 32 8
abbrev farOff (g : Word64) : Nat := field g.toNat 0 32

/-- The remote side is well named: resv bits, NODE bound, coordinates in the target's grid. -/
def State.farOk (s : State) (g : Word64) : Bool :=
  field g.toNat 60 4 == 0 && field g.toNat 48 4 == 0 &&
    match s.myKernel with
    | none => false
    | some k =>
      if farNode g = 0 then (k.vc? (farDie g) (farCore g)).isSome
      else match s.nodeBinding k.image (farNode g) with
        | none => false
        | some b => decide (farDie g < b.2.2.1) && decide (farCore g < b.2.2.2)

/-! ### Issue checks (09 R220) -/

/-- Bytes of the local image that tfar and tfetch move. -/
def Handle.imageBytes (H : Handle) : Nat := H.rows * pitchOf (memWidth H.type_) H.cols

/-- Bits of an element of tsum's local image (09 R235). -/
def sumWidth (t : Nat) (bfl : Bool) : Nat := if t = tBf16 then (if bfl then 16 else 32) else memWidth t

/-- The parameter atom of supd (09 R234). -/
structure SupdAtom where
  eta    : Nat
  beta   : Nat
  lambda : Nat
  mh     : Nat
  ok     : Bool

/-- The fields of a parameter atom under a rule: 0 sgd, 1 mom, 2 decay, 3 sign. -/
def supdAtom (u : Nat) (b : List Byte) : SupdAtom :=
  let f := fun a n => leNat ((b.drop a).take n)
  { eta := f 0 4, beta := f 4 4, lambda := f 8 4, mh := f 12 2 % 1024,
    ok := (u == 1 || f 4 4 == 0) && (u == 2 || f 8 4 == 0) && (u == 1 || f 12 2 == 0) && decide (f 12 2 < 1024) && f 14 18 == 0 }

/-- The checks of a word at issue, in the order of R220.  TVAL of cause 0x05 is g[ga] for a supd too of which only the gradient image leaves its
resource (R234): DESIGN CHOICE (log 71). -/
def State.issueChecks (s : State) (op : XOp) (ga gb word : Word64) : List Check :=
  let on := fun (h : Nat) (k : Handle → List Check) => match s.handle? h with | none => [((true, 0x07, word) : Check)] | some H => k H
  let r := rectOf gb
  match op with
  | .tld h t => on h fun H =>
      let size := if t then r.nc * pitchOf (memWidth H.type_) r.nr else r.nr * pitchOf (memWidth H.type_) r.nc
      rectPlace H gb ++ [((t && H.type_ == tMx6, 0x07, word) : Check)] ++ rectAlign H gb ++ offAlign ga ++ offRange ga size ++ tagExtent H h
  | .tst h => on h fun H =>
      rectPlace H gb ++ rectAlign H gb ++ offAlign ga ++ offRange ga (r.nr * pitchOf (memWidth H.type_) r.nc) ++ tagExtent H h
  | .wopen h n w => on h fun H =>
      let q := ringOf H h w ga gb
      let base := w64 q.base
      [((field ga.toNat 48 16 != 0 || field ga.toNat 22 10 != 0 || q.a == 0 || decide (q.d < q.a) || decide (1024 < q.d), 0x07, word) : Check)]
        ++ rectPlace H gb ++ [((s.core.ringOpen n, 0x13, 0) : Check), (q.base % 32 != 0, 0x03, base)] ++ rectAlign H gb
        ++ [((decide (spadSize < q.base + q.d * q.pitch), 0x05, base) : Check)] ++ tagExtent H h
  | .wadv n _ _ => [(ga.toNat / 2 != 0, 0x07, word), (!s.core.ringOpen n, 0x13, 0)]
  | .tfar h => on h fun H => far H
  | .tfetch h => on h fun H => far H
  | .supd h u => on h fun H =>
      let p := supdAtom u (s.localBytes ga.toNat 32)
      let shape := fun (M : Handle) => M.type_ == tF32 && M.rows == H.rows && M.cols == H.cols
      let image := r.nr * pitchOf 32 r.nc
      [((!isFp H.type_, 0x07, word) : Check)] ++ rectPlace H gb ++ offAlign ga
        ++ [((!resourceOk ga.toNat 32 || !resourceOk (ga.toNat + 32) image, 0x05, ga) : Check),
            (!p.ok || (u == 1 && !(match s.handle? p.mh with | some M => shape M | none => false)), 0x07, word)]
        ++ tagExtent H h ++ (if u = 1 then (match s.handle? p.mh with | some M => tagExtent M p.mh | none => []) else [])
  | .tsum h bfl com => on h fun H =>
      let t := H.type_
      [((!(t == tF32 || t == tBf16 || t == 3 || t == 7) || (bfl && t != tBf16) || (com && isFp t), 0x07, word) : Check)] ++ rectPlace H gb
        ++ offAlign ga ++ offRange ga (r.nr * pitchOf (sumWidth t bfl) r.nc) ++ tagExtent H h
  | .tcopy h => on h fun H => on (field ga.toNat 0 10) fun D =>
      [((field ga.toNat 10 22 != 0 || H.type_ != D.type_, 0x07, word) : Check)] ++ rectPlace H gb ++ rectAlign H gb
        ++ [((isMx H.type_ && (r.row0 % 32 != 0 || r.col0 % 32 != 0), 0x03, gb) : Check),
            (isMx H.type_ && (field ga.toNat 48 16 % 32 != 0 || field ga.toNat 32 16 % 32 != 0), 0x03, ga)]
        ++ tagExtent H h ++ tagExtent D (field ga.toNat 0 10)
        ++ [((!tagEq H.tag D.tag, 0x08, w64 (field ga.toNat 0 10)) : Check)]
  | .tpref h => on h fun H => rectPlace H gb ++ rectAlign H gb ++ tagExtent H h
where
  /-- tfar and tfetch. -/
  far (H : Handle) : List Check :=
    let off := w64 (farOff gb)
    [((!s.farOk gb, 0x07, word) : Check)] ++ offAlign ga ++ offAlign off ++ offRange ga H.imageBytes ++ offRange off H.imageBytes

/-! ### Completion (09 R219) -/

/-- Where the bytes of a word end up, as far as its completion depends on it. -/
inductive Side where
  | own
  | other (t : Option Nat)
  | global
  deriving DecidableEq, Repr

/-- T between the running task's core and the virtual core of its kernel that a physical core holds, if it holds one. -/
def State.travelTo (s : State) (d q : Nat) : Option Nat :=
  match s.core.task, s.myKernel with
  | some t, some k => (k.vcs.find? fun v => v.die == d && v.q == q).map fun v => travel t.vdie t.vcore v.vdie v.vcore
  | _, _ => none

/-- The side of an address. -/
def State.sideOf (s : State) (va : Nat) (write : Bool) : Side :=
  match s.probe va write with
  | .ok pa =>
    if s.isLocal pa then .own
    else match windowOf pa with
      | some (d, q, _) => .other (s.travelTo d q)
      | none => .global
  | _ => .global

/-- The address of the first element of a rectangle. -/
def Handle.first (H : Handle) (r : Rect) : Nat := (H.span r.row0 r.col0 1).1

/-- The rows that an advance retires, and those it fetches (09 R227). -/
def Ring.retired (r : Ring) (close : Bool) : List Nat := (List.range (if close then r.d else r.a)).map (r.f + ·)
def Ring.fetched (r : Ring) (close : Bool) : List Nat := if close then [] else (List.range r.a).map (r.f + r.d + ·)

/-- The rows that an advance writes back (09 R227). -/
def State.dirtyRows (s : State) (q : Ring) (close : Bool) : List Nat :=
  match s.handle? q.h with
  | none => []
  | some H => (q.retired close).filter fun row => nth q.dirty (q.slot row) false && decide (row < H.rows)

/-- Cycles from issue to completion where R219 fixes them; for a wadv to the end of its write-back, counted over the rows that are dirty
when it issues (DESIGN CHOICE, log 5). -/
def State.fixedDelay (s : State) (op : XOp) (ga gb : Word64) : Option Nat :=
  let r := rectOf gb
  let pinned := match s.core.task with | some t => t.pinned | none => false
  let count := fun (b : Nat) => 4 + ceilDiv b 128
  let store := fun (va b : Nat) (tiles : Bool) =>
    match s.sideOf va true with
    | .own => some (count b)
    | .other t => if s.forecasting.isSome then some (count b) else if tiles then t.map fun n => n + ceilDiv b 128 else none
    | .global => if pinned then none else some (count b)
  match op with
  | .tld h t => (s.handle? h).bind fun H =>
      let b := if t then r.nc * pitchOf (memWidth H.type_) r.nr else r.nr * pitchOf (memWidth H.type_) r.nc
      if s.sideOf (H.first r) false = .own then some (count b) else none
  | .tst h => (s.handle? h).bind fun H => store (H.first r) (r.nr * pitchOf (memWidth H.type_) r.nc) true
  | .tcopy h => (s.handle? h).bind fun H => (s.handle? (field ga.toNat 0 10)).bind fun D =>
      store (D.first ⟨field ga.toNat 48 16, field ga.toNat 32 16, 1, 1⟩) (r.nr * pitchOf (memWidth H.type_) r.nc) true
  | .supd h _ => (s.handle? h).bind fun H => store (H.first r) (r.nr * pitchOf 32 r.nc) false
  | .tsum h bfl _ => (s.handle? h).bind fun H => store (H.first r) (r.nr * pitchOf (sumWidth H.type_ bfl) r.nc) false
  | .tfar h => (s.handle? h).bind fun H => s.core.task.bind fun t =>
      if farNode gb ≠ 0 then none
      else some (travel t.vdie t.vcore (farDie gb) (farCore gb) + ceilDiv H.imageBytes 128)
  | .tfetch h => (s.handle? h).bind fun H => s.core.task.bind fun t =>
      if farNode gb = 0 ∧ farDie gb = t.vdie ∧ farCore gb = t.vcore then some (count H.imageBytes) else none
  | .wopen _ _ _ => none
  | .wadv n drop close =>
      let q := s.core.ring n
      if q.write && !drop && !pinned then some (count ((s.dirtyRows q close).length * q.pitch)) else none
  | .tpref _ => some 0

/-! ### Rows read -/

/-- The elements of n from column c of row r, none from the first poisoned atom on, and that atom's address. -/
def State.rowTake (s : State) (H : Handle) (r c n : Nat) : List (Option Nat) × Option Nat :=
  if H.rows ≤ r ∨ H.cols ≤ c then (List.replicate n (some 0), none)
  else
    let k := Nat.min n (H.cols - c)
    let p := H.span r c k
    let codes := (s.rowCodes H r c k).map some ++ List.replicate (n - k) (some 0)
    match (atomsOf p.1 p.2).findSome? (fun a => match s.atomReady false a with | .bad 0x0C v => some (v, a.1) | _ => none) with
    | none => (codes, none)
    | some (v, lo) =>
      let good := (lo - (H.base + r * H.stride)) * 8 / memWidth H.type_ - c
      (codes.zipIdx.map fun e => if e.2 < good then e.1 else none, some v)

/-- The rows of a rectangle in order, none from the first poisoned atom on. -/
def State.rowsTake (s : State) (H : Handle) (r : Rect) : List (List (Option Nat)) × Option Nat :=
  (List.range r.nr).foldl (fun (p : List (List (Option Nat)) × Option Nat) i =>
    match p.2 with
    | some a => (p.1 ++ [List.replicate r.nc none], some a)
    | none =>
      let q := s.rowTake H (r.row0 + i) r.col0 r.nc
      (p.1 ++ [q.1], q.2)) ([], none)

/-- The rows of a rectangle of two tensors side by side, as far as the first poisoned atom of either, and that atom: by rows, in a row by columns, at
one column h's first (09 R220 step 8, R234). -/
def State.pairTake (s : State) (H : Handle) (M : Option Handle) (r : Rect) :
    List (List (Option Nat) × List (Option Nat)) × Option Nat :=
  let reach := fun (l : List (Option Nat)) => l.findIdx (·.isNone)
  (List.range r.nr).foldl (fun p i =>
    match p.2 with
    | some a => (p.1 ++ [([], [])], some a)
    | none =>
      let x := s.rowTake H (r.row0 + i) r.col0 r.nc
      let y := match M with
        | some M => s.rowTake M (r.row0 + i) r.col0 r.nc
        | none => (List.replicate r.nc (some 0), none)
      (p.1 ++ [(x.1, y.1)], match x.2, y.2 with
        | some a, some b => some (if reach y.1 < reach x.1 then b else a)
        | a, b => a <|> b)) ([], none)

/-- The spans of a rectangle inside the extent. -/
def Handle.rectSpans (H : Handle) (r : Rect) : List (Nat × Nat) := H.blockSpans r.row0 r.col0 r.nr r.nc

/-- A row of a local image. -/
def State.imageRow (s : State) (off w n i : Nat) : List Nat := unpackRow w 0 n (s.localBytes (off + i * pitchOf w n) (ceilDiv (n * w) 8))

/-- An image as it is moved (09 R217): the bits of each row's elements, and 0 in every pad. -/
def Handle.cleanImage (H : Handle) (bytes : List Byte) : List Byte :=
  let w := memWidth H.type_
  let p := pitchOf w H.cols
  (List.range H.rows).flatMap fun i => leBytes p (leNat ((bytes.drop (i * p)).take p) % 2 ^ (H.cols * w))

/-! ### Rows written -/

/-- The masked bytes of codes some of which are not written. -/
def packSome (w bit : Nat) (codes : List (Option Nat)) : List (Byte × Byte) :=
  let n := ceilDiv (bit + codes.length * w) 8
  let val := joinLanes w (codes.map (·.getD 0))
  let mask := joinLanes w (codes.map fun c => if c.isSome then 2 ^ w - 1 else 0)
  (leBytes n (val * 2 ^ bit)).zip (leBytes n (mask * 2 ^ bit))

/-- A row of a local image as masked bytes, with its pad bytes written 0 when the row is whole. -/
def imageRowBytes (w : Nat) (codes : List (Option Nat)) : List (Byte × Byte) :=
  let b := packSome w 0 codes
  let pad := pitchOf w codes.length - b.length
  b ++ List.replicate pad (0, if codes.all (·.isSome) then 0xFF else 0)

/-- A local image written at an offset (09 R217). -/
def State.imageWrite (s : State) (off w : Nat) (rows : List (List (Option Nat))) : State :=
  rows.zipIdx.foldl (fun s p => s.poke true (windowBase s.core.die s.core.q + off + p.2 * pitchOf w p.1.length) (imageRowBytes w p.1)) s

/-- Masked bytes at a virtual address as stores of at most one atom each (09 R236). -/
def State.atomStores (s : State) (va : Nat) (bytes : List (Byte × Byte)) : List EffKind :=
  (atomsOf va bytes.length).filterMap fun a =>
    let part := (bytes.drop (a.1 - va)).take a.2
    if part.all (fun b => b.2 == 0) then none
    else match s.probe a.1 true with
      | .ok pa => some (.store a.1 pa part)
      | _ => none

/-- Codes stored into row r of a handle from column c on, inside its extent. -/
def State.rowStore (s : State) (H : Handle) (r c : Nat) (codes : List (Option Nat)) : List EffKind :=
  if H.rows ≤ r ∨ H.cols ≤ c then []
  else
    let k := Nat.min codes.length (H.cols - c)
    let w := memWidth H.type_
    s.atomStores (H.span r c k).1 (packSome w (c * w % 8) (codes.take k))

/-! ### Store-stage arithmetic (09 R234, R235) -/

/-- An exact sum of several values, rounded once. -/
def fpSum (t : Nat) (l : List Fp) : Nat × Flags :=
  let infs := l.filterMap fun a => match a with | .inf n => some n | _ => none
  if l.any (·.isNan) then nanOf t (l.any (·.signals))
  else if infs.any id && infs.any (!·) then (cNaN t, fNV)
  else match infs with
    | n :: _ => (infCode t n, 0)
    | [] =>
      let d := dySum (l.map fun a => match a with | .fin n m e => (signed n m, e) | _ => (0, 0))
      if d.1 = 0 then (if l.all (fun a => match a with | .fin n m _ => n && m == 0 | _ => false) then 2 ^ (laneWidth t - 1) else 0, 0)
      else rndDy t 0 d.1 d.2

/-- sgn of R234. -/
def fpSgn : Fp → Fp
  | .nan s => .nan s
  | .inf n => .fin n 1 0
  | .fin n m _ => if m = 0 then .fin false 0 0 else .fin n 1 0

/-- One element of supd: the new weight, the new momentum, the flags. -/
def supdElem (u t : Nat) (p : SupdAtom) (w g m : Nat) : Nat × Nat × Flags :=
  let eta := fpOf tF32 p.eta
  let W := fpOf t w
  let G := fpOf tF32 g
  let step := fun (x : Fp) => let q := fpMulX eta.neg x; let r := fpAdd t 0 W q.1; (r.1, q.2 ||| r.2)
  if u = 0 then let r := step G; (r.1, m, r.2)
  else if u = 1 then
    let a := fpFma tF32 0 (fpOf tF32 p.beta) (fpOf tF32 m) G
    let r := step (fpOf tF32 a.1)
    (r.1, a.1, a.2 ||| r.2)
  else if u = 2 then
    let a := fpMulX eta.neg G
    let b := fpMulX eta.neg (fpOf tF32 p.lambda)
    let c := fpMulX b.1 W
    let r := fpSum t [W, a.1, c.1]
    (r.1, m, a.2 ||| b.2 ||| c.2 ||| r.2)
  else let r := step (fpSgn G); (r.1, m, r.2)

/-- One element of tsum (09 R235). -/
def tsumElem (t : Nat) (bfl : Bool) (d x : Nat) : Nat × Flags :=
  if isFp t then fpAdd t 0 (fpOf t d) (fpOf (if t = tBf16 ∧ bfl then tBf16 else tF32) x) else ((d + x) % 2 ^ 32, 0)

/-! ### What a word moves -/

/-- What a word of a unit comes to when it moves: the pages it touches, the effects it puts into the splice buffer in move order,
its flags, the first poisoned source atom, and its local writes, made once every effect is placed. -/
structure Plan where
  mapped : Ready
  late   : Bool
  todo   : List EffKind
  flags  : Flags
  poison : Option Nat
  finish : State → State

/-- The translation of every page of some spans read and some written, and then the rights of all of them (09 R220 steps 6 and 7). -/
def State.spansMapped (s : State) (reads writes : List (Nat × Nat)) : Ready :=
  let pages := fun (l : List (Nat × Nat)) (f : Nat → Ready) => (l.flatMap fun p => pagesOf p.1 p.2).foldr (fun p r => (f p.1).and r) .ok
  let all := fun (f : Nat → Bool → Ready) => (pages reads fun a => f a false).and (pages writes fun a => f a true)
  (all s.mapped).and (all s.allowed)

/-- Some byte of the spans is a predicted one that is not built (10 R245). -/
def State.spansLate (s : State) (l : List (Nat × Nat)) : Bool :=
  s.forecasting.isSome && l.any fun p => (List.range p.2).any fun i => s.notBuilt (p.1 + i)

/-- A plan that does nothing. -/
def Plan.none_ : Plan := ⟨.ok, false, [], 0, none, id⟩

/-- Rows and columns exchanged. -/
def transposeRows (rows : List (List (Option Nat))) (n : Nat) : List (List (Option Nat)) :=
  (List.range n).map fun j => rows.map fun r => nth r j none

/-- The fills of a ring's rows in order, up to the first poisoned atom. -/
def State.fillRows (s : State) (H : Handle) (r : Ring) (rows : List Nat) : List (Nat × List (Option Nat)) × Option Nat :=
  rows.foldl (fun (p : List (Nat × List (Option Nat)) × Option Nat) row =>
    match p.2 with
    | some a => (p.1, some a)
    | none =>
      let q := s.rowTake H row r.col0 (r.nc + 1)
      (p.1 ++ [(row, q.1)], q.2)) ([], none)

/-- Filled rows written into their slots, leaving the ring's own DIRTY as it was (09 R228): a slot of another ring that they touch becomes
dirty. -/
def State.writeFills (s : State) (w n : Nat) (r : Ring) (l : List (Nat × List (Option Nat))) : State :=
  l.foldl (fun s p =>
    let own := (s.core.ring n).dirty
    let s1 := s.poke true (windowBase s.core.die s.core.q + r.slotOff p.1) (imageRowBytes w p.2)
    s1.setRing n { s1.core.ring n with dirty := own }) s

/-- The spans of rows of a ring. -/
def Handle.ringSpans (H : Handle) (r : Ring) (rows : List Nat) : List (Nat × Nat) :=
  rows.flatMap fun row => H.blockSpans row r.col0 1 (r.nc + 1)

/-- The ring after an advance. -/
def Ring.advanced (r : Ring) (close : Bool) : Ring :=
  let gone := (r.retired close).map r.slot
  { r with open_ := !close, f := if close then r.f else r.f + r.a,
           dirty := (List.range r.d).map fun k => nth r.dirty k false && !gone.contains k }

/-- The plan of tcopy's scale bytes (09 R233). -/
def State.copyScales (s : State) (H D : Handle) (r : Rect) (dr dc : Nat) : List EffKind :=
  if !isMx H.type_ then []
  else (List.range (ceilDiv r.nr 32)).flatMap fun g => (List.range (ceilDiv r.nc 32)).flatMap fun j =>
    if H.rows ≤ r.row0 + 32 * g ∨ H.cols ≤ r.col0 + 32 * j ∨ D.rows ≤ dr + 32 * g ∨ D.cols ≤ dc + 32 * j then []
    else s.atomStores (D.scaleAddr (dr + 32 * g) (dc + 32 * j))
      [(BitVec.ofNat 8 (s.scaleByte H (r.row0 + 32 * g) (r.col0 + 32 * j)), 0xFF)]

/-- Scale bytes of the blocks that a rectangle touches. -/
def Handle.rectScales (H : Handle) (r : Rect) : List (Nat × Nat) := H.scaleSpans 0 r.row0 r.col0 r.nr r.nc

/-- Sectors filled at their homes (09 R224): a page that is absent or denied is left alone. -/
def State.fillSectors (s : State) (l : List (Nat × Nat)) : State :=
  (l.flatMap fun p => pagesOf p.1 p.2).foldl (fun s p => match s.probe p.1 false with
    | .ok pa => s.fillLines [] pa p.2
    | _ => s) s

/-- The plan of a word as it moves. -/
def State.plan (s : State) (e : Xfer) : Plan :=
  let r := rectOf e.b
  let a := e.a.toNat
  match e.op with
  | .tld h t => (match s.handle? h with
    | none => .none_
    | some H =>
      let spans := H.rectSpans r
      let w := memWidth H.type_
      let p := s.rowsTake H r
      ⟨s.spansMapped spans [], s.spansLate spans, [], 0, p.2,
       fun s => s.imageWrite a w (if t then transposeRows p.1 r.nc else p.1)⟩)
  | .tst h => (match s.handle? h with
    | none => .none_
    | some H =>
      let w := memWidth H.type_
      ⟨s.spansMapped [] (H.rectSpans r), false,
       (List.range r.nr).flatMap fun i => s.rowStore H (r.row0 + i) r.col0 ((s.imageRow a w r.nc i).map some), 0, none, id⟩)
  | .tcopy h => (match s.handle? h, s.handle? (field a 0 10) with
    | some H, some D =>
      let dr := field a 48 16
      let dc := field a 32 16
      let spans := H.rectSpans r ++ H.rectScales r
      let p := s.rowsTake H r
      let dest := Rect.mk dr dc r.nr r.nc
      let scalePoison := (H.rectScales r).findSome? fun q => match s.atomReady false q with | .bad 0x0C v => some v | _ => none
      ⟨s.spansMapped spans (D.rectSpans dest ++ D.rectScales dest), s.spansLate spans,
       (p.1.zipIdx.flatMap fun q => s.rowStore D (dr + q.2) dc q.1)
         ++ (if p.2.isSome || scalePoison.isSome then [] else s.copyScales H D r dr dc), 0, p.2 <|> scalePoison, id⟩
    | _, _ => .none_)
  | .supd h u => (match s.handle? h with
    | none => .none_
    | some H =>
      let q := supdAtom u e.extra
      let M := if u = 1 then s.handle? q.mh else none
      let spans := H.rectSpans r ++ (match M with | some M => M.rectSpans r | none => [])
      let p := s.pairTake H M r
      let rows := (List.range (Nat.min r.nr (H.rows - r.row0))).map fun i =>
        let g := s.imageRow (a + 32) 32 r.nc i
        (List.range (Nat.min r.nc (H.cols - r.col0))).map fun j =>
          let q2 := nth p.1 i ([], [])
          match nth q2.1 j none, nth q2.2 j none with
          | some x, some y => some (supdElem u H.type_ q x (nth g j 0) y)
          | _, _ => none
      let flags := rows.foldl (fun (f : Flags) l => l.foldl (fun f v => match v with | some z => f ||| z.2.2 | none => f) f) 0
      ⟨s.spansMapped spans spans, s.spansLate spans,
       rows.zipIdx.flatMap fun p =>
         (match M with | some M => s.rowStore M (r.row0 + p.2) r.col0 (p.1.map fun v => v.map (·.2.1)) | none => [])
           ++ s.rowStore H (r.row0 + p.2) r.col0 (p.1.map fun v => v.map (·.1)),
       flags, p.2, id⟩)
  | .tsum h bfl com => (match s.handle? h with
    | none => .none_
    | some H =>
      let spans := H.rectSpans r
      let sw := sumWidth H.type_ bfl
      let d := if com then ([], none) else s.rowsTake H r
      let img := fun i => s.imageRow a sw r.nc i
      let inside := (List.range (Nat.min r.nr (H.rows - r.row0)))
      let cols := List.range (Nat.min r.nc (H.cols - r.col0))
      let rows := inside.map fun i => cols.map fun j => (nth (nth d.1 i []) j none).map fun x => tsumElem H.type_ bfl x (nth (img i) j 0)
      let adds := inside.flatMap fun i =>
        let p := H.span (r.row0 + i) r.col0 cols.length
        (atomsOf p.1 p.2).filterMap fun a => match s.probe a.1 true with
          | .ok pa => some (EffKind.addCom a.1 pa ((((img i).drop ((a.1 - p.1) / 4)).take (a.2 / 4)).map (BitVec.ofNat 32)))
          | _ => none
      ⟨s.spansMapped (if com then [] else spans) spans, !com && s.spansLate spans,
       if com then adds else rows.zipIdx.flatMap fun p => s.rowStore H (r.row0 + p.2) r.col0 (p.1.map fun v => v.map (·.1)),
       if com then 0 else rows.foldl (fun (f : Flags) l => l.foldl (fun f v => match v with | some z => f ||| z.2 | none => f) f) 0, d.2, id⟩)
  | .tfar h => (match s.handle? h, s.core.task with
    | some H, some t =>
      let bytes := whole (H.cleanImage (s.localBytes a H.imageBytes))
      let n := ceilDiv bytes.length 32
      let part := fun (k : Nat) => EffKind.remote (farDie e.b) (farCore e.b) (farOff e.b + 32 * k) (farNode e.b) ((bytes.drop (32 * k)).take 32)
        (if k + 1 = n then some (t.ident e.idx) else none)
      ⟨.ok, false, if s.forecasting.isSome then (List.range n).map part
        else [.remote (farDie e.b) (farCore e.b) (farOff e.b) (farNode e.b) bytes (some (t.ident e.idx))], 0, none, id⟩
    | _, _ => .none_)
  | .tfetch _ => ⟨.ok, false, [], 0, none, fun s => s.pokeBytes true (windowBase s.core.die s.core.q + a) e.extra⟩
  | .wopen h n w => (match s.handle? h with
    | none => .none_
    | some H =>
      let q := ringOf H h w e.a e.b
      let rows := (List.range q.d).map (q.f + ·)
      let spans := H.ringSpans q rows
      let p := s.fillRows H q rows
      ⟨s.spansMapped spans [], s.spansLate spans, [], 0, p.2,
       fun s => let s1 := s.writeFills (memWidth H.type_) n q p.1; if p.2.isSome then s1 else s1.setRing n q⟩)
  | .wadv n drop close =>
    let q := s.core.ring n
    (match s.handle? q.h with
    | none => .none_
    | some H =>
      let back := if q.write && !drop && !e.back then s.dirtyRows q close else []
      let fill := q.fetched close
      let stores := back.flatMap fun row =>
        s.rowStore H row q.col0 ((unpackRow (memWidth H.type_) 0 (q.nc + 1) (s.localBytes (q.slotOff row) q.pitch)).map some)
      ⟨s.spansMapped (H.ringSpans q fill) (H.ringSpans q back), s.spansLate (H.ringSpans q fill), stores, 0, (s.fillRows H q fill).2,
       fun s =>
        let p := s.fillRows H q fill
        let s1 := s.writeFills (memWidth H.type_) n q p.1
        if p.2.isSome then s1 else s1.setRing n ((s1.core.ring n).advanced close)⟩)
  | .tpref h => (match s.handle? h with
    | none => .none_
    | some H => ⟨.ok, false, [], 0, none, fun s => s.fillSectors (H.rectSpans r)⟩)

end Sys2Proof.Machine
end

