-- ==== Sys2Proof/Machine/Transfer.lean ====
section
/-!
DEFINITION. Transfer words of L and S (09), and the events of the transfer units: completion, a poisoned atom's arrival, a remote
read served, and a remote write landing (09 R218 to R221, R228, R231, R232, R236; 17 R300; 21 R352).
-/
namespace Sys2Proof.Machine

/-! ### Words -/

/-- The unit of a step strand. -/
def Core.unit (c : Core) : XUnit → XUnitSt
  | .inb => c.inb
  | .outb => c.outb

/-- A unit changed. -/
def State.updUnit (s : State) (u : XUnit) (f : XUnitSt → XUnitSt) : State :=
  match u with
  | .inb => s.updCore fun c => { c with inb := f c.inb }
  | .outb => s.updCore fun c => { c with outb := f c.outb }

/-- The strand that drives a unit. -/
def unitStrand : XUnit → StepStrand
  | .inb => .l
  | .outb => .s

/-- Depth of a unit's queue (09 R218). -/
abbrev unitDepth : Nat := 16

/-- A unit whose head is held for a forecasting task's full buffer (09 R236). -/
def XUnitSt.held (x : XUnitSt) : Bool :=
  match x.queue with
  | [] => false
  | e :: _ => e.st == .moving

/-- One transfer word (09 R215, R218 to R220): room in the unit, the checks at issue, its entry.  A tpref that finds its unit empty completes at
issue (R219, R224). -/
def xferWord (u : XUnit) (h : Hitch) (i : Instr) (op : XOp) (a b : BitVec 4) (s : State) : Host.Outcome State Fault Refusal :=
  let t := unitStrand u
  .next (stepWord t h i true [] [] (fun s =>
    let x := s.core.unit u
    let p := s.core.strand t
    let ga := p.readG a
    let gb := p.readG b
    if unitDepth ≤ x.queue.length then (if x.held then .wait .verdict else .freeze (.fullQueue u))
    else match firstFault (s.issueChecks op ga gb (wordTval i)) with
      | some f => .fault f.1 f.2
      | none =>
      match op, x.queue with
      | .tpref h, [] => .ok (match s.handle? h with | some H => s.fillSectors (H.rectSpans (rectOf gb)) | none => s) (doneNow t s) .on
      | _, _ =>
        let f := s.fresh
        let due := match s.fixedDelay op ga gb with
          | some n => (x.clock + n, s)
          | none => (x.clock + 1 + Config.transferDelay f.1, f.2)
        let extra := match op with | .supd _ _ => s.localBytes ga.toNat 32 | _ => []
        let idx := match op, s.core.task with | .tfar _, some k => k.nTfar | _, _ => 0
        let s1 := match op with | .tfar _ => due.2.updTask fun k => { k with nTfar := k.nTfar + 1 } | _ => due.2
        .ok (s1.updUnit u fun x => { x with queue := x.queue ++
          [⟨op, ga, gb, extra, 0, .queued, p.seq + 1, p.count, due.1, idx, p.pc, (wordTval i).setWidth 32, none, 0, none, p.after,
            (s.myKernel.map (·.phase)).getD 0, s.beforeFcast, false⟩] }) .waiting .on) s)

def execTld (h : Hitch) (hd : BitVec 10) (a b : BitVec 4) (s : State) : Host.Outcome State Fault Refusal :=
  xferWord .inb h (.tld h hd a b) (.tld hd.toNat false) a b s
def execTldT (h : Hitch) (hd : BitVec 10) (a b : BitVec 4) (s : State) : Host.Outcome State Fault Refusal :=
  xferWord .inb h (.tldT h hd a b) (.tld hd.toNat true) a b s
def execTst (h : Hitch) (hd : BitVec 10) (a b : BitVec 4) (s : State) : Host.Outcome State Fault Refusal :=
  xferWord .outb h (.tst h hd a b) (.tst hd.toNat) a b s
def execWopen (h : Hitch) (hd : BitVec 10) (a b : BitVec 4) (r : BitVec 2) (s : State) : Host.Outcome State Fault Refusal :=
  xferWord .inb h (.wopen h hd a b r) (.wopen hd.toNat r.toNat false) a b s
def execWopenW (h : Hitch) (hd : BitVec 10) (a b : BitVec 4) (r : BitVec 2) (s : State) : Host.Outcome State Fault Refusal :=
  xferWord .inb h (.wopenW h hd a b r) (.wopen hd.toNat r.toNat true) a b s
def execTfar (h : Hitch) (hd : BitVec 10) (a b : BitVec 4) (s : State) : Host.Outcome State Fault Refusal :=
  xferWord .outb h (.tfar h hd a b) (.tfar hd.toNat) a b s
def execTfetch (h : Hitch) (hd : BitVec 10) (a b : BitVec 4) (s : State) : Host.Outcome State Fault Refusal :=
  xferWord .inb h (.tfetch h hd a b) (.tfetch hd.toNat) a b s
def execWadv (h : Hitch) (a : BitVec 4) (r : BitVec 2) (s : State) : Host.Outcome State Fault Refusal :=
  xferWord .inb h (.wadv h a r) (.wadv r.toNat false ((s.core.l.readG a).getLsbD 0)) a 0 s
def execWdrop (h : Hitch) (a : BitVec 4) (r : BitVec 2) (s : State) : Host.Outcome State Fault Refusal :=
  xferWord .inb h (.wdrop h a r) (.wadv r.toNat true ((s.core.l.readG a).getLsbD 0)) a 0 s
def execSupd (h : Hitch) (hd : BitVec 10) (a b u : BitVec 4) (s : State) : Host.Outcome State Fault Refusal :=
  xferWord .outb h (.supd h hd a b u) (.supd hd.toNat u.toNat) a b s
def execTsum (h : Hitch) (hd : BitVec 10) (a b : BitVec 4) (bfl com : BitVec 1) (s : State) : Host.Outcome State Fault Refusal :=
  xferWord .outb h (.tsum h hd a b bfl com) (.tsum hd.toNat (bfl == 1) (com == 1)) a b s
def execTcopy (h : Hitch) (hd : BitVec 10) (a b : BitVec 4) (s : State) : Host.Outcome State Fault Refusal :=
  xferWord .outb h (.tcopy h hd a b) (.tcopy hd.toNat) a b s
def execTpref (h : Hitch) (hd : BitVec 10) (b : BitVec 4) (s : State) : Host.Outcome State Fault Refusal :=
  xferWord .inb h (.tpref h hd b) (.tpref hd.toNat) 0 b s

/-! ### Completion -/

/-- The tick at which a unit's clock reaches a value. -/
def State.unitTick (s : State) (u : XUnit) (clock : Nat) : Nat :=
  s.core.tickAfter 3 (s.core.strand (unitStrand u)).next (clock - (s.core.unit u).clock)

/-- An effect of a unit performed as its word moves: a tfar's last byte lands at the cycle of R219 at the latest (17 R300). -/
def State.performNow (s : State) (rank : Nat) (k : EffKind) : State :=
  match k with
  | .remote vd vc off node bs id =>
    s.sendRemote node vd vc off bs id (s.issuePhase rank) (s.core.outb.queue.head?.map fun e => s.unitTick .outb e.due)
  | k => s.perform k (s.issuePhase rank)

/-- Effects placed one after the other (09 R236): what is left when one has to wait for the verdict.  Own resources and other
windows take them at once unless the task is forecasting (02 R43). -/
def State.placeAll (s : State) (rank : Nat) : List EffKind → State × List EffKind
  | [] => (s, [])
  | k :: l =>
    let direct := match k with
      | .store _ pa _ => s.isLocal pa || ((windowOf pa).isSome && s.forecasting.isNone)
      | .addCom _ pa _ => s.isLocal pa || ((windowOf pa).isSome && s.forecasting.isNone)
      | .remote _ _ _ _ _ _ => s.forecasting.isNone
      | _ => false
    if direct then (s.performNow rank k).placeAll rank l
    else match s.put rank k with
      | .done s1 => s1.placeAll rank l
      | .stall => (s, k :: l)

/-- The head entry of a unit changed. -/
def State.updXHead (s : State) (u : XUnit) (f : Xfer → Xfer) : State :=
  s.updUnit u fun x => { x with queue := match x.queue with | [] => [] | e :: l => f e :: l }

/-- The unit's source number in TSTAT (20 R333). -/
def unitSrc : XUnit → BitVec 4
  | .inb => 5
  | .outb => 6

/-- A fault of the head entry (09 R220): it stays in its unit, and C takes the trap. -/
def State.xferFault (s : State) (u : XUnit) (cause : BitVec 8) (tval : Nat) : State :=
  let pc := match (s.core.unit u).queue with | e :: _ => e.pc.toNat | [] => 0
  (s.updXHead u fun e => { e with st := .faulted, todo := none, bad := none }).raiseAt cause (unitSrc u) (w64 tval) pc

/-- The core is frozen on a full unit. -/
def Core.fullFrozen (c : Core) : Bool := match c.freeze with | some (.fullQueue _) => true | _ => false

/-- The head entry completed: it leaves, its word is done, its flags go to FFLAGSS (09 R218; 02 R37).  One that completes in a full-queue
freeze counts as done before the cycle that resumes, so that its token is seen in that cycle. -/
def State.xferDone (s : State) (u : XUnit) (e : Xfer) (flags : Flags) : State :=
  let t := unitStrand u
  let s1 := (s.updUnit u fun x => { x with queue := x.queue.tail }).updStep t fun p =>
    { p with flights := p.flights.map fun f => if f.seq = e.seq then { f with done := .done (if s.core.fullFrozen then p.count - 1 else p.count) } else f }
  if flags = 0 then s1 else s1.orFlags .s flags

/-- What a dropped word leaves (20 R340): a ring word keeps the ring's course, and no byte moves. -/
def State.dropped (s : State) (e : Xfer) : State :=
  match e.op with
  | .wopen h n w => (match s.handle? h with | none => s | some H => s.setRing n (ringOf H h w e.a e.b))
  | .wadv n _ close => s.setRing n ((s.core.ring n).advanced close)
  | _ => s

/-- A remote read of the head entry is still to be served (09 R231). -/
def Xfer.unserved (e : Xfer) : Bool :=
  match e.op with
  | .tfetch _ => e.extra.isEmpty
  | _ => false

/-- The source spans of a word. -/
def State.sources (s : State) (e : Xfer) : List (Nat × Nat) :=
  let r := rectOf e.b
  let of_ := fun (h : Nat) => match s.handle? h with | some H => H.rectSpans r ++ H.rectScales r | none => []
  match e.op with
  | .tld h _ => of_ h
  | .tcopy h => of_ h
  | .supd h u => of_ h ++ (if u = 1 then of_ (supdAtom u e.extra).mh else [])
  | .tsum h _ com => if com then [] else of_ h
  | .wopen h _ w => (match s.handle? h with
    | some H => let q := ringOf H h w e.a e.b; H.ringSpans q ((List.range q.d).map (q.f + ·))
    | none => [])
  | .wadv n _ close => (match s.handle? (s.core.ring n).h with
    | some H => H.ringSpans (s.core.ring n) ((s.core.ring n).fetched close)
    | none => [])
  | _ => []

/-- The task's view as an entry has it: one issued before the task's fcast reads memory where a later one reads the prediction (10 R245). -/
def State.viewOf (s : State) (e : Xfer) : State := if e.plain then s.updTask fun t => { t with plain := true } else s

/-- What an entry comes to as it moves, in its own view. -/
def State.planOf (s : State) (e : Xfer) : Plan := (s.viewOf e).plan e

/-- The strand's post that an earlier word still holds keeps a later word with a post to the same queue from starting (02 R37). -/
def State.postHeld (s : State) (u : XUnit) (e : Xfer) : Bool :=
  let t := unitStrand u
  ((s.core.strand t).flights.any fun f => f.seq == e.seq && f.posts.any fun p => s.core.heldPost t s.now p)

/-- Copy cycles for which a tfar to this module stays in its unit, from issue: its bytes leave the unit when the physical route is all that is
left of its time (17 R300). -/
def State.leavesAt (s : State) (e : Xfer) : Nat :=
  match e.op, s.core.task with
  | .tfar _, some t => if farNode e.b = 0 ∧ s.forecasting.isNone ∧ e.todo.isNone then e.due - s.routeTo t.kid (farDie e.b) (farCore e.b) else e.due
  | _, _ => e.due

/-- Bytes of a tfar to a peer are on the link, waiting for a route, or waiting for their acknowledgement (21 R350, R352). -/
def State.onLink (s : State) (e : Xfer) : Bool :=
  match s.core.task with
  | none => false
  | some t =>
    let mine := fun (w : PortWrite) => w.node.toNat == farNode e.b && w.sImage.toNat == (s.myKernel.map (·.image)).getD 0 && w.sVdie.toNat == t.vdie && w.sVcore.toNat == t.vcore
      && w.sOrd.toNat == t.ord % 2 ^ 32 && w.sIdx == e.idx
    s.links.lost.any (fun w => mine w.2) || s.links.ports.any fun p =>
      (p.unacked.any fun f => match f.2 with | some w => mine w | none => false) || p.queue.any mine

/-- An entry has moved its bytes out and only waits for its completion: a tfar on its way. -/
def Xfer.departed (e : Xfer) : Bool :=
  match e.op with
  | .tfar _ => e.todo == some []
  | _ => false

/-- The head entry's effects are placed; what is left then: for a wadv that writes back, the fetch, later (09 R219, R227); for a tfar that was
sent, its completion (17 R300), on a peer a free number of cycles later, since no peer tells when a write that it may hold has landed (21 R352; log
57); else its local writes and its end, or a poisoned atom's trap (09 R220). -/
def State.xferRest (s : State) (u : XUnit) (e : Xfer) (p : Plan) (wrote : Bool) (flags : Flags) : State :=
  match e.op with
  | .tfar _ =>
    if s.forecasting.isSome ∨ wrote = false then s.xferDone u e flags
    else if farNode e.b = 0 then s.updXHead u fun e => { e with todo := some [], st := .queued }
    else
      let f := s.fresh
      f.2.updXHead u fun e => { e with todo := some [], st := .queued, due := (s.core.unit u).clock + 1 + Config.transferDelay f.1 }
  | .wadv n _ close =>
    let q := s.core.ring n
    if q.write && !e.back && !(q.fetched close).isEmpty then
      let f := s.fresh
      let gone := (q.retired close).map q.slot
      (f.2.setRing n { q with dirty := (List.range q.d).map fun k => nth q.dirty k false && !gone.contains k }).updXHead u fun e =>
        { e with todo := none, st := .queued, back := true, due := (s.core.unit u).clock + 1 + Config.transferDelay f.1 }
    else finish
  | _ => finish
where
  /-- The local writes, the reads at their homes, and the end. -/
  finish : State :=
    let s1 := (p.finish s).readHomes (s.sources e)
    match p.poison with
    | some a => s1.xferFault u 0x0C a
    | none => s1.xferDone u e flags

/-- The head entry moves its bytes: effects first, then local writes; a poisoned atom or an effect without room leaves it in the
unit (09 R220, R236). -/
def State.xferMove (s : State) (u : XUnit) (e : Xfer) (p : Plan) (todo : List EffKind) (flags : Flags) : State :=
  let rank := match u with | .inb => 1 | .outb => 3
  let r := s.placeAll rank todo
  if r.2.isEmpty then r.1.xferRest u e p true flags
  else r.1.updXHead u fun e => { e with st := .moving, todo := some r.2, flags := flags, bad := p.poison }

/-- A tfar whose peer is not reachable: it stays incomplete in its unit, and bit 2 of the fault word is set (21 R352). -/
def State.cutOff (s : State) (e : Xfer) : Bool :=
  match e.op with
  | .tfar _ => farNode e.b != 0 && s.forecasting.isNone &&
      (match s.myKernel.bind fun k => s.nodeBinding k.image (farNode e.b) with
       | some b => !s.reachable b.1
       | none => true)
  | _ => false

/-- A bit of the telemetry fault word raised; a message goes to the host when it was clear (21 R348). -/
def State.raiseFault (s : State) (bit : Nat) : State :=
  { s with host := { s.host with fault := s.host.fault ||| BitVec.ofNat 3 (2 ^ bit),
                                 msix := s.host.msix + (if s.host.fault.getLsbD bit then 0 else 1) } }

/-- A word in a unit meets a page that no translation is held for (17 R297).  The walk freezes the core; in a core that a full queue freezes
already, a walk that finds its page ends at once (log 4) and leaves that freeze as it is (09 R218). -/
def State.unitWalk (s : State) (va : Nat) (write : Bool) : State :=
  match s.core.fullFrozen, s.walk s.core.csr.ctxid va with
  | true, .leaf h => if s.walkWaits va || s.waitsHome (h.pa + (va - h.va)) then s.freezeCore (.walk va write) else s.keepPage va h
  | _, _ => s.freezeCore (.walk va write)

/-- The head entry of a unit reaches its completion, or the end of a part of it (09 R218, R219, R220). -/
def State.xferComplete (s : State) (u : XUnit) (e : Xfer) : State :=
  let p := s.planOf e
  match e.st with
  | .faulted => s
  | .dropped => (s.dropped e).xferDone u e 0
  | .queued =>
    if e.departed then s.xferDone u e 0
    else
    (match p.mapped with
     | .bad c v => s.xferFault u c v
     | .walk va w => s.unitWalk va w
     | .late => s
     | .ok => if p.late || e.unserved then s else if s.cutOff e then s.raiseFault 2 else s.xferMove u e p p.todo p.flags)
  | .moving =>
    let ring := match e.op with | .wadv _ _ _ => true | _ => false
    s.xferMove u e { p with finish := if ring then p.finish else id, poison := if ring then p.poison else e.bad } (e.todo.getD []) e.flags

/-- Nothing but its time keeps the head of a unit: it is served, in hitch order, no earlier post holds its own, and a tfar that was sent has
landed (02 R37; 09 R231, R236; 11 R267; 21 R352). -/
def State.headReady (s : State) (u : XUnit) (e : Xfer) : Bool :=
  match e.st with
  | .faulted => false
  | .dropped => true
  | .moving => s.forecasting.isNone
  | .queued =>
    if e.departed then !s.onLink e
    else if e.unserved || s.postHeld u e || !s.xferOrdered e then false
    else
      let p := s.planOf e
      !(p.late || p.mapped == .late || (s.cutOff e && s.host.fault.getLsbD 2))

/-- The tick at which the head of a unit has its next moment, where nothing but its time keeps it. -/
def State.headTick (s : State) (u : XUnit) : Option Nat :=
  match (s.core.unit u).queue with
  | [] => none
  | e :: _ => if s.headReady u e then some (Nat.max s.now (s.unitTick u (s.leavesAt e))) else none

/-- A full-queue freeze ends with the cycle in which a slot of that unit freed, or its head was held for the splice buffer (09 R236), once every
head due in it has had its moment; both units ran on through it (09 R218; 17 R297; log 23). -/
def State.endFull (s : State) : State :=
  match s.core.freeze with
  | some (.fullQueue u) =>
    let now := fun (u : XUnit) => s.headTick u == some s.now
    if (unitDepth ≤ (s.core.unit u).queue.length ∧ !(s.core.unit u).held) ∨ now .inb ∨ now .outb then s
    else
      let tick := s.core.tickAfter 3 s.now 1
      let k := s.core.wholeCycles 3 s.core.stop (tick - s.core.stop)
      (s.updCore fun c =>
        { c with inb := { c.inb with clock := c.inb.clock + k }, outb := { c.outb with clock := c.outb.clock + k } }).unfreezeAt tick
  | _ => s

/-- A transfer word completes (09 R218). -/
def execTransferComplete (u : XUnit) (s : State) : Host.Outcome State Fault Refusal :=
  match (s.core.unit u).queue with
  | [] => .next s
  | e :: _ => .next ((({ s with now := Nat.max s.now (s.unitTick u (s.leavesAt e)) }).xferComplete u e).endFull)

/-- A poisoned source atom of the word that moves arrives (09 R220 step 8): earlier atoms are written, the trap is raised. -/
def execTransferAtomArrival (u : XUnit) (pa : BitVec 52) (s : State) : Host.Outcome State Fault Refusal :=
  match (s.core.unit u).queue with
  | [] => .next s
  | e :: _ =>
    let hit := (s.sources e).any fun p => (atomsOf p.1 p.2).any fun a => match s.probe a.1 false with
      | .ok q => q / 32 == pa.toNat / 32
      | _ => false
    if hit && s.poison.contains (pa.toNat / 32) then .next (s.xferComplete u e).endFull else .next s

/-- A remote read is served at its target (09 R231; 21 R352): the bytes of the target's image as they stand, or what a peer
module's core holds, which this module does not know. -/
def execRemoteReadRequest (s : State) : Host.Outcome State Fault Refusal :=
  match s.core.inb.queue with
  | [] => .next s
  | e :: _ =>
    if !e.unserved then .next s
    else match e.op with
      | .tfetch h =>
        (match s.handle? h, s.myKernel with
         | some H, some k =>
           if farNode e.b = 0 then
             match k.vc? (farDie e.b) (farCore e.b) with
             | none => .next s
             | some v => .next (s.updXHead .inb fun x =>
                 { x with extra := H.cleanImage (Memory.readBytes s.mem (windowBase v.die v.q + farOff e.b) H.imageBytes) })
           else
             let f := s.fresh
             .next (f.2.updXHead .inb fun x => { x with extra := H.cleanImage ((List.range H.imageBytes).map (Config.peerByte f.1)) })
         | _, _ => .next s)
      | _ => .next s

/-! ### Landing -/

/-- The remote write that is the first to land, the one sent first among those of one tick, and the others. -/
def Links.first (l : Links) : Option (Flying × List Flying) :=
  (l.flying.foldl (fun (a : Option Flying) f => match a with
    | none => some f
    | some b => if f.lands < b.lands then some f else some b) none).map fun f => (f, l.flying.erase f)

/-- A remote write's bytes at its target, with the arrival it counts (09 R232; 11 R263); a task's write into its own core is its own (02 R27). -/
def State.land (s : State) (f : Flying) : State :=
  match s.kernel? f.kid with
  | none => s
  | some k =>
    match k.vc? f.vdie f.vcore with
    | none => s
    | some v =>
      let own := f.sender == (v.die, v.q) && ((s.coreAt v.die v.q).task.map fun t => t.kid == f.kid && t.vdie == f.vdie && t.vcore == f.vcore).getD false
      let put := fun (s : State) => s.poke own (windowBase v.die v.q + f.off) f.bytes
      let s1 := if own then s.onCore v.die v.q put else put s
      match f.ident with
      | none => s1
      | some id => s1.updCleat f.kid f.vdie f.vcore fun v => v.land id

/-- A remote write lands (09 R228, R232; 17 R300). -/
def execTfarLanding (s : State) : Host.Outcome State Fault Refusal :=
  match s.links.first with
  | none => .next s
  | some (f, rest) =>
    .next (({ s with now := Nat.max s.now f.lands, links := { s.links with flying := rest } }).land f)

end Sys2Proof.Machine
end

