-- ==== Sys2Proof/Machine/Predict.lean ====
section
/-!
DEFINITION. Predictors and the comparator (10 R241, R249): stored tiles as values, the predicted tile, and the comparison of a
published version with a prediction.
-/
namespace Sys2Proof.Machine

/-! ### Stored tiles -/

/-- A byte of stored bytes, or none past them or where the home could not read it (10 R239). -/
abbrev Stored := List (Option Byte)

/-- The code of element (r, c) among a handle's stored bytes; none if a byte of it was unreadable. -/
def Handle.storedCode (H : Handle) (b : Stored) (r c : Nat) : Option Nat :=
  let w := memWidth H.type_
  let at_ := r * H.rowBytes + c * w / 8
  let bytes := (List.range (ceilDiv (c * w % 8 + w) 8)).map fun i => nth b (at_ + i) none
  if bytes.all (·.isSome) then some (field (leNat (bytes.map (·.getD 0))) (c * w % 8) w) else none

/-- The scale byte of element (r, c) among a handle's stored bytes. -/
def Handle.storedScale (H : Handle) (b : Stored) (r c : Nat) : Option Nat :=
  (nth b (H.rows * H.rowBytes + r / 32 * ceilDiv H.cols 32 + c / 32) none).map (·.toNat)

/-- The exact value of a stored element (04 R67; 10 R249); a NaN where it was unreadable. -/
def Handle.storedValue (H : Handle) (b : Stored) (r c : Nat) : Fp :=
  match H.storedCode b r c with
  | none => .nan false
  | some v =>
    if isMx H.type_ then (match H.storedScale b r c with | none => .nan false | some s => mxVal H.type_ v s)
    else if isInt H.type_ then .fin (decide (intVal H.type_ v < 0)) (intVal H.type_ v).natAbs 0
    else fpOf H.type_ v

/-- Rows of codes and scale bytes as a handle's stored bytes (10 R238). -/
def Handle.store (H : Handle) (rows : List (List Nat)) (scales : List Nat) : List Byte :=
  (rows.flatMap fun r => leBytes H.rowBytes (joinLanes (memWidth H.type_) r)) ++ scales.map (BitVec.ofNat 8)

/-! ### Prediction (10 R241) -/

/-- The exact difference of two values, by IEEE 754 for infinities. -/
def fpSubX (a b : Fp) : Fp :=
  match a, b with
  | .nan s, y => .nan (s || y.signals)
  | x, .nan s => .nan (s || x.signals)
  | .inf n, .inf k => if n = k then .nan false else .inf n
  | .inf n, .fin _ _ _ => .inf n
  | .fin _ _ _, .inf n => .inf (!n)
  | .fin n m e, .fin k m' e' =>
    let d := dyAdd (signed n m, e) (signed (!k) m', e')
    .fin (decide (d.1 < 0)) d.1.natAbs d.2

/-- y of R241 as summands: linear 2 * x_n - x_m, damped x_n + delta * (x_n - x_m). -/
def predictTerms (kind delta : Nat) (xn xm : Fp) : List Fp :=
  if kind = 1 then [(fpMulX (.fin false 2 0) xn).1, xm.neg] else [xn, (fpMulX (fpOf tF32 delta) (fpSubX xn xm)).1]

/-- The exact sum of finite terms. -/
def termSum (l : List Fp) : Int × Int := dySum (l.map fun a => match a with | .fin n m e => (signed n m, e) | _ => (0, 0))

/-- One predicted element of a type that is not block-scaled. -/
def predictElem (t kind delta : Nat) (xn xm : Fp) : Nat :=
  let l := predictTerms kind delta xn xm
  if isFp t then (fpSum t l).1
  else
    let y := termSum l
    ofI (laneWidth t) (clampInt t (roundInt 0 (decide (y.1 < 0)) y.1.natAbs y.2).1)

/-- One predicted block of an mx type: its codes by row and its scale byte. -/
def predictBlock (H : Handle) (kind delta : Nat) (n m : Stored) (br bc : Nat) : List (List Nat) × Nat :=
  let rows := (List.range (Nat.min 32 (H.rows - 32 * br))).map (32 * br + ·)
  let cols := (List.range (Nat.min 32 (H.cols - 32 * bc))).map (32 * bc + ·)
  if H.storedScale n (32 * br) (32 * bc) = some 255 ∨ H.storedScale m (32 * br) (32 * bc) = some 255 then
    (rows.map fun _ => cols.map fun _ => 0, 255)
  else
    let y := rows.map fun r => cols.map fun c => termSum (predictTerms kind delta (H.storedValue n r c) (H.storedValue m r c))
    let low := y.foldl (fun (a : Int) l => l.foldl (fun a v => if v.1 ≠ 0 ∧ v.2 < a then v.2 else a) a) 0
    let ints := y.map fun l => l.map fun v => if v.1 = 0 then (0 : Int) else v.1 * (2 ^ (v.2 - low).toNat : Nat)
    let s := blockScale (ints.map fun l => (l, low))
    (ints.map fun l => l.map fun i => ofI (mxWidth H.type_) (quant H.type_ i low s).1, s)

/-- The predicted tile as stored bytes (10 R241). -/
def predictTile (H : Handle) (kind delta : Nat) (newer older : Option (List Byte)) : List Byte :=
  match newer, older with
  | none, _ => List.replicate H.storedBytes 0
  | some n, none => n
  | some n, some m =>
    if kind = 0 then n
    else
      let a : Stored := n.map some
      let b : Stored := m.map some
      if isMx H.type_ then
        let blocks := (List.range (ceilDiv H.rows 32)).map fun br => (List.range (ceilDiv H.cols 32)).map fun bc => predictBlock H kind delta a b br bc
        H.store ((List.range H.rows).map fun r => (nth blocks (r / 32) []).flatMap fun k => nth k.1 (r % 32) [])
          (blocks.flatMap fun l => l.map (·.2))
      else
        H.store ((List.range H.rows).map fun r => (List.range H.cols).map fun c =>
          predictElem H.type_ kind delta (H.storedValue a r c) (H.storedValue b r c)) []

/-! ### Comparison (10 R249) -/

/-- rnd(|x - y|, f32) as a code; the canonical NaN where x, y or x - y is one. -/
def errorOf (x y : Fp) : Nat :=
  match fpSubX x y with
  | .nan _ => cNaN tF32
  | .inf _ => infCode tF32 false
  | .fin _ m e => if m = 0 then 0 else (rndFin tF32 0 false m e false).1

/-- t of R249: rnd(FTOLA + rnd(FTOLR * |x|)). -/
def toleranceOf (ftola ftolr : Nat) (x : Fp) : Nat :=
  let ax := match x with | .fin _ m e => Fp.fin false m e | .inf _ => .inf false | v => v
  let p := fpMul tF32 0 (fpOf tF32 (ftolr % 2 ^ 31)) ax
  (fpAdd tF32 0 (fpOf tF32 (ftola % 2 ^ 31)) (fpOf tF32 p.1)).1

/-- The value is finite. -/
def Fp.finite : Fp → Bool
  | .fin _ _ _ => true
  | _ => false

/-- Pass, the largest error and the first element that holds it. -/
structure Compared where
  pass   : Bool
  maxerr : Nat
  idx    : Nat

/-- The comparison of a published version with a predicted tile, in row-major order (10 R249). -/
def compareTiles (H : Handle) (ftola ftolr : Nat) (real : Stored) (pred : List Byte) : Compared :=
  let p : Stored := pred.map some
  (List.range (H.rows * H.cols)).foldl (fun (a : Compared) e =>
    let x := H.storedValue real (e / H.cols) (e % H.cols)
    let y := H.storedValue p (e / H.cols) (e % H.cols)
    let d := errorOf x y
    let ok := x.finite && y.finite && !(fpOf tF32 d).isNan && decide (d ≤ toleranceOf ftola ftolr x)
    let nan := (fpOf tF32 a.maxerr).isNan
    let worse := !nan && ((fpOf tF32 d).isNan || decide (a.maxerr < d))
    ⟨a.pass && ok, if worse then d else a.maxerr, if worse then e else a.idx⟩) ⟨true, 0, 0⟩

end Sys2Proof.Machine
end

