-- ==== Sys2Proof/Machine/Forecast.lean ====
section
/-!
DEFINITION. Forecast execution (10): fcast and fverd, the building of a prediction, the publication of a version, the verdict, its
cascades, and orphans.
-/
namespace Sys2Proof.Machine

/-! ### Finding tasks -/

/-- The core that runs the task of a virtual core of a kernel, if one does. -/
def State.taskPlace (s : State) (kid vdie vcore : Nat) : Option (Nat × Nat) :=
  ((s.core :: s.others).find? fun c => match c.task with
    | some t => t.kid == kid && t.vdie == vdie && t.vcore == vcore
    | none => false).map fun c => (c.die, c.q)

/-- The running task of a virtual core of a kernel. -/
def State.taskOf (s : State) (kid vdie vcore : Nat) : Option Task :=
  match s.taskPlace kid vdie vcore with
  | none => none
  | some p => (s.coreAt p.1 p.2).task

/-- A virtual core of a kernel as it stands. -/
def State.vcNow (s : State) (kid : Nat) (v : VCore) : VCore := ((s.kernel? kid).bind fun k => k.vc? v.vdie v.vcore).getD v

/-- The declaration kept for a restarted run, while its verdict is pending (10 R252). -/
def VCore.keptForecast (v : VCore) : Option Forecast := v.forecast.bind fun f => if f.verdict = .pending then some f else none

/-- The pending forecast of a virtual core: its running task's, or the one kept while it is not on a core, and until the restarted run reaches
its fcast (10 R252); in a context image too. -/
def State.pendingOf (s : State) (kid : Nat) (v0 : VCore) : Option Forecast :=
  let v := s.vcNow kid v0
  match (s.taskOf kid v.vdie v.vcore).orElse fun _ => (v.image.bind (·.core)).bind (·.task) with
  | some t => t.forecast.orElse fun _ => if t.declared.isNone then v.keptForecast else none
  | none => v.keptForecast

/-- A core's task with its forecast changed. -/
def Core.updForecast (c : Core) (f : Forecast → Forecast) : Core := { c with task := c.task.map fun t => { t with forecast := t.forecast.map f } }

/-- A virtual core's pending forecast changed, wherever it is held. -/
def State.updPending (s : State) (kid : Nat) (v : VCore) (f : Forecast → Forecast) : State :=
  let s1 := match s.taskPlace kid v.vdie v.vcore with
    | some p => s.updCoreAt p.1 p.2 fun c => c.updForecast f
    | none => s
  s1.updKernel kid fun k => k.updVc v.vdie v.vcore fun v =>
    { v with forecast := v.forecast.map f, image := v.image.map fun m => { m with core := m.core.map fun c => c.updForecast f } }

/-! ### The comparator (10 R249, R302) -/

/-- V copy-domain cycles from publication to verdict (17 R302). -/
def verdictCycles (bytes : Nat) : Nat := ceilDiv bytes 256 + 144

/-- The handle entry of a kernel. -/
def Kernel.handle? (k : Kernel) (h : Nat) : Option Handle := k.handles[h]?

/-- The history slot of a kernel. -/
def Kernel.slot (k : Kernel) (n : Nat) : Slot := nth k.slots n Slot.empty

/-- The prediction of a forecast, built or not: it depends on the history at the start of the superstep alone (10 R240). -/
def Kernel.predicted (k : Kernel) (f : Forecast) : List Byte :=
  match f.built with
  | some b => b
  | none =>
    match k.handle? f.h with
    | none => []
    | some H => predictTile H f.kind f.delta (k.slot f.slot).atStart.2.1 (k.slot f.slot).atStart.2.2

/-- The verdict on a forecast by the version published in this superstep, with the tick at which it arrives. -/
def State.judge (s : State) (k : Kernel) (f : Forecast) : Forecast :=
  match f.judged, (k.slot f.slot).published, k.handle? f.h with
  | none, some real, some H =>
    let c := compareTiles H f.ftola f.ftolr real (k.predicted f)
    { f with judged := some (if c.pass then .passed c.maxerr c.idx else .failed 0 c.maxerr c.idx,
                             k.copySpan s.now (verdictCycles H.storedBytes)) }
  | _, _, _ => f

/-! ### fcast and fverd -/

/-- A tolerance is finite and not negative, −0 counting as +0 (10 R243). -/
def tolOk (v : Nat) : Bool := decide (v < 0x7F800000) || v == 0x80000000

/-- DELTA of R242: +0 to 1.0, or −0. -/
def deltaOk (v : Nat) : Bool := decide (v ≤ 0x3F800000) || v == 0x80000000

/-- Every word in the transfer units and the command queue, and every vector load under way, was issued before the fcast, and reads memory (10 R245). -/
def State.issuedBefore (s : State) : State :=
  s.updCore fun c =>
    let mark := fun (u : XUnitSt) => { u with queue := u.queue.map fun e => { e with plain := true } }
    { c with inb := mark c.inb, outb := mark c.outb, m := { c.m with queue := c.m.queue.map fun e => { e with plain := true } },
             v := { c.v with gloads := c.v.gloads.map fun g => { g with plain := true } } }

/-- fcast (10 R243, R244, R251, R252). -/
def execFcast (a : BitVec 5) (h : BitVec 10) (kind : BitVec 2) (group : BitVec 3) (s : State) : Host.Outcome State Fault Refusal :=
  let i := Instr.fcast a h kind group
  cWord i [a] (cIf s.core.taskContext i fun s =>
    let v := s.core.c.read a
    let hv := w64 h.toNat
    let delta := s.core.csr.fdamp
    match s.core.task, s.myKernel, s.myVc with
    | some t, some k, some vc =>
      (match (k.handle? h.toNat).bind (·.fslot) with
       | none => s.cTrap 0x07 hv
       | some slot =>
         if !tolOk (field v.toNat 32 32) || !tolOk (field v.toNat 0 32) then s.cTrap 0x07 v
         else if kind = 2 ∧ !deltaOk delta.toNat then s.cTrap 0x07 (delta.zeroExtend 64)
         else if t.declared.isSome then s.cTrap 0x13 hv
         else if t.pinned then s.overflow
         else
           let s1 := s.updTask fun t => { t with declared := some h.toNat }
           if vc.rerun.isSome then s1.cDone
           else
             let old : Option Forecast := vc.forecast.bind fun f => if f.slot = slot then some f else none
             match old.map Forecast.verdict with
             | some (.passed _ _) => s1.cDone
             | _ =>
               let f : Forecast :=
                 { slot := slot, h := h.toNat, kind := kind.toNat, group := group.toNat, ftola := field v.toNat 0 32,
                   ftolr := field v.toNat 32 32, delta := if delta = 0x80000000 then 0 else delta.toNat, built := none,
                   judged := old.bind (·.judged), verdict := .pending, since := s.cycleEnd .c }
               (s1.issuedBefore.updTask fun t => { t with forecast := some (s1.judge k f) }).cDone)
    | _, _, _ => s.cDone) s

/-- The value fverd writes (10 R255). -/
def State.verdictItem (s : State) (h : Nat) (item : Nat) : Nat :=
  match s.core.task, s.myVc with
  | some t, some vc =>
    if t.declared ≠ some h then 0
    else match vc.rerun with
      | some (why, e, x) => if item = 0 then 3 + why else if why ≠ 0 then (if item = 1 then 0xFFFFFFFF else 0) else if item = 1 then e else x
      | none =>
        if t.forecast.isSome then (if item = 0 then 1 else 0)
        else match vc.forecast.map Forecast.verdict with
          | some (.passed e x) => if item = 0 then 2 else if item = 1 then e else x
          | _ => 0
  | _, _ => 0

/-- fverd (10 R255); in an object without handles cause 0x07 (18 R307) with the word as TVAL (20 R334), and so for an index past the end of a table,
of which the rules do not speak: DESIGN CHOICE (log 67). -/
def execFverd (d : BitVec 5) (h : BitVec 10) (item : BitVec 2) (s : State) : Host.Outcome State Fault Refusal :=
  cWord (.fverd d h item) [] (cIf s.core.taskContext (.fverd d h item) fun s =>
    if s.core.task.isSome && (s.handle? h.toNat).isNone then s.cTrap 0x07 ((encode (.fverd d h item)).zeroExtend 64)
    else s.result d (w64 (s.verdictItem h.toNat item.toNat)) 1) s

/-! ### The prediction -/

/-- The predicted tile is built at the slot's home and released to waiting reads (10 R240, R241, R245). -/
def execPredictionReady (s : State) : Host.Outcome State Fault Refusal :=
  match s.forecasting, s.myKernel with
  | some f, some k =>
    if f.built.isSome then .next s
    else .next (s.updTask fun t => { t with forecast := some { f with built := some (k.predicted f) } })
  | _, _ => .next s

/-! ### Publication (10 R239) -/

/-- The slots of a kernel whose publication is owed. -/
def Kernel.owed (k : Kernel) : List Nat := (k.slots.zipIdx.filter fun p => p.1.owed).map (·.2)

/-- The handle that names a slot. -/
def Kernel.slotHandle (k : Kernel) (n : Nat) : Option Handle := k.handles.find? fun h => h.fslot == some n

/-- The first byte of a footprint whose page is not present. -/
def State.absentByte (s : State) (ctx : BitVec 16) (H : Handle) : Option Nat :=
  H.footAddrs.find? fun a =>
    if windowSpace ≤ a ∧ a < 0xC000000000000 then false
    else match s.walk ctx a with | .absent => true | _ => false

/-- A footprint byte as the home reads it: none where it may not be read, is not there, or is poisoned. -/
def State.homeByte (s : State) (ctx : BitVec 16) (va : Nat) : Option Byte :=
  match s.agentPa ctx va false with
  | none => none
  | some pa => if s.poison.contains (pa / 32) || s.deadByte pa then none else some (Memory.read s.mem pa)

/-- A version published (10 R239): the history moves on, the count rises, the comparator runs for every forecast that awaits it. -/
def State.publish (s : State) (k : Kernel) (n : Nat) (H : Handle) : State :=
  let version : Stored := H.footAddrs.map (s.homeByte k.ctx)
  let bytes := version.map (·.getD 0)
  let next := fun (t : Slot) =>
    { t with vers := (t.vers + 1) % 2 ^ 32, older := t.newer, newer := some bytes, published := some version, owed := false, asked := [] }
  let s1 := s.updKernel k.kid fun k => { k with
    slots := k.slots.zipIdx.map fun p => if p.2 = n then next p.1 else p.1,
    handles := k.handles.map fun h => if h.fslot = some n then { h with vers := (h.vers + 1) % 2 ^ 32 } else h,
    vcs := k.vcs.map fun v => if v.awaits = some n then { v with awaits := none } else v }
  match s1.kernel? k.kid with
  | none => s1
  | some k1 => k1.vcs.foldl (fun s v =>
      match s.pendingOf k1.kid v with
      | some f => if f.slot = n then s.updPending k1.kid v (s.judge k1) else s
      | none => s) s1

/-- The request for the page of an address has been sent for a slot. -/
def Slot.requested (t : Slot) (va : Nat) : Bool := t.asked.contains (va / 65536)

/-- The first owed publication that can go on: its footprint is mapped, or the request for an absent page (the address) has still to be sent. -/
def State.nextOwed (s : State) : Option (Kernel × Nat × Handle × Option Nat) :=
  (s.disp.kernels.flatMap fun k => k.owed.filterMap fun n => (k.slotHandle n).map fun H => (k, n, H, s.absentByte k.ctx H)).find? fun r =>
    match r.2.2.2 with
    | none => true
    | some va => !(r.1.slot r.2.1).requested va && !((s.xlat.open_ ++ s.xlat.queued).any fun o => o.names r.1.ctx va)

/-- An owed publication is made; while a page of the footprint is absent, its request is sent once, and other publications go on (10 R239). -/
def execVersionPublication (s : State) : Host.Outcome State Fault Refusal :=
  match s.nextOwed with
  | none => .next s
  | some (k, n, H, absent) =>
    match absent with
    | some va => .next ((s.pageRequest k.ctx va false false).updKernel k.kid fun k => { k with slots := k.slots.zipIdx.map fun p =>
        if p.2 = n then { p.1 with asked := p.1.asked ++ [va / 65536] } else p.1 })
    | none => .next (s.publish k n H)

/-! ### The verdict (10 R250 to R254) -/

/-- Bytes of a slot stand in a buffer. -/
def bufferHits (k : Kernel) (buf : List Effect) (n : Nat) : Bool :=
  match k.slotHandle n with
  | none => false
  | some H => buf.any fun e => e.kind.touched.any fun a => (H.footIndex a).isSome

/-- The failing verdict of a task that is not forecasting on a core recorded: its restart is the re-release of R251 (10 R252). -/
def State.squashKept (s : State) (k : Kernel) (v : VCore) (f : Forecast) (why maxerr idx : Nat) : State :=
  let there := (k.slot f.slot).published.isSome
  let s1 := s.updKernel k.kid fun k => k.updVc v.vdie v.vcore fun v =>
    { v with forecast := none, rerun := some (why, maxerr, idx), awaits := if why = 2 ∨ there then none else some f.slot }
  s1.record k.kid 2 (leBytes 4 (why + f.slot * 16 + (if why = 0 then idx else 0) % 2 ^ 22 * 1024) ++ leBytes 1 v.vcore ++ leBytes 1 v.vdie
    ++ leBytes 2 k.kid ++ leBytes 4 (if why = 0 then maxerr else 0xFFFFFFFF) ++ leBytes 4 v.pos)

/-- One virtual core's task squashed, on its core or off it, with its record (10 R250, R252, R254).  A restarted run that has not reached its fcast
goes on after a failing comparison, and its fcast will return at once; a cascade squashes it.  A task in a context image is discarded from it. -/
def State.squashVc (s : State) (k : Kernel) (v : VCore) (f : Forecast) (why maxerr idx : Nat) : State :=
  match s.taskPlace k.kid v.vdie v.vcore with
  | some p =>
    if why = 1 ∨ ((s.coreAt p.1 p.2).task.bind (·.forecast)).isSome then s.onCore p.1 p.2 fun s => s.squashTask why maxerr idx
    else s.squashKept k v f why maxerr idx
  | none =>
    let s1 := s.squashKept k v f why maxerr idx
    match (s.vcNow k.kid v).image.bind fun m => m.core.bind fun c => c.task.map fun t => (m, t) with
    | none => s1
    | some (m, t) =>
      let back := t.undo.foldl (fun cs u => Memory.writeBytes cs (u.1 * 1024) u.2) m.cells
      let i := (s.image? k.image).map (·.carry)
      s1.updKernel k.kid fun k => k.updVc v.vdie v.vcore fun v =>
        { v with state := .aborted, run := v.run + 1, image := some { m with core := none, cells := windowCells back 0 (i.getD []) } }

/-- A primary squash with its cascade (10 R253). -/
def State.squashPrimary (s : State) (k : Kernel) (v : VCore) (f : Forecast) (why maxerr idx : Nat) : State :=
  let buf := match s.taskOf k.kid v.vdie v.vcore with | some t => t.buf | none => []
  let hit := k.vcs.filterMap fun u =>
    if u.vdie = v.vdie ∧ u.vcore = v.vcore then none
    else match s.pendingOf k.kid u with
      | some g => if g.group ≠ 0 ∧ g.group = f.group ∧ bufferHits k buf g.slot then some (u, g) else none
      | none => none
  hit.foldl (fun s p => s.squashVc k p.1 p.2 1 0 0) (s.squashVc k v f why maxerr idx)

/-- A passing verdict (10 R250): the task becomes ordinary; a task that waits to fail moves to Failed (R246). -/
def State.passVerdict (s : State) (k : Kernel) (v : VCore) (f : Forecast) (maxerr idx : Nat) : State :=
  let kept := { f with verdict := .passed maxerr idx }
  let s1 := s.updKernel k.kid fun k => k.updVc v.vdie v.vcore fun v => { v with forecast := some kept }
  let image := fun (c : Core) => { c with task := c.task.map fun t => { t with forecast := none } }
  match s1.taskPlace k.kid v.vdie v.vcore with
  | none => s1.updKernel k.kid fun k => k.updVc v.vdie v.vcore fun v =>
      { v with image := v.image.map fun m => { m with core := m.core.map image } }
  | some p =>
    s1.onCore p.1 p.2 fun s =>
      let s2 := s.updTask fun t => { t with forecast := none }
      if (match s2.core.task with | some t => t.failing | none => false) then s2.failTask else s2

/-- The verdicts on their way in a kernel: virtual core, forecast, verdict, tick. -/
def State.verdictsOf (s : State) (k : Kernel) : List (VCore × Forecast × Verdict × Nat) :=
  k.vcs.filterMap fun v => match s.pendingOf k.kid v with
    | some f => f.judged.map fun j => (v, f, j.1, j.2)
    | none => none

/-- The first verdict to arrive in the module. -/
def State.firstVerdict (s : State) : Option (Kernel × VCore × Forecast × Verdict × Nat) :=
  (s.disp.kernels.flatMap fun k => (s.verdictsOf k).map fun p => (k, p)).foldl (fun a p =>
    match a with
    | none => some p
    | some b => if p.2.2.2.2 < b.2.2.2.2 then some p else some b) none

/-- A verdict reaches the consumer's core (10 R250). -/
def execVerdictArrival (s0 : State) : Host.Outcome State Fault Refusal :=
  match s0.firstVerdict with
  | none => .next s0
  | some (k, v, f, j, tick) =>
    let s := { s0 with now := Nat.max s0.now tick }
    .next (match j with
      | .passed e x => s.passVerdict k v f e x
      | .failed why e x => s.squashPrimary k v f why e x
      | .pending => s)

/-! ### Orphans (10 R248) -/

/-- A virtual core's arrival is held by a forecasting task. -/
def State.arrivalHeld (s : State) (kid : Nat) (v : VCore) : Bool :=
  match s.taskOf kid v.vdie v.vcore with
  | some t => t.forecast.isSome && t.buf.any fun e => match e.kind with | .arrive _ => true | _ => false
  | none => false

/-- Forecasts of a kernel whose version has not been published when every virtual core has arrived, or has its arrival held by a forecasting task,
and every expectation is met (10 R248).  A version whose publication only waits for a page is no such version (R239). -/
def State.orphans (s : State) (k : Kernel) : List (VCore × Forecast) :=
  if k.vcs.all (fun v => (v.arrived.isSome || s.arrivalHeld k.kid v) && v.met) then
    k.vcs.filterMap fun v => match s.pendingOf k.kid v with
      | some f => if f.judged.isNone && (k.slot f.slot).published.isNone && !(k.slot f.slot).owed then some (v, f) else none
      | none => none
  else []

/-- Every orphan of a kernel resolves as a failing verdict without comparison (10 R248); one that an earlier one's cascade squashed is none any
more. -/
def execOrphanForecast (kid : BitVec 16) (s : State) : Host.Outcome State Fault Refusal :=
  match s.kernel? kid.toNat with
  | none => .next s
  | some k => .next ((s.orphans k).foldl (fun s p => match s.pendingOf k.kid p.1 with
      | some f => s.squashPrimary k p.1 f 2 0 0
      | none => s) s)

end Sys2Proof.Machine
end

