-- ==== Sys2Proof/Machine/EvCore.lean ====
section
/-!
DEFINITION. Events of one core: words that are no instruction, results and data that arrive, posts, the queue deadlock (05 R82; 06
R103; 07 R151, R152; 02 R37, R40), and its stops: trap entry, interrupts, the timer compare, pending entries, translation walks,
PGDONE and retries (20 R331 to R344; 23 R370).
-/
namespace Sys2Proof.Machine

/-! ### Words that are no instruction -/

/-- A fetched word that fails decode_check (05 R82): cause 0x01 at its strand; after a modifier the frame names the modifier. -/
def execReservedOpcode (t : Strand) (w : Word32) (s : State) : Host.Outcome State Fault Refusal :=
  let step := fun (k : StepStrand) => .next (s.stepTrap k 0x01 (w.zeroExtend 64) (s.core.strand k).pc.toNat)
  match t with
  | .c => .next (s.cTrap 0x01 (w.zeroExtend 64))
  | .l => step .l
  | .s => step .s
  | .x => (match s.core.v.modif with
    | some m => .next (s.modifierFault m w)
    | none => step .x)

/-! ### Results of X -/

/-- The bits of a predicate replaced where a result gives them. -/
def overBits (old : List Bool) (new : List (Option Bool)) : List Bool := old.zipIdx.map fun p => (nth new p.2 none).getD p.1

/-- One target of a vector result written (07 R148, R151, R165, R166). -/
def State.writeTarget (s : State) : LatchTarget → State
  | .vreg phys w lanes => s.poke true (windowBase s.core.die s.core.q + phys * vregBytes) (packSome w 0 lanes)
  | .pred p b => s.updV fun v => v.writeP p (overBits (v.readP p) b)
  | .kshift k rows => s.updV fun v => v.writeK k { v.readK k with e := (v.readK k).e.drop rows.length ++ rows }
  | .ksc k sc => s.updV fun v => v.writeK k { v.readK k with sc := sc }
  | .greg g v => s.updStep .x fun p => p.writeG g v

/-- Time at the beginning of a cycle. -/
def State.at_ (s : State) (t : Nat) : State := { s with now := Nat.max s.now t }

/-- The first-issued global load that has performed, whose data is there at the beginning of X's next cycle and whose fault does not stand
recorded. -/
def State.dueLoad (s : State) : Option GLoad :=
  (s.core.v.gloads.filter fun g => decide (g.due ≤ s.core.x.next) && !g.trapped && g.after.isNone).foldl (fun a g =>
    match a with
    | none => some g
    | some b => if g.seq < b.seq then some g else a) none

/-- Vector latches whose arrival count X has reached, in order of arrival and issue; those issued after a load that arrives in the same
cycle wait for it (07 R151). -/
def State.dueLatches (s : State) : List VLatch :=
  sortBy (fun a b => decide (a.due < b.due) || (a.due == b.due && decide (a.seq ≤ b.seq)))
    (s.core.v.latches.filter fun l => decide (l.due ≤ s.core.x.count) && (match s.dueLoad with | none => true | some g => decide (l.seq < g.seq)))

/-- Results that are due written, the later-issued one last, with their flags (07 R151; 06 R133). -/
def State.deliver (s : State) (due : List VLatch) : State :=
  due.foldl (fun s l => (l.targets.foldl State.writeTarget s).orFlags .x l.flags)
    (s.updV fun v => { v with latches := v.latches.filter fun l => !due.contains l })

/-- Every vector result due at X's count is written (07 R151). -/
def execVectorResultArrival (s0 : State) : Host.Outcome State Fault Refusal := .next ((s0.at_ s0.core.x.next).deliver s0.dueLatches)

/-- What performing a load again finds (20 R340): the elements' pages, then their values and the first poisoned atom. -/
inductive Again where
  | ok (g : GLoad)
  | absent (va : Nat)
  | bad (cause : BitVec 8) (va : Nat)

/-- The first global load whose data came with poison while the core is stopped, and whose fault does not stand recorded (20 R339). -/
def Core.heldPoison (c : Core) (now : Nat) : Option GLoad :=
  (c.v.gloads.filter fun g => g.poison.isSome && !g.again && !g.trapped).foldl (fun (a : Option GLoad) g =>
    match a with
    | none => some g
    | some b => if Nat.max now g.due < Nat.max now b.due then some g else some b) none

/-- A load's access in the view of its word: no buffered store of X behind it (11 R267), and memory where it came before its task's fcast (10
R245). -/
def GLoad.view (g : GLoad) (s : State) : State :=
  s.updTask fun t => { t with plain := t.plain || g.plain,
                              buf := t.buf.filter fun e => match e.seq with | some n => decide (n < g.seq) | none => true }

/-- A load's access performed after its issue: for vld.ff its elements before the first that would fault, its predicate cleared from there on, and
where the first faults that one alone (07 R173).  One that was held has read its local elements at issue. -/
def State.loadAgain (s0 : State) (g : GLoad) : Again :=
  let s := g.view s0
  match g.targets with
  | .vreg phys w lanes :: rest =>
    let all : List Elem := g.elems.map fun e => ⟨e.1, e.2⟩
    let good := s.beforeFault w all
    let short := g.ff.isSome && !good.isEmpty
    let r := (if g.ff.isSome then all.take (Nat.max 1 good.length) else all).map fun e => (e, s.probe e.va false)
    (match r.find? fun p => match p.2 with | .ok _ => false | _ => true with
     | some (e, .absent) => .absent e.va
     | some (e, .bad c) => .bad c e.va
     | _ =>
       let els : List (Elem × Nat) := r.filterMap fun p => match p.2 with | .ok pa => some (p.1, pa) | _ => none
       let new := lanes.zipIdx.map fun l => match els.find? fun e => e.1.i == l.2 with
         | some e => if g.after.isSome && s.isLocal e.2 then l.1 else some (s.elemValue w e.1 e.2)
         | none => if short && all.any (fun e => e.i == l.2) then (if g.zero then some 0 else none) else l.1
       .ok { g with targets := .vreg phys w new :: (match g.ff with | some pn => if short then ffClear pn (all.drop good.length) else rest | none => rest),
                    poison := s.poisonElems w els, again := false, after := none })
  | _ => .ok { g with again := false, after := none }

/-- The fault of a load recorded (20 R339): the load is kept, marked to be performed again, and its cause pends. -/
def State.loadFault (s : State) (g : GLoad) (cause : BitVec 8) (va : Nat) : State :=
  (s.updV fun v => { v with gloads := v.gloads.map fun h =>
    if h.seq = g.seq then { g with again := true, trapped := true, poison := some va } else h }).raiseAt cause 2 (w64 va) g.pc.toNat

/-- The core stands in a stop: C handles a trap and X's next cycle lies past the stop (20 R331). -/
def Core.stopped (c : Core) : Bool := c.c.handler && decide (c.stop ≤ c.x.next)

/-- A global load's data arrives, or in a stop its poison is recorded (07 R152; 20 R339): the registers are written and free, or poison raises cause
0x0C (R170). -/
def execGlobalLoadArrival (s0 : State) : Host.Outcome State Fault Refusal :=
  match if s0.core.stopped then none else s0.dueLoad with
  | none => .next (match s0.core.heldPoison s0.now with
    | some g => if s0.core.stopped then s0.loadFault g 0x0C (g.poison.getD 0) else s0
    | none => s0)
  | some g0 =>
    let s := s0.at_ s0.core.x.next
    let r := if g0.again then s.loadAgain g0 else .ok g0
    .next (match r with
      | .absent va => s.pageAbsent va false
      | .bad c va => s.loadFault g0 c va
      | .ok g =>
        match g.poison with
        | some a => s.loadFault g 0x0C a
        | none =>
          (g.targets.foldl State.writeTarget ((if g0.again then s.readHomes (g.elems.map fun e => (e.2, 1)) else s).updV fun v => { v with gloads := v.gloads.filter fun h => h.seq != g.seq })).xDone (some g.seq))

/-! ### Accesses of X that were held -/

/-- A held load performed (11 R267): it takes its values, and its data arrives after a free number of cycles (log 4).  One that finds a page or a right
gone meets it when its data would arrive. -/
def State.performLoad (s : State) (g : GLoad) : State :=
  let put := fun (s : State) (h : GLoad) => s.updV fun v => { v with gloads := v.gloads.map fun k => if k.seq = g.seq then h else k }
  if g.elems.any fun e => (g.view s).notBuilt e.2 then s
  else match s.loadAgain g with
    | .ok h => let f := (s.readHomes (g.elems.map fun e => (e.2, 1))).fresh; put f.2 { h with due := s.servedFrom (g.elems.filterMap fun e =>
      match s.probe e.2 false with | .ok pa => some pa | _ => none) + (1 + Config.loadDelay f.1) * s.core.div.vec }
    | _ => put s { g with after := none, again := true, due := s.now }

/-- A held store performed (11 R267), and its word completed. -/
def State.performStore (s : State) (t : VStore) : State :=
  match s.storeRuns (some t.seq) t.runs with
  | .stall => s
  | .done s1 => (s1.updV fun v => { v with stores := v.stores.filter fun u => u.seq != t.seq }).xDone (some t.seq)

/-- The first vector access that is held: its word's number, what it comes after, and whether it is a store. -/
def Vec.firstHeld (v : Vec) : Option (Nat × After × Bool) :=
  ((v.gloads.filterMap fun g => g.after.map fun a => (g.seq, a, false)) ++ v.stores.map fun t => (t.seq, t.after, true)).foldl
    (fun (b : Option (Nat × After × Bool)) h => match b with | none => some h | some k => if h.1 < k.1 then some h else b) none

/-- In a cycle of X the first access that is held performs, once those ordered before it have (11 R267). -/
def State.performHeld (s : State) : State :=
  match s.core.v.firstHeld with
  | none => s
  | some (n, a, store) =>
    if !s.xOrdered n a store then s
    else if store then (match s.core.v.stores.find? fun t => t.seq == n with | some t => s.performStore t | none => s)
    else (match s.core.v.gloads.find? fun g => g.seq == n with | some g => s.performLoad g | none => s)

/-! ### Loads of C -/

/-- The first load of the context of C in use whose data is there at the beginning of its next cycle. -/
def CStrand.dueLoad (c : CStrand) : Option CLoad :=
  (c.loads.filter fun l => decide (l.due ≤ c.next) && l.sh == c.handler).foldl (fun a l =>
    match a with
    | none => some l
    | some b => if l.due < b.due then some l else a) none

/-- A missed load's data arrives (06 R103): its register is ready, and its line stands in the global cache. -/
def execCLoadArrival (s0 : State) : Host.Outcome State Fault Refusal :=
  match s0.core.c.dueLoad with
  | none => .next s0
  | some l =>
    let s := (s0.at_ s0.core.c.next).updC fun c => { c with loads := c.loads.erase l }
    .next (match l.line with | some g => s.keepLine g | none => s)

/-! ### Posts -/

/-- The tick at which a ripe post is delivered and the tick from which its token is seen (02 R36, R37): a word that completed in the
cycle just past posts in that cycle; a held post goes in the first cycle that sees a free slot. -/
def State.postTime (s : State) (t : StepStrand) (n : Fin 12) (cyc : Nat) : Option (Nat × Nat) :=
  let p := s.core.strand t
  let d := s.core.divOf t.strand
  let ended := p.cond == .ended
  if !ended && cyc + 1 = p.count && (s.core.hq[n]).room hitchDepth (p.next - d) then some (p.next, p.next)
  else
    let base := if ended then Nat.max p.next s.now else p.next
    let times := base :: (if ended then (s.core.hq[n]).freed.map (Nat.max base) else [])
    ((times.filter fun x => (s.core.hq[n]).room hitchDepth x).foldl (fun (a : Option Nat) x =>
      match a with | none => some x | some b => some (Nat.min b x)) none).map fun x => (x, x + d)

/-- A strand's first post that may be delivered: its word's number, its partner code, its queue and its ticks.  Of the posts toward one
queue only the first can be; a held one does not hold a post toward another queue (02 R37). -/
def State.postOf (s : State) (t : StepStrand) : Option (Nat × BitVec 2 × Fin 12 × Nat × Nat) :=
  let ripe := (s.core.strand t).ripePosts
  let firsts := [1, 2, 3].filterMap fun q => ripe.find? fun r => r.2.1 == q
  (firsts.filterMap fun r => (s.postTime t (outQ t.strand r.2.1) r.2.2).map fun x => (r.1, r.2.1, outQ t.strand r.2.1, x.1, x.2)).foldl
    (fun (a : Option (Nat × BitVec 2 × Fin 12 × Nat × Nat)) r =>
      match a with
      | none => some r
      | some b => if r.2.2.2.1 < b.2.2.2.1 ∨ (r.2.2.2.1 = b.2.2.2.1 ∧ r.1 < b.1) then some r else some b) none

/-- The strand with one post of a word gone. -/
def Step.popPost (seq : Nat) (q : BitVec 2) (p : Step) : Step :=
  { p with flights := updFirst (fun f => f.seq == seq) (fun f => { f with posts := f.posts.erase q }) p.flights }.settle

/-- The first post to be delivered on the core: its strand, word, partner code, queue, tick, and the tick from which the token is seen. -/
def State.firstPost (s : State) : Option (StepStrand × Nat × BitVec 2 × Fin 12 × Nat × Nat) :=
  [StepStrand.l, .x, .s].foldl (fun a t =>
    match s.postOf t, a with
    | none, _ => a
    | some r, none => some (t, r)
    | some r, some b => if r.2.2.2.1 < b.2.2.2.2.1 then some (t, r) else a) none

/-- A post is delivered (02 R36, R37). -/
def execHitchPostDelivery (s0 : State) : Host.Outcome State Fault Refusal :=
  match s0.firstPost with
  | none => .next s0
  | some (t, seq, q, n, tick, since) => .next (((s0.at_ tick).updStep t (Step.popPost seq q)).pushToken t n since)

/-! ### Queue deadlock (02 R40) -/

/-- No item of a queue has become visible since a tick. -/
def Queue.quiet (q : Queue) (t : Nat) : Bool := q.items.all fun i => decide (i.since ≤ t)

/-- A wait on a queue that nothing but another strand's word can end (02 R40): for a pop, what the strand saw at `last`, its latest try,
is all there is; for a push, the queue is full. -/
def Core.stuck (c : Core) (last : Nat) : Cond → Bool
  | .ended => true
  | .running (some (.hitch n push)) => if h : n < 12 then (if push then decide (hitchDepth ≤ (c.hq[n]).items.length) else (c.hq[n]).quiet last) else false
  | .running (some (.data n push)) => if h : n < 12 then (if push then decide (dataDepth ≤ (c.dq[n]).items.length) else (c.dq[n]).quiet last) else false
  | .running (some .format) => decide (formatDepth ≤ c.fq.items.length)
  | _ => false

/-- The TVAL of a wait on a queue. -/
def waitTval : Cond → Option Word64
  | .running (some (.hitch n _)) => some (queueTval false n)
  | .running (some (.data n _)) => some (queueTval true n)
  | .running (some .format) => some fqTval
  | _ => none

/-- A word in flight could post to a hitch queue whose pop some strand waits for, or push into xc while C waits for it (02 R40; 08 R211). -/
def Core.mayPost (c : Core) : Bool :=
  let popped := [c.c.cond, c.l.cond, c.x.cond, c.s.cond].filterMap fun k =>
    match k with | .running (some (.hitch n false)) => some n | _ => none
  ([StepStrand.l, .x, .s].any fun t => (c.strand t).flights.any fun f => f.posts.any fun q => popped.contains (outQ t.strand q).val)
    || ([c.c.cond, c.l.cond, c.x.cond, c.s.cond].contains (.running (some (.data 6 false))) && c.m.queue.any (fun e => e.op == .mfst))

/-- The deadlock of R40, as its TVAL: the queue X waits on, else that of L, S or C. -/
def Core.deadlock (c : Core) : Option Word64 :=
  let all := [(c.x.cond, c.x.next - c.div.vec), (c.l.cond, c.l.next - c.div.copy), (c.s.cond, c.s.next - c.div.copy), (c.c.cond, c.c.next - c.div.ctl)]
  if all.all (fun p => c.stuck p.2 p.1) && !c.mayPost then all.findSome? fun p => waitTval p.1 else none

/-- Cause 0x13 on C in the first control cycle in which no strand can go on (02 R40). -/
def execQueueDeadlock (s0 : State) : Host.Outcome State Fault Refusal :=
  match s0.core.deadlock with
  | none => .next s0
  | some v =>
    let s := s0.at_ s0.core.c.next
    .next (s.enterTrap 0x13 0 false v none 0 s.now)

/-! ### Trap entry and pending entries -/

/-- The running task lost with its core: it aborts, or fails where it is pinned; one that already splices is not moved (02 R25). -/
def State.loseTask (s : State) : State :=
  match s.core.task with
  | none => s
  | some t => if t.state = .splicing then s else if t.pinned then s.failTask else s.abortTask .aborted none

/-- The self-test failure's course for the task (02 R25; 20 R342): it moves a Running one alone. -/
def State.testFailed (s : State) : State := if s.core.taskState = some .running then s.loseTask else s

/-- A cause reaches the core (20 R331 to R334, R342).  Sources 0 to 3 are precise at the strand's word but for cause 0x10; those
of the table that are never traps take their own course; an asynchronous one waits while a handler runs. -/
def execTrapEntry (cause : BitVec 8) (src : BitVec 4) (tval : Word64) (s : State) : Host.Outcome State Fault Refusal :=
  .next (
    if cause = 0x04 ∧ s.core.task.isSome then s.pageAbsent tval.toNat false
    else if cause = 0x0D then s.overflow
    else if cause = 0x0F then s.testFailed
    else if cause = 0x10 then s.enterTrap cause 0 false tval none 0 s.now
    else if src = 0 then s.cTrap cause tval
    else if src = 1 then s.stepTrap .l cause tval s.core.l.pc.toNat
    else if src = 2 ∧ cause ≠ 0x0C then s.stepTrap .x cause tval s.core.x.pc.toNat
    else if src = 3 then s.stepTrap .s cause tval s.core.s.pc.toNat
    else if s.core.c.handler then s.raiseLater cause src tval
    else s.enterTrap cause src false tval none 0 s.now)

/-- An external interrupt is pending in the core. -/
def Core.irqPending (c : Core) : Bool := c.pend.any fun p => p.cause == 0x11

/-- External interrupts that a die dispatcher keeps for one core (20 R332). -/
abbrev irqDepth : Nat := 64

/-- An external interrupt for the core in focus (20 R332, R334): refused where no task runs or 64 wait. -/
def execExternalInterrupt (source : BitVec 16) (s : State) : Host.Outcome State Fault Refusal :=
  .next (
    if s.core.task.isNone && !s.core.sup then s
    else if s.core.irqPending || !s.core.irq.isEmpty then
      if s.core.irq.length < irqDepth then s.updCore fun c => { c with irq := c.irq ++ [source] } else s
    else s.raiseLater 0x11 7 (source.zeroExtend 64))

/-- The next waiting interrupt delivered once the held one is taken (20 R332). -/
def State.deliverIrq (s : State) : State :=
  match s.core.irq with
  | [] => s
  | n :: rest => (s.updCore fun c => { c with irq := rest }).raiseLater 0x11 7 (n.zeroExtend 64)

/-- The place of the supervisor's core. -/
def State.supPlace (s : State) : Option (Nat × Nat) := ((s.core :: s.others).find? (·.sup)).map fun c => (c.die, c.q)

/-- TIMER as the supervisor's core reads it. -/
def State.supTimer (s : State) : Word64 := match (s.core :: s.others).find? (·.sup) with | some c => s.clusterTimer c | none => s.timer

/-- TIMER reaches TCMP (20 R342): cause 0x12 on the supervisor's core, and TCMP is 0. -/
def execTimerCompareMatch (s0 : State) : Host.Outcome State Fault Refusal :=
  if s0.xlat.tcmp = 0 then .next s0
  else
    let s := s0.at_ (s0.now + (s0.xlat.tcmp.toNat - s0.supTimer.toNat))
    let s1 := { s with xlat := { s.xlat with tcmp := 0 } }
    .next (match s1.supPlace with
      | none => s1
      | some p => s1.onCore p.1 p.2 fun k =>
          if k.core.pend.any fun e => e.cause == 0x12 then k else k.raiseLater 0x12 9 k.supTimer)

/-- The first pending entry whose cycle of C has come (20 R339, R340): in order of occurrence, an interrupt last. -/
def Core.duePend (c : Core) : Option Pending :=
  (c.pend.filter fun p => decide (p.rem ≤ c.c.count)).foldl (fun (a : Option Pending) p =>
    match a with
    | none => some p
    | some b => if (b.kind == 2 && p.kind != 2) || ((b.kind == 2) == (p.kind == 2) && decide (p.issue < b.issue)) then some p else some b) none

/-- What the frame of an asynchronous fault remembers of its entry: the unit's faulted head, or the load. -/
def Core.faultedEntry (c : Core) (p : Pending) : Option (XUnit × Nat) :=
  let head := fun (u : XUnit) (x : XUnitSt) => match x.queue with
    | e :: _ => if e.st = .faulted then some (u, e.seq) else none
    | [] => none
  if p.src = 5 then head .inb c.inb else if p.src = 6 then head .outb c.outb else none
def Core.faultedLoad (c : Core) (p : Pending) : Option Nat :=
  if p.src = 2 then (c.v.gloads.find? fun g => g.trapped && g.poison == some p.tval.toNat && g.pc.toNat == p.pc).map (·.seq) else none

/-- What is delivered in the first resumed cycle before a pending entry makes a new stop of it (20 R340): vector results, and results
for g registers, of delay 0. -/
def State.deliverFirst (s : State) : State :=
  let s1 := s.deliver (sortBy (fun a b => decide (a.due < b.due) || (a.due == b.due && decide (a.seq ≤ b.seq)))
    (s.core.v.latches.filter fun l => decide (l.due ≤ s.core.x.count)))
  [StepStrand.l, .x, .s].foldl State.beginCycle s1

/-- A pending entry is taken as a stop of its own (20 R339, R340). -/
def execPendingEntryTaken (s : State) : Host.Outcome State Fault Refusal :=
  match s.core.duePend with
  | none => .next s
  | some p =>
    if s.core.c.handler then .next s
    else
      let s0 := if p.kept || p.kind == 3 then s.at_ s.core.c.next else s
      let s1 := (if p.kept then s0.deliverFirst else s0).updCore fun c => { c with pend := c.pend.erase p }
      let s2 := s1.enterTrap p.cause p.src false p.tval none 0 s1.now
      let s3 := s2.updCore fun c => { c with frame := { c.frame with entry := s.core.faultedEntry p, gload := s.core.faultedLoad p } }
      .next (if p.cause = 0x11 then s3.deliverIrq else s3)

/-! ### Translation -/

/-- Cores whose freeze waits for a page of a context. -/
def State.waiters (s : State) (ctx : BitVec 16) (va : Nat) : List (Nat × Nat × Nat × Bool) :=
  (s.core :: s.others).filterMap fun c => match c.freeze with
    | some (.walk a w) => if c.csr.ctxid == ctx && pageOf a == pageOf va then some (c.die, c.q, a, w) else none
    | _ => none

/-- A walk ends for all its waiters (20 R344). -/
def execTranslationWalkComplete (s : State) : Host.Outcome State Fault Refusal :=
  match s.core.freeze with
  | some (.walk va _) =>
    .next ((s.waiters s.core.csr.ctxid va).foldl (fun s w => s.onCore w.1 w.2.1 fun k => k.walkEnds w.2.2.1 w.2.2.2) s)
  | _ => .next s

/-- A virtual core parked on a page moves to Aborted (20 R343; 02 R25). -/
def VCore.resolve (v : VCore) (page : Nat) : VCore :=
  if v.state = .parked ∧ v.parked = some page then { v with state := .aborted, parked := none } else v

/-- A core frozen on a page walks again (20 R343). -/
def Core.resolve (c : Core) (ctx : BitVec 16) (page : Nat) : Core :=
  match c.freeze with
  | some (.pager va w) => if c.csr.ctxid = ctx ∧ pageOf va = page then { c with freeze := some (.walk va w) } else c
  | _ => c

/-- PGDONE (20 R343): every future of a page of a context resolves. -/
def execPgdoneWrite (v : Word64) (s : State) : Host.Outcome State Fault Refusal :=
  let ctx : BitVec 16 := BitVec.ofNat 16 (field v.toNat 48 16)
  let page := field v.toNat 0 36
  .next { s with xlat := { s.xlat with done := v }, core := s.core.resolve ctx page, others := s.others.map fun c => c.resolve ctx page,
                 disp := { s.disp with kernels := s.disp.kernels.map fun k =>
                   if k.ctx = ctx then { k with vcs := k.vcs.map fun v => v.resolve page } else k } }

/-- The retry of a memory access of the core in focus has resolved, and every strand goes on in the same cycle; on a core that no retry holds the
same input says that an access needs one, which freezes the whole core (23 R370; 17 R297; 20 R342; log 3). -/
def execCorrectableRetryResolved (s : State) : Host.Outcome State Fault Refusal :=
  match s.core.freeze with
  | some .retry => .next s.unfreeze
  | some _ => .next s
  | none => .next (if s.core.task.isSome || s.core.sup then s.freezeCore .retry else s)

end Sys2Proof.Machine
end

