-- ==== Sys2Proof/Machine/EvTask.lean ====
section
/-!
DEFINITION. Events of tasks: the package frame tick with its holds and slips (02 R28 to R30), release (R23, R27; 23 R374), the end of a
splice and of a kernel (02 R25; 19 R320, R326), the cleat with divisor requests and pre-emption (02 R31, R34; 06 R137; 19 R323; 20
R345), and the end of kwait (19 R325).
-/
namespace Sys2Proof.Machine

/-! ### Service counters of whole seconds (23 R369) -/

/-- Reference ticks of a second (01 R15). -/
abbrev secondTicks : Nat := 7500000000

/-- The temperature band of a die: below 50, to 70, to 85, to 95, above (23 R369). -/
def bandOf (t : Int) : Fin 5 := if t < 50 then 0 else if t < 70 then 1 else if t < 85 then 2 else if t < 95 then 3 else 4

/-- A second powered has passed. -/
def Service.second (v : Service) : Service :=
  let b := bandOf (v.dieTemp.toList.foldl max v.dieTemp[0])
  { v with seconds := sat (2 ^ 64 - 1) (v.seconds + 1), bands := v.bands.set b (sat (2 ^ 64 - 1) (v.bands[b] + 1)) }

/-! ### Late tasks -/

/-- The formed tasks after the current one of a virtual core that fall due at a KFRAME (02 R29; 18 R316). -/
def Image.dueAfter (i : Image) (v : VCore) (kframe : Nat) : List Nat :=
  ((List.range i.inner).map fun d => kframe / i.span * i.inner + d).filter fun m =>
    decide (v.pos < m) && i.formed v.vdie v.vcore m && i.due m == kframe

/-- The formed task of a virtual core before the one of an ordinal, from its current one on (02 R22). -/
def Image.before (i : Image) (v : VCore) (m : Nat) : Nat :=
  (((List.range (m - v.pos)).map (v.pos + ·)).reverse.find? fun n => i.formed v.vdie v.vcore n).getD v.pos

/-- Tasks due at a KFRAME whose predecessors have not retired (02 R29), with WHY still open. -/
def Kernel.late (k : Kernel) (i : Image) (kframe : Nat) : List LateTask :=
  (k.vcs.filter fun v => v.state != .retired).flatMap fun v =>
    (i.dueAfter v kframe).map fun m => ⟨v.vdie, v.vcore, m, i.before v m, 1, none⟩

/-- WHY of a slip record (02 R30): the state of a late task's predecessor, which is on a core only as its virtual core's current task. -/
def State.whyLate (s : State) (k : Kernel) (l : LateTask) : Nat :=
  if (k.vc? l.vdie l.vcore).any fun v => v.pos == l.pred then
    match s.taskPlace k.kid l.vdie l.vcore with
    | none => 1
    | some p =>
      let c := s.coreAt p.1 p.2
      match c.task with
      | none => 1
      | some _ => (match c.taskState with | some .splicing => 2 | some .frozen => 3 | _ => 0)
  else 1

/-- A late task comes before another in a slip record (02 R30): its predecessor retired later, or in the same tick on a lower virtual core. -/
def LateTask.named (a b : LateTask) : Bool :=
  let t := fun (l : LateTask) => l.retired.getD 0
  decide (t b < t a) || (t a == t b && (decide (a.vdie < b.vdie) || (a.vdie == b.vdie && decide (a.vcore < b.vcore))))

/-- The task that a slip record names (02 R30). -/
def Hold.slipName (h : Hold) : Option LateTask :=
  h.late.foldl (fun a p => match a with | none => some p | some b => if p.named b then some p else a) none

/-- The predecessor of a late task retires at a frame tick. -/
def Hold.retire (h : Hold) (vdie vcore ord frame : Nat) : Hold :=
  { h with late := h.late.map fun l => if l.vdie = vdie ∧ l.vcore = vcore ∧ l.pred = ord then { l with retired := some frame } else l }

/-- The hold ends: one slip record, and SLIPC (02 R30). -/
def State.endHold (s : State) (k : Kernel) (h : Hold) : State :=
  let lost := s.disp.frame - h.began
  let s1 := s.updKernel k.kid fun k => { k with hold := none, slipCount := k.slipCount + 1, slipTicks := k.slipTicks + lost }
  match h.slipName with
  | none => s1
  | some l =>
    s1.record k.kid 1 (leBytes 4 l.why ++ leBytes 1 l.vcore ++ leBytes 1 l.vdie ++ leBytes 2 k.kid ++ leBytes 4 l.ord
      ++ leBytes 4 (sat (2 ^ 32 - 1) lost))

/-- KFRAME at a package frame tick (02 R29): it starts, advances, begins to hold, holds on, or resumes. -/
def State.kernelTick (s : State) (k : Kernel) (i : Image) : State :=
  match k.hold with
  | some h => if (k.late i k.kframe).isEmpty then s.endHold k h else s
  | none =>
    let f := if k.begun then k.kframe + 1 else k.kframe
    let late := k.late i f
    s.updKernel k.kid fun k =>
      { k with kframe := f, begun := true,
               hold := if late.isEmpty then none
                       else some ⟨s.disp.frame, late.map fun l => { l with why := s.whyLate k l }⟩ }

/-! ### Placement of a restarted task (02 R42; 23 R374) -/

/-- A core that no kernel holds, in service, and not the supervisor's. -/
def State.coreIdle (s : State) (die q : Nat) : Bool :=
  s.inService die q && (s.coreAt die q).task.isNone && !(s.coreAt die q).sup && !(s.coreAt die q).halted
    && !(die == 0 && q == s.serv.supCore)
    && !(s.disp.kernels.any fun k => k.holds && k.vcs.any fun v => v.die == die && v.q == q)

/-- The cores that may take the place of one that left service: ready spares of its die, then ready cores of other dies, their spares last (02
R42). -/
def State.standIns (s : State) (die : Nat) : List (Nat × Nat) :=
  (s.spares die).map (die, ·) ++ ((List.range 24).filter (· != die)).flatMap fun d => ((List.range 32).filter (s.coreReady d)).map (d, ·)

/-- Places of a list without repeats. -/
def dedup {α : Type} [BEq α] : List α → List α
  | [] => []
  | a :: l => a :: (dedup l).filter (· != a)

/-- The clusters in which a kernel holds cores. -/
def Kernel.clusters (k : Kernel) : List (Nat × Nat) := dedup (k.vcs.map fun v => (v.die, v.q / 4))

/-- A kernel's claims for the clusters that hold its cores now (22 R358): one of a cluster that is new to it has the tick of the others. -/
def Kernel.reclaim (k : Kernel) : Kernel :=
  match k.claims with
  | [] => k
  | c :: _ => { k with claims := k.clusters.map fun p => (k.claims.find? fun x => x.die == p.1 && x.cluster == p.2).getD ⟨p.1, p.2, c.tick, false, false⟩ }

/-- A virtual core moved to a core: a spare is attached where the replaced core was (01 R13). -/
def VCore.moved (v : VCore) (die q : Nat) : VCore := { v with die := die, q := q, site := if 30 ≤ q then v.site else q }

/-- The kernel's places with one virtual core moved. -/
def Kernel.placesWith (k : Kernel) (v : VCore) (die q : Nat) : List ((Nat × Nat) × (Nat × Nat)) :=
  k.vcs.map fun u =>
    let w := if u.vdie = v.vdie ∧ u.vcore = v.vcore then u.moved die q else u
    ((w.vdie, w.vcore), asReplaced w.site w.die w.q)

/-- Bytes of the carry set copied from one window to another (02 R27). -/
def State.copyCarry (s : State) (i : Image) (from_ to_ : Nat × Nat) : State :=
  { s with mem := i.carry.foldl (fun m r =>
      Memory.writeBytes m (windowBase to_.1 to_.2 + r.1) (Memory.readBytes s.mem (windowBase from_.1 from_.2 + r.1) r.2)) s.mem }

/-- A virtual core whose core left service moved to another, its carry set with it; none left ends the kernel (23 R374). -/
def State.reassign (s : State) (kid : Nat) (i : Image) (vdie vcore : Nat) : State :=
  match s.kernel? kid, (s.kernel? kid).bind fun k => k.vc? vdie vcore with
  | some k, some v =>
   if s.inService v.die v.q then s
   else match (s.standIns v.die).find? fun p => s.coreIdle p.1 p.2 && placeOk (k.placesWith v p.1 p.2) with
    | none => s.killKernel k.kid 5 0
    | some p =>
      (((s.copyCarry i (v.die, v.q) p).updKernel k.kid fun k => (k.updVc v.vdie v.vcore fun v => v.moved p.1 p.2).reclaim).updCoreAt
        p.1 p.2 fun c => { c with csr := { c.csr with lodcEvents := 0, lodcCycles := 0 } })
  | _, _ => s

/-- Virtual cores whose task waits for release. -/
def VCore.waits (v : VCore) : Bool := v.state == .pending || v.state == .aborted

/-- The version that a squashed task awaits has been published (10 R251): a publication of the slot ends the wait. -/
def VCore.tileThere (v : VCore) : Bool := v.awaits.isNone

/-- An effect writes into another core of this module. -/
def EffKind.remoteHere : EffKind → Bool
  | .remote _ _ _ node _ _ => node == 0
  | .store _ pa _ => (windowOf pa).isSome
  | .addCom _ pa _ => (windowOf pa).isSome
  | _ => false

/-- Every remote write that tasks of a kernel issued in phases before `phase` is present in a virtual core: none is on its way to it, and none
stands in a unit or in the splice buffer of a task (02 R33; 09 R231; 11 R262). -/
def State.present (s : State) (k : Kernel) (v : VCore) (phase : Nat) : Bool :=
  !(s.links.flying.any fun f => f.kid == k.kid && f.vdie == v.vdie && f.vcore == v.vcore && decide (f.phase < phase))
    && (s.coresOf k.kid).all fun p =>
      let t := s.focus p.1 p.2
      ((t.core.outb.queue ++ t.core.inb.queue).all fun e =>
        decide (phase ≤ e.phase) || !t.xferRemote e.op || (match e.op with | .tfar _ => farNode e.b != 0 | _ => false))
      && ((t.core.task.map (·.buf)).getD []).all fun e => decide (phase ≤ e.phase) || !e.kind.remoteHere

/-- The conditions of R28, of R33 and of 10 R251 for the task a virtual core waits with. -/
def State.releasable (s : State) (k : Kernel) (i : Image) (v : VCore) : Bool :=
  v.waits && decide (i.due v.pos ≤ k.kframe) && decide (v.pos / i.inner ≤ k.phase)
    && s.inService v.die v.q && (s.coreAt v.die v.q).task.isNone && !(s.coreAt v.die v.q).halted && v.tileThere
    && s.present k v (v.pos / i.inner)

/-! ### The end of a kernel -/

/-- A kernel whose tasks have all retired exits: the exit record, then STATE 3 (19 R320, R326). -/
def State.tryExit (s : State) (kid : Nat) : State :=
  match s.kernel? kid with
  | none => s
  | some k =>
    if k.state = 2 ∧ k.vcs.all (fun v => v.state == .retired) then
      (s.record kid 3 (leBytes 8 k.tasks ++ leBytes 8 s.timer.toNat)).endKernel kid 3 0
    else s

/-! ### The frame tick -/

/-- One kernel at a package frame tick: KFRAME, then the releases that fall due (02 R28, R29). -/
def State.frameKernel (s : State) (kid : Nat) : State :=
  match s.kernel? kid with
  | none => s
  | some k =>
    match s.image? k.image with
    | none => s
    | some i =>
      if k.state ≠ 2 ∨ !k.holds then s
      else
        let s1 := s.kernelTick k i
        let s2 := (k.vcs.filter VCore.waits).foldl (fun s v => if s.kernelEnded kid then s else s.reassign kid i v.vdie v.vcore) s1
        match s2.kernel? kid with
        | none => s2
        | some k2 =>
          if k2.state ≠ 2 then s2
          else
            let go : List VCore := k2.vcs.filter (s2.releasable k2 i)
            ({ s2 with agenda := s2.agenda ++ go.map fun (v : VCore) =>
                Instr.taskRelease (BitVec.ofNat 16 kid) (BitVec.ofNat 8 v.vdie) (BitVec.ofNat 8 v.vcore) }).tryExit kid

/-- A package frame tick (02 R29), the tick of a second among them. -/
def execFrameTick (s0 : State) : Host.Outcome State Fault Refusal :=
  let f := s0.disp.frame + 1
  let s : State := { s0.at_ (f * Config.frameTicks) with disp := { s0.disp with frame := f } }
  let s1 := if s.serv.powered ∧ f * Config.frameTicks % secondTicks = 0 then { s with serv := s.serv.second } else s
  .next ((s1.disp.kernels.map (·.kid)).foldl State.frameKernel s1)

/-! ### Release -/

/-- An instruction memory filled from a code section, 0 past its end (02 R20). -/
def codeMemory (code : List Byte) : List Host.Cell := Memory.writeBytes [] 0 code

/-- A core as a release leaves it (02 R23): what does not come from the image is as at reset, but for what the core keeps from its
previous use: its global cache and translations, its CIM contents and self-test count, MTESTI and LODC; its timestamp comes after every earlier store
(11 R268, R272). -/
def Core.released (c : Core) (k : Kernel) (i : Image) (v : VCore) (now : Nat) (first : Bool) : Core :=
  let fresh := Core.reset c.die c.q
  let ord : Word64 := w64 v.pos
  let sregs := ((((fresh.c.prim.set 1 k.args).set 2 (w64 v.vcore)).set 3 (w64 v.vdie)).set 4 ord)
  let gregs := (fresh.l.g.set 1 k.args).set 2 ord
  let step : Step := { fresh.l with g := gregs, next := now, cond := .running none }
  { fresh with
    c := { fresh.c with prim := sregs, next := now, cond := .running none },
    l := step, x := step, s := step,
    m := { fresh.m with next := now, cim := c.m.cim, ops := c.m.ops, fenced := c.m.fenced },
    csr := { fresh.csr with seed := i.seeds, ctxid := k.ctx, mtesti := c.csr.mtesti,
                            lodcEvents := if first then 0 else c.csr.lodcEvents, lodcCycles := if first then 0 else c.csr.lodcCycles },
    gcache := c.gcache, pts := c.pts, tlb := c.tlb, div := k.div, fall := k.fallOf k.fall,
    imC := codeMemory (nth i.code 0 []), imL := codeMemory (nth i.code 1 []), imX := codeMemory (nth i.code 2 []),
    imS := codeMemory (nth i.code 3 []),
    task := some { kid := k.kid, vdie := v.vdie, vcore := v.vcore, ord := v.pos, run := v.run, args := k.args, state := .running,
                   pinned := false, buf := [], undo := [], nTfar := 0, forecast := none, declared := none, failing := false,
                   plain := false, wrote := [], exitPc := 0, lastEnd := none } }

/-- A task is released on its virtual core's physical core (02 R25, R28). -/
def execTaskRelease (kid : BitVec 16) (vdie vcore : BitVec 8) (s : State) : Host.Outcome State Fault Refusal :=
  match s.kernel? kid.toNat with
  | none => .next s
  | some k =>
    match s.image? k.image, k.vc? vdie.toNat vcore.toNat with
    | some i, some v =>
      if k.state = 2 ∧ k.holds ∧ s.releasable k i v then
        let first := v.run == 0 && i.nextFormed v.vdie v.vcore 0 == some v.pos
        .next (((s.updCoreAt v.die v.q fun c => c.released k i v s.now first).onCore v.die v.q State.seeAll).updKernel k.kid fun k =>
          k.updVc v.vdie v.vcore fun v => { v with state := .running })
      else .next s
    | _, _ => .next s

/-! ### The end of a splice -/

/-- A virtual core after its task retired: the next formed task is pending (02 R25). -/
def VCore.retire (v : VCore) (i : Image) : VCore :=
  let n := i.nextFormed v.vdie v.vcore (v.pos + 1)
  { v with pos := n.getD i.total, state := if n.isSome then .pending else .retired, run := 0, parked := none, forecast := none,
           rerun := none, awaits := none }

/-- The version of the snapshot layout (20 R337, R346). -/
abbrev snapVersion : Nat := 1

/-- A virtual core without a running task in a context image (20 R345, R346): its carry set, as its window holds it. -/
def State.carryImage (s : State) (kid : Nat) (i : Image) (v : VCore) : CtxImage :=
  ⟨snapVersion, kid, v.vdie, v.vcore, v.pos, none, windowCells s.mem (windowBase v.die v.q) i.carry⟩

/-- The last buffered effect commits: the task retires, its publications are owed, its core is free (02 R25; 10 R239; 11 R266).  One whose kernel yielded
its cores meanwhile leaves its carry image (20 R345). -/
def State.retireTask (s : State) : State :=
  match s.core.task with
  | none => s
  | some t0 =>
    let s1 := s.splice
    let t := s1.core.task.getD t0
    let s2 := s1.updKernel t.kid fun k =>
      { k with tasks := k.tasks + 1,
               hold := k.hold.map fun h => h.retire t.vdie t.vcore t.ord s.disp.frame,
               slots := k.slots.zipIdx.map fun p => if t.wrote.contains p.2 then { p.1 with owed := true } else p.1 }
    let s3 := match s2.myKernel.bind fun k => s2.image? k.image with
      | none => s2
      | some i =>
        let held := match s2.myKernel with | some k => k.holds | none => true
        s2.updMyVc fun v => let n := v.retire i; if held then n else { n with image := some (s2.carryImage t.kid i n) }
    (s3.updCore Core.vacate).tryExit t.kid

/-- The task may retire: every strand has ended, the matrix unit rests, no forecast is pending (02 R25; 10 R250). -/
def Core.spliced (c : Core) : Bool :=
  match c.task with
  | some t => t.state == .splicing && t.forecast.isNone && c.m.queue.isEmpty && c.m.results.isEmpty && !c.c.handler
  | none => false

/-- A splice completes (02 R25), unless it would publish a second version of a slot: then C takes cause 0x13 before it, and the task runs on (10
R239; 20 R336). -/
def execSpliceComplete (s : State) : Host.Outcome State Fault Refusal :=
  if !s.core.spliced then .next s
  else match s.twice with
    | some n => .next ((s.updTask fun t => { t with state := .running }).endTrap (w64 (0x100 + n)) s.now)
    | none => .next s.retireTask

/-! ### The cleat -/

/-- The cleat phase of a kernel is complete (02 R31) once the dispatcher knows of every arrival and of every expectation met: no forecasting task
of it waits for its verdict (10 R248). -/
def State.cleatReady (s : State) (k : Kernel) : Bool :=
  match s.image? k.image with
  | none => false
  | some i => k.state == 2 && k.holds && decide (k.phase < i.steps)
      && k.vcs.all fun v => v.arrived.isSome && v.met && (s.pendingOf k.kid v).isNone

/-- The tick at which the phase completes: the first at which a copy cycle of the dispatcher begins with everything known to it (02 R31). -/
def State.cleatTick (s : State) (k : Kernel) : Nat := k.copyTick (k.vcs.foldl (fun t v => Nat.max t v.heard) s.now)

/-- Divisors under which a kernel runs: a claimed domain at 5 while boost is granted, at 6 otherwise (22 R358, R359). -/
def Kernel.divNow (k : Kernel) (boosted : Bool) : Divs :=
  (List.range 4).foldl (fun d dom => if k.eff.get dom = 5 ∧ !boosted then d.set dom 6 else d) k.eff

/-- A kernel at new divisors: a transition is due when they differ (22 R362). -/
def Kernel.atDivs (k : Kernel) (boosted : Bool) (fall : Nat) : Kernel :=
  let d := k.divNow boosted
  { k with boosted := boosted, div := d, fall := fall, change := k.change || d != k.div || (fall == 0) != (k.fall == 0) }

/-- Requests of a phase take effect (06 R137; 22 R358): divisors, and claims made, kept or withdrawn. -/
def Kernel.applyRequests (k : Kernel) (now : Nat) : Kernel :=
  let eff := k.reqs.foldl (fun d r => d.set r.1 r.2) k.eff
  let wants := (List.range 4).any fun dom => eff.get dom = 5
  let had := (List.range 4).any fun dom => k.eff.get dom = 5
  let claims : List Claim := if !wants then [] else if had then k.claims else k.clusters.map fun p => ⟨p.1, p.2, now, false, false⟩
  ({ k with eff := eff, reqs := [], claims := claims }).atDivs (k.boosted && wants) (if wants then k.fall else 0)

/-- The kernel at the start of its next superstep: arrivals, expectations and landings counted anew, the dispatcher arriving for virtual cores
without a task in it, the identities of arrivals and expectations kept (02 R31, R32); histories as they stand (10 R240). -/
def Kernel.nextPhase (k : Kernel) (i : Image) : Kernel :=
  { k with phase := k.phase + 1,
           vcs := k.vcs.map fun v => { v with arrived := i.startArrival v.vdie v.vcore (k.phase + 1), expectSum := 0, landed := [],
                                              landedCount := 0 },
           slots := k.slots.map fun t => { t with atStart := (t.vers, t.newer, t.older), published := none } }

/-! ### Pre-emption (19 R323; 20 R345) -/

/-- Two kernels share a physical core. -/
def Kernel.meets (a b : Kernel) : Bool := a.vcs.any fun v => b.vcs.any fun u => u.die == v.die && u.q == v.q

/-- A kernel waits on the scoreboard for cores: its streams are resident, no replay holds it (19 R322, R329). -/
def State.waitsForCores (s : State) (k : Kernel) : Bool :=
  !k.holds && k.resident && (k.state == 1 || k.state == 2) && !(s.disp.replays.any fun r => r.kid == k.kid)

/-- Waiting kernels, the highest class first, in order of acceptance within a class (19 R323). -/
def State.waitingList (s : State) : List Kernel :=
  (List.range 4).flatMap fun c => s.disp.order.filterMap fun kid => (s.kernel? kid).bind fun k =>
    if k.cls == c && s.waitsForCores k then some k else none

/-- The waiter that takes cores from a holder at the completion of its phase: one on the scoreboard at the start of that copy cycle (19 R323). -/
def State.taker (s : State) (k : Kernel) : Option Kernel :=
  s.waitingList.find? fun w => decide (w.cls ≤ k.cls) && decide (w.accepted < s.now) && w.meets k

/-- The ranges of a window that hold its resources. -/
def fullRanges : List (Nat × Nat) := [(vrfBase, vrfSize), (spadBase, spadSize), (accBase, accSize)]

/-- Ranges of a window as saved cells hold them, 0 where none is listed. -/
def putCells (mem : List Host.Cell) (base : Nat) (ranges : List (Nat × Nat)) (cells : List Host.Cell) : List Host.Cell :=
  let bare := mem.filter fun c => !(ranges.any fun r => decide (base + r.1 ≤ c.1) && decide (c.1 < base + r.1 + r.2))
  cells.foldl (fun m c => Memory.write m (base + c.1) c.2) bare

/-- Remote writes of a kernel still in flight land (11 R263). -/
def State.landAll (s : State) (kid : Nat) : State :=
  (s.links.flying.filter fun f => f.kid == kid).foldl State.land
    { s with links := { s.links with flying := s.links.flying.filter fun f => f.kid != kid } }

/-- One virtual core's context image (20 R345, R346): full for a running task, which stops as by trap entry, a running factorisation word with its column
completed and its tile written back (08 R213); the carry set for a virtual core without a task.  A task that has ended its strands is not stopped: its
core is free once its splice is complete (02 R25). -/
def State.saveVc (s0 : State) (k : Kernel) (i : Image) (v : VCore) : State :=
  let c := s0.coreAt v.die v.q
  let base := windowBase v.die v.q
  let mine : Bool := match c.task with | some t => t.kid == k.kid | none => false
  if mine ∧ c.taskState = some .splicing then s0
  else if mine then
    let s := s0.onCore v.die v.q fun s =>
      let s1 := if s.core.handlerStop then s else (s.freezeCore .preempted).stopFactor
      s1.updCore fun c => { c with freeze := some .preempted }
    let stopped := s.coreAt v.die v.q
    let image : CtxImage := ⟨snapVersion, k.kid, v.vdie, v.vcore, v.pos, some stopped, windowCells s.mem base fullRanges⟩
    (s.updCoreAt v.die v.q Core.vacate).updKernel k.kid fun k => k.updVc v.vdie v.vcore fun v => { v with image := some image }
  else s0.updKernel k.kid fun k => k.updVc v.vdie v.vcore fun v => { v with image := some (s0.carryImage k.kid i v) }

/-- The holder yields every core to a waiter, with a record (19 R323, R326). -/
def State.yieldTo (s : State) (k w : Kernel) (phase : Nat) : State :=
  let s0 := s.landAll k.kid
  let s1 := match s0.image? k.image with
    | none => s0
    | some i => k.vcs.foldl (fun s v => s.saveVc k i v) s0
  let s2 := (s1.updKernel k.kid fun k => { k with holds := false, accepted := s.now }).record k.kid 4
    (leBytes 4 phase ++ leBytes 2 w.kid ++ leBytes 2 0 ++ leBytes 8 s.timer.toNat)
  { s2 with disp := { s2.disp with order := (s2.disp.order.filter (· != k.kid)) ++ [k.kid] } }

/-- A cleat phase completes (02 R31): the next superstep opens, requests take effect, and a waiter may take the cores. -/
def execCleatComplete (kid : BitVec 16) (s0 : State) : Host.Outcome State Fault Refusal :=
  match s0.kernel? kid.toNat, (s0.kernel? kid.toNat).bind fun k => s0.image? k.image with
  | some k, some i =>
    if !s0.cleatReady k then .next s0
    else
      let s := s0.at_ (s0.cleatTick k)
      let s1 := s.updKernel k.kid fun k => (k.nextPhase i).applyRequests s.now
      match s1.kernel? k.kid, s.taker k with
      | some k1, some w => .next (s1.yieldTo k1 w k.phase)
      | _, _ => .next s1
  | _, _ => .next s0

/-! ### kwait -/

/-- kwait completes once the last producer counts as triggered (19 R325). -/
def execKwaitRelease (s : State) : Host.Outcome State Fault Refusal :=
  if s.core.c.cond = .running (some .kwait) ∧ s.producersDone then .next ((s.at_ s.core.c.next).seeAll).cDone else .next s

end Sys2Proof.Machine
end

