-- ==== Sys2Proof/Machine/Loader.lean ====
section
/-!
DEFINITION. The loader (18 R306 to R316): an XEO object checked in four passes, relocated, placed and mapped.  A refusal names a
section kind and an offset.
-/
namespace Sys2Proof.Machine

/-- What a refusal names (18 R314): a section kind, 0x100 for the header and the section table, 0x101 for placement; an offset. -/
abbrev Bad := Nat × Nat

/-- The first condition of a list that holds. -/
def firstBad (l : List (Bool × Bad)) : Option Bad := (l.find? (·.1)).map (·.2)

/-- A section-table entry (18 R306). -/
structure Sect where
  kind : Nat
  size : Nat
  off  : Nat
  deriving DecidableEq

/-- An object in memory: what its bytes read as, and its sections in table order. -/
structure Obj where
  bytes : Nat → Nat → List Byte
  sects : List Sect

/-- A little-endian field of the object. -/
def Obj.nat (o : Obj) (a n : Nat) : Nat := leNat (o.bytes a n)

/-- The section of a kind. -/
def Obj.sect (o : Obj) (k : Nat) : Option Sect := o.sects.find? fun t => t.kind == k

/-- A section's size, 0 where it is absent. -/
def Obj.size (o : Obj) (k : Nat) : Nat := ((o.sect k).map (·.size)).getD 0

/-- A field of a section. -/
def Obj.field (o : Obj) (k a n : Nat) : Nat := match o.sect k with | some t => o.nat (t.off + a) n | none => 0

/-- A section's body. -/
def Obj.body (o : Obj) (k : Nat) : List Byte := match o.sect k with | some t => o.bytes t.off t.size | none => []

/-! ### Pass 1: header and section table (18 R306, R307), and the sizes that pass 2 checks -/

/-- The size of a section's body does not fit its kind: a fault of its contents (18 R307, R314). -/
def sizeBad (k n : Nat) : Bool :=
  if k ≤ 3 then n % 4 != 0 || n == 0 || decide (65536 < n)
  else if k = 5 then n % 64 != 0 || n == 0 || decide (65536 < n)
  else if k = 6 then n % 8 != 0 || n == 0 || decide (64 < n)
  else if k = 7 ∨ k = 9 then n % 4 != 0
  else if k = 8 then n % 8 != 0
  else if k = 10 then n % 4 != 0 || decide (64 < n)
  else if k = 11 then n % 16 != 0
  else false

/-- The header's checks. -/
def Obj.headerBad (o : Obj) : Option Bad :=
  firstBad [(o.nat 0 4 != 0x314F4558, (0x100, 0)), (o.nat 4 2 != 1, (0x100, 4)), (o.nat 6 2 == 0 || decide (16 < o.nat 6 2), (0x100, 6)),
    (o.nat 8 4 == 0 || decide (524288 < o.nat 8 4), (0x100, 8)), (o.nat 12 4 != 0, (0x100, 12)), (o.nat 48 16 != 0, (0x100, 48))]

/-- The section table's checks, entry by entry, then the kinds every object holds. -/
def Obj.tableBad (o : Obj) : Option Bad :=
  firstBad ((o.sects.zipIdx.flatMap fun p =>
      let e := 64 + 16 * p.2
      [(decide (12 < p.1.kind) || (o.sects.take p.2).any (fun t => t.kind == p.1.kind), (0x100, e)), (o.nat (e + 1) 3 != 0, (0x100, e + 1)),
       (p.1.off % 8 != 0, (0x100, e + 8))])
    ++ [([0, 1, 2, 3, 6].any fun k => (o.sect k).isNone, (0x100, 6))])

/-! ### Pass 2: contents (18 R308 to R311) -/

/-- A tile-handle entry (18 R308). -/
def Obj.handle (b : List Byte) : Handle :=
  let f := fun a n => leNat ((b.drop a).take n)
  { base := f 0 8, rows := f 8 2 + 1, cols := f 10 2 + 1, stride := f 12 4, type_ := f 16 1 % 16, tag := f 17 2,
    fslot := if bitOf (f 19 1) 6 then some (f 19 1 % 64) else none, vers := 0, scale := f 24 8 }

/-- Entry i of the handle section. -/
def Obj.entry (o : Obj) (i : Nat) : Handle := Obj.handle (match o.sect 5 with | some t => o.bytes (t.off + 64 * i) 64 | none => [])

/-- An HSCALE record names entry i (18 R312). -/
def Obj.scaled (o : Obj) (i : Nat) : Bool :=
  (List.range (o.size 11 / 16)).any fun r => o.field 11 (16 * r) 4 == 64 * i && o.field 11 (16 * r + 4) 1 == 5 && o.field 11 (16 * r + 5) 1 == 5

/-- The checks of the handle section. -/
def Obj.handlesBad (o : Obj) : List (Bool × Bad) :=
  (List.range (o.size 5 / 64)).flatMap fun i =>
    let h := o.entry i
    let at_ := 64 * i
    let slot := o.field 5 (at_ + 19) 1 % 64
    [(decide (2 ^ 52 ≤ h.base) || (h.type_ == tMx6 && h.cols % 4 != 0) || (decide (h.type_ ≤ 12) && decide (h.stride < h.rowBytes))
        || decide (12 < h.type_) || Machine.field h.tag 5 3 != 0
        || (match h.fslot with
            | none => slot != 0
            | some n => decide (2 ^ 20 < h.storedBytes) || (List.range i).any fun j => (o.entry j).fslot == some n)
        || isMx h.type_ != (h.scale != 0 || o.scaled i), ((5, at_) : Bad))]

/-- The levels of the loop table (18 R309). -/
def Obj.levels (o : Obj) : List Level :=
  (List.range (o.size 6 / 8)).map fun i =>
    let v := o.field 6 (8 * i) 8
    ⟨Machine.field v 40 24 + 1, v % 4, bitOf v 2, bitOf v 3⟩

/-- An image with the loop table and the timetable of an object, for the numbers of 18 R309 and R316. -/
def Obj.shape (o : Obj) : Image :=
  let base : Image := { id := 0, ctx := 0, name := [], code := [], dataBase := 0, dataSize := 0, handles := [], levels := o.levels,
                        ticks := [], carry := [], ragged := [], after := [], seeds := Vector.replicate 8 0, place := [] }
  { base with ticks := if (o.sect 7).isNone then List.replicate base.inner 0 else (List.range (o.size 7 / 4)).map fun i => o.field 7 (4 * i) 4 }

/-- The checks of the loop table in ascending offset, those of the whole table at its first byte (18 R309, R310, R314, R316). -/
def Obj.levelsBad (o : Obj) (dies : Nat) : List (Bool × Bad) :=
  let ls := o.levels
  let i := o.shape
  let sup := ls.findIdx? (·.super)
  [(decide (30 < i.vcores) || decide (dies < i.vdies) || decide (65536 < i.inner)
      || decide (2 ^ 63 ≤ (i.steps - 1) * i.span + i.ticks.foldl Nat.max 0), (6, 0))]
  ++ (ls.zipIdx.flatMap fun p =>
    let before := ls.take p.2
    [(p.1.kind == 3 || (p.1.super && (p.1.kind != 0 || before.any (·.super)))
      || (p.1.ragged && (p.1.kind != 0 || before.any (·.ragged) || (match sup with | some n => decide (p.2 < n) | none => false))),
      ((6, 8 * p.2) : Bad))])
  ++ [(ls.any (·.ragged) && (o.sect 9).isNone, (9, 0))]

/-- A carry-set range as space, offset and size (18 R311). -/
def Obj.range (o : Obj) (i : Nat) : Nat × Nat × Nat :=
  let v := o.field 8 (8 * i) 8
  (Machine.field v 56 8, Machine.field v 32 24, Machine.field v 0 32)

/-- Size of a space, and its offset in a core's window (11 R257). -/
def spaceOf (n : Nat) : Nat × Nat := if n = 0 then (vrfSize, vrfBase) else if n = 1 then (spadSize, spadBase) else (accSize, accBase)

/-- The checks of the carry set. -/
def Obj.carryBad (o : Obj) : List (Bool × Bad) :=
  (List.range (o.size 8 / 8)).map fun i =>
    let r := o.range i
    let before := (List.range i).map o.range
    (decide (2 < r.1) || r.2.1 % 1024 != 0 || r.2.2 % 1024 != 0 || r.2.2 == 0 || decide ((spaceOf r.1).1 < r.2.1 + r.2.2)
      || before.any (fun q => q.1 == r.1 && decide (q.2.1 < r.2.1 + r.2.2) && decide (r.2.1 < q.2.1 + q.2.2))
      || decide (2 ^ 20 < before.foldl (fun a q => a + q.2.2) r.2.2), (8, 8 * i))

/-- The checks of the ragged counts (18 R310). -/
def Obj.raggedBad (o : Obj) : List (Bool × Bad) :=
  match o.levels.find? (·.ragged) with
  | none => []
  | some l =>
    (o.size 9 != 4 * (o.shape.vdies * o.shape.vcores), ((9, 0) : Bad))
      :: (List.range (o.size 9 / 4)).map fun i => (decide (l.count < o.field 9 (4 * i) 4), (9, 4 * i))

/-- A NUL-terminated name at an offset of the names section. -/
def Obj.name (o : Obj) (a : Nat) : List Byte := ((o.body 12).drop a).takeWhile (· != 0)

/-- The names on the after list. -/
def Obj.afterNames (o : Obj) : List (List Byte) := (List.range (o.size 10 / 4)).map fun i => o.name (o.field 10 (4 * i) 4)

/-- The checks of the after list (18 R307, R314): an offset in the names section, and a name of an image loaded in the context. -/
def Obj.afterBad (o : Obj) (images : List Image) (ctx : BitVec 16) : List (Bool × Bad) :=
  o.afterNames.zipIdx.map fun p =>
    (decide (o.size 12 ≤ o.field 10 (4 * p.2) 4) || !(images.any fun i => i.ctx == ctx && i.name == p.1), (10, 4 * p.2))

/-- The check of the names section (18 R307): every name is NUL-terminated; a refusal names the start of the one that is not. -/
def Obj.namesBad (o : Obj) : List (Bool × Bad) :=
  let b := o.body 12
  let tail := (b.reverse.takeWhile (· != 0)).length
  [(b.isEmpty || tail != 0, (12, b.length - tail))]

/-- Pass 2, in section-table order. -/
def Obj.contentsBad (o : Obj) (images : List Image) (ctx : BitVec 16) (dies : Nat) : Option Bad :=
  firstBad (o.sects.flatMap fun t =>
    (sizeBad t.kind t.size, ((t.kind, 0) : Bad)) :: (
    if t.kind = 5 then o.handlesBad
    else if t.kind = 6 then o.levelsBad dies
    else if t.kind = 7 then [(o.size 7 != 4 * o.shape.inner, (7, 0))]
    else if t.kind = 8 then o.carryBad
    else if t.kind = 9 then o.raggedBad
    else if t.kind = 10 then o.afterBad images ctx
    else if t.kind = 12 then o.namesBad
    else []))

/-! ### Pass 3: relocation (18 R312, R313) -/

/-- A relocation record: offset, section kind, relocation kind, reserved bytes, addend. -/
structure Reloc where
  off    : Nat
  sect   : Nat
  kind   : Nat
  resv   : Nat
  addend : Int

/-- The records of an object. -/
def Obj.relocs (o : Obj) : List Reloc :=
  (List.range (o.size 11 / 16)).map fun i =>
    ⟨o.field 11 (16 * i) 4, o.field 11 (16 * i + 4) 1, o.field 11 (16 * i + 5) 1, o.field 11 (16 * i + 6) 2, toI 64 (o.field 11 (16 * i + 8) 8)⟩

/-- lo(x) of 03 R55, and hi(x). -/
def loOf (x : Int) : Int := toI 15 (ofI 15 x)
def hiOf (x : Int) : Nat := ofI 20 ((x - loOf x) / 2 ^ 15)

/-- A C opcode of the I format (05 R86), and lui or apc. -/
def iFormat (op : Nat) : Bool :=
  (decide (1 ≤ op) && decide (op ≤ 9)) || (decide (0x10 ≤ op) && decide (op ≤ 0x1B)) || op == 0x27
    || (decide (0x35 ≤ op) && decide (op ≤ 0x37)) || (decide (0x40 ≤ op) && decide (op ≤ 0x49)) || (decide (0x53 ≤ op) && decide (op ≤ 0x5B))
def uFormat (op : Nat) : Bool := op == 0x0A || op == 0x0B

/-- Bytes of a list replaced from a place on. -/
def patch (l : List Byte) (a : Nat) (b : List Byte) : List Byte := l.take a ++ b ++ l.drop (a + b.length)

/-- A record's effect on its section's bytes, or none where it breaks R312 or its range check; ABS32 and ABS64 patch any section, in code a
whole word (03 R58). -/
def Reloc.apply (r : Reloc) (x : Int) (body : List Byte) : Option (List Byte) :=
  let word := leNat ((body.drop r.off).take 4)
  let inside := fun (n : Nat) => decide (r.off + n ≤ body.length)
  let range := fun (b : Nat) => decide (0 ≤ x) && decide (x < (2 ^ b : Nat))
  let op := word / 2 ^ 25
  let atWord := decide (3 < r.sect) || r.off % 4 == 0
  if r.resv ≠ 0 then none
  else if r.kind = 0 then
    if r.sect = 0 ∧ r.off % 4 = 0 ∧ inside 4 ∧ iFormat op then some (patch body r.off (leBytes 4 (word / 2 ^ 15 * 2 ^ 15 + ofI 15 x))) else none
  else if r.kind = 1 then
    let d := x - loOf x
    if r.sect = 0 ∧ r.off % 4 = 0 ∧ inside 4 ∧ uFormat op ∧ -(2 ^ 34 : Int) ≤ d ∧ d ≤ 2 ^ 34 - 2 ^ 15 then
      some (patch body r.off (leBytes 4 (word / 2 ^ 20 * 2 ^ 20 + hiOf x))) else none
  else if r.kind = 2 then if inside 4 ∧ atWord ∧ range 32 then some (patch body r.off (leBytes 4 x.toNat)) else none
  else if r.kind = 3 then if inside 8 ∧ atWord ∧ range 52 then some (patch body r.off (leBytes 8 x.toNat)) else none
  else if r.kind = 4 then if r.sect = 5 ∧ r.off % 64 = 0 ∧ inside 64 ∧ range 52 then some (patch body r.off (leBytes 8 x.toNat)) else none
  else if r.kind = 5 then if r.sect = 5 ∧ r.off % 64 = 0 ∧ inside 64 ∧ range 52 then some (patch body (r.off + 24) (leBytes 8 x.toNat)) else none
  else none

/-- Every record applied in order to the bodies of sections 0 to 5, or what the first that fails names. -/
def relocate (dataBase : Nat) : List Reloc → List (List Byte) → Except Bad (List (List Byte))
  | [], bodies => .ok bodies
  | r :: rest, bodies =>
    match bodies[r.sect]? with
    | none => .error (r.sect, r.off)
    | some b =>
      match r.apply ((dataBase : Int) + r.addend) b with
      | none => .error (r.sect, r.off)
      | some b' => relocate dataBase rest (setNth bodies r.sect b')

/-! ### Pass 4: placement (18 R315; 17 R301) -/

/-- The virtual cores of a die on its cores, a core that is not ready replaced by a ready spare, 30 first. -/
def State.placeCores (s : State) (d : Nat) : List Nat → List Nat → Option (List (Nat × Nat))
  | [], _ => some []
  | v :: rest, spares =>
    if s.coreReady d v then (s.placeCores d rest spares).map ((d, v) :: ·)
    else match spares with
      | [] => none
      | q :: more => (s.placeCores d rest more).map ((d, q) :: ·)

/-- The cores of an assignment of virtual dies, if every pair keeps its travel time. -/
def State.placeAll_ (s : State) (vc : Nat) (dies : List (Nat × Nat)) : Option (List (Nat × Nat)) :=
  let parts := dies.map fun p => s.placeCores p.2 (List.range vc) ([30, 31].filter fun q => s.coreReady p.2 q && decide (vc ≤ q))
  if parts.any (·.isNone) then none
  else
    let place := parts.flatMap (·.getD [])
    if placeOk (place.zipIdx.map fun p => ((p.2 / vc, p.2 % vc), asReplaced (p.2 % vc) p.1.1 p.1.2)) then some place else none

/-- The first assignment of virtual dies to dies under which the placement stands, one virtual die at a time: a part of it that does not stand is
not carried on. -/
def assignDies (ok : List (Nat × Nat) → Option (List (Nat × Nat))) : List (Nat × List Nat) → List (Nat × Nat) → Option (List (Nat × Nat))
  | [], acc => ok acc.reverse
  | (u, l) :: rest, acc => l.findSome? fun d =>
      if acc.any (fun p => p.2 == d) || (ok ((u, d) :: acc).reverse).isNone then none else assignDies ok rest ((u, d) :: acc)

/-- The placement of a grid (18 R315): the default dies, any that is not ready replaced by the other ready dies in ascending order; where none
such is accepted though one is not ready, any accepted placement on the ready dies, the default dies tried first (17 R301; log 56). -/
def State.placement (s : State) (vd vc : Nat) : Option (List (Nat × Nat)) :=
  let pick := fun (others : Bool) => assignDies (s.placeAll_ vc) ((List.range vd).map fun u =>
    let d := 6 * dieRow u + dieColumn u
    let rest := (List.range 24).filter fun e => s.dieReady e && e != d
    (u, if s.dieReady d then (if others then d :: rest else [d]) else rest)) []
  (pick false).orElse fun _ =>
    if (List.range vd).all fun u => s.dieReady (6 * dieRow u + dieColumn u) then none else pick true

/-! ### The data section (18 R313) -/

/-- Frame n that the loader takes for pages and tables: 64 KiB each from 56 GiB of stack 0 on.  DESIGN CHOICE (log 20). -/
def poolFrame (n : Nat) : Nat := 0xE00000000 + n * 65536

/-- The first n free pages in a row from page p on: not mapped, and not in the window region (11 R261). -/
def State.freePages (s : State) (ctx : BitVec 16) (n : Nat) : Nat → Nat → Option Nat
  | 0, _ => none
  | fuel + 1, p =>
    if (List.range n).all fun i =>
        let a := (p + i) * 65536
        !(decide (windowSpace ≤ a) && decide (a < 0xC000000000000)) && s.walk ctx a == .absent then some p else s.freePages ctx n fuel (p + 1)

/-- A page mapped with RD and WR in a table of a level, tables taken from the pool where none stand (11 R259, R260). -/
def State.mapPage (s : State) (va frame : Nat) : Nat → Nat → State
  | 0, _ => s
  | lvl + 1, table =>
    let at_ := table + va / 2 ^ levelShift lvl % 512 * 8
    let e := Memory.readNat s.mem at_ 8
    if lvl = 0 then s.pokeBytes false at_ (leBytes 8 (frame + 15))
    else if bitOf e 0 then s.mapPage va frame lvl (Machine.field e 12 40 * 4096)
    else
      let t := poolFrame s.disp.pool
      (({ s with disp := { s.disp with pool := s.disp.pool + 1 } }).pokeBytes false at_ (leBytes 8 (t + 1))).mapPage va frame lvl t

/-- The data section mapped and filled, page by page. -/
def State.mapData (s : State) (root : Nat) (va : Nat) : List (List Byte) → State
  | [] => s
  | b :: rest =>
    let f := poolFrame s.disp.pool
    let s1 := ({ s with disp := { s.disp with pool := s.disp.pool + 1 } }).mapPage va f 4 root
    (s1.pokeBytes false f (b ++ List.replicate (65536 - b.length) 0)).mapData root (va + 65536) rest

/-! ### LOAD -/

/-- A section's body runs past the end of the object (18 R314): an address of it that the context has no readable byte at (log 20). -/
def State.pastEnd (s : State) (ctx : BitVec 16) (a0 : Nat) (o : Obj) : Option Bad :=
  firstBad (o.sects.zipIdx.map fun p =>
    let lo := a0 + p.1.off
    let pages := if p.1.size = 0 then [] else (List.range ((lo + p.1.size - 1) / 65536 - lo / 65536 + 1)).map fun i => Nat.max lo ((lo / 65536 + i) * 65536)
    (pages.any fun a => decide (2 ^ 52 ≤ a) || (s.agentPa ctx a false).isNone, ((0x100, 64 + 16 * p.2 + 8) : Bad)))

/-- What a load comes to: the machine with the image, or what the refusal names. -/
def State.loadObject (s : State) (ctx : BitVec 16) (a0 root : Nat) : Except Bad (State × Nat) :=
  let bytes := fun (a n : Nat) => s.agentLoad ctx (a0 + a) n
  let head : Obj := ⟨bytes, []⟩
  match head.headerBad with
  | some b => .error b
  | none =>
    let o : Obj := ⟨bytes, (List.range (head.nat 6 2)).map fun i => ⟨head.nat (64 + 16 * i) 1, head.nat (68 + 16 * i) 4, head.nat (72 + 16 * i) 8⟩⟩
    match o.tableBad.orElse fun _ => s.pastEnd ctx a0 o with
    | some b => .error b
    | none =>
      match o.contentsBad s.disp.images ctx (if s.full then 24 else 20) with
      | some b => .error b
      | none =>
        let n := ceilDiv (o.size 4) 65536
        match s.freePages ctx (Nat.max 1 n) (2 ^ 36) 1 with
        | none => .error (4, 0)
        | some page =>
          let bodies := (List.range 6).map o.body
          match relocate (page * 65536) o.relocs bodies with
          | .error b => .error b
          | .ok r =>
            let g := o.shape
            match s.placement g.vdies g.vcores with
            | none => .error (0x101, 0)
            | some place =>
              let id := s.disp.nextImage
              let image : Image := { g with
                id := id, ctx := ctx, name := o.name 0, code := r.take 4, dataBase := page * 65536, dataSize := o.size 4,
                handles := (pieces 64 1024 (nth r 5 [])).map Obj.handle,
                carry := (List.range (o.size 8 / 8)).map fun i => let c := o.range i; ((spaceOf c.1).2 + c.2.1, c.2.2),
                ragged := (List.range (o.size 9 / 4)).map fun i => o.field 9 (4 * i) 4, after := o.afterNames,
                seeds := Vector.ofFn fun i => BitVec.ofNat 32 (o.nat (16 + 4 * i.val) 4), place := place }
              let total := o.sects.foldl (fun a t => Nat.max a (t.off + t.size)) (64 + 16 * o.sects.length)
              let log := (sha384 (s.serv.mlog ++ (sha384 (bytes 0 total)).toList)).toList
              let s1 := s.mapData root (page * 65536) (pieces 65536 n (nth r 4 []))
              .ok ({ s1 with disp := { s1.disp with images := s1.disp.images ++ [image], nextImage := id + 1 },
                             serv := { s1.serv with mlog := log, measured := s1.serv.measured + 1 } }, id)

end Sys2Proof.Machine
end

