-- ==== Sys2Proof/Machine/EvDispatch.lean ====
section
/-!
DEFINITION. Commands of the host (19 R317, R318): the poll of the ring, LOAD, LAUNCH, STREAM, RECORD, RECEND, DROP, ABORT and UNLOAD
with their results; staged streams (R321); and the issue of a kernel to its cores (R322; 20 R345, R346).
-/
namespace Sys2Proof.Machine

/-! ### The command area (19 R317) -/

/-- A field of the command area's header. -/
def State.cmdHeader (s : State) (a n : Nat) : Nat := Memory.readNat s.mem (s.host.cmdbase.toNat + a) n

/-- PROD, CONS and NENT. -/
def State.cmdProd (s : State) : Nat := s.cmdHeader 0 8
def State.cmdCons (s : State) : Nat := s.cmdHeader 8 8
def State.cmdSize (s : State) : Nat := s.cmdHeader 16 4

/-- The ring is set up. -/
def State.cmdRing (s : State) : Bool := pow2In 16 4096 s.cmdSize

/-- Entries written and not yet completed. -/
def State.cmdPending (s : State) : Nat := (s.cmdProd + 2 ^ 64 - s.cmdCons) % 2 ^ 64

/-- Address of the entry of a count. -/
def State.cmdEntry (s : State) (n : Nat) : Nat := s.host.cmdbase.toNat + 64 + 64 * (n % s.cmdSize)

/-- A command's entry completed (19 R318): RESULT, CSTAT and the bytes after it as one store, then CONS. -/
def State.finishCmd (s : State) (c : Cmd) (result code : Nat) : State :=
  if !s.cmdRing then s
  else
    (s.pokeBytes false (s.cmdEntry s.cmdCons + 32) (leBytes 8 result ++ leBytes 8 (c.tag.toNat * 2 ^ 32 + code) ++ leBytes 16 0)).pokeBytes false
      (s.host.cmdbase.toNat + 8) (leBytes 8 (s.cmdCons + 1))

/-- The command that an entry holds (19 R318). -/
def commandOf (resv : Nat) (c : Cmd) : Instr :=
  if resv ≠ 0 then .reservedCommand c
  else if c.op = 1 then .load c
  else if c.op = 2 then .cmdLaunch c
  else if c.op = 3 then .cmdStream c
  else if c.op = 4 then .record c
  else if c.op = 5 then .recend c
  else if c.op = 6 then .drop c
  else if c.op = 7 then .abort c
  else if c.op = 8 then .unload c
  else .reservedCommand c

/-- The supervisor reads PROD (19 R317): out of range it stops taking commands and says so; else the first pending entry is taken. -/
def execCommandRingPoll (s : State) : Host.Outcome State Fault Refusal :=
  if !s.cmdRing then .next s
  else if s.cmdSize < s.cmdPending then
    .next (if s.disp.ringStop then s else ({ s with disp := { s.disp with ringStop := true } }).raiseFault 0)
  else
    let s1 := { s with disp := { s.disp with ringStop := false } }
    if s.cmdPending = 0 then .next s1
    else
      let a := s.cmdEntry s.cmdCons
      let f := fun (o n : Nat) => Memory.readNat s.mem (a + o) n
      let c : Cmd := ⟨BitVec.ofNat 16 (f 0 2), BitVec.ofNat 32 (f 4 4), w64 (f 8 8), w64 (f 16 8), w64 (f 24 8)⟩
      .next { s1 with agenda := s1.agenda ++ [commandOf (f 2 2) c] }

/-- The context a command names, and whether it has a root table. -/
def cmdCtx (c : Cmd) : BitVec 16 := c.a1.truncate 16
def State.knownCtx (s : State) (ctx : BitVec 16) : Bool := s.xlat.roots.any fun r => r.1 == ctx

/-- A command with a context: code 2 where the context is unknown. -/
def State.inContext (s : State) (c : Cmd) (k : BitVec 16 → State) : Host.Outcome State Fault Refusal :=
  .next (if s.knownCtx (cmdCtx c) then k (cmdCtx c) else s.finishCmd c 0 2)

/-! ### LOAD and LAUNCH -/

/-- LOAD (19 R318; 18 R314): the first in a context fixes its root table; a refused one changes nothing else than its entry. -/
def execLoad (c : Cmd) (s : State) : Host.Outcome State Fault Refusal :=
  let go := fun (s1 : State) (root : Nat) =>
    match s1.loadObject (cmdCtx c) c.a0.toNat root with
    | .ok r => r.1.finishCmd c r.2 0
    | .error b => s.finishCmd c (b.1 * 2 ^ 32 + b.2 % 2 ^ 32) 3
  match s.xlat.roots.find? fun r => r.1 == (cmdCtx c) with
  | some r => .next (if r.2 = c.a2.toNat then go s r.2 else s.finishCmd c 0 2)
  | none => .next (go { s with xlat := { s.xlat with roots := s.xlat.roots ++ [((cmdCtx c), c.a2.toNat)] } } c.a2.toNat)

/-- The open segment of a context (19 R327). -/
def State.openSegment (s : State) (ctx : BitVec 16) : Option Segment := s.disp.segments.find? fun g => g.isOpen && g.ctx == ctx

/-- One segment changed. -/
def State.updSegment (s : State) (g : Segment) (f : Segment → Segment) : State :=
  { s with disp := { s.disp with segments := updFirst (fun h => h.id == g.id && h.ctx == g.ctx) f s.disp.segments } }

/-- LAUNCH (19 R319, R327): an accepted launch is copied into the context's open segment, which holds at most 64. -/
def execCmdLaunch (c : Cmd) (s : State) : Host.Outcome State Fault Refusal :=
  s.inContext c fun ctx =>
    let desc := s.agentLoad ctx c.a0.toNat 64
    let r := s.acceptLaunch ctx desc 0 true none none
    let image := (s.descriptor ctx desc).image
    let s1 := r.1.replayPump
    match (if r.2 = 0 then none else s1.openSegment ctx) with
    | none => s1.finishCmd c r.2 0
    | some g =>
      if 64 ≤ g.items.length then s1.finishCmd c r.2 5
      else (s1.updSegment g fun g => { g with items := g.items ++ [⟨desc, image, r.2, ctx⟩] }).finishCmd c r.2 0

/-- STREAM (19 R318, R321): the ranges of its list are staged and not pinned.  The command gives no NSTREAM: its list is taken to have the form of the
stream word's, a count first (DESIGN CHOICE, log 44). -/
def execCmdStream (c : Cmd) (s : State) : Host.Outcome State Fault Refusal :=
  s.inContext c fun ctx => (s.streamWord ctx c.a0.toNat).finishCmd c 0 0

/-! ### Segments and marks (19 R327, R328) -/

/-- RECORD opens a segment, which replaces one of the same id. -/
def execRecord (c : Cmd) (s : State) : Host.Outcome State Fault Refusal :=
  s.inContext c fun ctx =>
    let id := field c.a0.toNat 0 8
    let rest := s.disp.segments.filter fun g => !(g.id == id && g.ctx == ctx)
    if (s.openSegment ctx).isSome then s.finishCmd c 0 6
    else if 256 ≤ rest.length then s.finishCmd c 0 5
    else ({ s with disp := { s.disp with segments := rest ++ [(Segment.mk id ctx true [])] } }).finishCmd c 0 0

/-- RECEND closes the open segment. -/
def execRecend (c : Cmd) (s : State) : Host.Outcome State Fault Refusal :=
  s.inContext c fun ctx =>
    match s.openSegment ctx with
    | none => s.finishCmd c 0 6
    | some g => (s.updSegment g fun g => { g with isOpen := false }).finishCmd c g.items.length 0

/-- DROP marks a range as dropped. -/
def execDrop (c : Cmd) (s : State) : Host.Outcome State Fault Refusal :=
  s.inContext c fun ctx =>
    let id := field c.a1.toNat 16 8
    match s.disp.segments.find? fun g => g.id == id && g.ctx == ctx with
    | none => s.finishCmd c 0 4
    | some g =>
      if g.items.any fun r => (s.image? r.image).isNone then s.finishCmd c 0 4
      else if 256 ≤ s.disp.marks.length then s.finishCmd c 0 5
      else ({ s with disp := { s.disp with marks := s.disp.marks ++ [(Mark.mk ctx c.a0.toNat c.a2.toNat id)] } }).finishCmd c 0 0

/-! ### ABORT and UNLOAD -/

/-- ABORT (19 R324). -/
def execAbort (c : Cmd) (s : State) : Host.Outcome State Fault Refusal :=
  let kid := field c.a0.toNat 0 16
  .next (if s.kernelEnded kid then s.finishCmd c 0 4 else (s.killKernel kid 5 0).finishCmd c 0 0)

/-- UNLOAD (19 R318): refused while a kernel of the image lives, or a dropped range needs a segment that launches it. -/
def execUnload (c : Cmd) (s : State) : Host.Outcome State Fault Refusal :=
  let id := c.a0.toNat
  let live := s.disp.kernels.any fun k => k.image == id && decide (k.state < 3)
  let needed := s.disp.segments.any fun g => g.items.any (fun r => r.image == id) && s.disp.marks.any fun m => m.seg == g.id && m.ctx == g.ctx
  .next (
    if (s.image? id).isNone ∨ live then s.finishCmd c 0 4
    else if needed then s.finishCmd c 0 6
    else ({ s with disp := { s.disp with images := s.disp.images.filter fun i => i.id != id } }).finishCmd c 0 0)

/-- A reserved OP or a nonzero reserved field completes with code 1 (19 R318). -/
def execReservedCommand (c : Cmd) (s : State) : Host.Outcome State Fault Refusal := .next (s.finishCmd c 0 1)

/-! ### Streams (19 R321) -/

/-- Half of the grade's last-level cache. -/
def State.pinLimit (s : State) : Nat := (if s.full then 1536 else 1280) * 2 ^ 20

/-- Bytes pinned by kernels that have not ended. -/
def State.pinned (s : State) : Nat :=
  (s.disp.kernels.filter fun k => k.resident && decide (k.state < 3)).foldl (fun a k => a + streamTotal k.streams) 0

/-- A kernel's streams may become resident. -/
def State.mayPin (s : State) (k : Kernel) : Bool :=
  !k.resident && decide (k.state < 3) && decide (s.pinned + streamTotal k.streams ≤ s.pinLimit)

/-- A kernel's streams are resident: every sector of every range is filled at its home, and pinned until the kernel exits. -/
def execStreamResident (kid : BitVec 16) (s : State) : Host.Outcome State Fault Refusal :=
  match s.kernel? kid.toNat with
  | none => .next s
  | some k => .next (if s.mayPin k then (s.stage k.ctx [k.kid] k.streams).updKernel k.kid fun k => { k with resident := true } else s)

/-! ### Issue (19 R322) -/

/-- Every core of a kernel's placement is free: no kernel holds it, no task runs on it, no waiter before the kernel asks for it. -/
def State.mayIssue (s : State) (k : Kernel) : Bool :=
  s.waitsForCores k && (s.image? k.image).isSome
    && !(s.disp.kernels.any fun o => o.kid != k.kid && o.holds && decide (o.state < 3) && o.meets k)
    && k.vcs.all (fun v => (s.coreAt v.die v.q).task.isNone && !(s.coreAt v.die v.q).halted)
    && !((s.waitingList.takeWhile fun w => w.kid != k.kid).any fun w => w.meets k)

/-- The CIM macros loaded again from the resident-B record's home, with its type, SP and SCALEM (20 R346; 08 R189); they keep what they held where
that cannot be read. -/
def State.reloadCim (s : State) : State :=
  let r := s.core.m.resB
  if !r.loaded then s
  else match s.startMldb r.home (w64 (r.sp * 2 ^ 18 + r.scalem * 2 ^ 16)) r.row0 r.col0 none 0 0 with
    | .ok s1 => s.updM fun m => { m with cim := s1.core.m.cim }
    | _ => s

/-- An image may not be restored on the core that now holds its virtual core (20 R346; 08 R213): another snapshot version, or a factorisation tile
that only the core it was taken from holds. -/
def CtxImage.foreign (m : CtxImage) (v : VCore) : Bool :=
  m.snapver != snapVersion || (match m.core with
    | some c => c.m.factor.isSome && c.m.mrem.getLsbD 63 && !(c.die == v.die && c.q == v.q)
    | none => false)

/-- One virtual core's image restored where it now stands (20 R345, R346): a stopped task goes on as after rett, its macros loaded again but where
they alone hold the tile (08 R213, R214). -/
def State.restoreVc (s : State) (i : Image) (v : VCore) : State :=
  let base := windowBase v.die v.q
  match v.image with
  | none => s
  | some m =>
    match m.core with
    | none => { s with mem := putCells s.mem base i.carry m.cells }
    | some c =>
      let s1 := { s with mem := putCells s.mem base fullRanges m.cells }
      let here := s1.coreAt v.die v.q
      (s1.putCore { c with die := v.die, q := v.q, gcache := here.gcache, pts := here.pts, tlb := here.tlb, sup := false,
                           m := { c.m with ops := here.m.ops, fenced := here.m.fenced } }).onCore v.die v.q
        fun s =>
          let s2 := if c.m.factor.isSome && c.m.mrem.getLsbD 63 then s else s.reloadCim
          let s3 := if s2.core.handlerStop then s2 else s2.updM Matrix.resume
          s3.unfreeze

/-- Virtual cores whose cores left service while their kernel waited have others before it takes them (19 R320; 23 R374; 08 R199). -/
def State.reassignAll (s : State) (k : Kernel) (i : Image) : State :=
  k.vcs.foldl (fun s v => if s.kernelEnded k.kid then s else s.reassign k.kid i v.vdie v.vcore) s

/-- A kernel takes its cores at the first copy cycle of die 0 at which it may (19 R322): STATE 2 the first time; a pre-empted one is restored, or ends
as ABORT does where an image of it cannot be (20 R346). -/
def execKernelIssue (kid : BitVec 16) (s0 : State) : Host.Outcome State Fault Refusal :=
  match s0.kernel? kid.toNat with
  | none => .next s0
  | some k =>
    match s0.image? k.image with
    | none => .next s0
    | some i =>
      if !s0.mayIssue k then .next s0
      else
        let s := (s0.at_ (copyTick0 s0.now)).reassignAll k i
        let k := (s.kernel? k.kid).getD k
        if s.kernelEnded k.kid then .next s
        else if k.vcs.any fun v => (v.image.map fun m => m.foreign v).getD false then .next (s.killKernel k.kid 5 0)
        else
          let s1 := s.updKernel k.kid fun k => { k with holds := true, since := (if k.state = 1 then s.now else k.since),
                                                        vcs := k.vcs.map fun v => { v with image := none } }
          let s2 := if k.state = 1 then s1.setKernelState k.kid 2 0 else s1
          .next (k.vcs.foldl (fun s v => s.restoreVc i v) s2)

end Sys2Proof.Machine
end

