-- ==== Sys2Proof/Machine/EvPower.lean ====
section
/-!
DEFINITION. Clocks, power and time (22): frequency transitions (R362), boost grants, refills and falls (R358 to R361), the timer's
discipline and steps (R363, R364), lock, and the moment at which the supervisor is ready (R365).
-/
namespace Sys2Proof.Machine

/-! ### READY (21 R348) -/

/-- A bit of the READY map set or cleared; the generation count rises when it changes. -/
def State.setReady (s : State) (dw bit : Nat) (v : Bool) : State :=
  if h : dw < 8 then
    let old := s.host.ready[dw]
    if old.getLsbD bit = v then s
    else
      let mask : Word64 := w64 (2 ^ bit)
      let r := s.host.ready.set dw (old ^^^ mask)
      { s with host := { s.host with ready := r.set 7 (r[7] + 1) } }
  else s

/-! ### Frequency transitions (22 R362; 17 R297) -/

/-- Items not yet visible in their consumer's next cycle are not visible at the transition's end either. -/
def Queue.retime (q : Queue) (first to_ : Nat) : Queue :=
  ⟨q.items.map fun i => { i with since := if i.since ≤ first then Nat.min i.since to_ else to_ + 1 }, q.freed.map fun f => Nat.min f to_⟩

/-- The tick at which a core's counts stand: now, or where a freeze or a stop has stopped them. -/
def Core.standsAt (c : Core) (now : Nat) : Nat := if c.freeze.isSome || c.handlerStop then c.stop else now

/-- The tick of C's next cycle as the core's counts stand: in a handler the one at which it resumes. -/
def Core.cNext (c : Core) : Nat := if c.handlerStop then c.resume else c.c.next

/-- The tick at which every cycle in progress has ended, as the core's counts stand. -/
def Core.alignAt (c : Core) (now : Nat) : Nat :=
  let e := fun (dom next : Nat) => c.edge dom next (c.standsAt now)
  Nat.max (Nat.max c.cNext (e 3 c.l.next)) (Nat.max (Nat.max (e 2 c.x.next) (e 3 c.s.next)) (e 1 c.m.next))

/-- The tick at which every cycle in progress on a core has ended: where a full queue freezes it, those of its units too, and in a handler C's. -/
def Core.cyclesEnd (c : Core) (now : Nat) : Nat :=
  let a := Nat.max now (c.alignAt now)
  match c.freeze with
  | some (.fullQueue _) => Nat.max a (c.edge 3 c.stop now)
  | _ => if c.handlerStop then Nat.max a c.c.next else a

/-- Every domain of a core at the beginning of a cycle at a tick of its counts. -/
def Core.align (c : Core) (a : Nat) : Core :=
  let first := fun (n : Nat) => match consumerOf n with | .c => c.cNext | .l => c.l.next | .x => c.x.next | .s => c.s.next
  let go := fun (dom : Nat) (p : Step) => { p with clock := p.clock + c.wholeCycles dom p.next (a - p.next), next := a }
  { c with
    stop := a, resume := a,
    c := if c.handlerStop then c.c else { c.c with next := a },
    l := go 3 c.l, x := go 2 c.x, s := go 3 c.s, m := { c.m with next := a },
    hq := Vector.ofFn fun n => (c.hq[n]).retime (first n.val) a, dq := Vector.ofFn fun n => (c.dq[n]).retime (first n.val) a,
    fq := c.fq.retime c.m.next a,
    csr := { c.csr with late := c.csr.late.map fun e => { e with since := Nat.min e.since (a + 1) } } }

/-- The units of a core that a full queue freezes have run on, up to the end of the cycle in progress at a tick (09 R218). -/
def Core.unitsTo (c : Core) (now : Nat) : Core :=
  match c.freeze with
  | some (.fullQueue _) =>
    let k := c.cyclesTo 3 c.stop now
    { c with inb := { c.inb with clock := c.inb.clock + k }, outb := { c.outb with clock := c.outb.clock + k } }
  | _ => c

/-- A core at new divisors (22 R362; 17 R293, R297): the cycles in progress end, every strand and engine stands, those too that a full queue lets
run, and all domains begin a cycle of the new setting at a tick.  A core whose counts stand in a freeze or a stop already stands on from there. -/
def Core.retime (c0 : Core) (now to_ : Nat) (d : Divs) (fall : Option Fall) : Core :=
  let c := ((c0.unitsTo now).sync (c0.standsAt now)).align (c0.alignAt now)
  let r := c.shift (to_ - c.stop) false
  { r with
    div := d, fall := fall, stop := to_, resume := to_,
    freeze := if now < to_ ∧ r.freeze.isNone then some (.transition to_) else r.freeze,
    c := if r.handlerStop then { r.c with next := to_ } else r.c }

/-- A kernel whose transition is due. -/
def State.dueChange (s : State) : Option Kernel := s.disp.kernels.find? fun k => k.change && k.holds && k.state == 2

/-- The verdicts on their way to a forecasting task keep the copy cycles they still have to go (17 R302; 22 R362): the one in progress goes on to its
end. -/
def Forecast.retime (f : Forecast) (old new_ : Kernel) (now to_ : Nat) : Forecast :=
  { f with judged := f.judged.map fun j =>
      let r := old.copyLeft now j.2
      (j.1, if j.2 ≤ now then j.2 else new_.copySpan (to_ + (r.2 - (to_ - now))) r.1) }

/-- A frequency transition begins on every core of a kernel: each core is frozen to the first tick at which all domains can begin a cycle of the
new setting; or the transition of the core in focus has ended (22 R362; 17 R297). -/
def execFrequencyTransition (s : State) : Host.Outcome State Fault Refusal :=
  match s.dueChange with
  | none => .next (match s.core.freeze with
    | some (.transition t) => (s.at_ t).updCore fun c => { c with freeze := none }
    | _ => s)
  | some k =>
    let places := s.coresOf k.kid
    let to_ := places.foldl (fun t p => Nat.max t ((s.coreAt p.1 p.2).cyclesEnd s.now)) s.now
    let k1 := { k with change := false, fall := (if k.fall = 0 then 0 else to_), since := to_, curCopy := k.div.copy,
                       curFall := (if k.fall ≠ 0 ∧ k.eff.copy = 5 then to_ else 0) }
    let moved := fun (f : Forecast) => f.retime k k1 s.now to_
    let s1 := places.foldl (fun s p => s.updCoreAt p.1 p.2 fun c =>
      { c.retime s.now to_ k.div (k1.fallOf to_) with
        task := c.task.map fun t => { t with forecast := t.forecast.map moved } }) s
    .next (s1.updKernel k.kid fun k => { k1 with vcs := k.vcs.map fun v => { v with forecast := v.forecast.map moved } })

/-- The claimed domains of a falling kernel run in cycles of 6 and 5 by turns (22 R361). -/
def State.pulse (s : State) : State :=
  match s.core.fall with
  | none => s
  | some f =>
    let d := if (s.now - f.origin) % 11 < 6 then 6 else 5
    s.updCore fun c => { c with div := f.doms.foldl (fun (v : Divs) dom => v.set dom d) c.div }

/-! ### Boost (22 R358 to R361) -/

/-- A claim with its kernel. -/
structure Bid where
  kid     : Nat
  cluster : Nat
  tick    : Nat
  cont    : Bool
  deriving DecidableEq

/-- The bids on a die, in the order of grants: continuing first, by claim tick, by cyclic order after the last granted cluster. -/
def State.bids (s : State) (die : Nat) : List Bid :=
  let last := (s.power.toList.map (·.last)).getD die 0
  let turn := fun (b : Bid) => (b.cluster + 7 - last % 8) % 8
  let before := fun (a b : Bid) =>
    if a.cont ≠ b.cont then a.cont
    else if a.tick ≠ b.tick then decide (a.tick ≤ b.tick)
    else decide (turn a ≤ turn b)
  sortBy before (s.disp.kernels.flatMap fun k =>
    if k.holds && k.state == 2 then (k.claims.filter fun c => c.die == die).map fun c => ⟨k.kid, c.cluster, c.tick, c.cont⟩ else [])

/-- A die's permits after the refill at a boundary (22 R360). -/
def DiePower.refill (p : DiePower) : DiePower :=
  if p.charged ≠ 0 then { p with quiet := 0 }
  else if p.quiet + 1 = 4 then { p with quiet := 0, permits := Nat.min 64 (p.permits + 1) }
  else { p with quiet := p.quiet + 1 }

/-- The bids granted on a die: as many as there are permits. -/
def State.grants (s : State) (die : Nat) : List Bid :=
  (s.bids die).take ((s.power.toList.map fun p => p.refill.permits).getD die 0)

/-- Every claim of a kernel was granted. -/
def Kernel.allGranted (k : Kernel) (g : List (Nat × Bid)) : Bool :=
  !k.claims.isEmpty && k.holds && k.claims.all fun c => g.any fun b => b.1 == c.die && b.2.kid == k.kid && b.2.cluster == c.cluster

/-- A kernel after the grants of a boundary (22 R359, R361). -/
def Kernel.afterGrants (k : Kernel) (g : List (Nat × Bid)) (now : Nat) : Kernel :=
  let all := k.allGranted g
  let k1 := { k with claims := k.claims.map fun (c : Claim) => { c with cont := all || c.cont, granted := all } }
  if all then k1.atDivs true 0 else k1.atDivs false (if k.boosted then now else k.fall)

/-- A boost boundary: each die refills and grants; grants of a kernel that was refused anywhere are returned (22 R359, R360). -/
def execBoostBoundary (s0 : State) : Host.Outcome State Fault Refusal :=
  let s := s0.at_ (s0.now + (s0.time.boundary - s0.timer.toNat))
  if s.timer.toNat < s.time.boundary then .next s0
  else
    let all : List (Nat × Bid) := (List.range 24).flatMap fun d => (s.grants d).map (d, ·)
    let kept := all.filter fun b => match s.kernel? b.2.kid with | some k => k.allGranted all | none => false
    let power := Vector.ofFn fun (d : Fin 24) =>
      let p := (s.power[d]).refill
      let n := (kept.filter fun b => b.1 == d.val).length
      { p with permits := p.permits - n, charged := n, last := match (all.filter fun b => b.1 == d.val).getLast? with | some b => b.2.cluster | none => p.last }
    .next { s with power := power, time := { s.time with boundary := s.time.boundary + Config.boostTicks, bounded := s.now },
                   disp := { s.disp with kernels := s.disp.kernels.map fun k => k.afterGrants all s.now } }

/-- The second step of a fall begins 37,500 reference ticks after the boundary (22 R361). -/
def execFallStep (kid : BitVec 16) (s0 : State) : Host.Outcome State Fault Refusal :=
  match s0.kernel? kid.toNat with
  | none => .next s0
  | some k =>
    if k.fall = 0 then .next s0
    else
      let s := s0.at_ (s0.time.bounded + 37500)
      .next (s.updKernel k.kid fun k => { k with fall := 0, change := true })

/-! ### The timer (22 R363 to R365) -/

/-- The discipline unit may do a step (22 R363, R364): a module that has lost every path goes on as its last correction did, and one that runs free
slews toward the time of a master it hears; else the unit is free. -/
def TimeSt.toward (t : TimeSt) (add : Bool) : Bool :=
  if t.slave = 0x1F then t.lastAdj == 0 || !t.unlock || add == t.lastAdd
  else !t.freeRun || t.lock || t.offset == 0 || add == t.offset.msb

/-- One increment added to TIMER, or one withheld: at most once in 4096 ticks. -/
def execTimerDisciplineStep (add : Bool) (s : State) : Host.Outcome State Fault Refusal :=
  if (s.time.lastAdj ≠ 0 ∧ s.now + 1 < s.time.lastAdj + 4096) ∨ !s.time.toward add then .next s
  else
    let s1 := if add then s else s.at_ (s.now + 1)
    .next { s1 with time := { s.time with adjust := s.time.adjust + (if add then 1 else -1), lastAdj := s.now + 1, lastAdd := add } }

/-- The entries of the command ring, and the place of the command area, which lies inside one aligned 1 MiB of stack 0 (19 R317; 21 R347; log 22). -/
def cmdEntries : Nat := 16 * 2 ^ (Config.commandDoublings % 9)
def cmdPlaces : Nat := (2 ^ 20 - (64 + 64 * cmdEntries)) / 64 + 1
def cmdBase : Nat := Config.commandPlace / cmdPlaces % 2 ^ 14 * 2 ^ 20 + Config.commandPlace % cmdPlaces * 64

/-- The command ring as firmware sets it up (19 R317; log 22). -/
def State.openRing (s : State) : State :=
  ({ s with host := { s.host with cmdbase := w64 cmdBase } }).pokeBytes false cmdBase
    (leBytes 8 0 ++ leBytes 8 0 ++ leBytes 4 cmdEntries ++ leBytes 44 0)

/-- The supervisor reports itself ready (22 R365; 21 R348), its command ring set up. -/
def State.supervisorReady (s : State) : State :=
  (({ s with time := { s.time with supReady := true } }).openRing).setReady 2 33 true

/-- The first boundary after a TIMER value. -/
def boundaryAfter (timer : Nat) : Nat := (timer / Config.boostTicks + 1) * Config.boostTicks

/-- LOCK becomes 1. -/
def TimeSt.locked (t : TimeSt) : TimeSt := { t with lock := true, unlock := false }

/-- OFFSET saturates at 32 bits (22 R365). -/
def satOffset (o : BitVec 64) : BitVec 32 :=
  if o.toInt < -2147483648 then 0x80000000 else if 2147483647 < o.toInt then 0x7FFFFFFF else o.truncate 32

/-- What an event message of the slave port's master brings (22 R363 to R365): the offset; the first lock, which steps every TIMER before the supervisor
is ready; a later lock within 30 ticks; or the loss of the grandmaster. -/
def State.masterMessage (s : State) (port : BitVec 5) (offset : BitVec 64) (grandmaster : Bool) : State :=
  let t := { s.time with offset := satOffset offset, slave := port.zeroExtend 8 }
  if !grandmaster then { s with time := { t with lock := false, unlock := s.time.unlock || s.time.lock } }
  else if s.time.lock then { s with time := t }
  else if !s.time.supReady then
    let s1 := { s with time := { t.locked with adjust := s.time.adjust - offset.toInt, stepped := true } }
    ({ s1 with time := { s1.time with boundary := boundaryAfter s1.timer.toNat } }).supervisorReady
  else if -30 ≤ offset.toInt ∧ offset.toInt ≤ 30 then { s with time := t.locked }
  else { s with time := t }

/-- An event message at a port that is up (21 R353): of the slave port's master, or of a port that becomes the slave port, when none is or when the best
master clock algorithm says so (log 60); a message at a master port changes nothing. -/
def execPtpEventMessage (port : BitVec 5) (offset : BitVec 64) (grandmaster : Bool) (s : State) : Host.Outcome State Fault Refusal :=
  let up := (s.links.ports.toList.map (·.state)).getD port.toNat 0
  .next (
    if up < 2 ∨ 18 ≤ port.toNat ∨ !s.serv.booted then s
    else if s.time.slave = 0x1F ∨ s.time.slave = port.zeroExtend 8 then s.masterMessage port offset grandmaster
    else
      let f := s.fresh
      if Config.newSlave f.1 then f.2.masterMessage port offset grandmaster else f.2)

/-- Ticks from reset after which the supervisor is ready without a lock (22 R365). -/
def State.readyBy (s : State) : Nat := if s.links.ports.toList.any fun p => decide (2 ≤ p.state) then secondTicks / 2 * 5 else secondTicks

/-- The supervisor becomes ready without a lock, where firmware runs (23 R375): TIMER runs free. -/
def execSupervisorReadyTimeout (s0 : State) : Host.Outcome State Fault Refusal :=
  if s0.time.supReady ∨ !s0.serv.powered ∨ !s0.serv.booted then .next s0
  else
    let s := s0.at_ s0.readyBy
    .next ({ s with time := { s.time with freeRun := true, unlock := true } }).supervisorReady

end Sys2Proof.Machine
end

