-- ==== Sys2Proof/Machine/EvHost.lean ====
section
/-!
DEFINITION. What the host does at its port (21 R347, R348): accesses of BAR0, and of HBM through BAR2 and through CXL.mem.
`answer` holds the bytes that the last host read returned, none for a poisoned one or a write; `unsupported` says that the last access was refused.
-/
namespace Sys2Proof.Machine

/-- A host access answered. -/
def State.hostDone (s : State) (answer : Option (List Byte)) : State := { s with host := { s.host with answer := answer, unsupported := false } }

/-- A host access completed as an Unsupported Request, with no effect. -/
def State.hostRefused (s : State) : State := { s with host := { s.host with answer := none, unsupported := true } }

/-- APBASE holds bits [51:36] of what is written. -/
def State.writeApbase (s : State) (v : Word64) : State := { s with host := { s.host with apbase := v &&& 0xFFFF000000000 } }

/-- A write of APBASE. -/
def execApbaseWrite (v : Word64) (s : State) : Host.Outcome State Fault Refusal := .next ((s.writeApbase v).hostDone none)

/-- A 1 written to a bit of the fault word clears it. -/
def State.clearFault (s : State) (v : Word64) : State := { s with host := { s.host with fault := s.host.fault &&& ~~~(v.truncate 3) } }

/-- A write of the fault word. -/
def execFaultWordClear (v : Word64) (s : State) : Host.Outcome State Fault Refusal := .next ((s.clearFault v).hostDone none)

/-- Bits of a doubleword of the route table or the node table that hold a field (21 R351, R352). -/
def tableMask (off : Nat) : Word64 :=
  if off < 0x4000 then 0x80000003FFFFFFFF
  else if off % 32 = 16 then 0x0000FFFF01FFFFFF
  else if off % 32 = 24 then 0
  else 0xFFFFFFFFFFFFFFFF

/-- The offset lies in one of the two tables the host writes. -/
def inTables (off : Nat) : Bool := (decide (0x1000 ≤ off) && decide (off < 0x1800)) || (decide (0x4000 ≤ off) && decide (off < 0x8000))

/-! ### Telemetry (23 R369) -/

/-- Bit masks of a die's cores: in service, and fenced. -/
def State.coreWord (s : State) (d : Nat) : Nat :=
  let mask := fun (p : Nat → Bool) => (positions 32 p).foldl (fun a q => a + 2 ^ q) 0
  mask (s.inService d) + mask (fun q => s.serv.fencedCores.contains (d, q)) * 2 ^ 32

/-- The time status doubleword (22 R365). -/
def TimeSt.word (t : TimeSt) : Nat := t.offset.toNat * 2 ^ 32 + t.slave.toNat * 2 ^ 16 + b2n t.unlock * 2 + b2n t.lock

/-- A stack's record (23 R370). -/
def Stack.word (k : Stack) : List Byte := leBytes 8 (k.rate % 256) ++ leBytes 4 k.remaps ++ leBytes 4 k.fenced.toNat ++ leBytes 8 k.uncorr ++ leBytes 8 k.corr

/-- Telemetry from offset 0 to 0x0DFF. -/
def State.telemetry (s : State) : List Byte :=
  let v := s.serv
  let parts : List (Nat × List Byte) :=
    [(0, dwords [v.cycles, v.seconds]), (0x40, dwords v.bands.toList), (0x100, dwords [s.time.word]),
     (0x200, dwords (v.dieTherm.toList.map (·.count))), (0x300, dwords (v.stkTherm.toList.map (·.count))),
     (0x600, dwords v.retrains.toList), (0x700, dwords ((List.range 24).map s.coreWord)), (0x800, v.hbmStacks.toList.flatMap Stack.word),
     (0xB00, dwords [v.staleGen, v.discarded])]
  parts.foldl (fun l p => patch l p.1 p.2) (List.replicate 0xE00 0)

/-- Port status (21 R350). -/
def Port.status (q : Port) : List Byte :=
  leBytes 8 (sat (2 ^ 16 - 1) q.retrain * 2 ^ 48 + q.peer.toNat * 2 ^ 32 + q.lanes * 2 ^ 8 + q.state) ++ leBytes 8 q.retry

/-- Bytes of one part of the map, read from an offset in it; what the part does not list reads 0. -/
def partRead (l : List Byte) (o : Nat) : List Byte := (l.drop o ++ List.replicate 8 0).take 8

/-- The aligned doubleword of BAR0 at an offset of the map (21 R348); none outside it. -/
def State.bar0Read (s : State) (o : Nat) : Option (List Byte) :=
  let h := s.host
  if o = 0 then some (leBytes 8 h.modid.toNat)
  else if o = 8 then some (leBytes 8 h.apbase.toNat)
  else if o = 0x10 then some (leBytes 8 h.cmdbase.toNat)
  else if 0x40 ≤ o ∧ o < 0x80 then some (partRead (dwords (h.ready.toList.map (·.toNat))) (o - 0x40))
  else if o = 0x80 then some (leBytes 8 h.fault.toNat)
  else if 0x100 ≤ o ∧ o < 0x220 then some (partRead (s.links.ports.toList.flatMap Port.status) (o - 0x100))
  else if inTables o then some (Memory.readBytes h.tables o 8)
  else if 0x10000 ≤ o ∧ o < 0x11000 then some (partRead s.telemetry (o - 0x10000))
  else if 0x11000 ≤ o ∧ o < 0x12000 then some (partRead s.serv.report (o - 0x11000))
  else if 0x12000 ≤ o ∧ o < 0x12800 then some (partRead Config.identityCertificate.toList (o - 0x12000))
  else if 0x12800 ≤ o ∧ o < 0x20000 then some (partRead [] 0)
  else none

/-- A host write of one doubleword of BAR0: a table's may bring a route back to a write that waits for one, or take one from a collective (21 R352, R356). -/
def State.bar0Write (s : State) (o : Nat) (v : Word64) : State :=
  if o = 8 then s.writeApbase v
  else if o = 0x80 then s.clearFault v
  else if inTables o then
    ({ s with host := { s.host with tables := Memory.writeBytes s.host.tables o (leBytes 8 (v &&& tableMask o).toNat) } }).resendLost.dropUnreachable
  else s

/-- A host access of BAR0 (21 R348): aligned and of 8 bytes, inside the map; any other is refused. A write of what the host may only read has no
effect. -/
def execBar0RegisterWrite (off : BitVec 20) (a : HostAccess) (s : State) : Host.Outcome State Fault Refusal :=
  let o := off.toNat
  .next (
    match (if o % 8 = 0 then s.bar0Read o else none), a with
    | none, _ => s.hostRefused
    | some l, .read n => if n.toNat = 8 then s.hostDone (some l) else s.hostRefused
    | some _, .write l => if l.length = 8 then (s.bar0Write o (BitVec.ofNat 64 (leNat l))).hostDone none else s.hostRefused)

/-- Bytes that an access covers. -/
def accessLen : HostAccess → Nat
  | .read n => n.toNat
  | .write l => l.length

/-- Bytes of HBM written by the host, or read: no answer where an atom among them is poisoned (23 R370). -/
def State.hostHbm (s : State) (pa : Nat) (a : HostAccess) : State :=
  match a with
  | .write l => (s.pokeBytes false pa l).hostDone none
  | .read n =>
    if (List.range n.toNat).any fun i => s.poison.contains ((pa + i) / 32) || s.deadByte (pa + i) then s.hostDone none
    else s.hostDone (some (Memory.readBytes s.mem pa n.toNat))

/-- An access through BAR2 (21 R348): all ones or nothing past HBM; refused while a stack of it is not ready (23 R366), and past the window. -/
def execBar2Access (off : BitVec 36) (a : HostAccess) (s : State) : Host.Outcome State Fault Refusal :=
  let pa := s.host.apbase.toNat + off.toNat
  .next (
    if 2 ^ 36 < off.toNat + accessLen a then s.hostRefused
    else if s.hbmTop ≤ s.host.apbase.toNat then
      s.hostDone (match a with | .read n => some (List.replicate n.toNat 0xFF) | .write _ => none)
    else if !bitOf s.host.ready[1].toNat (stackOf pa) && !(s.stack (stackOf pa)).failed then s.hostRefused
    else if !s.paExists pa then s.hostRefused
    else s.hostHbm pa a)

/-- An access through CXL.mem to the 1 MiB of HBM that holds the command area (21 R347), in the CXL mode only. -/
def execCxlMemAccess (off : BitVec 20) (a : HostAccess) (s : State) : Host.Outcome State Fault Refusal :=
  .next (
    if s.host.cxl && decide (off.toNat + accessLen a ≤ 2 ^ 20) then s.hostHbm (s.host.cmdbase.toNat / 2 ^ 20 * 2 ^ 20 + off.toNat) a
    else s.hostRefused)

end Sys2Proof.Machine
end

