-- ==== Sys2Proof/Machine/EvColl.lean ====
section
/-!
DEFINITION. Collectives as other modules and time act on them (21 R354, R356): contributions, notices, time-outs and drop-outs.
-/
namespace Sys2Proof.Machine

/-- The engines of an id changed, then brought to rest. -/
def State.onColls (s : State) (id : Nat) (f : Coll → Coll) : State :=
  ({ s with colls := s.colls.map fun (c : Coll) => if c.id = id then f c else c }).collSettle

/-- What comes before the collective's start here is kept (21 R354). -/
def State.keepEarly (s : State) (e : EarlyPart) : State := { s with links := { s.links with early := s.links.early ++ [e] } }

/-- What comes under an id reaches an engine of that generation, or one that still runs (21 R354; log 59). -/
def Coll.receives (c : Coll) (id gen : Nat) : Bool := c.id == id && (c.gen == gen || c.state == 0)

/-- A contribution held once per rank and chunk. -/
def Coll.contribute (c : Coll) (rank chunk : Nat) (data : List Byte) : Coll :=
  if c.contrib.any fun x => x.1 == rank && x.2.1 == chunk then c else { c with contrib := c.contrib ++ [(rank, chunk, data)] }

/-- A contribution reaches the rank it is for (21 R354): of another GEN than every engine of that rank it is discarded and counted, and its sender
is dropped. -/
def execCollectiveContribution (id : BitVec 16) (gen : BitVec 32) (rank to_ chunk : BitVec 6) (data : List Byte) (s : State) :
    Host.Outcome State Fault Refusal :=
  let mine := fun (c : Coll) => c.receives id.toNat gen.toNat && c.rank == to_.toNat
  .next (
    if !s.colls.any mine then s.keepEarly ⟨id.toNat, gen.toNat, rank.toNat, to_.toNat, chunk.toNat, some data⟩
    else if s.colls.any fun c => mine c && c.gen == gen.toNat then
      s.onColls id.toNat fun c => if c.rank = to_.toNat ∧ c.gen = gen.toNat then c.contribute rank.toNat chunk.toNat data else c
    else
      State.onColls { s with serv := { s.serv with staleGen := sat (2 ^ 64 - 1) (s.serv.staleGen + 1) } } id.toNat fun c =>
        if c.rank = to_.toNat then c.dropRank rank.toNat else c)

/-- A notice held once per rank and chunk. -/
def Coll.notice (c : Coll) (rank chunk : Nat) : Coll :=
  if c.notices.contains (rank, chunk) then c else { c with notices := c.notices ++ [(rank, chunk)] }

/-- A notice that a rank holds every contribution to a chunk (21 R356). -/
def execCollectiveNotice (id : BitVec 16) (gen : BitVec 32) (rank chunk : BitVec 6) (s : State) : Host.Outcome State Fault Refusal :=
  .next (
    if !s.colls.any fun c => c.receives id.toNat gen.toNat then s.keepEarly ⟨id.toNat, gen.toNat, rank.toNat, 0, chunk.toNat, none⟩
    else if s.colls.any fun c => c.id == id.toNat && c.gen == gen.toNat then
      s.onColls id.toNat fun c => if c.gen = gen.toNat then c.notice rank.toNat chunk.toNat else c
    else s.onColls id.toNat fun c => c.dropRank rank.toNat)

/-- Nothing was received from a rank. -/
def Coll.unheard (c : Coll) (q : Nat) : Bool :=
  q != c.rank && !c.contrib.any (fun x => x.1 == q) && !c.notices.any (fun n => n.1 == q) && !c.maps.any (fun m => m.1 == q)

/-- The tick at which a collective's time is over: TIMEOUT µs of 7500 ticks from its start (01 R15). -/
def Coll.deadline (c : Coll) : Nat := c.started + c.timeout * 7500

/-- A collective that has run out of time and still waits for a rank it never heard of. -/
def Coll.overdue (c : Coll) : Bool := c.state == 0 && (List.range c.npart).any fun q => bitOf c.live q && c.unheard q

/-- TIMEOUT passes (21 R356): every rank from which nothing was received is dropped. -/
def execCollectiveTimeout (id : BitVec 16) (s0 : State) : Host.Outcome State Fault Refusal :=
  match (s0.colls.filter fun c => c.id == id.toNat && c.overdue).map Coll.deadline with
  | [] => .next s0
  | d :: l =>
    let s := s0.at_ (l.foldl Nat.min d)
    .next (s.onColls id.toNat fun c =>
      if c.overdue ∧ c.deadline ≤ s.now then ((List.range c.npart).filter c.unheard).foldl Coll.dropRank c else c)

/-- A survivor's word that a participant is dropped, with its commit bitmap (21 R356): for the engines of that generation, and kept where none has
started here. -/
def execCollectiveDropNotice (id : BitVec 16) (gen : BitVec 32) (from_ dropped : BitVec 6) (bitmap : Word64) (s : State) :
    Host.Outcome State Fault Refusal :=
  .next (
    if s.colls.any fun c => c.id == id.toNat && c.gen == gen.toNat then
      s.onColls id.toNat fun c =>
        if c.gen ≠ gen.toNat ∨ c.state ≠ 0 then c else (c.dropRank dropped.toNat).hold from_.toNat bitmap.toNat
    else { s with links := { s.links with drops := s.links.drops ++ [⟨id.toNat, gen.toNat, from_.toNat, dropped.toNat, bitmap.toNat⟩] } })

end Sys2Proof.Machine
end

