-- ==== Sys2Proof/Machine/EvLink.lean ====
section
/-!
DEFINITION. Ronben ports (21 R349 to R352): flits received, replays, training, loss of a link, and remote writes held for a kernel.
-/
namespace Sys2Proof.Machine

/-- A port by number. -/
def portIndex (p : BitVec 5) : Option (Fin 18) := if h : p.toNat < 18 then some ⟨p.toNat, h⟩ else none

/-- A port's READY bit set as its STATE says (23 R366). -/
def State.portReady (s : State) (p : Fin 18) : State := s.setReady 2 p.val (decide (2 ≤ (s.links.ports[p]).state))

/-! ### Remote writes that arrive (21 R352) -/

/-- The live kernel of an image that holds its cores. -/
def State.imageKernel (s : State) (image : Nat) : Option Kernel :=
  s.disp.kernels.find? fun k => k.image == image && k.state == 2 && k.holds

/-- A peer's remote write, or a part of one, on its way to a core of this module: behind those of the same sender (11 R263), with an identity that
holds the sender's NODE; its last part counts one arrival (09 R232; 16 R288). -/
def State.deliverWrite (s : State) (k : Kernel) (peer : Nat) (w : PortWrite) : State :=
  let node := s.senderNode w.image.toNat peer w.sImage.toNat
  let from_ := w.sVdie.toNat + 256 * (node + 1)
  s.fly ⟨k.kid, w.vdie.toNat, w.vcore.toNat, w.off.toNat, whole w.bytes, s.now,
    if w.last then some ⟨from_, w.sVcore.toNat, w.sOrd.toNat, w.sIdx⟩ else none, (32 + from_, w.sVcore.toNat), k.phase, false⟩

/-- The module at the other end of a port. -/
def State.peerOf (s : State) (port : BitVec 5) : Nat := (s.links.ports.toList.map (·.peer.toNat)).getD port.toNat 0

/-- A credit returned to a port's peer: room in the buffer for one more flit (21 R349). -/
def State.grant (s : State) (port : BitVec 5) : State :=
  match portIndex port with
  | none => s
  | some p => s.updPort p fun q => { q with grants := q.grants + 1 }

/-- Bytes held in a port's receive buffer of 1 MiB. -/
def Links.heldBytes (l : Links) (p : BitVec 5) : Nat := (l.held.filter fun h => h.port == p).foldl (fun a h => a + h.write.bytes.length) 0
abbrev portBuffer : Nat := 1048576

/-- A remote write taken in at a port (21 R349, R352): delivered, and its credit returned; or held, with its credit, until a kernel of its image holds
its cores, and behind an earlier one of its sender that is still held (11 R263); none without room. -/
def State.takeWrite (s : State) (port : BitVec 5) (w : PortWrite) : Option State :=
  match (if s.links.held.any fun h => h.peer == s.peerOf port && sameWay h.write w then none else s.imageKernel w.image.toNat) with
  | some k => some ((s.deliverWrite k (s.peerOf port) w).grant port)
  | none =>
    if portBuffer < s.links.heldBytes port + w.bytes.length then none
    else some { s with links := { s.links with held := s.links.held ++ [⟨port, s.peerOf port, w⟩] } }

/-- Flits acknowledged up to a sequence number; progress ends a row of replays. -/
def Port.acked (q : Port) (ack : BitVec 12) : Port :=
  match q.unacked.findIdx? fun u => u.1 == ack with
  | none => q
  | some n => { q with unacked := q.unacked.drop (n + 1), inRow := 0 }

/-- A flit received (21 R349, R350): its acknowledgement; then, in order and whole, its remote write and its credits, with which the port sends on; a
CRC error or a gap is answered with a negative acknowledgement, so that the peer replays, and so is a flit sent without a credit, for which there is no
room (DESIGN CHOICE, log 60: no peer that keeps R349 sends one); a flit received before is dropped. -/
def execFlitReceive (port : BitVec 5) (f : Flit) (s : State) : Host.Outcome State Fault Refusal :=
  match portIndex port with
  | none => .next s
  | some p =>
    let q := s.links.ports[p]
    let s1 := (s.updPort p fun q => q.acked f.ack).pump p
    .next (
      if q.state < 2 then s
      else if !f.crcOk then s.updPort p fun q => { q with naks := q.naks + 1 }
      else if f.seq ≠ q.rxNext then (if (q.rxNext - f.seq).toNat ≤ 128 then s1 else s1.updPort p fun q => { q with naks := q.naks + 1 })
      else
        let took := match f.write with | none => some s1 | some w => s1.takeWrite port w
        match took with
        | none => s1.updPort p fun q => { q with naks := q.naks + 1 }
        | some s2 => (s2.updPort p fun q => { q with rxNext := q.rxNext + 1, credit := q.credit + f.credit.toNat }).pump p)

/-- Replays of one flit in a row that start a retrain (21 R350). -/
abbrev retrainAfter : Nat := 16

/-- A negative acknowledgement (21 R350): a replay from the named flit; the sixteenth in a row retrains the port, over which no peer is reachable then
(R351, R356). -/
def execNakReceived (port : BitVec 5) (seq : BitVec 12) (s : State) : Host.Outcome State Fault Refusal :=
  match portIndex port with
  | none => .next s
  | some p =>
    if (s.links.ports[p]).state < 2 then .next s
    else
      let s1 := s.updPort p fun q =>
        let q1 := q.acked (seq - 1)
        { q1 with retry := sat (2 ^ 64 - 1) (q1.retry + 1), inRow := q1.inRow + 1 }
      .next (
        if (s1.links.ports[p]).inRow < retrainAfter then s1
        else
          let s2 := s1.updPort p fun q => { q with state := 1, inRow := 0, retrain := sat 65535 (q.retrain + 1) }
          (({ s2 with serv := { s2.serv with retrains := s2.serv.retrains.set p (sat (2 ^ 64 - 1) (s2.serv.retrains[p] + 1)) } }).portReady p).dropUnreachable)

/-- A port that is down (21 R350 to R352, R356; 22 R364, R365): unacknowledged writes take another port or wait for a route, participants
of collectives that can no longer be reached are dropped, and a slave port that was the last path takes the lock with it. -/
def State.portDown (s : State) (p : Fin 18) : State :=
  let q := s.links.ports[p]
  let alone := !(List.finRange 18).any fun r => r != p && decide (2 ≤ (s.links.ports[r]).state)
  let s1 := (s.updPort p fun q => { q with state := 0, lanes := 0, peer := 0, unacked := [], queue := [], credit := 0, inRow := 0 }).portReady p
  let s2 := if s1.time.slave.toNat = p.val then
      { s1 with time := { s1.time with slave := 0x1F, lock := s1.time.lock && !alone, unlock := s1.time.unlock || (s1.time.lock && alone) } } else s1
  ((q.unacked.filterMap (·.2) ++ q.queue).foldl (fun s w => s.sendPeer q.peer.toNat w) s2).dropUnreachable

/-- A training record is valid for a unit of a serial number under the running firmware (23 R367): its CRC matches, and so do its TVER and its serial. -/
def State.recordValid (s : State) (serial : Nat) (r : Option TrainRecord) : Bool :=
  match r with
  | none => false
  | some r => r.crc == Config.recordCrc r.tver r.serial r.settings && r.tver == Config.trainVersion (s.host.modid.toNat / 2 ^ 32)
      && r.serial == serial

/-- The record that full training writes: the settings it found for a unit's data-rate points (23 R367). -/
def State.newRecord (s : State) (serial points : Nat) : Option TrainRecord × State :=
  let f := s.fresh
  let v := Config.trainVersion (s.host.modid.toNat / 2 ^ 32)
  let l := (List.range points).map (Config.trainSetting f.1)
  (some ⟨v, serial, l, Config.recordCrc v serial l⟩, f.2)

/-- Training ends (21 R350; 23 R367): at 8 lanes, or at 4 or 2, on a valid record that replays and verifies or else with a
new one in flash; or with the port down.  Without firmware nothing trains (23 R375; log 60). -/
def execPortTrainingComplete (port : BitVec 5) (lanes : BitVec 4) (peer : BitVec 16) (s : State) : Host.Outcome State Fault Refusal :=
  match portIndex port with
  | none => .next s
  | some p =>
    let n := lanes.toNat
    if !s.serv.booted then .next s
    else if n ≠ 8 ∧ n ≠ 4 ∧ n ≠ 2 then .next ((s.portDown p).updPort p fun q => { q with record := none })
    else
      let f := s.fresh
      let old := (s.links.ports[p]).record
      let r := if s.recordValid (Config.portSerial p.val) old && Config.replayVerifies f.1 then (old, s) else f.2.newRecord (Config.portSerial p.val) 1
      let s1 := r.2.fresh.2.updPort p fun q =>
        let q1 := if q.state = 0 then { q with rxNext := 0, txNext := 0, unacked := [], credit := Config.portCredits f.1 } else q
        { q1 with state := if n = 8 then 2 else 3, lanes := n, peer := peer, record := r.1 }
      .next ((s1.portReady p).pump p).resendLost

/-- A port lost. -/
def execLinkLoss (port : BitVec 5) (s : State) : Host.Outcome State Fault Refusal :=
  match portIndex port with
  | none => .next s
  | some p => .next (s.portDown p)

/-- A held write whose kernel holds its cores now. -/
def State.releasableWrite (s : State) : Option (HeldWrite × Kernel) :=
  s.links.held.findSome? fun h => (s.imageKernel h.write.image.toNat).map fun k => (h, k)

/-- A held remote write is released to its kernel, and its credit to the peer (21 R349, R352). -/
def execHeldRemoteWriteRelease (s : State) : Host.Outcome State Fault Refusal :=
  match s.releasableWrite with
  | none => .next s
  | some (h, k) => .next ((State.deliverWrite { s with links := { s.links with held := s.links.held.erase h } } k h.peer h.write).grant h.port)

end Sys2Proof.Machine
end

