-- ==== Sys2Proof/Machine/EvService.lean ====
section
/-!
DEFINITION. Bring-up, reliability and service (23): power good, units that become ready or fail, stack training, life counters and
telemetry, thermal samples, data-rate points, HBM protection, refresh, self-test failures, and the signed report.
-/
namespace Sys2Proof.Machine

/-- A saturating 64-bit counter one higher. -/
def count64 (n : Nat) : Nat := sat (2 ^ 64 - 1) (n + 1)

/-! ### Life counters (23 R369) -/

/-- What flash keeps of the life counters: seconds, bands, retrains. -/
def Service.life (v : Service) : List Nat := v.seconds :: v.bands.toList ++ v.retrains.toList

/-- The life counters written to flash. -/
def State.flushLife (s : State) : State := { s with serv := { s.serv with flash := s.serv.life } }

/-- The write of every ten minutes. -/
def execLifeCounterFlush (s : State) : Host.Outcome State Fault Refusal := .next s.flushLife

/-- An orderly stop writes the counters and takes the module out of service. -/
def execOrderlyStop (s : State) : Host.Outcome State Fault Refusal :=
  .next { s.flushLife with serv := { s.flushLife.serv with powered := false } }

/-! ### Power good (23 R366, R369, R371, R374) -/

/-- The core that holds the supervisor: 31, then 30, then the highest-numbered one of die 0 that is not fenced. -/
def Service.pickSup (v : Service) : Nat := (([31, 30] ++ (List.range 30).reverse).find? fun q => !v.fencedCores.contains (0, q)).getD 31

/-- A stack after a reset: its record and its flash settings stay; each fenced channel takes 2 GiB off its range. -/
def Stack.boot_ (k : Stack) : Stack :=
  { Stack.reset with corr := k.corr, uncorr := k.uncorr, fenced := k.fenced, remaps := k.remaps, rate := k.boot, boot := k.boot,
                     record := k.record, remapped := k.remapped, errors := [], reserved := popCount 32 k.fenced.toNat }

/-- The firmware that the boot ROM runs: of the slots that verify and are not below the fused version, the one with the higher version
(23 R375). -/
def Service.firmware (v : Service) : Option (BitVec 32) :=
  ((v.slots.toList.filter fun f => f.verifies && decide (v.fused.toNat ≤ f.version.toNat)).map (·.version)).foldl
    (fun a n => match a with | some m => some (if m.toNat < n.toNat then n else m) | none => some n) none

/-- Cores that fail their boot test, which is a self-test: fenced, and recorded in flash (08 R199; 23 R366, R374; log 60). -/
def bootFenced (cycle : Nat) : List (Nat × Nat) :=
  (List.range 24).flatMap fun d => ((List.range 32).filter (Config.bootFails cycle d)).map (d, ·)

/-- The cores out of service after the boot tests of a power cycle. -/
def Service.tested (v : Service) : Service := { v with fencedCores := dedup (v.fencedCores ++ bootFenced (v.cycles + 1)) }

/-- What the service state keeps through a power cycle, with the cores that its boot tests fence. -/
def Service.boot (v : Service) : Service :=
  { Service.reset with
    cycles := count64 v.cycles, seconds := nth v.flash 0 0, bands := Vector.ofFn fun i => nth v.flash (1 + i.val) 0,
    retrains := Vector.ofFn fun i => nth v.flash (6 + i.val) 0, dieTherm := v.dieTherm, stkTherm := v.stkTherm,
    hbmStacks := v.hbmStacks.map Stack.boot_, fencedCores := v.tested.fencedCores, flash := v.flash, powered := true, slots := v.slots,
    fused := v.fused, booted := v.firmware.isSome, supCore := v.tested.pickSup }

/-- Die positions disabled at manufacture, as READY shows them. -/
def disabledMask (full : Bool) : Nat := (positions 24 (dieDisabled full)).foldl (fun a d => a + 2 ^ d) 0

/-- Power good: the module as after reset, with what flash and the host keep; FWVER is the version of the firmware that runs, 0 where
neither slot verifies (23 R375). -/
def execPowerGood (s : State) : Host.Outcome State Fault Refusal :=
  let r := State.reset
  let v := s.serv.boot
  .next { r with
    full := s.full, free := s.free, agenda := s.agenda, serv := v, mem := s.mem.filter fun c => decide (0xC000000000000 ≤ c.1),
    others := [{ Core.reset 0 v.supCore with sup := true }],
    core := if v.supCore = 0 then Core.reset 0 1 else r.core,
    links := { r.links with ports := s.links.ports.map fun p => { Port.down with record := p.record } },
    host := { r.host with modid := (v.firmware.getD 0).zeroExtend 64 <<< 32 ||| s.host.modid &&& 0xFFFFFFFF, cxl := s.host.flashCxl, flashCxl := s.host.flashCxl, ready := r.host.ready.set 6 (w64 (disabledMask s.full)) } }

/-! ### Units -/

/-- READY's place of a cluster. -/
def clusterBit (d c : Nat) : Nat × Nat := (3 + (8 * d + c) / 64, (8 * d + c) % 64)

/-- Some core of a cluster is in service. -/
def State.clusterServes (s : State) (d c : Nat) : Bool := (List.range 4).any fun i => s.inService d (4 * c + i)

/-- A unit has passed its checks (23 R366); without firmware only the host port comes up (R375). -/
def execUnitReady (u : ReadyUnit) (s : State) : Host.Outcome State Fault Refusal :=
  .next (if !s.serv.booted ∧ u ≠ .hostPort then s else match u with
  | .die d => if s.serv.failedDies.contains d.toNat || dieDisabled s.full d.toNat then s else s.setReady 0 d.toNat true
  | .cluster d c =>
    let b := clusterBit d.toNat c.toNat
    if s.clusterServes d.toNat c.toNat then s.setReady b.1 b.2 true else s
  | .port p => (match portIndex p with | none => s | some p => s.portReady p)
  | .hostPort => s.setReady 2 32 true)

/-- A stack of the grade changed (00 R1). -/
def State.updStack (s : State) (n : BitVec 5) (f : Stack → Stack) : State :=
  if h : n.toNat < 24 ∧ n.toNat < s.stackCount then { s with serv := { s.serv with hbmStacks := s.serv.hbmStacks.set n.toNat (f s.serv.hbmStacks[n.toNat]) } } else s

/-- A stack's training record replayed and verified, or full training done (23 R367): verified, the stack is ready and its record valid;
a record that fails is void until full training succeeds.  Without firmware nothing trains (R375). -/
def execStackTrainingComplete (stack : BitVec 5) (replayed ok : Bool) (s : State) : Host.Outcome State Fault Refusal :=
  let old := (s.stack stack.toNat).record
  let valid := s.recordValid (Config.stackSerial stack.toNat) old
  let good := ok && !(replayed && !valid) && !(s.stack stack.toNat).failed
  let r := if !ok || (replayed && !valid) then (none, s) else if replayed then (old, s) else s.newRecord (Config.stackSerial stack.toNat) 3
  let s1 := r.2.updStack stack fun k => { k with record := r.1 }
  .next (if !s.serv.booted then s else if good && decide (stack.toNat < s.stackCount) then s1.setReady 1 stack.toNat true else s1)

/-- A die or a stack fails in service (23 R366, R374): its READY bits are clear.  What becomes of the tasks on a die that fails the spec does not say:
they abort, or fail where they are pinned (DESIGN CHOICE, log 64). -/
def execUnitFailure (u : FailUnit) (s : State) : Host.Outcome State Fault Refusal :=
  .next (match u with
  | .stack n => (s.updStack n fun k => { k with failed := true }).setReady 1 n.toNat false
  | .die d =>
    let s1 := ({ s with serv := { s.serv with failedDies := dedup (s.serv.failedDies ++ [d.toNat]) } }).setReady 0 d.toNat false
    let s2 := (List.range 8).foldl (fun s c => s.setReady (clusterBit d.toNat c).1 (clusterBit d.toNat c).2 false) s1
    ((s2.core :: s2.others).filter fun c => c.die == d.toNat && c.task.isSome).foldl (fun s c => s.onCore c.die c.q State.loseTask) s2)

/-- A core fenced (08 R199; 23 R374): out of service, recorded in flash; its cluster is not ready once none of its cores serves. -/
def State.fenceCore (s : State) (d q : Nat) : State :=
  let s1 := { s with serv := { s.serv with fencedCores := dedup (s.serv.fencedCores ++ [(d, q)]) } }
  if s1.clusterServes d (q / 4) then s1 else s1.setReady (clusterBit d (q / 4)).1 (clusterBit d (q / 4)).2 false

/-- A self-test product differs from its pattern (08 R199): found 16 matrix cycles after the tested operation; a difference told
earlier waits for that cycle, which does not come while the core is frozen (17 R297). -/
def execSelfTestFailure (s : State) : Host.Outcome State Fault Refusal :=
  match s.core.m.testDue with
  | none => .next s
  | some d =>
    if d < s.matCount s.now ∧ !s.core.m.failing then .next s
    else if (s.now < s.matTick d ∨ s.core.freeze.isSome) ∧ !s.core.m.failing then .next (s.updM fun m => { m with failing := true })
    else if s.core.freeze.isSome then .next s
    else
      let s1 := (s.matTo (Nat.max s.core.m.count d)).updM fun m => { m with fenced := true, failing := false, testDue := none }
      .next ((s1.fenceCore s.core.die s.core.q).testFailed)

/-! ### Temperatures and data rates (23 R369, R373) -/

/-- One sample of a thermal record. -/
def Thermal.sample (r : Thermal) (t : Int) : Thermal :=
  if !r.seen then { r with seen := true, high := false, ext := t }
  else if !r.high then
    let low := min r.ext t
    if low + 40 ≤ t then { r with count := count64 r.count, high := true, ext := t } else { r with ext := low }
  else
    let high := max r.ext t
    if t + 40 ≤ high then { r with high := false, ext := t } else { r with ext := high }

/-- A temperature sample of a die or of a stack of the grade, in degrees, signed. -/
def execThermalSample (isStack : Bool) (n : BitVec 5) (t : BitVec 16) (s : State) : Host.Outcome State Fault Refusal :=
  if h : n.toNat < 24 ∧ (isStack = false ∨ n.toNat < s.stackCount) then
    .next { s with serv :=
      if isStack then { s.serv with stkTherm := s.serv.stkTherm.set n.toNat ((s.serv.stkTherm[n.toNat]).sample t.toInt) }
      else { s.serv with dieTherm := s.serv.dieTherm.set n.toNat ((s.serv.dieTherm[n.toNat]).sample t.toInt),
                         dieTemp := s.serv.dieTemp.set n.toNat t.toInt } }
  else .next s

/-- Ticks of the 60 seconds below 85 degrees that a step back up takes. -/
abbrev coolTicks : Nat := 60 * secondTicks

/-- A stack's point after a temperature (23 R373); `cool` is the tick after the one at which it was first seen cool, 0 if it is not. -/
def Stack.atTemp (k : Stack) (t : Int) (now : Nat) : Stack :=
  if 95 ≤ t then { k with rate := Nat.min 2 (k.rate + 1), cool := 0 }
  else if t ≤ 85 then
    if k.cool = 0 then { k with cool := now + 1 }
    else if k.boot < k.rate ∧ k.cool + coolTicks ≤ now + 1 then { k with rate := k.rate - 1, cool := now + 1 }
    else k
  else { k with cool := 0 }

/-- The supervisor chooses a stack's data-rate point. -/
def execRatePointSwitch (stack : BitVec 5) (t : BitVec 16) (s : State) : Host.Outcome State Fault Refusal :=
  .next (s.updStack stack fun k => k.atTemp t.toInt s.now)

/-! ### HBM protection (23 R370 to R372) -/

/-- Ticks of the 24 hours in which errors of a row count together (23 R371). -/
abbrev dayTicks : Nat := 86400 * secondTicks

/-- Corrected errors of a row in the 24 hours before a tick. -/
def Stack.errorsOf (k : Stack) (row : BitVec 32) (now : Nat) : Nat :=
  (k.errors.filter fun e => e.1 == row && decide (now < e.2 + dayTicks)).length

/-- An atom is found corrected or uncorrectable, by the scrub or by an access that comes next (log 60): the latter becomes poison, without a cause. -/
def execPatrolScrub (pa : BitVec 52) (uncorrectable : Bool) (s : State) : Host.Outcome State Fault Refusal :=
  if s.hbmTop ≤ pa.toNat then .next s
  else
    let n : BitVec 5 := BitVec.ofNat 5 (stackOf pa.toNat)
    let a := pa.toNat / 32
    .next (
      if uncorrectable then
        (if s.poison.contains a then s else ({ s with poison := a :: s.poison }).updStack n fun k => { k with uncorr := count64 k.uncorr })
      else s.updStack n fun k => { k with corr := count64 k.corr, errors := k.errors ++ [(Config.rowOf pa.toNat, s.now)] })

/-- A row with 16 corrected errors within 24 hours remapped to a spare row (23 R371). -/
def execRowRemap (stack : BitVec 5) (row : BitVec 32) (s : State) : Host.Outcome State Fault Refusal :=
  .next (s.updStack stack fun k =>
    if k.errorsOf row s.now < 16 then k
    else { k with remaps := sat (2 ^ 32 - 1) (k.remaps + 1), remapped := k.remapped ++ [row], errors := k.errors.filter fun e => e.1 != row })

/-- A channel fenced at once (23 R371). -/
def execChannelFence (stack ch : BitVec 5) (s : State) : Host.Outcome State Fault Refusal :=
  .next (s.updStack stack fun k => { k with fenced := k.fenced ||| (1 <<< ch.toNat), dead := k.dead ||| (1 <<< ch.toNat) })

/-- Refreshes of a bank that stand postponed. -/
def Stack.owed (k : Stack) (bank : BitVec 16) : Nat := ((k.postponed.find? fun p => p.1 == bank).map (·.2)).getD 0
def Stack.setOwed (k : Stack) (bank : BitVec 16) (n : Nat) : Stack :=
  { k with postponed := (k.postponed.filter fun p => p.1 != bank) ++ (if n = 0 then [] else [(bank, n)]) }
def Stack.setStall (k : Stack) (bank : BitVec 16) (t : Nat) : Stack :=
  { k with stalls := (k.stalls.filter fun p => p.1 != bank) ++ [(bank, t)] }

/-- Ticks of a refresh and of the service of an alert, as their bounds give them (23 R372): 200 ns and 300 ns. -/
abbrev refreshTicks : Nat := 1500
abbrev alertTicks : Nat := 2250

/-- An activation-count alert: serviced at the end of a stall, at once, or after nine refreshes. -/
def execActivationAlert (stack : BitVec 5) (bank : BitVec 16) (s : State) : Host.Outcome State Fault Refusal :=
  .next (s.updStack stack fun k =>
    let from_ := Nat.max s.now (k.stall bank)
    if k.owed bank < 8 then k.setStall bank (from_ + alertTicks)
    else (k.setOwed bank 0).setStall bank (from_ + 9 * refreshTicks + alertTicks))

/-- A refresh of a bank falls due: issued with others, for which the bank stalls, or postponed, 8 at most. -/
def execRefresh (stack : BitVec 5) (bank : BitVec 16) (s : State) : Host.Outcome State Fault Refusal :=
  let f := s.fresh
  .next (f.2.updStack stack fun k =>
    let left := Nat.min (Config.postponed f.1) (Nat.min 8 (k.owed bank + 1))
    let k1 := k.setOwed bank left
    if k.owed bank < left then k1 else k1.setStall bank (Nat.max s.now (k.stall bank) + (k.owed bank + 1 - left) * refreshTicks))

/-! ### The signed report (23 R375) -/

/-- The signed report of one second, at telemetry offset 0x1000. -/
def State.reportBytes (s : State) (seq : Nat) : List Byte :=
  let body := leBytes 8 seq ++ leBytes 8 s.timer.toNat ++ (Config.firmwareDigest (BitVec.ofNat 32 (s.host.modid.toNat / 2 ^ 32))).toList ++ s.serv.mlog ++ leBytes 8 s.serv.measured
    ++ leBytes 8 0 ++ s.telemetry
  let l := patch (List.replicate 4096 0) 0 body
  patch (patch l 0xE80 (Config.reportSignature (sha384 (l.take 0xE80))).toList) 0xFF8 (leBytes 8 seq)

/-- Once a second firmware writes the report. -/
def execSignedReport (s : State) : Host.Outcome State Fault Refusal :=
  let seq := s.serv.reportSeq + 1
  .next { s with serv := { s.serv with reportSeq := seq, report := s.reportBytes seq } }

end Sys2Proof.Machine
end

