-- ==== Sys2Proof/Machine/Dispatch.lean ====
section
/-!
DEFINITION. The meaning of each instruction and event: one arm per constructor, each one call.
-/
namespace Sys2Proof.Machine

/-- What an instruction does to the machine. -/
def exec (i : Instr) (s : State) : Host.Outcome State Fault Refusal :=
  match i with
  | .add d a b => Sys2Proof.Machine.execAdd d a b s
  | .sub d a b => Sys2Proof.Machine.execSub d a b s
  | .and d a b => Sys2Proof.Machine.execAnd d a b s
  | .or d a b => Sys2Proof.Machine.execOr d a b s
  | .xor d a b => Sys2Proof.Machine.execXor d a b s
  | .shl d a b => Sys2Proof.Machine.execShl d a b s
  | .shr d a b => Sys2Proof.Machine.execShr d a b s
  | .sra d a b => Sys2Proof.Machine.execSra d a b s
  | .slt d a b => Sys2Proof.Machine.execSlt d a b s
  | .sltu d a b => Sys2Proof.Machine.execSltu d a b s
  | .seq d a b => Sys2Proof.Machine.execSeq d a b s
  | .min d a b => Sys2Proof.Machine.execMin d a b s
  | .max d a b => Sys2Proof.Machine.execMax d a b s
  | .minu d a b => Sys2Proof.Machine.execMinu d a b s
  | .maxu d a b => Sys2Proof.Machine.execMaxu d a b s
  | .mul d a b => Sys2Proof.Machine.execMul d a b s
  | .mulh d a b => Sys2Proof.Machine.execMulh d a b s
  | .mulhu d a b => Sys2Proof.Machine.execMulhu d a b s
  | .divu d a b => Sys2Proof.Machine.execDivu d a b s
  | .remu d a b => Sys2Proof.Machine.execRemu d a b s
  | .clz d a => Sys2Proof.Machine.execClz d a s
  | .popc d a => Sys2Proof.Machine.execPopc d a s
  | .extS d a w => Sys2Proof.Machine.execExtS d a w s
  | .extZ d a w => Sys2Proof.Machine.execExtZ d a w s
  | .addi d a imm => Sys2Proof.Machine.execAddi d a imm s
  | .andi d a imm => Sys2Proof.Machine.execAndi d a imm s
  | .ori d a imm => Sys2Proof.Machine.execOri d a imm s
  | .xori d a imm => Sys2Proof.Machine.execXori d a imm s
  | .shli d a n => Sys2Proof.Machine.execShli d a n s
  | .shri d a n => Sys2Proof.Machine.execShri d a n s
  | .srai d a n => Sys2Proof.Machine.execSrai d a n s
  | .slti d a imm => Sys2Proof.Machine.execSlti d a imm s
  | .sltui d a imm => Sys2Proof.Machine.execSltui d a imm s
  | .lui d imm => Sys2Proof.Machine.execLui d imm s
  | .apc d imm => Sys2Proof.Machine.execApc d imm s
  | .ldB d a imm => Sys2Proof.Machine.execLdB d a imm s
  | .ldH d a imm => Sys2Proof.Machine.execLdH d a imm s
  | .ldW d a imm => Sys2Proof.Machine.execLdW d a imm s
  | .ldD d a imm => Sys2Proof.Machine.execLdD d a imm s
  | .lduB d a imm => Sys2Proof.Machine.execLduB d a imm s
  | .lduH d a imm => Sys2Proof.Machine.execLduH d a imm s
  | .lduW d a imm => Sys2Proof.Machine.execLduW d a imm s
  | .ldLast d a imm => Sys2Proof.Machine.execLdLast d a imm s
  | .stB b a imm => Sys2Proof.Machine.execStB b a imm s
  | .stH b a imm => Sys2Proof.Machine.execStH b a imm s
  | .stW b a imm => Sys2Proof.Machine.execStW b a imm s
  | .stD b a imm => Sys2Proof.Machine.execStD b a imm s
  | .amo d a b use op => Sys2Proof.Machine.execAmo d a b use op s
  | .cas d a b => Sys2Proof.Machine.execCas d a b s
  | .beq a b o => Sys2Proof.Machine.execBeq a b o s
  | .bne a b o => Sys2Proof.Machine.execBne a b o s
  | .blt a b o => Sys2Proof.Machine.execBlt a b o s
  | .bge a b o => Sys2Proof.Machine.execBge a b o s
  | .bltu a b o => Sys2Proof.Machine.execBltu a b o s
  | .bgeu a b o => Sys2Proof.Machine.execBgeu a b o s
  | .jal d o => Sys2Proof.Machine.execJal d o s
  | .jalr d a imm => Sys2Proof.Machine.execJalr d a imm s
  | .loop c o => Sys2Proof.Machine.execLoop c o s
  | .loopi n o => Sys2Proof.Machine.execLoopi n o s
  | .qpush v p => Sys2Proof.Machine.execQpush v p s
  | .qpop v p => Sys2Proof.Machine.execQpop v p s
  | .qtry v e p => Sys2Proof.Machine.execQtry v e p s
  | .tpost p => Sys2Proof.Machine.execTpost p s
  | .twait p => Sys2Proof.Machine.execTwait p s
  | .fmt a => Sys2Proof.Machine.execFmt a s
  | .nestW a imm => Sys2Proof.Machine.execNestW a imm s
  | .nestGo => Sys2Proof.Machine.execNestGo s
  | .launch d a => Sys2Proof.Machine.execLaunch d a s
  | .stream a => Sys2Proof.Machine.execStream a s
  | .ktrig => Sys2Proof.Machine.execKtrig s
  | .kwait => Sys2Proof.Machine.execKwait s
  | .texit => Sys2Proof.Machine.execTexit s
  | .coll d a => Sys2Proof.Machine.execColl d a s
  | .cleatArrive => Sys2Proof.Machine.execCleatArrive s
  | .cleatExpect a => Sys2Proof.Machine.execCleatExpect a s
  | .cleatWait a => Sys2Proof.Machine.execCleatWait a s
  | .fence scope => Sys2Proof.Machine.execFence scope s
  | .csrr d csr => Sys2Proof.Machine.execCsrr d csr s
  | .csrw a csr => Sys2Proof.Machine.execCsrw a csr s
  | .csrx d a csr => Sys2Proof.Machine.execCsrx d a csr s
  | .trap code => Sys2Proof.Machine.execTrap code s
  | .rett => Sys2Proof.Machine.execRett s
  | .ecall => Sys2Proof.Machine.execEcall s
  | .clkdiv a dom => Sys2Proof.Machine.execClkdiv a dom s
  | .pace a r => Sys2Proof.Machine.execPace a r s
  | .idle => Sys2Proof.Machine.execIdle s
  | .tlbinv a ctx => Sys2Proof.Machine.execTlbinv a ctx s
  | .fcast a h kind group => Sys2Proof.Machine.execFcast a h kind group s
  | .fverd d h item => Sys2Proof.Machine.execFverd d h item s
  | .endStrand t h => Sys2Proof.Machine.execEndStrand t h s
  | .gadd t h d a b => Sys2Proof.Machine.execGadd t h d a b s
  | .gaddi t h d a imm => Sys2Proof.Machine.execGaddi t h d a imm s
  | .gli t h d imm => Sys2Proof.Machine.execGli t h d imm s
  | .stepLoopImm t h lc n o => Sys2Proof.Machine.execStepLoopImm t h lc n o s
  | .stepLoopReg t h lc g o => Sys2Proof.Machine.execStepLoopReg t h lc g o s
  | .brq t h q cond o => Sys2Proof.Machine.execBrq t h q cond o s
  | .stepTpost t h q => Sys2Proof.Machine.execStepTpost t h q s
  | .stepTwait t h q => Sys2Proof.Machine.execStepTwait t h q s
  | .stepQpush t h q a => Sys2Proof.Machine.execStepQpush t h q a s
  | .stepQpop t h q d => Sys2Proof.Machine.execStepQpop t h q d s
  | .vadd h d a b pn => Sys2Proof.Machine.execVadd h d a b pn s
  | .vsub h d a b pn => Sys2Proof.Machine.execVsub h d a b pn s
  | .vmul h d a b pn => Sys2Proof.Machine.execVmul h d a b pn s
  | .vmin h d a b pn => Sys2Proof.Machine.execVmin h d a b pn s
  | .vmax h d a b pn => Sys2Proof.Machine.execVmax h d a b pn s
  | .vand h d a b => Sys2Proof.Machine.execVand h d a b s
  | .vor h d a b => Sys2Proof.Machine.execVor h d a b s
  | .vxor h d a b => Sys2Proof.Machine.execVxor h d a b s
  | .vshl h d a b => Sys2Proof.Machine.execVshl h d a b s
  | .vshr h d a b => Sys2Proof.Machine.execVshr h d a b s
  | .vsra h d a b => Sys2Proof.Machine.execVsra h d a b s
  | .vaddsat h d a b => Sys2Proof.Machine.execVaddsat h d a b s
  | .vsubsat h d a b => Sys2Proof.Machine.execVsubsat h d a b s
  | .vcmp h d cond a b pn => Sys2Proof.Machine.execVcmp h d cond a b pn s
  | .vabs h d a pn => Sys2Proof.Machine.execVabs h d a pn s
  | .vneg h d a pn => Sys2Proof.Machine.execVneg h d a pn s
  | .vnot h d a pn => Sys2Proof.Machine.execVnot h d a pn s
  | .vmov h d a pn => Sys2Proof.Machine.execVmov h d a pn s
  | .vrcp h d a pn => Sys2Proof.Machine.execVrcp h d a pn s
  | .vrsqrt h d a pn => Sys2Proof.Machine.execVrsqrt h d a pn s
  | .vsqrt h d a pn => Sys2Proof.Machine.execVsqrt h d a pn s
  | .vexp2 h d a pn => Sys2Proof.Machine.execVexp2 h d a pn s
  | .vlog2 h d a pn => Sys2Proof.Machine.execVlog2 h d a pn s
  | .vred h d a o pn => Sys2Proof.Machine.execVred h d a o pn s
  | .vsel h d a b pn => Sys2Proof.Machine.execVsel h d a b pn s
  | .vperm h d a b => Sys2Proof.Machine.execVperm h d a b s
  | .vzip h d a b => Sys2Proof.Machine.execVzip h d a b s
  | .vunzip h d a b => Sys2Proof.Machine.execVunzip h d a b s
  | .vslide h d a g => Sys2Proof.Machine.execVslide h d a g s
  | .vsplat h d g => Sys2Proof.Machine.execVsplat h d g s
  | .vbcast h d k g => Sys2Proof.Machine.execVbcast h d k g s
  | .pcnt h d g => Sys2Proof.Machine.execPcnt h d g s
  | .plogic h d a b f => Sys2Proof.Machine.execPlogic h d a b f s
  | .ppop h a g => Sys2Proof.Machine.execPpop h a g s
  | .vcvt h d a dt st => Sys2Proof.Machine.execVcvt h d a dt st s
  | .vhad h d a k seed => Sys2Proof.Machine.execVhad h d a k seed s
  | .vmaxe h a k => Sys2Proof.Machine.execVmaxe h a k s
  | .vq h d a k m => Sys2Proof.Machine.execVq h d a k m s
  | .vdq h d a k m => Sys2Proof.Machine.execVdq h d a k m s
  | .vdqInv h d a k seed m => Sys2Proof.Machine.execVdqInv h d a k seed m s
  | .vld h v g o pn => Sys2Proof.Machine.execVld h v g o pn s
  | .vst h v g o pn => Sys2Proof.Machine.execVst h v g o pn s
  | .vldFf h v g o pn => Sys2Proof.Machine.execVldFf h v g o pn s
  | .vldx h v g vi pn => Sys2Proof.Machine.execVldx h v g vi pn s
  | .vstx h v g vi pn => Sys2Proof.Machine.execVstx h v g vi pn s
  | .vshape h z => Sys2Proof.Machine.execVshape h z s
  | .vrot h => Sys2Proof.Machine.execVrot h s
  | .vwin h g => Sys2Proof.Machine.execVwin h g s
  | .vfma h d a b c => Sys2Proof.Machine.execVfma h d a b c s
  | .vfms h d a b c => Sys2Proof.Machine.execVfms h d a b c s
  | .vfnma h d a b c => Sys2Proof.Machine.execVfnma h d a b c s
  | .vectorModifier pn inv zero rm => Sys2Proof.Machine.execVectorModifier pn inv zero rm s
  | .mldb h hd => Sys2Proof.Machine.execMldb h hd s
  | .mmab h hd t => Sys2Proof.Machine.execMmab h hd t s
  | .mmas h hd t => Sys2Proof.Machine.execMmas h hd t s
  | .mdrain h hd t => Sys2Proof.Machine.execMdrain h hd t s
  | .mzero h t => Sys2Proof.Machine.execMzero h t s
  | .mnest h => Sys2Proof.Machine.execMnest h s
  | .mtest h => Sys2Proof.Machine.execMtest h s
  | .mtrsmLo h s_ hd => Sys2Proof.Machine.execMtrsmLo h s_ hd s
  | .mtrsmUp h s_ hd => Sys2Proof.Machine.execMtrsmUp h s_ hd s
  | .mlu h s_ => Sys2Proof.Machine.execMlu h s_ s
  | .mchol h s_ => Sys2Proof.Machine.execMchol h s_ s
  | .mgiv h s_ => Sys2Proof.Machine.execMgiv h s_ s
  | .mpiv h hd => Sys2Proof.Machine.execMpiv h hd s
  | .mfst h => Sys2Proof.Machine.execMfst h s
  | .tld h hd a b => Sys2Proof.Machine.execTld h hd a b s
  | .tldT h hd a b => Sys2Proof.Machine.execTldT h hd a b s
  | .tst h hd a b => Sys2Proof.Machine.execTst h hd a b s
  | .wopen h hd a b r => Sys2Proof.Machine.execWopen h hd a b r s
  | .wopenW h hd a b r => Sys2Proof.Machine.execWopenW h hd a b r s
  | .tfar h hd a b => Sys2Proof.Machine.execTfar h hd a b s
  | .wadv h a r => Sys2Proof.Machine.execWadv h a r s
  | .supd h hd a b u => Sys2Proof.Machine.execSupd h hd a b u s
  | .wdrop h a r => Sys2Proof.Machine.execWdrop h a r s
  | .tsum h hd a b bfl com => Sys2Proof.Machine.execTsum h hd a b bfl com s
  | .tfetch h hd a b => Sys2Proof.Machine.execTfetch h hd a b s
  | .tcopy h hd a b => Sys2Proof.Machine.execTcopy h hd a b s
  | .tpref h hd b => Sys2Proof.Machine.execTpref h hd b s
  | .reservedOpcode t w => Sys2Proof.Machine.execReservedOpcode t w s
  | .vectorResultArrival => Sys2Proof.Machine.execVectorResultArrival s
  | .globalLoadArrival => Sys2Proof.Machine.execGlobalLoadArrival s
  | .cLoadArrival => Sys2Proof.Machine.execCLoadArrival s
  | .hitchPostDelivery => Sys2Proof.Machine.execHitchPostDelivery s
  | .transferComplete u => Sys2Proof.Machine.execTransferComplete u s
  | .tfarLanding => Sys2Proof.Machine.execTfarLanding s
  | .remoteReadRequest => Sys2Proof.Machine.execRemoteReadRequest s
  | .matrixEntryStart => Sys2Proof.Machine.execMatrixEntryStart s
  | .matrixOccupancyEnd => Sys2Proof.Machine.execMatrixOccupancyEnd s
  | .matrixResultVisible => Sys2Proof.Machine.execMatrixResultVisible s
  | .nestPoint => Sys2Proof.Machine.execNestPoint s
  | .operandFetchArrival => Sys2Proof.Machine.execOperandFetchArrival s
  | .factorColumnBoundary => Sys2Proof.Machine.execFactorColumnBoundary s
  | .factorisationBreakdown => Sys2Proof.Machine.execFactorisationBreakdown s
  | .selfTestInject => Sys2Proof.Machine.execSelfTestInject s
  | .selfTestFailure => Sys2Proof.Machine.execSelfTestFailure s
  | .queueDeadlock => Sys2Proof.Machine.execQueueDeadlock s
  | .frameTick => Sys2Proof.Machine.execFrameTick s
  | .taskRelease kid vdie vcore => Sys2Proof.Machine.execTaskRelease kid vdie vcore s
  | .spliceComplete => Sys2Proof.Machine.execSpliceComplete s
  | .cleatComplete kid => Sys2Proof.Machine.execCleatComplete kid s
  | .kwaitRelease => Sys2Proof.Machine.execKwaitRelease s
  | .translationWalkComplete => Sys2Proof.Machine.execTranslationWalkComplete s
  | .pgdoneWrite v => Sys2Proof.Machine.execPgdoneWrite v s
  | .versionPublication => Sys2Proof.Machine.execVersionPublication s
  | .predictionReady => Sys2Proof.Machine.execPredictionReady s
  | .verdictArrival => Sys2Proof.Machine.execVerdictArrival s
  | .orphanForecast kid => Sys2Proof.Machine.execOrphanForecast kid s
  | .trapEntry cause src tval => Sys2Proof.Machine.execTrapEntry cause src tval s
  | .externalInterrupt source => Sys2Proof.Machine.execExternalInterrupt source s
  | .timerCompareMatch => Sys2Proof.Machine.execTimerCompareMatch s
  | .pendingEntryTaken => Sys2Proof.Machine.execPendingEntryTaken s
  | .frequencyTransition => Sys2Proof.Machine.execFrequencyTransition s
  | .boostBoundary => Sys2Proof.Machine.execBoostBoundary s
  | .fallStep kid => Sys2Proof.Machine.execFallStep kid s
  | .timerDisciplineStep add => Sys2Proof.Machine.execTimerDisciplineStep add s
  | .ptpEventMessage port offset grandmaster => Sys2Proof.Machine.execPtpEventMessage port offset grandmaster s
  | .supervisorReadyTimeout => Sys2Proof.Machine.execSupervisorReadyTimeout s
  | .commandRingPoll => Sys2Proof.Machine.execCommandRingPoll s
  | .load c => Sys2Proof.Machine.execLoad c s
  | .cmdLaunch c => Sys2Proof.Machine.execCmdLaunch c s
  | .cmdStream c => Sys2Proof.Machine.execCmdStream c s
  | .record c => Sys2Proof.Machine.execRecord c s
  | .recend c => Sys2Proof.Machine.execRecend c s
  | .drop c => Sys2Proof.Machine.execDrop c s
  | .abort c => Sys2Proof.Machine.execAbort c s
  | .unload c => Sys2Proof.Machine.execUnload c s
  | .reservedCommand c => Sys2Proof.Machine.execReservedCommand c s
  | .streamResident kid => Sys2Proof.Machine.execStreamResident kid s
  | .kernelIssue kid => Sys2Proof.Machine.execKernelIssue kid s
  | .apbaseWrite v => Sys2Proof.Machine.execApbaseWrite v s
  | .faultWordClear v => Sys2Proof.Machine.execFaultWordClear v s
  | .bar0RegisterWrite off a => Sys2Proof.Machine.execBar0RegisterWrite off a s
  | .bar2Access off a => Sys2Proof.Machine.execBar2Access off a s
  | .flitReceive port f => Sys2Proof.Machine.execFlitReceive port f s
  | .nakReceived port seq => Sys2Proof.Machine.execNakReceived port seq s
  | .portTrainingComplete port lanes peer => Sys2Proof.Machine.execPortTrainingComplete port lanes peer s
  | .linkLoss port => Sys2Proof.Machine.execLinkLoss port s
  | .heldRemoteWriteRelease => Sys2Proof.Machine.execHeldRemoteWriteRelease s
  | .collectiveContribution id gen rank to_ chunk data => Sys2Proof.Machine.execCollectiveContribution id gen rank to_ chunk data s
  | .collectiveNotice id gen rank chunk => Sys2Proof.Machine.execCollectiveNotice id gen rank chunk s
  | .collectiveTimeout id => Sys2Proof.Machine.execCollectiveTimeout id s
  | .collectiveDropNotice id gen from_ dropped bitmap => Sys2Proof.Machine.execCollectiveDropNotice id gen from_ dropped bitmap s
  | .powerGood => Sys2Proof.Machine.execPowerGood s
  | .unitReady u => Sys2Proof.Machine.execUnitReady u s
  | .stackTrainingComplete stack replayed ok => Sys2Proof.Machine.execStackTrainingComplete stack replayed ok s
  | .lifeCounterFlush => Sys2Proof.Machine.execLifeCounterFlush s
  | .thermalSample isStack n t => Sys2Proof.Machine.execThermalSample isStack n t s
  | .ratePointSwitch stack t => Sys2Proof.Machine.execRatePointSwitch stack t s
  | .patrolScrub pa uncorrectable => Sys2Proof.Machine.execPatrolScrub pa uncorrectable s
  | .rowRemap stack row => Sys2Proof.Machine.execRowRemap stack row s
  | .channelFence stack ch => Sys2Proof.Machine.execChannelFence stack ch s
  | .activationAlert stack bank => Sys2Proof.Machine.execActivationAlert stack bank s
  | .refresh stack bank => Sys2Proof.Machine.execRefresh stack bank s
  | .signedReport => Sys2Proof.Machine.execSignedReport s
  | .unitFailure u => Sys2Proof.Machine.execUnitFailure u s
  | .orderlyStop => Sys2Proof.Machine.execOrderlyStop s
  | .correctableRetryResolved => Sys2Proof.Machine.execCorrectableRetryResolved s
  | .transferAtomArrival u pa => Sys2Proof.Machine.execTransferAtomArrival u pa s
  | .cxlMemAccess off a => Sys2Proof.Machine.execCxlMemAccess off a s

end Sys2Proof.Machine
end

