-- ==== Sys2Proof/Machine/Events.lean ====
section
/-!
DEFINITION. What falls due by itself, and when: for each event that the machine raises without the outside world, the tick at which it
can happen as the state stands.  `step` performs the first one that is due no later than the next cycle of any strand.
-/
namespace Sys2Proof.Machine

/-- An event with its tick, if it is due. -/
abbrev Due := Option (Nat × Instr)

/-- An event due under a condition. -/
def dueIf (b : Bool) (t : Nat) (i : Instr) : Due := if b then some (t, i) else none

/-! ### One core -/

/-- A task runs on the core. -/
def Core.busy (c : Core) : Bool := c.task.isSome

/-- The operation about to start would find its operand bytes missing (08 R183; 10 R245; 23 R366). -/
def State.startLate (s : State) : Bool :=
  match s.core.m.about with
  | none => false
  | some (e, op, r, k) =>
    let fmt := if e.rest then (s.core.m.running.map (·.fmt)).getD e.fmt else e.fmt
    match e.inView s fun s => s.startOp op fmt r k e.seq 0 0 with
    | .late => true
    | _ => false

/-- The next moment of a unit's head (09 R218 to R220, R231, R236; 21 R352): a remote read is served first. -/
def State.unitDue (s : State) (u : XUnit) : Due :=
  match (s.core.unit u).queue with
  | [] => none
  | e :: _ =>
    if e.st == .queued && e.unserved then
      dueIf (farNode e.b == 0 || (match s.myKernel.bind fun k => s.nodeBinding k.image (farNode e.b) with
        | some b => s.reachable b.1
        | none => false)) s.now .remoteReadRequest
    else (s.headTick u).map fun t => (t, .transferComplete u)

/-- What the matrix unit completes (08 R188, R199, R203, R212). -/
def State.matrixEnds (s : State) : List Due :=
  let m := s.core.m
  let at_ := fun (c : Nat) => Nat.max s.now (s.matTick (Nat.max m.count c))
  let head := m.queue.head?
  [(firstResult m.results).map fun r => (at_ r.1.due, .matrixResultVisible),
   m.factor.bind fun f => head.bind fun e =>
     if m.tail then none else some (if f.broke.isNone then (at_ f.due, .factorColumnBoundary) else (at_ (s.breakCount e f), .factorisationBreakdown)),
   head.bind fun e => dueIf (e.start.isSome && !e.rest && (m.factor.isNone || m.tail)) (at_ m.free_) .matrixOccupancyEnd,
   m.testDue.bind fun d => dueIf m.failing (at_ d) .selfTestFailure]

/-- What the matrix unit starts (08 R186, R198, R199). -/
def State.matrixStarts (s : State) : List Due :=
  let m := s.core.m
  let at_ := fun (c : Nat) => Nat.max s.now (s.matTick (Nat.max m.count c))
  [dueIf (decide (s.testInterval ≤ m.ops)) (at_ m.free_) .selfTestInject,
   s.startCount.bind fun c => m.about.map fun a => (at_ c, if a.1.rest && a.1.start.isSome then .nestPoint else .matrixEntryStart)]

/-- A strand goes on cycle by cycle. -/
def Step.runs (p : Step) : Bool := match p.cond with | .running _ => true | _ => false
def CStrand.runs (c : CStrand) : Bool := match c.cond with | .running _ => true | _ => false

/-- Results and data that arrive at strands, before anything starts (07 R151; 17 R305; 20 R340). -/
def State.arrivals (s : State) : List Due :=
  let c := s.core
  let at_ := Nat.max s.now
  [dueIf (c.x.runs && !s.dueLatches.isEmpty) (at_ c.x.next) .vectorResultArrival,
   dueIf (c.x.runs && s.dueLoad.isSome) (at_ c.x.next) .globalLoadArrival]

/-- The prediction of a forecasting task has still to be built (10 R245). -/
def State.predicts (s : State) : Due :=
  dueIf (match s.forecasting with | some f => f.built.isNone | none => false) s.now .predictionReady

/-- The tick at which a pending entry is taken: one that counts cycles of C from a resumption, in the cycle it falls in (20 R340). -/
def State.pendTick (s : State) : Nat :=
  match s.core.duePend with
  | some p => if p.kept || p.kind == 3 then Nat.max s.now s.core.c.next else s.now
  | none => s.now

/-- A pending entry makes a stop of its own (20 R331, R339), but not in a handler, nor of a task that waits to fail (10 R246). -/
def State.pendDue (s : State) : Due :=
  dueIf (!s.core.c.handler && s.core.duePend.isSome && !s.core.failing) s.pendTick .pendingEntryTaken

/-- What goes on in the core by itself: arrivals and completions, then a pending entry, then starts and posts, an entry left by a stop
before everything (20 R340). -/
def State.runsOn (s : State) : List Due :=
  let at_ := Nat.max s.now
  let p := s.pendDue
  let kept := match s.core.duePend with | some e => e.kept | none => false
  (if kept then [p] else []) ++ s.arrivals ++ s.matrixEnds ++ (if kept then [] else [p]) ++ s.matrixStarts
  ++ [s.unitDue .inb, s.unitDue .outb, s.firstPost.map fun p => (at_ p.2.2.2.2.1, .hitchPostDelivery), s.predicts]

/-- The events of the core in focus while nothing stops it. -/
def State.freeDue (s : State) : List Due :=
  let c := s.core
  let at_ := Nat.max s.now
  s.runsOn
  ++ [dueIf (c.c.runs && c.c.dueLoad.isSome) (at_ c.c.next) .cLoadArrival,
      dueIf (c.c.cond == .running (some .kwait) && s.producersDone) (at_ c.c.next) .kwaitRelease,
      dueIf c.spliced s.now .spliceComplete,
      dueIf c.deadlock.isSome (at_ c.c.next) .queueDeadlock]

/-- The events of the core in focus while C handles a trap (20 R331, R339): what falls due before the stop, the data that C's own words
wait for, the factorisation column that the stop completes (08 R213), and the first poison of a global load's held data. -/
def State.stopDue (s : State) : List Due :=
  let c := s.core
  let before := fun (e : Nat × Instr) => decide (e.1 < c.stop)
  s.runsOn.map (fun d => d.bind fun e => if before e then some e else none)
  ++ [dueIf c.c.dueLoad.isSome (Nat.max s.now c.c.next) .cLoadArrival,
      c.m.factor.bind fun f => dueIf (!f.held && !c.m.queue.isEmpty) (Nat.max s.now c.stop) .factorColumnBoundary,
      (if c.stopped then c.heldPoison s.now else none).map fun g => (Nat.max s.now g.due, .globalLoadArrival)]

/-- The events of the core in focus (17 R297; 20 R331): a frozen core waits for the end of its freeze or for a stop, and a full queue
lets both units run on. -/
def State.coreDue (s : State) : List Due :=
  match s.core.freeze with
  | some (.walk va w) =>
    [dueIf (!s.walkWaits va && (match s.probe va w with | .ok pa => !s.waitsHome pa | _ => true)) s.now .translationWalkComplete, s.pendDue]
  | some (.fullQueue _) => [s.unitDue .inb, s.unitDue .outb, s.pendDue]
  | some .operands => [s.predicts, dueIf (!s.startLate) s.now .operandFetchArrival, s.pendDue]
  | some .preempted => []
  | some (.transition t) => [some (Nat.max s.now t, .frequencyTransition)]
  | some _ => [s.pendDue]
  | none =>
    if s.core.c.handler then s.stopDue
    else if s.core.busy then s.freeDue
    else if s.core.sup then [dueIf s.core.duePend.isSome s.now .pendingEntryTaken]
    else []

/-! ### The module -/

/-- A kernel's publication can be made, or its page request has still to be sent (10 R239). -/
def State.publishDue (s : State) : Bool :=
  s.nextOwed.isSome

/-- The next multiple of a period after a tick. -/
def nextPeriod (now p : Nat) : Nat := (now / p + 1) * p

/-- Ticks of ten minutes (23 R369). -/
abbrev flushTicks : Nat := 600 * secondTicks

/-- The tick at which TIMER reaches a value. -/
def State.whenTimer (s : State) (v : Nat) : Nat := s.now + (v - s.timer.toNat)

/-- The supervisor takes commands, and there is one to take or a PROD to refuse (19 R317). -/
def State.pollDue (s : State) : Bool :=
  s.time.supReady && s.cmdRing && (s.cmdPending != 0 || s.disp.ringStop) && !(s.disp.ringStop && decide (s.cmdSize < s.cmdPending))
    && !((s.core :: s.others).any fun c => c.sup && c.halted)

/-- The event of the one of a list that is due first, the first of two at one tick. -/
def soonest {α : Type} (l : List α) (tick : α → Nat) (ev : α → Instr) : Due :=
  (l.foldl (fun a x => match a with | none => some x | some b => if tick x < tick b then some x else a) none).map fun x => (tick x, ev x)

/-- The events of the module as a whole. -/
def State.moduleDue (s : State) : List Due :=
  let kid := fun (k : Kernel) => BitVec.ofNat 16 k.kid
  let first := fun (p : Kernel → Bool) (f : BitVec 16 → Instr) => (s.disp.kernels.find? p).map fun k => (s.now, f (kid k))
  [s.releasableWrite.map fun _ => (s.now, .heldRemoteWriteRelease),
   s.firstVerdict.map fun v => (Nat.max s.now v.2.2.2.2, .verdictArrival),
   first (fun k => decide (k.state < 3) && !(s.orphans k).isEmpty) .orphanForecast,
   dueIf s.publishDue s.now .versionPublication,
   soonest (s.disp.kernels.filter s.cleatReady) s.cleatTick fun k => .cleatComplete (kid k),
   dueIf s.dueChange.isSome s.now .frequencyTransition,
   some (s.whenTimer s.time.boundary, .boostBoundary),
   (s.disp.kernels.find? fun k => k.fall != 0 && !k.change).map fun k => (Nat.max s.now (s.time.bounded + 37500), .fallStep (kid k)),
   dueIf (s.xlat.tcmp != 0) (s.now + (s.xlat.tcmp.toNat - s.supTimer.toNat)) .timerCompareMatch,
   dueIf (s.serv.powered && s.serv.booted && !s.time.supReady) (Nat.max s.now s.readyBy) .supervisorReadyTimeout,
   first s.mayPin .streamResident,
   (s.disp.kernels.find? s.mayIssue).map fun k => (copyTick0 s.now, .kernelIssue (kid k)),
   dueIf s.pollDue s.now .commandRingPoll,
   soonest (s.colls.filter Coll.overdue) (fun c => Nat.max s.now c.deadline) fun c => .collectiveTimeout (BitVec.ofNat 16 c.id),
   dueIf s.serv.powered (nextPeriod s.now flushTicks) .lifeCounterFlush,
   dueIf s.time.supReady (nextPeriod s.now secondTicks) .signedReport,
   some (Nat.max s.now ((s.disp.frame + 1) * Config.frameTicks), .frameTick)]

/-! ### The first -/

/-- An event at a place: its tick, the core it acts on, and the event. -/
abbrev Placed := Nat × (Nat × Nat) × Instr

/-- The earlier of two events, the first of two at one tick. -/
def earlier (a : Option Placed) (b : Placed) : Option Placed :=
  match a with
  | none => some b
  | some a => if b.1 < a.1 then some b else some a

/-- Every event that is due, with its core: the focus for those of the module.  What lands at a tick is there before anything else of that tick (11
R263). -/
def State.allDue (s : State) : List Placed :=
  let here := (s.core.die, s.core.q)
  let own := fun (p : Nat × Nat) (l : List Due) => (l.filterMap id).map fun e => (e.1, p, e.2)
  own here [s.links.first.map fun f => (Nat.max s.now f.1.lands, .tfarLanding)] ++ own here s.coreDue ++ (s.others.flatMap fun c => own (c.die, c.q) (s.focus c.die c.q).coreDue) ++ own here s.moduleDue

/-- The first event to come. -/
def State.firstDue (s : State) : Option Placed := s.allDue.foldl earlier none

end Sys2Proof.Machine
end

