-- ==== Sys2Proof/Machine/Fetch.lean ====
section
/-!
DEFINITION. The cycles of the strands: which strand is next, what its cycle begins with, the word it fetches, and the cycles in which
it issues none (02 R20, R21; 07 R176; 10 R246; 17 R292 to R294; 20 R331).
-/
namespace Sys2Proof.Machine

/-! ### Which strand -/

/-- While C handles a trap, a cycle of another strand runs only if it begins before the stop (20 R331). -/
def Core.beforeStop (c : Core) (p : Step) : Bool := !c.c.handler || decide (p.next < c.stop)

/-- The strand goes on cycle by cycle as its core stands. -/
def Core.runs (c : Core) (t : Strand) : Bool :=
  !c.halted && c.freeze.isNone && (c.task.isSome || c.sup) &&
    match t with
    | .c => c.c.runs
    | .l => c.l.runs && c.beforeStop c.l
    | .x => c.x.runs && c.beforeStop c.x
    | .s => c.s.runs && c.beforeStop c.s

/-- The tick at which a strand's next cycle begins. -/
def Core.nextOf (c : Core) : Strand → Nat
  | .c => c.c.next
  | .l => c.l.next
  | .x => c.x.next
  | .s => c.s.next

/-! ### The next word -/

/-- The instruction memory of a strand, and the address of its next word. -/
def Core.im (c : Core) : Strand → List Host.Cell
  | .c => c.imC
  | .l => c.imL
  | .x => c.imX
  | .s => c.imS
def Core.pcOf (c : Core) : Strand → Nat
  | .c => c.c.chain.pc.toNat
  | .l => c.l.pc.toNat
  | .x => c.x.pc.toNat
  | .s => c.s.pc.toNat

/-- A strand's number in TSTAT.SRC (20 R333). -/
def strandSrc : Strand → BitVec 4
  | .c => 0
  | .l => 1
  | .x => 2
  | .s => 3

/-- The next word of a strand as its memory holds it. -/
def Core.fetchWord (c : Core) (t : Strand) : Word32 := word (imWord (c.im t) (c.pcOf t))

/-- What the strand's next word is: an instruction; a word that is none (05 R82); or a fetch past the end of the memory, cause 0x05 (06
R116, 07 R179). -/
def Core.fetched (c : Core) (t : Strand) : Instr :=
  if 0xFFFC < c.pcOf t then .trapEntry 0x05 (strandSrc t) (w64 (c.pcOf t))
  else match decode t (c.fetchWord t) with
    | .ok i => i
    | .error _ => .reservedOpcode t (c.fetchWord t)

/-- Every word of a forecasting task that waits to fail is held, those of a handler too (10 R246). -/
def Core.waitsToFail (c : Core) : Bool := c.failing

/-! ### Order -/

/-- The hitch field of a transfer word (05 R93). -/
def transferHitch : Instr → Option Hitch
  | .tld h _ _ _ => some h
  | .tldT h _ _ _ => some h
  | .tst h _ _ _ => some h
  | .wopen h _ _ _ _ => some h
  | .wopenW h _ _ _ _ => some h
  | .tfar h _ _ _ => some h
  | .tfetch h _ _ _ => some h
  | .wadv h _ _ => some h
  | .wdrop h _ _ => some h
  | .supd h _ _ _ _ => some h
  | .tsum h _ _ _ _ _ => some h
  | .tcopy h _ _ _ => some h
  | .tpref h _ _ => some h
  | _ => none

/-- In the next cycle of L or S a transfer word finds its unit full: the freeze takes that cycle from every strand of the core (09
R218; 17 R297; log 23). -/
def State.findsFull (s0 : State) (c : Core) (u : XUnit) : Bool :=
  let t := unitStrand u
  if (c.unit u).queue.length < unitDepth ∨ (c.unit u).held ∨ !c.runs t.strand ∨ c.waitsToFail ∨ (c.strand t).brqLeft ≠ 0 then false
  else
    let s : State := { s0 with core := c, now := c.nextOf t.strand }
    match transferHitch (c.fetched t.strand) with
    | none => false
    | some h => (tokensSeen s t (codes h.wait)).isNone && !s.tooSoon t
        && !((codes h.post).any (c.heldPost t s.now))

/-- C's next word is nest.go. -/
def Core.goesNest (c : Core) : Bool := c.runs .c && (match c.fetched .c with | .nestGo => true | _ => false)

/-- The strands of a core in the order in which they begin their cycles at one tick (11 R266), one that freezes the core first, and X before a nest.go,
which finds the command queue as it stands at the end of its cycle (06 R121). -/
def State.strandOrder (s : State) (c : Core) : List Strand :=
  if s.findsFull c .outb then [.s, .c, .l, .x] else if s.findsFull c .inb then [.l, .c, .x, .s]
  else if c.goesNest then [.x, .c, .l, .s] else [.c, .l, .x, .s]

/-- The strands of a core that run, with the core's place in the list and the tick of their next cycle. -/
def State.running (s : State) (n : Nat) (c : Core) : List (Nat × Strand × Nat) :=
  (s.strandOrder c).filterMap fun t => if c.runs t then some (n, t, c.nextOf t) else none

/-- The earlier of two cycles, the first of two at one tick. -/
def sooner (a : Option (Nat × Strand × Nat)) (b : Nat × Strand × Nat) : Option (Nat × Strand × Nat) :=
  match a with
  | none => some b
  | some a => if b.2.2 < a.2.2 then some b else some a

/-- The first of the strands that run: its core's place, the strand and its tick; among those of one tick, the first of
the first core. -/
def State.firstStrand (s : State) : Option (Nat × Strand × Nat) :=
  ((s.core :: s.others).zipIdx.flatMap fun p => s.running p.2 p.1).foldl sooner none

/-- The core at a place of the list brought into focus. -/
def State.bring (s : State) : Nat → State
  | 0 => s
  | n + 1 =>
    match s.others[n]? with
    | none => s
    | some c => { s with core := c, others := s.others.eraseIdx n ++ [s.core] }

/-- The strand whose cycle comes next brought into focus. -/
def State.rotate (s : State) : State :=
  match s.firstStrand with
  | none => s
  | some (n, t, _) => { s.bring n with turn := t }

/-! ### A cycle -/

/-- The beginning of the turn's cycle: the tick, the divisors of a fall's first step, matrix cycles past, the access of X that was held, g results
and flags that arrive. -/
def State.begin_ (s : State) : State :=
  let s1 := s.at_ (s.core.nextOf s.turn)
  let s2 := (s1.matSync (if s1.core.c.handler then Nat.min s1.now s1.core.stop else s1.now)).pulse
  match s.turn with
  | .c => s2
  | .l => s2.beginCycle .l
  | .x => s2.performHeld.beginCycle .x
  | .s => s2.beginCycle .s

/-- A cycle in which a step strand issues nothing: after a taken brq (07 R176), or before the verdict (10 R246). -/
def State.stepPause (s : State) (t : StepStrand) : Option State :=
  if s.core.waitsToFail then some (s.stepTick t (some .verdict))
  else if (s.core.strand t).brqLeft ≠ 0 then some ((s.updStep t fun p => { p with brqLeft := p.brqLeft - 1 }).stepTick t none)
  else none

/-- A cycle in which the turn's strand issues nothing; C after idle waits in place (06 R141). -/
def State.pause (s : State) : Option State :=
  match s.turn with
  | .c =>
    if s.core.waitsToFail then some (s.cTick (some .verdict))
    else if s.core.c.cond = .running (some .idleWord) then some (s.cTick (some .idleWord))
    else none
  | .l => s.stepPause .l
  | .x => s.stepPause .x
  | .s => s.stepPause .s

/-! ### A word put where the next fetch finds it -/

/-- A running task of no kernel. -/
def Task.bare : Task :=
  { kid := 0, vdie := 0, vcore := 0, ord := 0, run := 0, args := 0, state := .running, pinned := false, buf := [], undo := [],
    nTfar := 0, forecast := none, declared := none, failing := false, plain := false, wrote := [], exitPc := 0, lastEnd := none }

/-- A strand made to run at its address, below the end of its memory. -/
def CStrand.armed (c : CStrand) (now : Nat) : CStrand :=
  { c with cond := .running none, next := now, chain := if 0xFFFC < c.chain.pc.toNat then .zero else c.chain }
def Step.armed (p : Step) (now : Nat) : Step :=
  { p with cond := .running none, next := now, brqLeft := 0, pc := if 0xFFFC < p.pc.toNat then 0 else p.pc }

/-- The core with a word at the next address of a strand, and that strand ready to issue it. -/
def Core.arm (c : Core) (t : Strand) (w : Word32) (now : Nat) : Core :=
  let c1 : Core := { c with task := some (c.task.getD Task.bare), halted := false, freeze := none }
  let b := leBytes 4 w.toNat
  match t with
  | .c => let r := c1.c.armed now; { c1 with c := r, imC := Memory.writeBytes c1.imC r.chain.pc.toNat b }
  | .l => let r := c1.l.armed now; { c1 with l := r, imL := Memory.writeBytes c1.imL r.pc.toNat b }
  | .x => let r := c1.x.armed now; { c1 with x := r, imX := Memory.writeBytes c1.imX r.pc.toNat b }
  | .s => let r := c1.s.armed now; { c1 with s := r, imS := Memory.writeBytes c1.imS r.pc.toNat b }

end Sys2Proof.Machine
end

