-- ==== Sys2Proof/Machine/Step.lean ====
section
/-!
DEFINITION. One step of the machine: an input of the outside world or of the dispatchers; else the first event that is due no later than
the next strand's cycle; else that cycle, which runs the instruction the strand fetches.  The counts of issue and visibility of 17 R295
and the duration of a task (R303) follow from the cycles and events; the conditions of R304 are those of the instructions' meanings.
-/
namespace Sys2Proof.Machine

/-- After a step the strand whose cycle comes next has the turn. -/
def settle (o : Host.Outcome State Fault Refusal) : Host.Outcome State Fault Refusal :=
  match o with
  | .next s => .next s.rotate
  | .fault f => .fault f
  | .refused r => .refused r

/-- The event to perform before the turn's strand has its cycle. -/
def State.eventFirst (s : State) : Option Placed :=
  match s.firstDue with
  | none => none
  | some e => if s.core.runs s.turn && decide (s.core.nextOf s.turn < e.1) then none else some e

/-- A cycle of the turn's strand. -/
def State.cycle (s : State) : Host.Outcome State Fault Refusal :=
  match s.begin_.pause with
  | some s1 => .next s1
  | none => exec (s.begin_.core.fetched s.turn) s.begin_

/-- One step. -/
def step (s : State) : Host.Outcome State Fault Refusal :=
  match s.agenda with
  | i :: rest => if i.wf then settle (exec i { s with agenda := rest }) else .fault .noSuchUnit
  | [] =>
    match s.eventFirst with
    | some (t, p, i) => settle (exec i ((s.at_ t).focus p.1 p.2))
    | none => settle s.cycle

/-- The machine with a word of the opcode table where the next step fetches it (log 10). -/
def State.withFetchWord (s : State) (nbits w : Nat) : State :=
  match tableReading nbits w with
  | none => s
  | some (t, _) => { s with core := s.core.arm t (word w) s.now, turn := t, agenda := [] }

end Sys2Proof.Machine
end

