-- ==== Sys2Proof/Safety.lean ====
section
/-!
DEFINITION. The terms in which claims are stated: runs and safe runs; invariants of the machine; when a word of C or of a step strand is
free to have its effect; and what a word that has it leaves alone.
-/
namespace Sys2Proof.Machine

/-! ### Runs -/

/-- The state after n steps, none where a step stops. -/
def State.after : Nat → State → Option State
  | 0, s => some s
  | n + 1, s =>
    match step s with
    | .next t => t.after n
    | .fault _ => none
    | .refused _ => none

/-- A run is safe when no step of it stops. -/
def State.Safe (s : State) : Prop := ∀ n, (s.after n).isSome = true

/-! ### Invariants -/

/-- Memory is in its canonical form. -/
def State.MemCanonical (s : State) : Prop := Memory.wf s.mem = true

/-- Every core of the machine. -/
def State.cores (s : State) : List Core := s.core :: s.others

/-- If any strand runs, the turn's strand does, and no running strand of any core has its next cycle before it. -/
def State.TurnFirst (s : State) : Prop :=
  (∃ c ∈ s.cores, ∃ t, c.runs t = true) →
    s.core.runs s.turn = true ∧ ∀ c ∈ s.cores, ∀ t, c.runs t = true → s.core.nextOf s.turn ≤ c.nextOf t

/-! ### Words that nothing holds -/

/-- Nothing holds a word of C: no rule of the delay slots is broken and every register it reads is ready (05 R90; 06 R103). -/
def State.cFree (s : State) (i : Instr) (srcs : List (BitVec 5)) : Bool := !s.core.slotFault i && srcs.all s.core.c.isReady

/-- Nothing holds a word of L, X or S: a pending modifier admits it, its tokens are there, no held post stands in its way, and the gap of
a paced word has passed (02 R37; 05 R97; 17 R294, R296). -/
def State.stepFree (s : State) (t : StepStrand) (h : Hitch) (i : Instr) (paced : Bool) (tokens posts : List (BitVec 2)) : Bool :=
  (match t, s.core.v.modif with
    | .x, some m => admitsModifier m i
    | _, _ => true)
    && (tokensSeen s t (codes h.wait ++ tokens)).isNone
    && !(codes h.post ++ posts).any (s.core.heldPost t s.now)
    && !(paced && s.tooSoon t)

/-- The word issues from the state that its effect left, with its hitch field and the tokens and posts of its own. -/
def State.issues (s eff : State) (t : StepStrand) (h : Hitch) (i : Instr) (paced : Bool) (tokens posts : List (BitVec 2)) (done : Done)
    (go : Go) : State :=
  eff.issueWord t i paced (codes h.wait ++ tokens) (codes h.post ++ posts) (s.core.strand t) done go

/-- A vector word of X issues with a result that arrives `lat` cycles later. -/
def State.issuesVec (s : State) (h : Hitch) (i : Instr) (lat : Nat) (r : List LatchTarget × Flags) : State :=
  s.issues (s.vlatch lat r.1 r.2) .x h i false [] [] (.atCount (s.core.x.count + lat)) .on

/-! ### What stays as it was -/

/-- Nothing but C's own state differs: every byte of memory, every other register of the machine is as before. -/
def OnlyC (s t : State) : Prop := t = { s with core := { s.core with c := t.core.c } }

/-- Nothing but the core in focus differs. -/
def OnlyCore (s t : State) : Prop := t = { s with core := t.core }

/-- The registers of C that no word of its own set is the home of: the set not in use, flags and counts of special words. -/
def SameRest (c e : CStrand) : Prop :=
  e.handler = c.handler ∧ e.fflags = c.fflags ∧ (if c.handler then e.prim = c.prim else e.shadow = c.shadow) ∧ e.saved = c.saved ∧
    e.nLaunch = c.nLaunch ∧ e.nArrive = c.nArrive ∧ e.nExpect = c.nExpect

/-- A word of C completed with one result: s[d] reads v, every other register as before, the chain advanced, the result ready after
`lat` cycles; nothing outside C differs (06 R101, R103). -/
def CResult (s t : State) (d : BitVec 5) (v : Word64) (lat : Nat) : Prop :=
  OnlyC s t ∧ SameRest s.core.c t.core.c ∧ (d ≠ 0 → t.core.c.read d = v) ∧ (∀ r, r ≠ d → t.core.c.read r = s.core.c.read r) ∧
    t.core.c.chain = s.core.c.advance.chain ∧ t.core.c.stack = s.core.c.advance.stack ∧
    t.core.c.cycles = s.core.c.cycles + 1 ∧ t.core.c.readyAt d = s.core.c.cycles + lat ∧
    t.core.c.count = s.core.c.count + (if s.core.c.handler then 0 else 1)

/-- C's registers, chain and loop stack after a word without a result: every register reads as before, the chain advanced (06 R101). -/
def CNext (c e : CStrand) : Prop :=
  SameRest c e ∧ (∀ r, e.read r = c.read r) ∧ e.chain = c.advance.chain ∧ e.stack = c.advance.stack

/-- A word of C completed without a result. -/
def CNoResult (s t : State) : Prop := OnlyC s t ∧ CNext s.core.c t.core.c

/-- A load of C completed: s[d] reads v, every other register as before, the chain advanced; memory and all else as before, but for the
counter of free values, the lines of the global cache and of the last-level cache, and the core's timestamp (06 R103, R109; 11 R268). -/
def CLoaded (s t : State) (d : BitVec 5) (v : Word64) : Prop :=
  t = { s with free := t.free, llc := t.llc, core := { s.core with c := t.core.c, gcache := t.core.gcache, pts := t.core.pts } } ∧ SameRest s.core.c t.core.c ∧
    (d ≠ 0 → t.core.c.read d = v) ∧ (∀ r, r ≠ d → t.core.c.read r = s.core.c.read r) ∧
    t.core.c.chain = s.core.c.advance.chain ∧ t.core.c.stack = s.core.c.advance.stack

/-- A word of C reaches n bytes at a virtual address: it is aligned, its translation is held and allows the access, what a load or a pinned
task's store comes after has performed, and the bytes are there (06 R108, R109; 11 R267). -/
def State.reaches (s : State) (va pa n : Nat) (write : Bool) : Prop :=
  va % n = 0 ∧ s.page va write = .ok pa ∧
    ((write = false ∨ s.pinnedTask = true) → (s.isLocal pa || (snapOf pa).isSome || s.cOrdered) = true) ∧
    (write = false → (∀ k, k < n → s.notBuilt (va + k) = false) ∧ s.poisonIn va pa n = none)

/-- A write of n bytes of C to a physical address performs at once: into the own window; into another window, unless the task forecasts or a remote write of the
core is still on its way there (11 R263); or to global memory, outside a dead channel, where no task that could splice it later runs (06 R110). -/
def State.performsAt (s : State) (pa n : Nat) : Prop :=
  snapOf pa = none ∧ (s.isLocal pa = true ∨ ((∃ d q off, windowOf pa = some (d, q, off) ∧ s.flyingTo d q = none) ∧ s.forecasting = none) ∨
    (windowOf pa = none ∧ (∀ k, k < n → s.deadByte (pa + k) = false) ∧ ∀ t, s.core.task = some t → t.pinned = true))

end Sys2Proof.Machine
end

