-- ==== Sys2Proof/Certificates/Slice0/Obligations.lean ====
section
/-!
DEFINITION. The statements for the provers.  Each docstring names the rules of spec/ that a statement formalises; where a clause is the
model's own choice it names the log entry.
-/
open Sys2Proof Sys2Proof.Machine

/-! ### C: arithmetic and logic -/

/-- 06 R103, R105: each register form gives s[d] the value of its row from s[a] and s[b], ready after its latency, and changes nothing
outside C; a destination s0 discards the result.

06 R103, R105: the divides, and what they give for a divisor of 0; the divider is held for four cycles. -/
def Obligations.RegisterFormsGiveTheirResults : Prop :=
  (∀ (s : State) (d a b : BitVec 5),
    let x := s.core.c.read a
    let y := s.core.c.read b
    ∀ e ∈ ([(.add d a b, x + y, 1), (.sub d a b, x - y, 1), (.and d a b, x &&& y, 1), (.or d a b, x ||| y, 1), (.xor d a b, x ^^^ y, 1),
        (.shl d a b, x <<< (y.toNat % 64), 1), (.shr d a b, x >>> (y.toNat % 64), 1), (.sra d a b, x.sshiftRight (y.toNat % 64), 1),
        (.slt d a b, if x.toInt < y.toInt then 1 else 0, 1), (.sltu d a b, if x.toNat < y.toNat then 1 else 0, 1),
        (.seq d a b, if x = y then 1 else 0, 1),
        (.min d a b, if y.toInt < x.toInt then y else x, 1), (.max d a b, if x.toInt < y.toInt then y else x, 1),
        (.minu d a b, if y.toNat < x.toNat then y else x, 1), (.maxu d a b, if x.toNat < y.toNat then y else x, 1),
        (.mul d a b, BitVec.ofNat 64 (x.toNat * y.toNat), 3), (.mulh d a b, BitVec.ofInt 64 (x.toInt * y.toInt / 2 ^ 64), 3),
        (.mulhu d a b, BitVec.ofNat 64 (x.toNat * y.toNat / 2 ^ 64), 3)] : List (Instr × Word64 × Nat)),
      s.cFree e.1 [a, b] = true → ∃ t, exec e.1 s = .next t ∧ CResult s t d e.2.1 e.2.2)
  ∧ (∀ (s : State) (d a b : BitVec 5),
    let x := s.core.c.read a
    let y := s.core.c.read b
    (if s.core.c.handler then s.core.c.shDivFree else s.core.c.divFree) ≤ s.core.c.cycles →
    ∀ e ∈ ([(.divu d a b, if y = 0 then BitVec.ofNat 64 (2 ^ 64 - 1) else BitVec.ofNat 64 (x.toNat / y.toNat)),
        (.remu d a b, if y = 0 then x else BitVec.ofNat 64 (x.toNat % y.toNat))] : List (Instr × Word64)),
      s.cFree e.1 [a, b] = true → ∃ t, exec e.1 s = .next t ∧ CResult s t d e.2 4
        ∧ (if s.core.c.handler then t.core.c.shDivFree else t.core.c.divFree) = s.core.c.cycles + 4)

/-- 06 R105, R106: the forms with one register and an immediate or none; the immediate is sign-extended. -/
def Obligations.ImmediateFormsGiveTheirResults : Prop :=
  ∀ (s : State) (d a : BitVec 5) (i : BitVec 15) (n : BitVec 6),
    let x := s.core.c.read a
    let y : Word64 := i.signExtend 64
    ∀ e ∈ ([(.clz d a, if x = 0 then 64 else BitVec.ofNat 64 (63 - Nat.log2 x.toNat)),
        (.popc d a, BitVec.ofNat 64 ((List.range 64).filter fun k => x.toNat / 2 ^ k % 2 = 1).length),
        (.extS d a 1, (x.truncate 8).signExtend 64), (.extS d a 2, (x.truncate 16).signExtend 64),
        (.extS d a 4, (x.truncate 32).signExtend 64), (.extZ d a 1, BitVec.ofNat 64 (x.toNat % 2 ^ 8)),
        (.extZ d a 2, BitVec.ofNat 64 (x.toNat % 2 ^ 16)), (.extZ d a 4, BitVec.ofNat 64 (x.toNat % 2 ^ 32)),
        (.addi d a i, x + y), (.andi d a i, x &&& y), (.ori d a i, x ||| y), (.xori d a i, x ^^^ y),
        (.shli d a n, x <<< n.toNat), (.shri d a n, x >>> n.toNat), (.srai d a n, x.sshiftRight n.toNat),
        (.slti d a i, if x.toInt < y.toInt then 1 else 0), (.sltui d a i, if x.toNat < y.toNat then 1 else 0)] : List (Instr × Word64)),
      s.cFree e.1 [a] = true → ∃ t, exec e.1 s = .next t ∧ CResult s t d e.2 1

/-- 06 R107, 03 R55: lui, apc, and the pair "lui d, hi(x)", "addi d, d, lo(x)", which leaves x in s[d]. -/
def Obligations.UpperImmediates : Prop :=
  (∀ (s : State) (d : BitVec 5) (i : BitVec 20),
    ∀ e ∈ ([(.lui d i, BitVec.ofInt 64 (i.toInt * 2 ^ 15)),
        (.apc d i, BitVec.ofInt 64 (s.core.c.chain.pc.toNat + i.toInt * 2 ^ 15))] : List (Instr × Word64)),
      s.cFree e.1 [] = true → ∃ t, exec e.1 s = .next t ∧ CResult s t d e.2 1)
  ∧ ∀ (s t : State) (d : BitVec 5) (x l : Int), l = (BitVec.ofInt 15 x).toInt → -(2 ^ 34) ≤ x - l → x - l ≤ 2 ^ 34 - 2 ^ 15 → d ≠ 0 →
      let lui : Instr := .lui d (BitVec.ofInt 20 ((x - l) / 2 ^ 15))
      let addi : Instr := .addi d d (BitVec.ofInt 15 x)
      s.cFree lui [] = true → exec lui s = .next t → t.cFree addi [d] = true →
        ∃ u, exec addi t = .next u ∧ u.core.c.read d = BitVec.ofInt 64 x

/-! ### C: loads, stores and atomics -/

/-- 06 R108, R109, R111: each load reads the n bytes that the task sees at its address, extends them, and writes s[d]; from the own
window the result is ready after 6 cycles (R103).  Memory is as before.

06 R109; 11 R376: where no prediction and no snapshot stands, a byte that a word of C sees is the newest buffered store's where that
wrote it, what the older ones left where it wrote no bit of it, and where nothing is buffered the byte of the leased copy that a load
hits in the core's global cache (11 R268), else memory's. -/
def Obligations.LoadsReadTheirBytes : Prop :=
  (∀ (s : State) (d a : BitVec 5) (i : BitVec 15) (pa : Nat),
    let va := (s.core.c.read a + i.signExtend 64).toNat
    let x := fun n => leNat ((List.range n).map fun k => s.seenByte (va + k) (pa + k))
    ∀ e ∈ ([(.ldB d a i, 1, (BitVec.ofNat 8 (x 1)).signExtend 64), (.ldH d a i, 2, (BitVec.ofNat 16 (x 2)).signExtend 64),
        (.ldW d a i, 4, (BitVec.ofNat 32 (x 4)).signExtend 64), (.ldD d a i, 8, BitVec.ofNat 64 (x 8)),
        (.lduB d a i, 1, BitVec.ofNat 64 (x 1)), (.lduH d a i, 2, BitVec.ofNat 64 (x 2)), (.lduW d a i, 4, BitVec.ofNat 64 (x 4)),
        (.ldLast d a i, 8, BitVec.ofNat 64 (x 8))] : List (Instr × Nat × Word64)),
      s.cFree e.1 [a] = true → s.reaches va pa e.2.1 false →
        ∃ t, exec e.1 s = .next t ∧ CLoaded s t d e.2.2 ∧
          (s.isLocal pa = true → t.core.c.readyAt d = s.core.c.cycles + 6))
  ∧ (∀ (s : State) (t : Task) (va pa : Nat), s.core.task = some t → snapOf pa = none → s.predictedIndex va = none →
    let under := match s.hit pa with | some g => Memory.read g.cells pa | none => Memory.read s.mem pa
    (t.buf = [] → s.seenByte va pa = under)
    ∧ ∀ (l : List Effect) (e : Effect), t.buf = l ++ [e] →
      (∀ (v q : Nat) (bs : List Byte), e.kind = .store v q (whole bs) → v ≤ va → va < v + bs.length → s.seenByte va pa = bs.getD (va - v) 0)
      ∧ ((e.kind.bitsAt va).2 = 0 → s.seenByte va pa = overlay l va under))

/-- 06 R108, R110: a store that performs at once writes the low n bytes of s[b], lowest first; every other byte of memory and every
register of every strand is as before.

02 R26; 06 R110: a store of a task that is not pinned to global memory goes into the splice buffer while there is room; memory and
every register are as before. -/
def Obligations.StoresWriteTheirBytes : Prop :=
  (∀ (s : State) (b a : BitVec 5) (i : BitVec 15) (pa : Nat), s.MemCanonical →
    let va := (s.core.c.read a + i.signExtend 64).toNat
    ∀ e ∈ ([(.stB b a i, 1), (.stH b a i, 2), (.stW b a i, 4), (.stD b a i, 8)] : List (Instr × Nat)),
      s.performsAt pa e.2 → s.cFree e.1 [a, b] = true → s.reaches va pa e.2 true →
        ∃ t, exec e.1 s = .next t
          ∧ (∀ k, k < e.2 → Memory.read t.mem (pa + k) = BitVec.ofNat 8 ((s.core.c.read b).toNat / 256 ^ k))
          ∧ (∀ x, x < pa ∨ pa + e.2 ≤ x → Memory.read t.mem x = Memory.read s.mem x)
          ∧ CNext s.core.c t.core.c ∧ t.core.l = s.core.l ∧ t.core.x = s.core.x ∧ t.core.s = s.core.s ∧ t.core.v = s.core.v
          ∧ t.core.m = s.core.m ∧ t.core.csr = s.core.csr ∧ t.core.frame = s.core.frame)
  ∧ (∀ (s : State) (k : Task) (b a : BitVec 5) (i : BitVec 15) (pa : Nat), s.core.task = some k → k.pinned = false →
    snapOf pa = none → windowOf pa = none →
    let va := (s.core.c.read a + i.signExtend 64).toNat
    ∀ e ∈ ([(.stB b a i, 1), (.stH b a i, 2), (.stW b a i, 4), (.stD b a i, 8)] : List (Instr × Nat)),
      s.cFree e.1 [a, b] = true → s.reaches va pa e.2 true → k.used + s.core.m.reserved + e.2 ≤ 524288 →
        ∃ t, exec e.1 s = .next t ∧ t.mem = s.mem ∧ CNext s.core.c t.core.c
          ∧ t.core.task.map (·.buf) = some (insertEff
              ⟨.store va pa (whole (leBytes e.2 (s.core.c.read b).toNat)), s.copyCycle, 0, none, s.issuePhase 0⟩ k.buf))

/-- 06 R113: an atomic with d = 0 of a task that is not pinned is buffered, and its old value is discarded.

06 R112, R113: an atomic with a destination first drains the splice buffer and pins the task; then it performs on the doubleword
at s[a] at once and gives s[d] the old value.  One with d = 0 performs at once in a pinned task, and for the supervisor, which runs no task.

06 R130; 11 R267, R270: one that performs at once comes after what a global access of C comes after; an amo of use 2 comes after fences alone.  Its
physical address is as aligned as its virtual one, since every page is (11 R259). -/
def Obligations.AtomicsActOnce : Prop :=
  (∀ (s : State) (k : Task) (a b : BitVec 5) (u : BitVec 2) (op : BitVec 4) (pa : Nat),
    let va := (s.core.c.read a).toNat
    s.core.task = some k → k.pinned = false → s.reaches va pa 8 true → (va < 0x8000000000000 ∨ 0xC000000000000 ≤ va) → windowOf pa = none →
    k.used + s.core.m.reserved + 8 ≤ 524288 →
    ∀ e ∈ ([(.amo 0 a b u op, [a, b], .amo va pa op (s.core.c.read b)), (.cas 0 a b, [a, b, 0], .cas va pa 0 (s.core.c.read b))] :
        List (Instr × List (BitVec 5) × EffKind)),
      s.cFree e.1 e.2.1 = true →
        ∃ t, exec e.1 s = .next t ∧ t.mem = s.mem ∧ CNext s.core.c t.core.c
          ∧ t.core.task.map (·.buf) = some (insertEff ⟨e.2.2, s.copyCycle, 0, none, s.issuePhase 0⟩ k.buf))
  ∧ (∀ (s : State) (d a b : BitVec 5) (u : BitVec 2) (pa : Nat),
    let va := (s.core.c.read a).toNat
    let m := s.pin
    s.reaches va pa 8 true → pa % 8 = 0 → (va < 0x8000000000000 ∨ 0xC000000000000 ≤ va) → windowOf pa = none → m.deadByte pa = false →
    s.poisonIn va pa 8 = none → m.poisonIn va pa 8 = none →
    (d ≠ 0 ∧ s.forecasting = none ∨ d = 0 ∧ (s.pinnedTask = true ∨ s.core.task = none)) →
      let old := BitVec.ofNat 64 (Memory.readNat m.mem pa 8)
      let y := s.core.c.read b
      (∀ e ∈ ([(.amo d a b u 0, y), (.amo d a b u 1, old + y), (.amo d a b u 2, old &&& y), (.amo d a b u 3, old ||| y),
            (.amo d a b u 4, old ^^^ y), (.amo d a b u 5, if old.toInt < y.toInt then old else y),
            (.amo d a b u 6, if old.toInt < y.toInt then y else old), (.amo d a b u 7, if old.toNat < y.toNat then old else y),
            (.amo d a b u 8, if old.toNat < y.toNat then y else old)] : List (Instr × Word64)),
          s.cFree e.1 [a, b] = true → (if u = 2 then s.fenceDone else s.cOrdered) = true →
            ∃ t, exec e.1 s = .next t ∧ t.mem = Memory.writeBytes m.mem pa (leBytes 8 e.2.toNat) ∧ (d ≠ 0 → t.core.c.read d = old)
              ∧ (∀ r, r ≠ d → t.core.c.read r = m.core.c.read r) ∧ t.core.c.chain = m.core.c.advance.chain)
      ∧ (s.cFree (.cas d a b) [a, b, d] = true → s.cOrdered = true →
          ∃ t, exec (.cas d a b) s = .next t
            ∧ t.mem = (if old = s.core.c.read d then Memory.writeBytes m.mem pa (leBytes 8 y.toNat) else m.mem)
            ∧ (d ≠ 0 → t.core.c.read d = old) ∧ (∀ r, r ≠ d → t.core.c.read r = m.core.c.read r)
            ∧ t.core.c.chain = m.core.c.advance.chain))

/-! ### C: branches and loops -/

/-- 06 R114, R116; 05 R90: a conditional branch compares s[a] with s[b]; its two slots come next, taken or not, and a taken one goes to
pc + 4 * off15 after the second; a target that is not a word of the memory faults at the branch. -/
def Obligations.ConditionalBranches : Prop :=
  ∀ (s : State) (a b : BitVec 5) (o : BitVec 15),
    let x := s.core.c.read a
    let y := s.core.c.read b
    let pc := s.core.c.chain.pc
    let target : Int := pc.toNat + 4 * o.toInt
    ∀ e ∈ ([(.beq a b o, decide (x = y)), (.bne a b o, decide (x ≠ y)), (.blt a b o, decide (x.toInt < y.toInt)),
        (.bge a b o, decide (y.toInt ≤ x.toInt)), (.bltu a b o, decide (x.toNat < y.toNat)), (.bgeu a b o, decide (y.toNat ≤ x.toNat))] :
        List (Instr × Bool)),
      s.cFree e.1 [a, b] = true →
        if e.2 = true ∧ target % 4 ≠ 0 then exec e.1 s = .next (s.cTrap 0x03 (BitVec.ofInt 64 target))
        else if e.2 = true ∧ ¬(0 ≤ target ∧ target < 0x10000) then exec e.1 s = .next (s.cTrap 0x05 (BitVec.ofInt 64 target))
        else ∃ t, exec e.1 s = .next t ∧ OnlyC s t ∧ SameRest s.core.c t.core.c ∧ (∀ r, t.core.c.read r = s.core.c.read r)
          ∧ t.core.c.stack = s.core.c.stack
          ∧ t.core.c.chain = if e.2 then ⟨pc + 4, 2, pc + 8, BitVec.ofInt 64 target⟩ else ⟨pc + 4, 0, 0, 0⟩

/-- 06 R115, R116: jal and jalr write pc + 12 into s[d] and go to their target after two slots; jalr computes its target from s[a] at
issue; a target that is not a word of the memory faults at the branch. -/
def Obligations.Jumps : Prop :=
  ∀ (s : State) (d a : BitVec 5) (o : BitVec 20) (i : BitVec 15),
    let pc := s.core.c.chain.pc
    ∀ e ∈ ([(.jal d o, [], (pc.toNat : Int) + 4 * o.toInt), (.jalr d a i, [a], ((s.core.c.read a + i.signExtend 64).toNat : Int))] :
        List (Instr × List (BitVec 5) × Int)),
      s.cFree e.1 e.2.1 = true →
        if e.2.2 % 4 ≠ 0 then exec e.1 s = .next (s.cTrap 0x03 (BitVec.ofInt 64 e.2.2))
        else if ¬(0 ≤ e.2.2 ∧ e.2.2 < 0x10000) then exec e.1 s = .next (s.cTrap 0x05 (BitVec.ofInt 64 e.2.2))
        else ∃ t, exec e.1 s = .next t ∧ OnlyC s t ∧ SameRest s.core.c t.core.c ∧ (d ≠ 0 → t.core.c.read d = pc + 12)
          ∧ (∀ r, r ≠ d → t.core.c.read r = s.core.c.read r) ∧ t.core.c.stack = s.core.c.stack
          ∧ t.core.c.chain = ⟨pc + 4, 2, pc + 8, BitVec.ofInt 64 e.2.2⟩

/-- 05 R90; 06 R116: from a branch that is taken the two slots execute next, and then the target, where loop entries that do not hold
it are gone.

06 R117: at a body's last word an entry with passes left goes back to its start with one pass fewer; a finished one is popped, and
the entry below it is asked; elsewhere the next word follows. -/
def Obligations.TheChainAdvances : Prop :=
  (∀ (c : CStrand) (pc t : Word64), c.chain = ⟨pc + 4, 2, pc + 8, t⟩ →
    c.advance.chain = ⟨pc + 8, 1, t, t + 4⟩ ∧ c.advance.stack = c.stack ∧ c.advance.advance.chain = ⟨t, 0, 0, 0⟩
      ∧ c.advance.advance.stack = c.stack.dropWhile fun e => !(decide (e.start ≤ t.toNat) && decide (t.toNat ≤ e.last)))
  ∧ (∀ (w : Nat) (e : LoopEntry) (l : List LoopEntry),
    afterWord w [] = (w + 4, []) ∧ (e.last ≠ w → afterWord w (e :: l) = (w + 4, e :: l))
      ∧ (e.last = w → 1 < e.count → afterWord w (e :: l) = (e.start, ⟨e.start, e.last, e.count - 1⟩ :: l))
      ∧ (e.last = w → e.count ≤ 1 → afterWord w (e :: l) = afterWord w l))

/-- 06 R117: loop takes its count from s[c] and loopi an immediate one; a count above 0 pushes the body, a count of 0 goes on after the
body's last word; a body past the memory, past an enclosing body, or a fifth entry faults.  R117 names no TVAL for a body past the memory: the
address of its last word is the model's choice (log 47). -/
def Obligations.LoopsPushTheirBody : Prop :=
  ∀ (s : State) (c : BitVec 5) (n : BitVec 10) (o : BitVec 15),
    let pc := s.core.c.chain.pc
    let last := (pc.toNat + 4 * o.toInt).toNat
    let st := s.core.c.stack
    ∀ e ∈ ([(.loop c o, [c], (s.core.c.read c).toNat), (.loopi n o, [], n.toNat)] : List (Instr × List (BitVec 5) × Nat)),
      s.cFree e.1 e.2.1 = true →
        if 0x10000 ≤ last then exec e.1 s = .next (s.cTrap 0x05 (BitVec.ofNat 64 last))
        else if (∃ l ∈ st, l.last = pc.toNat) ∨ 4 ≤ st.length ∨ (∃ l, st.head? = some l ∧ l.last < last) then
          exec e.1 s = .next (s.cTrap 0x13 0)
        else ∃ t, exec e.1 s = .next t ∧ OnlyC s t ∧ SameRest s.core.c t.core.c ∧ (∀ r, t.core.c.read r = s.core.c.read r)
          ∧ t.core.c.stack = (if e.2.2 = 0 then (afterWord last st).2 else ⟨pc.toNat + 4, last, e.2.2⟩ :: st)
          ∧ t.core.c.chain = if e.2.2 = 0 then ⟨BitVec.ofNat 64 (afterWord last st).1, 0, 0, 0⟩ else ⟨pc + 4, 0, 0, 0⟩

/-! ### C: queues, format words, nests -/

/-- 06 R118: qpush appends s[v] to the data queue of its pair while there is room, and tpost a token; the consumer sees them from the
end of the cycle on, or from the stop where a handler pushes (02 R36).  A full queue leaves every queue as it is.

06 R118: qpop moves the head word of the pair's data queue into s[v]; qtry does so and sets s[e] to 1, or sets s[e] to 0 and leaves
s[v] where no word is visible; twait consumes a token. -/
def Obligations.QueueWordsOfC : Prop :=
  (∀ (s : State) (v : BitVec 5) (p : BitVec 2),
    let n := outQ .c p
    let seen := if s.core.c.handler then s.core.stop else s.now + s.core.div.ctl
    let after := s.core.c.after
    (s.cFree (.qpush v p) [v] = true → (s.core.dq[n]).room 16 s.now = true →
      ∃ t, exec (.qpush v p) s = .next t ∧ CNext s.core.c t.core.c
        ∧ t = { s with core := { s.core with c := t.core.c, dq := s.core.dq.set n ((s.core.dq[n]).push (s.core.c.read v) seen after) } })
    ∧ (s.cFree (.tpost p) [] = true → (s.core.hq[n]).room 32 s.now = true →
      ∃ t, exec (.tpost p) s = .next t ∧ CNext s.core.c t.core.c
        ∧ t = { s with core := { s.core with c := t.core.c, hq := s.core.hq.set n ((s.core.hq[n]).push 1 seen after) } })
    ∧ (s.cFree (.qpush v p) [v] = true → (s.core.dq[n]).room 16 s.now = false → s.core.c.handler = false →
      exec (.qpush v p) s = .next (s.cTick (some (.data n.val true))))
    ∧ (s.cFree (.tpost p) [] = true → (s.core.hq[n]).room 32 s.now = false → s.core.c.handler = false →
      exec (.tpost p) s = .next (s.cTick (some (.hitch n.val true)))))
  ∧ (∀ (s : State) (v e : BitVec 5) (p : BitVec 2),
    let n := inQ .c p
    let left := fun q : Queue => q.pop s.now (if s.core.c.handler then s.core.stop else s.now + s.core.div.ctl)
    let popped := (s.updCore fun c => c.updDq n left).comeAfter .c (s.core.dq[n]).headAfter
    (s.cFree (.qpop v p) [] = true → (s.core.dq[n]).visible s.now = true →
      ∃ t, exec (.qpop v p) s = .next t ∧ CResult popped t v (s.core.dq[n]).head 1)
    ∧ (s.cFree (.qtry v e p) [] = true → (s.core.dq[n]).visible s.now = true →
      ∃ t, exec (.qtry v e p) s = .next t ∧ OnlyC popped t ∧ (e ≠ 0 → t.core.c.read e = 1)
        ∧ (v ≠ 0 → v ≠ e → t.core.c.read v = (s.core.dq[n]).head) ∧ (∀ r, r ≠ e → r ≠ v → t.core.c.read r = s.core.c.read r))
    ∧ (s.cFree (.qtry v e p) [] = true → (s.core.dq[n]).visible s.now = false → ∃ t, exec (.qtry v e p) s = .next t ∧ CResult s t e 0 1)
    ∧ (s.cFree (.twait p) [] = true → (s.core.hq[n]).visible s.now = true →
      ∃ t, exec (.twait p) s = .next t ∧ CNoResult ((s.updCore fun c => c.updHq n left).comeAfter .c (s.core.hq[n]).headAfter) t)
    ∧ (s.cFree (.twait p) [] = true → (s.core.hq[n]).visible s.now = false → s.core.c.handler = false →
      exec (.twait p) s = .next (s.cTick (some (.hitch n.val false)))))

/-! ### C: kernels, the cleat, service words -/

/-- 02 R26; 10 R247: an effect of a task that is not pinned goes into its splice buffer while there is room; a pinned task's performs at
once; without room an ordinary task drains early and is pinned, and a forecasting one waits. -/
def Obligations.EffectsAreBufferedOrPerformed : Prop :=
  ∀ (s : State) (k : Task) (rank : Nat) (e : EffKind), s.core.task = some k →
    let noted := s.updTask fun t => { t with wrote := t.wrote ++ (s.slotsHit e).filter fun f => !t.wrote.contains f }
    (k.pinned = true → s.put rank e = .done (noted.perform e))
    ∧ (k.pinned = false → k.used + s.core.m.reserved + e.size ≤ 524288 →
        s.put rank e = .done (noted.updTask fun t => { t with buf := insertEff ⟨e, s.copyCycle, rank, none, s.issuePhase rank⟩ t.buf }))
    ∧ (k.pinned = false → 524288 < k.used + s.core.m.reserved + e.size → k.forecast = none →
        s.put rank e = .done (((noted.splice).updTask fun t => { t with pinned := true }).perform e))
    ∧ (k.pinned = false → 524288 < k.used + s.core.m.reserved + e.size → k.forecast ≠ none → s.put rank e = .stall)

/-- 06 R122 to R124, R130: launch gives its handle at issue and submits with the task's effects; stream stages the ranges of its list (19 R321), of
which an entry that cannot be read, or whose length is out of its bounds, stages nothing, the model's choice (log 44); ktrig is an effect of the task;
kwait completes once every producer counts as triggered, with what they stored seen by the core, and waits before.  An effect of a task without room
waits for the verdict where the task forecasts (10 R247).

06 R130; 11 R267, R271: fence completes at once, whatever still has to perform, and changes no register and no byte; a later global load or pinned
store of C waits while a transfer or a remote write that it comes after is in a unit, or on its way to another window.

06 R126; 21 R354: coll, once what its reads come after has performed (11 R267), checks its descriptor at issue and gives s[d] the id; a task that does
not forecast starts the collective, and the effect of one that does goes into its buffer.  The order of its checks and the walks of its buffers' pages
are the model's choice (log 52).

06 R127 to R129; 02 R31, R32: an arrival and an expectation take effect under the identity of the word's place in the task, at once
or with a forecasting task's effects; a second arrival under another identity and an expectation of 2^32 fault; the wait completes for a
phase past, waits for the present one once arrived, and faults where it could never end; that it does so for an arrival that a forecasting task's
buffer holds is the model's reading (log 53). -/
def Obligations.KernelWords : Prop :=
  (∀ (s : State) (k : Task) (d a : BitVec 5), s.core.task = some k →
    let handle : Word64 := BitVec.ofNat 64 (k.kid % 2 ^ 16 * 2 ^ 48 + k.ord % 2 ^ 32 * 2 ^ 16 + s.core.c.nLaunch % 2 ^ 16)
    let room := fun (e : EffKind) => k.pinned = true ∨ k.forecast = none ∨ k.used + s.core.m.reserved + e.size ≤ 524288
    (s.cFree (.launch d a) [a] = true → room (.launch handle (s.core.c.read a)) →
      ∃ u t, s.put 0 (.launch handle (s.core.c.read a)) = .done u ∧ exec (.launch d a) s = .next t
        ∧ CResult (u.updC fun c => { c with nLaunch := c.nLaunch + 1 }) t d handle 1)
    ∧ (s.cFree (.launch d a) [a] = true → ¬room (.launch handle (s.core.c.read a)) → s.core.c.handler = false →
      exec (.launch d a) s = .next (s.cTick (some .verdict)))
    ∧ (s.cFree .ktrig [] = true → room .ktrig →
      ∃ u t, s.put 0 .ktrig = .done u ∧ exec .ktrig s = .next t ∧ CNoResult u t)
    ∧ (s.cFree .ktrig [] = true → ¬room .ktrig → s.core.c.handler = false → exec .ktrig s = .next (s.cTick (some .verdict))))
  ∧ (∀ (s : State) (d a : BitVec 5) (i : BitVec 15) (scope : BitVec 2) (pa : Nat),
    (s.cFree (.stream a) [a] = true →
      ∃ t, exec (.stream a) s = .next t ∧ CNoResult (s.streamWord s.core.csr.ctxid (s.core.c.read a).toNat) t)
    ∧ (s.cFree .kwait [] = true → s.producersDone = true → ∃ t, exec .kwait s = .next t ∧ CNoResult s.seeAll t)
    ∧ (s.cFree .kwait [] = true → s.producersDone = false → s.core.c.handler = false → exec .kwait s = .next (s.cTick (some .kwait)))
    ∧ (s.cFree (.fence scope) [] = true → ∃ t, exec (.fence scope) s = .next t ∧ CNext s.core.c t.core.c ∧ t.mem = s.mem
      ∧ (∀ k, t.core.strand k = s.core.strand k) ∧ t.core.v = s.core.v ∧ t.core.m = s.core.m ∧ t.core.csr = s.core.csr
      ∧ t.core.inb = s.core.inb ∧ t.core.outb = s.core.outb ∧ t.core.task = s.core.task
      ∧ t.core.c.fence = s.core.c.fence.join s.core.c.after
      ∧ t.links.flying = s.links.flying.map fun (f : Flying) =>
          if f.sender = (s.core.die, s.core.q) ∧ f.ident = none then { f with fenced := true } else f)
    ∧ (s.core.task.isSome = true → s.core.c.handler = false →
        (∃ e ∈ s.core.inb.queue, e.seq ≤ s.core.c.fence.l ∧ (s.xferAccess e.op = true ∨ s.xferRemote e.op = true))
          ∨ (∃ e ∈ s.core.outb.queue, e.seq ≤ s.core.c.fence.s ∧ (s.xferAccess e.op = true ∨ s.xferRemote e.op = true))
          ∨ (∃ f ∈ s.links.flying, f.fenced = true ∧ f.sender = (s.core.die, s.core.q)) →
      let va := (s.core.c.read a + i.signExtend 64).toNat
      s.isLocal pa = false → snapOf pa = none →
      (∀ e ∈ ([(.ldB d a i, 1), (.ldH d a i, 2), (.ldW d a i, 4), (.ldD d a i, 8), (.lduB d a i, 1), (.lduH d a i, 2), (.lduW d a i, 4),
          (.ldLast d a i, 8)] : List (Instr × Nat)),
        s.cFree e.1 [a] = true → va % e.2 = 0 → s.page va false = .ok pa → exec e.1 s = .next (s.cTick (some .order)))
      ∧ ∀ e ∈ ([(.stB d a i, 1), (.stH d a i, 2), (.stW d a i, 4), (.stD d a i, 8)] : List (Instr × Nat)),
        s.cFree e.1 [a, d] = true → va % e.2 = 0 → s.page va true = .ok pa → s.pinnedTask = true → exec e.1 s = .next (s.cTick (some .order))))
  ∧ (∀ (s : State) (k : Kernel) (t : Task) (d a : BitVec 5), s.myKernel = some k → s.core.task = some t → s.cFree (.coll d a) [a] = true →
    let va := s.core.c.read a
    let id := BitVec.ofNat 64 (leNat (s.taskLoad k.ctx va.toNat 2))
    (va.toNat % 64 = 0 → s.cOrdered = false → s.core.c.handler = false → exec (.coll d a) s = .next (s.cTick (some .order)))
    ∧ (va.toNat % 64 ≠ 0 ∨ s.cOrdered = true →
      (∀ x w, s.collAccess va.toNat = .walk x w → exec (.coll d a) s = .next (s.freezeCore (.walk x w)))
      ∧ (∀ c x, s.collAccess va.toNat = .bad c x → exec (.coll d a) s = .next (s.cTrap c (BitVec.ofNat 64 x)))
      ∧ (∀ c, s.collAccess va.toNat = .ok → s.collCheck va.toNat = some c → exec (.coll d a) s = .next (s.cTrap (BitVec.ofNat 8 c) va))
      ∧ (s.collAccess va.toNat = .ok → s.collCheck va.toNat = none → s.forecasting = none →
          ∃ u, exec (.coll d a) s = .next u ∧ CResult (s.startColl va) u d id 1)
      ∧ (s.collAccess va.toNat = .ok → s.collCheck va.toNat = none → s.forecasting ≠ none →
          t.pinned = true ∨ t.used + s.core.m.reserved + (EffKind.coll va).size ≤ 524288 →
          ∃ u w, s.put 0 (.coll va) = .done u ∧ exec (.coll d a) s = .next w ∧ CResult u w d id 1)))
  ∧ (∀ (s : State) (k : Task) (q : Kernel) (v : VCore) (a : BitVec 5), s.core.task = some k → s.myKernel = some q → s.myVc = some v →
    let n := (s.core.c.read a).toNat
    let arrive : EffKind := .arrive (k.ident s.core.c.nArrive)
    let expect : EffKind := .expect (k.ident s.core.c.nExpect) n
    let room := fun (e : EffKind) => k.pinned = true ∨ k.used + s.core.m.reserved + e.size ≤ 524288
    (s.cFree .cleatArrive [] = true → s.forecasting = none → s.otherArrival (k.ident s.core.c.nArrive) = false →
      ∃ t, exec .cleatArrive s = .next t ∧ CNoResult ((s.perform arrive).updC fun c => { c with nArrive := c.nArrive + 1 }) t)
    ∧ (s.cFree .cleatArrive [] = true → s.forecasting ≠ none → s.otherArrival (k.ident s.core.c.nArrive) = false → room arrive →
      ∃ u t, s.put 0 arrive = .done u ∧ exec .cleatArrive s = .next t ∧ CNoResult (u.updC fun c => { c with nArrive := c.nArrive + 1 }) t)
    ∧ (s.cFree .cleatArrive [] = true → s.otherArrival (k.ident s.core.c.nArrive) = true → exec .cleatArrive s = .next (s.cTrap 0x13 0))
    ∧ (s.cFree (.cleatExpect a) [a] = true → s.forecasting = none → n < 2 ^ 32 →
      ∃ t, exec (.cleatExpect a) s = .next t ∧ CNoResult ((s.perform expect).updC fun c => { c with nExpect := c.nExpect + 1 }) t)
    ∧ (s.cFree (.cleatExpect a) [a] = true → s.forecasting ≠ none → n < 2 ^ 32 → room expect →
      ∃ u t, s.put 0 expect = .done u ∧ exec (.cleatExpect a) s = .next t ∧ CNoResult (u.updC fun c => { c with nExpect := c.nExpect + 1 }) t)
    ∧ (s.cFree (.cleatExpect a) [a] = true → 2 ^ 32 ≤ n → exec (.cleatExpect a) s = .next (s.cTrap 0x13 0))
    ∧ (s.cFree (.cleatWait a) [a] = true → n < q.phase → ∃ t, exec (.cleatWait a) s = .next t ∧ CNoResult s t)
    ∧ (s.cFree (.cleatWait a) [a] = true → q.phase < n ∨ n = q.phase ∧ v.arrived = none →
        exec (.cleatWait a) s = .next (s.cTrap 0x13 0))
    ∧ (s.cFree (.cleatWait a) [a] = true → n = q.phase → v.arrived ≠ none → s.core.c.handler = false →
        exec (.cleatWait a) s = .next (s.cTick (some (.cleat (BitVec.ofNat 64 n))))))

/-- 06 R131: csrr, csrw and csrx on every register that a number names, in the contexts that may; a number without a register raises
cause 0x01 with the word, and a frame register outside the handler and the supervisor cause 0x05 with the number.

06 R131, R132: a write of a read-only register changes nothing; LODC is cleared by any write.

06 R135: MTESTI holds the low 32 bits of what the supervisor writes, and 0x400 for a smaller value.  That the supervisor's own handler counts as its
context for the registers that only the supervisor writes is the model's choice (log 51). -/
def Obligations.ControlRegisterWords : Prop :=
  (∀ (s : State) (d a : BitVec 5) (csr : BitVec 12),
    let n := csr.toNat
    let frame := 0x100 ≤ n ∧ n ≤ 0x105
    let super := n = 0x050 ∨ n = 0x0A0
    (∀ v, s.csrRead n = some v → (frame → s.core.c.handler = true ∨ s.core.sup = true) →
      (s.cFree (.csrr d csr) [] = true → ∃ t, exec (.csrr d csr) s = .next t ∧ CResult s t d v 2)
      ∧ ((super → s.core.sup = true) →
        (s.cFree (.csrw a csr) [a] = true → ∃ t, exec (.csrw a csr) s = .next t ∧ CNoResult (s.csrWrite n (s.core.c.read a)) t)
        ∧ (s.cFree (.csrx d a csr) [a] = true →
            ∃ t, exec (.csrx d a csr) s = .next t ∧ CResult (s.csrWrite n (s.core.c.read a)) t d v 2)))
    ∧ (∀ e ∈ ([(.csrr d csr, []), (.csrw a csr, [a]), (.csrx d a csr, [a])] : List (Instr × List (BitVec 5))), s.cFree e.1 e.2 = true →
        (s.csrRead n = none → exec e.1 s = .next (s.cTrap 0x01 ((encode e.1).zeroExtend 64)))
        ∧ (frame → s.core.c.handler = false → s.core.sup = false → exec e.1 s = .next (s.cTrap 0x05 (csr.zeroExtend 64)))))
  ∧ (∀ (s : State) (v : Word64),
    (∀ n ∈ [0x040, 0x041, 0x042, 0x080, 0x081, 0x082, 0x083, 0x090, 0x103, 0x104], s.csrWrite n v = s)
      ∧ (s.csrWrite 0x091 v).csrRead 0x091 = some 0)
  ∧ (∀ (s : State) (v : Word64),
    (s.csrWrite 0x050 v).csrRead 0x050 = some (BitVec.ofNat 64 (Nat.max 0x400 (v.toNat % 2 ^ 32))))

/-- 06 R138, R134: pace sets the named pacing register to min(s[a], 255), as csrw of that register does.

06 R137; 01 R15: clkdiv notes the larger request for its domain with the task's kernel; a divisor that no domain runs at raises cause
0x05 with the value. -/
def Obligations.PaceAndDivisorWords : Prop :=
  (∀ (s : State) (a : BitVec 5) (r : BitVec 2), s.cFree (.pace a r) [a] = true → r ≠ 3 →
    let gap := Nat.min (s.core.c.read a).toNat 255
    ∃ t, exec (.pace a r) s = .next t ∧ CNoResult (s.csrWrite (0x030 + r.toNat) (BitVec.ofNat 64 gap)) t
      ∧ t.csrRead (0x030 + r.toNat) = some (BitVec.ofNat 64 gap))
  ∧ (∀ (s : State) (k : Task) (a : BitVec 5) (dom : BitVec 2), s.core.task = some k → s.cFree (.clkdiv a dom) [a] = true →
    let v := s.core.c.read a
    (v.toNat ∈ [5, 6, 7, 8, 10, 12] →
      ∃ t, exec (.clkdiv a dom) s = .next t
        ∧ CNoResult (s.updKernel k.kid fun q => { q with reqs := addRequest q.reqs dom.toNat v.toNat }) t)
    ∧ (v.toNat ∉ [5, 6, 7, 8, 10, 12] → exec (.clkdiv a dom) s = .next (s.cTrap 0x05 v)))

/-- 06 R139; 20 R331, R333: trap and ecall complete, and then raise cause 0x10 with their code as TVAL, so that the frame records the
chain that follows them; in a handler they are a handler fault (20 R341). -/
def Obligations.SoftwareTraps : Prop :=
  ∀ (s : State) (code : BitVec 8),
    ∀ e ∈ ([(.trap code, code.zeroExtend 64), (.ecall, 0x100)] : List (Instr × Word64)), s.cFree e.1 [] = true →
      (s.core.c.handler = true → exec e.1 s = .next s.handlerFault)
      ∧ (s.core.c.handler = false →
          ∃ t, exec e.1 s = .next t ∧ t.core.frame.cause = 0x10 ∧ t.core.frame.tval = e.2 ∧ t.core.frame.src = 0
            ∧ t.core.c.handler = true ∧ t.core.c.chain.pc = 0x10 ∧ t.core.c.saved = s.core.c.advance.chain
            ∧ t.core.frame.fpc = BitVec.ofNat 17 s.core.c.advance.chain.pc.toNat ∧ t.core.c.prim = s.core.c.prim
            ∧ t.core.c.loops = s.core.c.advance.loops ∧ t.mem = s.mem)

/-- 06 R140 to R142; 20 R337, R340: rett takes up what the supervisor wrote into the snapshot block, if anything, and returns from the trap; idle
completes and leaves the supervisor's C waiting for an interrupt; tlbinv drops the translations of its context that hold the page of s[a], or all of
that context, from the buffer of every core and of every die.

06 R102, R140 to R142; 10 R243, R255: rett outside a handler, idle and tlbinv outside the supervisor, and texit, fcast and fverd
outside a task's own words raise cause 0x05.  R102 and R334 leave the TVAL of that cause open and do not say whether the supervisor's handler counts
as its context: the word, as R243 has it for fcast, and that it does, are the model's choice (log 51). -/
def Obligations.ServiceWords : Prop :=
  (∀ (s : State) (a : BitVec 5) (c : BitVec 1),
    (s.cFree .rett [] = true → s.core.c.handler = true →
        exec .rett s = .next ((s.updCore fun c => c.takeUp s.now).returnTrap (s.now + s.core.div.ctl))
        ∧ (s.core.extra = [] → exec .rett s = .next (s.returnTrap (s.now + s.core.div.ctl))))
    ∧ (s.cFree .idle [] = true → s.core.sup = true → s.core.c.handler = false →
        ∃ t, exec .idle s = .next t ∧ CNoResult s t ∧ t.core.c.cond = .running (some .idleWord))
    ∧ (s.cFree (.tlbinv a c) [a] = true → s.core.sup = true →
        ∃ t, exec (.tlbinv a c) s = .next t ∧ t.mem = s.mem ∧ CNext s.core.c t.core.c
          ∧ (∀ h, h ∈ t.xlat.held ↔ h ∈ s.xlat.held ∧ ¬(h.2.ctx = s.core.csr.ctxid ∧
              (c = 1 ∨ h.2.va ≤ (s.core.c.read a).toNat ∧ (s.core.c.read a).toNat < h.2.va + h.2.size)))
          ∧ (∀ h, h ∈ t.core.tlb ↔ h ∈ s.core.tlb ∧ ¬(h.ctx = s.core.csr.ctxid ∧
              (c = 1 ∨ h.va ≤ (s.core.c.read a).toNat ∧ (s.core.c.read a).toNat < h.va + h.size)))
          ∧ t.others.length = s.others.length
          ∧ ∀ (n : Nat) (o : Core), s.others[n]? = some o → ∃ p, t.others[n]? = some p ∧ p = { o with tlb := p.tlb }
              ∧ ∀ h, h ∈ p.tlb ↔ h ∈ o.tlb ∧ ¬(h.ctx = s.core.csr.ctxid ∧
                  (c = 1 ∨ h.va ≤ (s.core.c.read a).toNat ∧ (s.core.c.read a).toNat < h.va + h.size))))
  ∧ (∀ (s : State) (d a : BitVec 5) (c : BitVec 1) (h : BitVec 10) (k i : BitVec 2) (g : BitVec 3),
    ∀ e ∈ ([(.rett, [], s.core.c.handler), (.idle, [], s.core.sup), (.tlbinv a c, [a], s.core.sup), (.texit, [], s.core.taskContext),
        (.fcast a h k g, [a], s.core.taskContext), (.fverd d h i, [], s.core.taskContext)] : List (Instr × List (BitVec 5) × Bool)),
      s.cFree e.1 e.2.1 = true → e.2.2 = false → exec e.1 s = .next (s.cTrap 0x05 ((encode e.1).zeroExtend 64)))

/-! ### Exceptions -/

/-- 20 R331 to R333, R335: taking an exception writes the frame (the address registers from C's chain, or the word of a step strand, with
cause, value, source, divisor and RD), keeps C's chain, and leads C in its handler context to 0x0010 with an empty shadow loop stack; every
register, the primary loops, the words of L, X and S and memory stay.

20 R333: a cause at a word of L, X or S is precise, names that word and its strand, and the word has no effect on its registers. -/
def Obligations.TrapEntryWritesTheFrame : Prop :=
  (∀ (s : State) (cause : BitVec 8) (src : BitVec 4) (precise : Bool) (tval : Word64) (strand : Option StepStrand) (pc tick : Nat),
    s.core.c.handler = false →
    let t := s.enterTrap cause src precise tval strand pc tick
    let f := t.core.frame
    let ch := s.core.c.chain
    f.cause = cause ∧ f.tval = tval ∧ f.src = src ∧ f.precise = precise ∧ f.drop = false ∧ f.cdiv = BitVec.ofNat 4 s.core.div.ctl
    ∧ (strand = none → f.rd = ch.rd ∧ f.fpc = ch.pc.truncate 17
        ∧ (ch.rd = 0 → f.fnpc = f.fpc + 4 ∧ f.fnnpc = f.fpc + 8)
        ∧ (ch.rd ≠ 0 → f.fnpc = ch.npc.truncate 17 ∧ f.fnnpc = ch.nnpc.truncate 17))
    ∧ (strand ≠ none → f.rd = 0 ∧ f.fpc = BitVec.ofNat 17 pc ∧ f.fnpc = BitVec.ofNat 17 pc ∧ f.fnnpc = 0)
    ∧ t.core.c.handler = true ∧ t.core.c.chain.pc = 0x10 ∧ t.core.c.chain.rd = 0 ∧ t.core.c.saved = ch ∧ t.core.c.shLoops = []
    ∧ t.core.c.prim = s.core.c.prim ∧ t.core.c.shadow = s.core.c.shadow ∧ t.core.c.loops = s.core.c.loops
    ∧ t.core.c.count = s.core.c.count ∧ t.core.x = s.core.x ∧ t.core.csr = s.core.csr ∧ t.mem = s.mem
    ∧ (∀ k, t.core.strand k = { s.core.strand k with next := (t.core.strand k).next })
    ∧ (∀ k, (s.core.strand k).cond ≠ .ended → t.core.strand k = s.core.strand k))
  ∧ (∀ (s : State) (t : StepStrand) (cause : BitVec 8) (tval : Word64) (pc : Nat), s.core.c.handler = false →
    let u := s.stepTrap t cause tval pc
    u.core.frame.cause = cause ∧ u.core.frame.tval = tval ∧ u.core.frame.precise = true ∧ u.core.frame.fpc = BitVec.ofNat 17 pc
      ∧ u.core.frame.src = (match t with | .l => 1 | .x => 2 | .s => 3) ∧ u.core.c.handler = true ∧ u.core.c.chain.pc = 0x10
      ∧ (u.core.strand t).g = (s.core.strand t).g ∧ (u.core.strand t).pc = (s.core.strand t).pc
      ∧ (u.core.strand t).lc = (s.core.strand t).lc ∧ u.core.v.modif = s.core.v.modif ∧ u.mem = s.mem)

/-- 06 R140; 20 R335, R340: rett leads C back to the primary registers and loops and to the frame's chain, where an RD of 3 acts as 0; a
frame that names a step strand gives C's own chain back and resumes that strand at TFNPC.

20 R335, R340: a trap of C whose handler changes nothing returns to the chain, the registers, the loops and the strands as they
were. -/
def Obligations.TrapReturnRestores : Prop :=
  (∀ (s : State) (tick : Nat),
    let t := s.returnTrap tick
    let f := s.core.frame
    t.core.c.handler = false ∧ t.core.c.prim = s.core.c.prim ∧ t.core.c.shadow = s.core.c.shadow ∧ t.core.c.loops = s.core.c.loops
    ∧ t.core.c.count = s.core.c.count ∧ t.mem = s.mem
    ∧ (f.strand = none → t.core.c.chain.pc = f.fpc.zeroExtend 64 ∧ t.core.c.chain.rd = (if f.rd = 3 then 0 else f.rd)
        ∧ t.core.c.chain.npc = f.fnpc.zeroExtend 64 ∧ t.core.c.chain.nnpc = f.fnnpc.zeroExtend 64)
    ∧ (∀ k, f.strand = some k → t.core.c.chain = s.core.c.saved ∧ (t.core.strand k).pc = f.fnpc.zeroExtend 32))
  ∧ (∀ (s : State) (cause : BitVec 8) (src : BitVec 4) (precise : Bool) (tval : Word64) (a b : Nat),
    let ch := s.core.c.chain
    s.core.c.handler = false → ch.pc.toNat < 2 ^ 17 → ch.rd ≠ 3 → (ch.rd ≠ 0 → ch.npc.toNat < 2 ^ 17 ∧ ch.nnpc.toNat < 2 ^ 17) →
    let t := (s.enterTrap cause src precise tval none 0 a).returnTrap b
    t.core.c.handler = false ∧ t.core.c.prim = s.core.c.prim ∧ t.core.c.loops = s.core.c.loops ∧ t.core.c.chain.pc = ch.pc
    ∧ t.core.c.chain.rd = ch.rd ∧ (ch.rd ≠ 0 → t.core.c.chain.npc = ch.npc ∧ t.core.c.chain.nnpc = ch.nnpc)
    ∧ t.core.c.count = s.core.c.count ∧ t.core.l.pc = s.core.l.pc ∧ t.core.x.pc = s.core.x.pc ∧ t.core.s.pc = s.core.s.pc
    ∧ t.core.l.g = s.core.l.g ∧ t.core.x.g = s.core.x.g ∧ t.core.s.g = s.core.s.g ∧ t.mem = s.mem)

/-- 05 R90; 06 R108, R112: a word forbidden in a delay slot of a branch, any word there that is the last of an active loop body, a branch that is the
last word of one, a misaligned load or store, a misaligned atomic and an atomic on an on-chip window raise their cause at the word, whose registers
stay as they are.

20 R341: in handler context a cause at C's word other than 0x04 and a word that would wait are handler faults: on the supervisor's core C halts and
the second bit of the fault word rises, with a message to the host when it was clear. -/
def Obligations.FaultsAtTheWord : Prop :=
  (∀ (s : State) (d a b : BitVec 5) (i : BitVec 15) (u : BitVec 2) (op : BitVec 4) (n : BitVec 10) (o : BitVec 20),
    let va := s.core.c.read a + i.signExtend 64
    let pc := s.core.c.chain.pc.toNat
    (∀ (a' b' : BitVec 5) (i' : BitVec 15) (o' : BitVec 20) (k : Nat), k = 4 ∨ k = 8 → k ≤ pc →
      ∀ before ∈ ([.beq a' b' i', .bne a' b' i', .blt a' b' i', .bge a' b' i', .bltu a' b' i', .bgeu a' b' i', .jal a' o', .jalr a' b' i'] : List Instr),
        decode .c (word (Memory.readNat s.core.imC (pc - k) 4)) = .ok before →
        ∀ e ∈ ([.loop a i, .loopi n i, .rett, .texit, .beq a b i, .bne a b i, .blt a b i, .bge a b i, .bltu a b i, .bgeu a b i, .jal d o,
            .jalr d a i] : List Instr), exec e s = .next (s.cTrap 0x02 ((encode e).zeroExtend 64)))
    ∧ ((∃ l ∈ s.core.c.stack, l.last = pc) →
        (∀ e ∈ ([.beq a b i, .bne a b i, .blt a b i, .bge a b i, .bltu a b i, .bgeu a b i, .jal d o, .jalr d a i] : List Instr),
          exec e s = .next (s.cTrap 0x02 ((encode e).zeroExtend 64)))
        ∧ ∀ (e : Instr) (srcs : List (BitVec 5)) (act : State → State), s.core.inSlot = true →
            cWord e srcs act s = .next (s.cTrap 0x02 ((encode e).zeroExtend 64)))
    ∧ (∀ e ∈ ([(.ldH d a i, 2, [a]), (.ldW d a i, 4, [a]), (.ldD d a i, 8, [a]), (.lduH d a i, 2, [a]), (.lduW d a i, 4, [a]), (.ldLast d a i, 8, [a]),
          (.stH b a i, 2, [a, b]), (.stW b a i, 4, [a, b]), (.stD b a i, 8, [a, b])] : List (Instr × Nat × List (BitVec 5))),
        s.cFree e.1 e.2.2 = true → va.toNat % e.2.1 ≠ 0 → exec e.1 s = .next (s.cTrap 0x03 va))
    ∧ (∀ e ∈ ([(.amo d a b u op, [a, b]), (.cas d a b, [a, b, d])] : List (Instr × List (BitVec 5))), s.cFree e.1 e.2 = true →
        let x := s.core.c.read a
        (x.toNat % 8 ≠ 0 → exec e.1 s = .next (s.cTrap 0x03 x))
        ∧ (x.toNat % 8 = 0 → 0x8000000000000 ≤ x.toNat → x.toNat < 0xC000000000000 → exec e.1 s = .next (s.cTrap 0x05 x))))
  ∧ (∀ (s : State) (cause : BitVec 8) (tval : Word64) (w : WaitPlace), s.core.c.handler = true →
    (cause ≠ 0x04 → s.cTrap cause tval = s.handlerFault) ∧ s.cWait w = s.handlerFault
    ∧ (s.core.sup = true → s.handlerFault.core.halted = true ∧ s.handlerFault.host.fault.getLsbD 1 = true
        ∧ s.handlerFault.host.msix = s.host.msix + (if s.host.fault.getLsbD 1 then 0 else 1) ∧ s.handlerFault.mem = s.mem))

/-! ### L, X and S: the common words -/

/-- 02 R37; 05 R93; 07 R175: a word that issues takes its tokens, moves its strand on by its loops, a taken branch or a skipped body,
stands in flight with its posts, and ends the strand's cycle; memory, C, the other strands, the data queues, the matrix unit and every
register of its own strand are as its effect left them. -/
def Obligations.IssuingTouchesItsStrandOnly : Prop :=
  ∀ (e : State) (t : StepStrand) (i : Instr) (paced : Bool) (wants tells : List (BitVec 2)) (p : Step) (done : Done) (go : Go),
    let u := e.issueWord t i paced wants tells p done go
    u.mem = e.mem ∧ u.others = e.others ∧ u.core.c = e.core.c ∧ (∀ k, k ≠ t → u.core.strand k = e.core.strand k)
    ∧ u.core.m = e.core.m ∧ u.core.csr = e.core.csr ∧ u.core.dq = e.core.dq ∧ u.core.fq = e.core.fq ∧ u.core.rings = e.core.rings
    ∧ (∀ n, n ∉ wants.map (inQ t.strand) → u.core.hq[n] = e.core.hq[n])
    ∧ (∀ n, u.core.hq[n] = ((wants.map (inQ t.strand)).filter (· = n)).foldl (fun q _ => q.pop e.now (e.now + e.core.divOf t.strand)) (e.core.hq[n]))
    ∧ (done = .waiting ∨ tells ≠ [] → ⟨p.seq + 1, done, tells⟩ ∈ (u.core.strand t).flights)
    ∧ u.core.v = (if t = .x ∧ (∀ a b c d, i ≠ .vectorModifier a b c d) then { e.core.v with modif := none } else e.core.v)
    ∧ (u.core.strand t).g = (e.core.strand t).g ∧ (u.core.strand t).fflags = (e.core.strand t).fflags
    ∧ (u.core.strand t).latches = (e.core.strand t).latches ∧ (u.core.strand t).count = (e.core.strand t).count + 1
    ∧ (u.core.strand t).seq = p.seq + 1 ∧ (u.core.strand t).cond = .running none
    ∧ (u.core.strand t).pc = (match go with
        | .on => BitVec.ofNat 32 ((e.core.strand t).afterLoops p.pc.toNat).2
        | .taken a => BitVec.ofNat 32 a
        | .past a => BitVec.ofNat 32 a)

/-- 07 R174: gadd, gaddi and gli issue with their value on its way to g[d], which it reaches two cycles later.

07 R174: a value for g[d] is written at the beginning of the first cycle whose count has reached its arrival; g0 stays 0, and no other
register changes. -/
def Obligations.GRegisterWords : Prop :=
  (∀ (s : State) (t : StepStrand) (h : Hitch) (d a b : BitVec 4) (i : BitVec 14) (j : BitVec 18),
    let x := (s.core.strand t).readG a
    let n := (s.core.strand t).count + 2
    ∀ e ∈ ([(.gadd t h d a b, x + (s.core.strand t).readG b), (.gaddi t h d a i, x + i.signExtend 64),
        (.gli t h d j, j.signExtend 64)] : List (Instr × Word64)),
      s.stepFree t h e.1 false [] [] = true →
        exec e.1 s = .next (s.issues (s.updStep t fun p => { p with latches := p.latches ++ [⟨n, d, e.2, p.count, p.pc⟩] }) t h e.1 false [] []
          (.atCount n) .on))
  ∧ (∀ (s : State) (t : StepStrand) (l : GLatch), (s.core.strand t).latches = [l] →
    let p := (s.beginCycle t).core.strand t
    (l.due ≤ (s.core.strand t).count → p.latches = [] ∧ (l.reg ≠ 0 → p.readG l.reg = l.value) ∧ p.readG 0 = 0
      ∧ ∀ r, r ≠ l.reg → p.readG r = (s.core.strand t).readG r)
    ∧ ((s.core.strand t).count < l.due → p.latches = [l] ∧ ∀ r, p.readG r = (s.core.strand t).readG r))

/-- 07 R175: a loop word starts its counter for the body after it; a count of 0 goes on after the body's last word; an active counter, a
body that an enclosing one does not hold, and a body past the memory fault.  R175 names no TVAL for a body past the memory: the address of its last
word is the model's choice (log 47). -/
def Obligations.StepLoops : Prop :=
  ∀ (s : State) (t : StepStrand) (h : Hitch) (n : BitVec 2) (c : BitVec 9) (g : BitVec 4) (o : BitVec 10),
    let p := s.core.strand t
    let pc := p.pc.toNat
    let last := pc + 4 * o.toNat
    let k := p.lc[n.toNat]'(by have := n.isLt; omega)
    ∀ e ∈ ([(.stepLoopImm t h n c o, c.toNat), (.stepLoopReg t h n g o, (p.readG g).toNat)] : List (Instr × Nat)),
      s.stepFree t h e.1 false [] [] = true →
        exec e.1 s = .next (
          if 0x10000 ≤ last then s.stepTrap t 0x05 (BitVec.ofNat 64 last) pc
          else if k.active = true ∨ (∃ l ∈ p.lc.toList, l.active = true ∧ ¬(l.start ≤ pc ∧ last ≤ l.last)) then s.stepTrap t 0x13 0 pc
          else if e.2 = 0 then
            s.issues (s.updStep t fun _ => (p.afterLoops last).1) t h e.1 false [] [] (.atCount p.count) (.past (p.afterLoops last).2)
          else
            s.issues (s.updStep t fun q =>
              { q with lc := q.lc.set n.toNat ⟨e.2, pc + 4, last, true, q.loopSeq⟩ (by have := n.isLt; omega), loopSeq := q.loopSeq + 1 })
              t h e.1 false [] [] (.atCount p.count) .on)

/-- 07 R176: brq pops its data word and goes to its target where the condition holds of it, on where it does not; a target outside the
memory faults before the pop; without a visible word it waits. -/
def Obligations.BranchOnQueue : Prop :=
  ∀ (s : State) (t : StepStrand) (h : Hitch) (q : BitVec 2) (cond : BitVec 3) (o : BitVec 17),
    let i : Instr := .brq t h q cond o
    let n := inQ t.strand q
    let p := s.core.strand t
    let w := (s.core.dq[n]).head
    let target : Int := p.pc.toNat + 4 * o.toInt
    let taken : Prop := (cond = 0 ∧ w = 0) ∨ (cond = 1 ∧ w ≠ 0) ∨ (cond = 2 ∧ w.toInt < 0) ∨ (cond = 3 ∧ 0 ≤ w.toInt)
    cond.toNat < 4 → s.stepFree t h i false [] [] = true →
      ((s.core.dq[n]).visible s.now = false → exec i s = .next (s.stepTick t (some (.data n.val false))))
      ∧ ((s.core.dq[n]).visible s.now = true → ¬taken →
          exec i s = .next (s.issues (s.popData t q) t h i false [] [] (.atCount p.count) .on))
      ∧ ((s.core.dq[n]).visible s.now = true → taken → 0 ≤ target → target < 0x10000 →
          exec i s = .next (s.issues ((s.popData t q).updStep t fun p => { p with brqLeft := 2 }) t h i false [] [] (.atCount p.count)
            (.taken target.toNat)))
      ∧ ((s.core.dq[n]).visible s.now = true → taken → ¬(0 ≤ target ∧ target < 0x10000) →
          exec i s = .next (s.stepTrap t 0x05 (BitVec.ofInt 64 target) p.pc.toNat))

/-- 07 R177; 02 R37: tpost and twait issue with a token of their own; qpush appends g[a] to its data queue, or waits while that is full;
qpop takes the head word for g[d], or waits.

02 R37, R41: a word waits, with its strand's cycle ended and nothing else changed, while a token it needs is not visible; and while a
completed word's post stands undelivered before its own. -/
def Obligations.StepQueueWords : Prop :=
  (∀ (s : State) (t : StepStrand) (h : Hitch) (q : BitVec 2) (a : BitVec 4),
    let p := s.core.strand t
    let out := outQ t.strand q
    let inn := inQ t.strand q
    (s.stepFree t h (.stepTpost t h q) false [] [q] = true →
      exec (.stepTpost t h q) s = .next (s.issues s t h (.stepTpost t h q) false [] [q] (.atCount p.count) .on))
    ∧ (s.stepFree t h (.stepTwait t h q) false [q] [] = true →
      exec (.stepTwait t h q) s = .next (s.issues s t h (.stepTwait t h q) false [q] [] (.atCount p.count) .on))
    ∧ (s.stepFree t h (.stepQpush t h q a) false [] [] = true →
      exec (.stepQpush t h q a) s = .next (
        if (s.core.dq[out]).room 16 s.now = true then
          s.issues (s.updCore fun c => c.updDq out fun d => d.push (p.readG a) (s.now + s.core.divOf t.strand) (c.afterOf t)) t h (.stepQpush t h q a)
            false [] [] (.atCount p.count) .on
        else s.stepTick t (some (.data out.val true))))
    ∧ (s.stepFree t h (.stepQpop t h q a) false [] [] = true →
      exec (.stepQpop t h q a) s = .next (
        if (s.core.dq[inn]).visible s.now = true then
          s.issues ((s.popData t q).gLatch t a (s.core.dq[inn]).head) t h (.stepQpop t h q a) false [] [] (.atCount (p.count + 2)) .on
        else s.stepTick t (some (.data inn.val false)))))
  ∧ (∀ (s : State) (h : Hitch) (i : Instr) (paced : Bool) (tokens posts : List (BitVec 2)) (act : State → WordRes) (n : Fin 12) (q : BitVec 2)
      (t : StepStrand), t ≠ .x →
    (tokensSeen s t (codes h.wait ++ tokens) = some n → stepWord t h i paced tokens posts act s = s.stepTick t (some (.hitch n.val false)))
    ∧ (tokensSeen s t (codes h.wait ++ tokens) = none → (codes h.post ++ posts).find? (s.core.heldPost t s.now) = some q →
        stepWord t h i paced tokens posts act s = s.stepTick t (some (.hitch (outQ t.strand q).val true))))

/-! ### C: kernels, the cleat, service words -/

/-- 06 R125; 02 R25: texit ends C; while another strand runs nothing else happens, and after the fourth end, with the queues empty and
no slot written twice, the task splices.

07 R178; 09 R229: end waits until every earlier word of its strand has completed, faults on L while a ring is open, and then ends the
strand; memory and the other strands are as before while C still runs. -/
def Obligations.StrandsEnd : Prop :=
  (∀ (s : State) (k : Task), s.core.task = some k → s.core.taskContext = true → s.cFree .texit [] = true →
    ∃ t, exec .texit s = .next t ∧
      ((s.core.l.cond ≠ .ended ∨ s.core.x.cond ≠ .ended ∨ s.core.s.cond ≠ .ended) ∨ (s.core.firstFull = none ∧ s.twice = none) →
        t.core.c.cond = .ended ∧ (∀ r, t.core.c.read r = s.core.c.read r) ∧ t.mem = s.mem
        ∧ t.core.task.map (·.exitPc) = some s.core.c.chain.pc
        ∧ t.core.task.map (·.state) =
            some (if s.core.l.cond = .ended ∧ s.core.x.cond = .ended ∧ s.core.s.cond = .ended then .splicing else k.state)))
  ∧ (∀ (s : State) (t : StepStrand) (h : Hitch), s.stepFree t h (.endStrand t h) false [] [] = true →
    let p := s.core.strand t
    let rest := p.flights.all fun f => f.isDone p.count
    (rest = false → exec (.endStrand t h) s = .next (s.stepTick t (some .ending)))
    ∧ (rest = true → t = .l → (s.core.rings.any (·.open_)) = true → exec (.endStrand t h) s = .next (s.stepTrap t 0x13 0 p.pc.toNat))
    ∧ (rest = true → ¬(t = .l ∧ (s.core.rings.any (·.open_)) = true) → s.core.c.cond ≠ .ended →
        ∃ u, exec (.endStrand t h) s = .next u ∧ (u.core.strand t).cond = .ended ∧ (u.core.strand t).g = p.g ∧ u.mem = s.mem
          ∧ u.core.c = s.core.c ∧ ∀ k, k ≠ t → u.core.strand k = s.core.strand k))

/-! ### X: vector words -/

/-- 07 R148, R150, R151, R154 to R156, R159: a vector word of two operands issues with its lane results under the VSH type, governed by its
predicate, on their way to vd for its latency; a word whose type it does not take raises cause 0x07. -/
def Obligations.VectorWordsOfTwoOperands : Prop :=
  ∀ (s : State) (h : Hitch) (d a b : BitVec 6) (pn : BitVec 4),
    let t := s.vtype
    let w := laneWidth t
    let all : BitVec 4 := 0
    ∀ e ∈ ([(.vadd h d a b pn, pn, isMx t, if isFp t then 4 else 2, fun m x y => addE t m x y),
        (.vsub h d a b pn, pn, isMx t, if isFp t then 4 else 2, fun m x y => subE t m x y),
        (.vmul h d a b pn, pn, isMx t, 4, fun m x y => mulE t m x y),
        (.vmin h d a b pn, pn, isMx t, 2, fun _ x y => minE t x y), (.vmax h d a b pn, pn, isMx t, 2, fun _ x y => maxE t x y),
        (.vand h d a b, all, false, 2, fun _ x y => (x &&& y, 0)), (.vor h d a b, all, false, 2, fun _ x y => (x ||| y, 0)),
        (.vxor h d a b, all, false, 2, fun _ x y => (x ^^^ y, 0)),
        (.vshl h d a b, all, !isInt t, 2, fun _ x y => (x * 2 ^ (y % w) % 2 ^ w, 0)),
        (.vshr h d a b, all, !isInt t, 2, fun _ x y => (x / 2 ^ (y % w), 0)),
        (.vsra h d a b, all, !isInt t, 2, fun _ x y => (ofI w (toI w x / 2 ^ (y % w)), 0)),
        (.vaddsat h d a b, all, !isInt t, 2, fun _ x y => (ofI w (clampInt t (intVal t x + intVal t y)), 0)),
        (.vsubsat h d a b, all, !isInt t, 2, fun _ x y => (ofI w (clampInt t (intVal t x - intVal t y)), 0))] :
        List (Instr × BitVec 4 × Bool × Nat × (Nat → Nat → Nat → Nat × Flags))),
      s.stepFree .x h e.1 false [] [] = true → s.scoreboarded [d.toNat, a.toNat, b.toNat] = false →
        let g := s.gov e.2.1
        exec e.1 s = .next (
          if e.2.2.1 = true then s.stepTrap .x 0x07 ((encode e.1).zeroExtend 64) s.core.x.pc.toNat
          else s.issuesVec h e.1 e.2.2.2.1
            (s.lanesOut g d.toNat (List.zipWith (e.2.2.2.2 g.rm) (s.lanes a.toNat t) (s.lanes b.toNat t))))

/-- 07 R148, R150, R151, R155, R169: a vector word of one operand, likewise.

07 R154: vfma, vfms and vfnma form a*b + c, a*b - c and c - a*b with one rounding, after four cycles. -/
def Obligations.VectorWordsOfOneAndThreeOperands : Prop :=
  (∀ (s : State) (h : Hitch) (d a : BitVec 6) (pn : BitVec 4),
    let t := s.vtype
    let w := laneWidth t
    ∀ e ∈ ([(.vabs h d a pn, isMx t, 2, fun _ x => absE t x), (.vneg h d a pn, isMx t, 2, fun _ x => negE t x),
        (.vnot h d a pn, false, 2, fun _ x => (2 ^ w - 1 - x, 0)), (.vmov h d a pn, false, 2, fun _ x => (x, 0)),
        (.vrcp h d a pn, !isFp t, 8, fun m x => fpRcp t m (fpOf t x)), (.vrsqrt h d a pn, !isFp t, 8, fun m x => fpRsqrt t m (fpOf t x)),
        (.vsqrt h d a pn, !isFp t, 8, fun m x => fpSqrt t m (fpOf t x)), (.vexp2 h d a pn, !isFp t, 8, fun m x => fpExp2 t m (fpOf t x)),
        (.vlog2 h d a pn, !isFp t, 8, fun m x => fpLog2 t m (fpOf t x))] : List (Instr × Bool × Nat × (Nat → Nat → Nat × Flags))),
      s.stepFree .x h e.1 false [] [] = true → s.scoreboarded [d.toNat, a.toNat] = false →
        let g := s.gov pn
        exec e.1 s = .next (
          if e.2.1 = true then s.stepTrap .x 0x07 ((encode e.1).zeroExtend 64) s.core.x.pc.toNat
          else s.issuesVec h e.1 e.2.2.1 (s.lanesOut g d.toNat ((s.lanes a.toNat t).map (e.2.2.2 g.rm)))))
  ∧ (∀ (s : State) (h : Hitch) (d a b c : BitVec 6),
    let t := s.vtype
    let g := s.gov 0
    let w := laneWidth t
    ∀ e ∈ ([(.vfma h d a b c, fun x y z =>
            if isFp t then fpFma t g.rm (fpOf t x) (fpOf t y) (fpOf t z) else (ofI w ((x : Int) * y + z), 0)),
        (.vfms h d a b c, fun x y z =>
            if isFp t then fpFma t g.rm (fpOf t x) (fpOf t y) (fpOf t z).neg else (ofI w ((x : Int) * y - z), 0)),
        (.vfnma h d a b c, fun x y z =>
            if isFp t then fpFma t g.rm (fpOf t x).neg (fpOf t y) (fpOf t z) else (ofI w ((z : Int) - x * y), 0))] :
        List (Instr × (Nat → Nat → Nat → Nat × Flags))),
      s.stepFree .x h e.1 false [] [] = true → s.scoreboarded [d.toNat, a.toNat, b.toNat, c.toNat] = false → isMx t = false →
        exec e.1 s = .next (s.issuesVec h e.1 4 (s.lanesOut g d.toNat
          (((s.lanes a.toNat t).zip ((s.lanes b.toNat t).zip (s.lanes c.toNat t))).map fun p => e.2 p.1 p.2.1 p.2.2))))

/-- 07 R157, R158, R161: comparison into a predicate, the predicate words, and reduction into lane 0.

07 R159, R160: selection, permutes, splats and the broadcast of an entry of a k register. -/
def Obligations.PredicatesMovesAndPermutes : Prop :=
  (∀ (s : State) (h : Hitch) (d p q g : BitVec 4) (f o : BitVec 3) (c : BitVec 2) (v a b : BitVec 6) (pn : BitVec 4),
    let t := s.vtype
    let gv := s.gov pn
    let act := s.active gv (lanesOf t)
    let n := Nat.min (s.core.x.readG g).toNat 1024
    let r := List.zipWith (cmpE t c) (s.lanes a.toNat t) (s.lanes b.toNat t)
    let x := List.zipWith (fun p v => if p then v else redIdent o.toNat t) act (s.lanes a.toNat t)
    (s.stepFree .x h (.vcmp h d c a b pn) false [] [] = true → isMx t = false → s.scoreboarded [a.toNat, b.toNat] = false →
      exec (.vcmp h d c a b pn) s = .next (s.issuesVec h (.vcmp h d c a b pn) 2
        ([.pred d (((act.zip r).map fun k => if k.1 then some k.2.1 else if gv.zero then some false else none)
            ++ List.replicate (1024 - lanesOf t) (some false))],
          (act.zip r).foldl (fun m k => if k.1 then m ||| k.2.2 else m) 0)))
    ∧ (s.stepFree .x h (.pcnt h d g) false [] [] = true →
      exec (.pcnt h d g) s = .next (s.issuesVec h (.pcnt h d g) 2
        ([.pred d ((List.replicate n true ++ List.replicate (1024 - n) false).map some)], 0)))
    ∧ (s.stepFree .x h (.plogic h d p q f) false [] [] = true →
      exec (.plogic h d p q f) s = .next (s.issuesVec h (.plogic h d p q f) 2
        ([.pred d ((List.zipWith (plogicFn f) (s.core.v.readP p) (s.core.v.readP q)).map some)], 0)))
    ∧ (s.stepFree .x h (.ppop h p g) false [] [] = true →
      exec (.ppop h p g) s = .next (s.issuesVec h (.ppop h p g) 2
        ([.greg g (BitVec.ofNat 64 (((s.core.v.readP p).take (lanesOf t)).filter id).length)], 0)))
    ∧ (s.stepFree .x h (.vred h v a o pn) false [] [] = true → isMx t = false → s.scoreboarded [v.toNat, a.toNat] = false →
      let y := redTree (redComb o.toNat t gv.rm) 10 x 0
      exec (.vred h v a o pn) s = .next (s.issuesVec h (.vred h v a o pn) 8
        ([s.regOut v.toNat (laneWidth t) (y.1 :: List.replicate (lanesOf t - 1) 0)], y.2))))
  ∧ (∀ (s : State) (h : Hitch) (d a b : BitVec 6) (pn k g : BitVec 4),
    let t := s.vtype
    let n := lanesOf t
    let x := s.lanes a.toNat t
    let y := s.lanes b.toNat t
    let gv := s.gov pn
    let i := (s.core.x.readG g).toInt
    let kr := s.core.v.readK (s.core.v.physK k.toNat)
    let z := (s.core.x.readG g).toNat
    (s.stepFree .x h (.vsel h d a b pn) false [] [] = true → s.scoreboarded [d.toNat, a.toNat, b.toNat] = false →
      exec (.vsel h d a b pn) s = .next (s.issuesVec h (.vsel h d a b pn) 2
        ([s.regOut d.toNat (laneWidth t) (((s.active gv n).zip (x.zip y)).map fun p => if p.1 then p.2.1 else if gv.zero then 0 else p.2.2)], 0)))
    ∧ (∀ e ∈ ([(.vperm h d a b, [a.toNat, b.toNat], y.map fun j => x.getD (j % n) 0),
          (.vzip h d a b, [a.toNat, b.toNat], ((x.zip y).flatMap fun p => [p.1, p.2]).take n),
          (.vunzip h d a b, [a.toNat, b.toNat], evens (x ++ y)), (.vslide h d a g, [a.toNat], slide x i),
          (.vsplat h d g, [], List.replicate n (z % 2 ^ laneWidth t))] : List (Instr × List Nat × List Nat)),
        s.stepFree .x h e.1 false [] [] = true → s.scoreboarded (d.toNat :: e.2.1) = false →
          exec e.1 s = .next (s.issuesVec h e.1 2 (s.lanesOut (s.gov 0) d.toNat (e.2.2.map fun v => (v, 0)))))
    ∧ (s.stepFree .x h (.vbcast h d k g) false [] [] = true → z ≤ 32 → s.scoreboarded [d.toNat] = false →
      exec (.vbcast h d k g) s = .next (s.issuesVec h (.vbcast h d k g) 2
        (s.lanesOut (s.gov 0) d.toNat (List.replicate n (bcastValue kr z t, 0))))))

/-- 07 R162, R165 to R168: conversion, rotation, block scale, quantisation and dequantisation issue with their lanes, exponents or scale on
the way for their latency, where the type, the groups and the pair of types are ones they take. -/
def Obligations.ConversionWords : Prop :=
  ∀ (s : State) (h : Hitch) (d a : BitVec 6) (k dt st : BitVec 4) (seed : BitVec 3) (m : BitVec 2),
    let t := s.vtype
    let kn := s.core.v.physK k.toNat
    let ty := 10 + m.toNat
    let rd := ratio (laneWidth dt.toNat) (laneWidth st.toNat)
    let rs := ratio (laneWidth st.toNat) (laneWidth dt.toNat)
    let g := s.gov 0
    let c := if t = tBf16 then 2 else 1
    (s.stepFree .x h (.vcvt h d a dt st) false [] [] = true → cvtBad dt.toNat st.toNat = false → d.toNat + rd ≤ 64 → a.toNat + rs ≤ 64 →
      s.scoreboarded (groupOf d.toNat rd ++ groupOf a.toNat rs) = false →
        let x := interleave rs ((groupOf a.toNat rs).map fun n => s.lanes n st.toNat)
        let r := x.map (convert dt.toNat st.toNat g.rm)
        let out := deinterleave rd (merge (s.active g x.length) g.zero r) none
        exec (.vcvt h d a dt st) s = .next (s.issuesVec h (.vcvt h d a dt st) 3
          ((out.zip (groupOf d.toNat rd)).map (fun p => .vreg (s.core.v.phys p.2) (laneWidth dt.toNat) p.1), actFlags (s.active g x.length) r)))
    ∧ (s.stepFree .x h (.vhad h d a k seed) false [] [] = true → isFp t = true → d.toNat + c ≤ 64 →
      s.scoreboarded (a.toNat :: groupOf d.toNat c) = false →
        let rows := (pieces 32 8 (s.lanes a.toNat t)).map fun x => vhadBlock t x (s.seed seed).toNat
        let regs := deinterleave c ((rows.flatMap (·.1)).map (ofI 32)) 0
        exec (.vhad h d a k seed) s = .next (s.issuesVec h (.vhad h d a k seed) 6
          ((regs.zip (groupOf d.toNat c)).map (fun p => s.regOut p.2 32 p.1) ++ [.kshift kn (rows.map (·.2.1))], orAll (rows.map (·.2.2)))))
    ∧ (s.stepFree .x h (.vmaxe h a k) false [] [] = true → isFp t = true → a.toNat + 8 ≤ 64 → s.scoreboarded (groupOf a.toNat 8) = false →
        exec (.vmaxe h a k) s = .next (s.issuesVec h (.vmaxe h a k) 3
          ([.ksc kn (blockScale (s.blockRows a.toNat t (s.core.v.readK kn)))], 0)))
    ∧ (s.stepFree .x h (.vq h d a k m) false [] [] = true → isFp t = true → a.toNat + 8 ≤ 64 → d.toNat + codeRegs ty ≤ 64 →
      s.scoreboarded (groupOf a.toNat 8 ++ groupOf d.toNat (codeRegs ty)) = false →
        let kr := s.core.v.readK kn
        let q := (s.blockRows a.toNat t kr).flatMap fun r => r.1.map fun y => quant ty y r.2 kr.sc
        exec (.vq h d a k m) s = .next (s.issuesVec h (.vq h d a k m) 3
          (((pieces (4096 / laneWidth ty) 2 (q.map fun c => ofI (laneWidth ty) c.1)).zip (groupOf d.toNat (codeRegs ty))).map
              (fun p => s.regOut p.2 (laneWidth ty) p.1), orAll (q.map (·.2)))))
    ∧ (∀ e ∈ ([(.vdq h d a k m, none), (.vdqInv h d a k seed m, some (s.seed seed).toNat)] : List (Instr × Option Nat)),
        let n := if t = tBf16 then 4 else 8
        s.stepFree .x h e.1 false [] [] = true → isFp t = true → a.toNat + codeRegs ty ≤ 64 → d.toNat + n ≤ 64 →
        s.scoreboarded (groupOf a.toNat (codeRegs ty) ++ groupOf d.toNat n) = false →
          let codes := (groupOf a.toNat (codeRegs ty)).flatMap fun n => s.lanes n ty
          let r := (pieces 32 32 codes).flatMap fun row => vdqRow t ty g.rm row (s.core.v.readK kn).sc e.2
          exec e.1 s = .next (s.issuesVec h e.1 6
            (((pieces (lanesOf t) 8 (r.map (·.1))).zip (groupOf d.toNat n)).map (fun p => s.regOut p.2 (laneWidth t) p.1), orAll (r.map (·.2)))))

/-- 07 R170 to R173: a vector load at an aligned address, or an indexed one, whose elements all have their pages and lie in the own window,
issues with its elements' values as the task sees them, six cycles on their way, where none is poisoned; a first-fault load whose elements
are all there does so with its predicate as it is, and under p0 or an inverted predicate it raises cause 0x01, with the word as TVAL (20 R334). -/
def Obligations.VectorLoads : Prop :=
  ∀ (s : State) (h : Hitch) (v : BitVec 6) (g : BitVec 4) (o : BitVec 8) (vi : BitVec 6) (pn : BitVec 4) (l : List (Elem × Nat))
      (els : List Elem),
    let t := s.vtype
    let w := laneWidth t
    let va := (s.core.x.readG g + BitVec.ofInt 64 (o.toInt * 512)).toNat
    let gv := s.gov pn
    let r : List LatchTarget × Flags :=
      ([.vreg (s.core.v.phys v.toNat) w (lanesFrom (lanesOf t) gv.zero (l.map fun p => (p.1.i, s.elemValue w p.1 p.2)))], 0)
    let direct := elemsAt (s.active gv (lanesOf t)) w va
    (l.all fun p => s.isLocal p.2) = true → s.poisonElems w l = none →
    (s.stepFree .x h (.vld h v g o pn) false [] [] = true → va % 64 = 0 → s.scoreboarded [v.toNat] = false → s.pages false direct = .ok l →
      exec (.vld h v g o pn) s = .next (s.issuesVec h (.vld h v g o pn) 6 r))
    ∧ (s.stepFree .x h (.vldx h v g vi pn) false [] [] = true → s.scoreboarded (v.toNat :: s.indexRegs vi) = false →
      s.indexed (.vldx h v g vi pn) vi g pn = .ok els → s.pages false els = .ok l →
      exec (.vldx h v g vi pn) s = .next (s.issuesVec h (.vldx h v g vi pn) 6 r))
    ∧ (s.stepFree .x h (.vldFf h v g o pn) false [] [] = true → va % 64 = 0 → s.scoreboarded [v.toNat] = false →
      gv.pn ≠ 0 → gv.inv = false → s.pages false direct = .ok l → s.beforeFault w direct = l → l ≠ [] →
      exec (.vldFf h v g o pn) s = .next (s.issuesVec h (.vldFf h v g o pn) 6 r))
    ∧ (s.stepFree .x h (.vldFf h v g o pn) false [] [] = true → s.scoreboarded [v.toNat] = false → gv.pn = 0 ∨ gv.inv = true →
      exec (.vldFf h v g o pn) s = .next (s.stepTrap .x 0x01 ((encode (.vldFf h v g o pn)).zeroExtend 64) s.core.x.pc.toNat))

/-- 07 R170 to R172: a vector store whose elements all have their pages issues in one cycle with the runs of its active elements stored,
and a misaligned one raises cause 0x03; that it does so whatever its pages hold is the model's order of checks (log 45).

11 R267: direct stores outside the own window that come after accesses still to perform are held, and the word stays in flight; its stores into the own
window are made at issue.

07 R171; 11 R376: the runs that a vector store stores in the own window change no other byte of memory, and inside a run only the bits
of its masks. -/
def Obligations.VectorStores : Prop :=
  (∀ (s u : State) (h : Hitch) (v : BitVec 6) (g : BitVec 4) (o : BitVec 8) (vi : BitVec 6) (pn : BitVec 4) (l : List (Elem × Nat))
      (els : List Elem),
    let t := s.vtype
    let w := laneWidth t
    let n := s.core.x.seq + 1
    let va := (s.core.x.readG g + BitVec.ofInt 64 (o.toInt * 512)).toNat
    let runs := l.map fun p => elemRun w ((s.lanes v.toNat t).getD p.1.i 0) p.1 p.2
    let stores := fun (i : Instr) (rs : List Run) =>
      let ordered := (∀ r ∈ rs, s.isLocal r.pa = true) ∨ s.xOrdered n s.core.x.after true = true
      (ordered → s.storeRuns (some n) rs = .done u → exec i s = .next (s.issues u .x h i false [] [] (.atCount s.core.x.count) .on))
      ∧ (¬ordered → s.storeRuns none (rs.filter fun r => s.isLocal r.pa) = .done u →
          exec i s = .next (s.issues (u.updV fun v => { v with stores := v.stores ++
            [⟨n, s.core.x.after, rs.filter fun r => !s.isLocal r.pa⟩] }) .x h i false [] [] .waiting .on))
    (s.stepFree .x h (.vst h v g o pn) false [] [] = true → s.scoreboarded [v.toNat] = false → va % 64 = 0 →
      s.pages true (elemsAt (s.active (s.gov pn) (lanesOf t)) w va) = .ok l → stores (.vst h v g o pn) (joinRuns runs))
    ∧ (s.stepFree .x h (.vst h v g o pn) false [] [] = true → s.scoreboarded [v.toNat] = false → va % 64 ≠ 0 →
      exec (.vst h v g o pn) s = .next (s.stepTrap .x 0x03 (BitVec.ofNat 64 va) s.core.x.pc.toNat))
    ∧ (s.stepFree .x h (.vstx h v g vi pn) false [] [] = true → s.scoreboarded (v.toNat :: s.indexRegs vi) = false →
      s.indexed (.vstx h v g vi pn) vi g pn = .ok els → s.pages true els = .ok l → stores (.vstx h v g vi pn) runs))
  ∧ (∀ (s u : State) (seq : Option Nat) (l : List Run), s.MemCanonical → (∀ r ∈ l, s.isLocal r.pa = true) → s.storeRuns seq l = .done u →
    (∀ x, (∀ r ∈ l, x < r.pa ∨ r.pa + r.bytes.length ≤ x) → Memory.read u.mem x = Memory.read s.mem x)
    ∧ (∀ r, l = [r] → ∀ k, k < r.bytes.length →
        Memory.read u.mem (r.pa + k) = mergeByte (Memory.read s.mem (r.pa + k)) (r.bytes.getD k (0, 0)).2 (r.bytes.getD k (0, 0)).1))

/-- 05 R97; 07 R144, R147: the modifier stays pending for the next word; vshape sets the type; vrot moves the stage predicates and the
window on by one; vwin opens a window from g, or raises cause 0x07 with a value it does not take. -/
def Obligations.ShapeAndWindowWords : Prop :=
  ∀ (s : State) (h : Hitch) (z g pn : BitVec 4) (inv zero : BitVec 1) (rm : BitVec 2),
    let v := s.core.v
    let x := s.core.x.readG g
    let next := Done.atCount (s.core.x.count + 1)
    (s.stepFree .x ⟨0, 0⟩ (.vectorModifier pn inv zero rm) false [] [] = true →
      exec (.vectorModifier pn inv zero rm) s = .next (s.issues (s.updV fun v => { v with modif := some ⟨pn, inv, zero, rm, s.core.x.pc⟩ }) .x ⟨0, 0⟩
        (.vectorModifier pn inv zero rm) false [] [] (.atCount s.core.x.count) .on))
    ∧ (s.stepFree .x h (.vshape h z) false [] [] = true →
      exec (.vshape h z) s = .next (s.issues (s.updV fun v => { v with type_ := z }) .x h (.vshape h z) false [] [] next .on))
    ∧ (s.stepFree .x h (.vrot h) false [] [] = true →
      exec (.vrot h) s = .next (s.issues (s.updV Vec.rotate) .x h (.vrot h) false [] [] next .on)
      ∧ v.rotate.left = v.left - 1 ∧ v.rotate.koff = (v.koff + 1) % 16 ∧ v.rotate.off = (if 0 < v.size then (v.off + 1) % v.size else v.off)
      ∧ v.rotate.p[8] = List.replicate 1024 (decide (0 < v.left)) ∧ (∀ i : Fin 7, v.rotate.p[9 + i.val] = v.p[8 + i.val])
      ∧ ∀ i : Fin 8, v.rotate.p[i.val] = v.p[i.val])
    ∧ (s.stepFree .x h (.vwin h g) false [] [] = true →
      exec (.vwin h g) s = .next (
        if vwinOk x.toNat = true then s.issues (s.updV fun v => v.window x.toNat) .x h (.vwin h g) false [] [] next .on
        else s.stepTrap .x 0x07 x s.core.x.pc.toNat))

/-! ### Matrix words and transfer words -/

/-- 02 R38; 08 R184, R185: a matrix word that finds room in the command queue, its format word visible, a combination that is implemented
and no fault in its checks pops the format word (where it takes one), enters the queue, and stays in flight until its results are visible.

02 R38; 08 R184; 20 R334: a matrix word that finds the command queue full raises cause 0x13 (it waits behind a held drain), one that finds
no format word cause 0x06, and one whose combination is not implemented cause 0x07, in this order and with nothing popped. -/
def Obligations.MatrixWordsEnterTheQueue : Prop :=
  (∀ (s : State) (h : Hitch) (hd : BitVec 10) (t : BitVec 4) (c : BitVec 7),
    ∀ e ∈ ([(.mldb h hd, .mldb hd.toNat), (.mmab h hd t, .mmab hd.toNat t.toNat), (.mmas h hd t, .mmas hd.toNat t.toNat),
        (.mdrain h hd t, .mdrain hd.toNat t.toNat), (.mzero h t, .mzero t.toNat), (.mtest h, .mtest),
        (.mtrsmLo h c hd, .mtrsm false c.toNat hd.toNat), (.mtrsmUp h c hd, .mtrsm true c.toNat hd.toNat), (.mlu h c, .mlu c.toNat),
        (.mchol h c, .mchol c.toNat), (.mgiv h c, .mgiv c.toNat), (.mpiv h hd, .mpiv hd.toNat), (.mfst h, .mfst)] : List (Instr × MOp)),
      let m := s.core.m
      let fmt : Word64 := if e.2.pops then s.core.fq.head else 0
      let word : Word64 := (encode e.1).zeroExtend 64
      let taken := if e.2.pops then s.popFormat m.next else s
      let before := s.ahead m.count
      s.stepFree .x h e.1 true [] [] = true → (m.entered m.count).length < 8 →
        (e.2.pops = true → (s.core.fq).visible m.next = true ∧ s.comboOk before e.2 fmt = true) →
        s.entryFault before e.2 fmt 0 0 word = none →
          exec e.1 s = .next (s.issues (taken.addEntry
            ⟨e.2, fmt, 0, 0, some (s.core.x.seq + 1), s.core.x.pc.zeroExtend 64, encode e.1, m.count, none, s.occupancy before e.2 fmt 0 0,
              false, false, s.beforeFcast, 0, s.core.x.after⟩)
            .x h e.1 true [] [] .waiting .on))
  ∧ (∀ (s : State) (h : Hitch) (hd : BitVec 10) (t : BitVec 4),
    ∀ e ∈ ([(.mldb h hd, .mldb hd.toNat), (.mmab h hd t, .mmab hd.toNat t.toNat), (.mmas h hd t, .mmas hd.toNat t.toNat),
        (.mdrain h hd t, .mdrain hd.toNat t.toNat)] : List (Instr × MOp)),
      let m := s.core.m
      let pc := s.core.x.pc.toNat
      let word : Word64 := (encode e.1).zeroExtend 64
      let n := (m.entered m.count).length
      s.stepFree .x h e.1 true [] [] = true →
        (8 ≤ n → exec e.1 s = .next (
          if s.heldDrain m.count = true then s.stepTick .x (some .matrixQueue) else s.stepTrap .x 0x13 0 pc))
        ∧ (n < 8 → (s.core.fq).visible m.next = false → exec e.1 s = .next (s.stepTrap .x 0x06 0x3000C pc))
        ∧ (n < 8 → (s.core.fq).visible m.next = true → s.comboOk (s.ahead m.count) e.2 s.core.fq.head = false →
            exec e.1 s = .next (s.stepTrap .x 0x07 word pc)))

/-! ### C: queues, format words, nests -/

/-- 06 R119, R120: fmt pushes s[a], or FMTD for a = 0, when the word passes the checks of R99, and raises cause 0x07 with the word
otherwise; nest.w writes s[a] into its doubleword of the shadow table when the reserved fields are zero.

06 R121; 08 R197: nest.go and mnest, whose checks hold, pop the format word and copy it and the shadow table into a nest, which runs
where none does and is armed otherwise. -/
def Obligations.FormatWordsAndNests : Prop :=
  (∀ (s : State) (a : BitVec 5) (i : BitVec 4),
    let w := if a = 0 then s.core.csr.fmtd else s.core.c.read a
    (s.cFree (.fmt a) [a] = true → fmtOk w = false → exec (.fmt a) s = .next (s.cTrap 0x07 w))
    ∧ (s.cFree (.fmt a) [a] = true → fmtOk w = true → (s.core.fq).room 16 s.now = true →
      ∃ t, exec (.fmt a) s = .next t ∧ CNoResult (s.updCore fun c => { c with fq := c.fq.push w s.cSeen c.c.after }) t)
    ∧ (s.cFree (.nestW a i) [a] = true → nestOk i.toNat (s.core.c.read a) = true →
      ∃ t, exec (.nestW a i) s = .next t
        ∧ CNoResult (s.updM fun m => { m with shadow := m.shadow.setIfInBounds i.toNat (s.core.c.read a) }) t)
    ∧ (s.cFree (.nestW a i) [a] = true → nestOk i.toNat (s.core.c.read a) = false →
      exec (.nestW a i) s = .next (s.cTrap 0x07 ((encode (.nestW a i)).zeroExtend 64))))
  ∧ (∀ (s : State) (h : Hitch) (n : Nest),
    let p := s.updM fun m => m.promote m.count
    let e := p.matCount (s.now + s.core.div.ctl)
    let held := (p.core.m.queue.filter fun q => !(q.start.isSome && !q.rest && decide (p.core.m.free_ ≤ e))).length
    let wc : Word64 := (encode .nestGo).zeroExtend 64
    let wx : Word64 := (encode (.mnest h)).zeroExtend 64
    (s.cFree .nestGo [] = true → p.nestGo wc held s.now e = .go n →
      ∃ t, exec .nestGo s = .next t
        ∧ CNoResult (((p.popFormat s.now).addNest n none (s.core.c.nGo + 1) s.core.c.after s.core.c.chain.pc wc e).updC fun c =>
            { c with nGo := s.core.c.nGo + 1 }) t)
    ∧ (s.stepFree .x h (.mnest h) true [] [] = true →
        p.nestGo wx (p.core.m.entered p.core.m.count).length p.core.m.next p.core.m.count = .go n →
      exec (.mnest h) s = .next (s.issues ((p.popFormat p.core.m.next).addNest n (some (s.core.x.seq + 1)) 0 s.core.x.after
        (s.core.x.pc.zeroExtend 64) wx p.core.m.count) .x h (.mnest h) true [] [] .waiting .on))
    ∧ (∀ w k t c, p.nestGo w k t c = .go n →
        n.table = s.core.m.shadow ∧ n.fmt = s.core.fq.head ∧ n.point = 0 ∧ p.core.m.armed = none ∧ k < 8 ∧ (s.core.fq).visible t = true))

/-! ### Matrix words and transfer words -/

/-- 08 R195: mzero sets every element of its tile to +0 and empties its tag record, and what products before it bring into that tile after its
zeros is +0 too; it has no other effect.

08 R211: mfst at its start pushes FCOL, FSTAT and GROW, in this order, into the return queue xc; it changes no other queue and no
register. -/
def Obligations.MzeroClearsAndMfstReturns : Prop :=
  (∀ (s u v : State) (t : Nat) (seq : Option Nat) (due : Nat), t < 16 → s.MemCanonical → s.startZero t seq due = .ok u →
    (u.core.m.tags.toList[t]? = some none ∧ (∀ k, k ≠ t → u.core.m.tags.toList[k]? = s.core.m.tags.toList[k]?) ∧ u.mem = s.mem)
    ∧ ∃ r, u.core.m.results = (s.core.m.results.map fun (q : MResult) =>
          if due < q.due then { q with writes := q.writes.map (MWrite.zeroed t) } else q) ++ [r] ∧ r.due = due ∧ r.flags = 0 ∧
        (s.writeAll r.ofX r.writes = .done v →
          let base := windowBase s.core.die s.core.q + 0x2000000 + t * 16384
          (∀ k, k < 16384 → Memory.read v.mem (base + k) = 0)
          ∧ ∀ x, x < base ∨ base + 16384 ≤ x → Memory.read v.mem x = Memory.read s.mem x))
  ∧ (∀ (s : State) (seq : Option Nat) (begun : Nat),
    ∃ u, s.startMfst seq begun = .ok u
      ∧ (u.core.dq[6]).items.map (·.word) = (s.core.dq[6]).items.map (·.word) ++ [BitVec.ofNat 64 s.core.m.fcol, s.core.m.fstat, s.core.m.grow]
      ∧ (∀ n : Fin 12, n ≠ 6 → u.core.dq[n] = s.core.dq[n]) ∧ u.core.hq = s.core.hq ∧ u.core.c = s.core.c ∧ u.core.x = s.core.x
      ∧ u.core.m.fcol = s.core.m.fcol ∧ u.core.m.fstat = s.core.m.fstat ∧ u.core.m.grow = s.core.m.grow ∧ u.mem = s.mem)

/-- 09 R215, R218 to R220: a transfer word that finds room in its unit and no fault in its checks at issue enters the unit's queue with its
registers as read, and stays in flight until it completes; a full unit freezes the core (in a cycle that began before the core's stop the word issues
after it, the model's choice, log 17), and a failed check raises its cause.  A tpref that finds its unit empty completes at issue, with memory and
the core's state as they were (09 R219, R224). -/
def Obligations.TransferWordsEnterTheirUnit : Prop :=
  ∀ (s : State) (h : Hitch) (hd : BitVec 10) (a b : BitVec 4) (n : BitVec 2) (u : BitVec 4) (bfl com : BitVec 1),
    let close := (s.core.l.readG a).getLsbD 0
    ∀ e ∈ ([(.inb, .tld h hd a b, .tld hd.toNat false, a, b), (.inb, .tldT h hd a b, .tld hd.toNat true, a, b),
        (.outb, .tst h hd a b, .tst hd.toNat, a, b), (.inb, .wopen h hd a b n, .wopen hd.toNat n.toNat false, a, b),
        (.inb, .wopenW h hd a b n, .wopen hd.toNat n.toNat true, a, b), (.outb, .tfar h hd a b, .tfar hd.toNat, a, b),
        (.inb, .tfetch h hd a b, .tfetch hd.toNat, a, b), (.inb, .wadv h a n, .wadv n.toNat false close, a, 0),
        (.inb, .wdrop h a n, .wadv n.toNat true close, a, 0), (.outb, .supd h hd a b u, .supd hd.toNat u.toNat, a, b),
        (.outb, .tsum h hd a b bfl com, .tsum hd.toNat (bfl == 1) (com == 1), a, b), (.outb, .tcopy h hd a b, .tcopy hd.toNat, a, b),
        (.inb, .tpref h hd b, .tpref hd.toNat, 0, b)] : List (XUnit × Instr × XOp × BitVec 4 × BitVec 4)),
      let t := unitStrand e.1
      let p := s.core.strand t
      let x := p.readG e.2.2.2.1
      let y := p.readG e.2.2.2.2
      let q := (s.core.unit e.1).queue
      let fault := firstFault (s.issueChecks e.2.2.1 x y ((encode e.2.1).zeroExtend 64))
      s.stepFree t h e.2.1 true [] [] = true →
        (16 ≤ q.length → exec e.2.1 s = .next (
          if (s.core.unit e.1).held = true then s.stepTick t (some .verdict)
          else if s.core.c.handler = true then s.stepTick t none else s.freezeAt t (.fullQueue e.1)))
        ∧ (q.length < 16 → ∀ f, fault = some f → exec e.2.1 s = .next (s.stepTrap t f.1 f.2 p.pc.toNat))
        ∧ (q = [] → fault = none → e.2.2.1 = .tpref hd.toNat → ∃ v,
            exec e.2.1 s = .next (s.issues v t h e.2.1 true [] [] (.atCount p.count) .on) ∧ v.mem = s.mem ∧ v.core = s.core)
        ∧ (q.length < 16 → fault = none → (q = [] → e.2.2.1 ≠ .tpref hd.toNat) → ∃ v,
            exec e.2.1 s = .next (s.issues v t h e.2.1 true [] [] .waiting .on) ∧ v.mem = s.mem ∧ v.core.c = s.core.c
            ∧ (∀ k, v.core.strand k = s.core.strand k)
            ∧ ∃ entry, (v.core.unit e.1).queue = q ++ [entry] ∧ entry.op = e.2.2.1 ∧ entry.a = x ∧ entry.b = y ∧ entry.st = .queued
              ∧ entry.moved = 0 ∧ entry.seq = p.seq + 1 ∧ entry.pc = p.pc
              ∧ ∀ d, s.fixedDelay e.2.2.1 x y = some d → entry.due = (s.core.unit e.1).clock + d)

/-! ### Events of a core -/

/-- 06 R103; 07 R148, R151, R152; 02 R37: what was on its way arrives: a vector result is written with its flags when X's count reaches it;
a global load's data is written, its registers are free and its word completes; a load of C makes its register ready and brings its line; a
post reaches its queue.

02 R40: when every strand that has not ended waits on a queue that nothing in flight can serve, C takes cause 0x13 with the queue as
TVAL. -/
def Obligations.ResultsArrive : Prop :=
  (∀ (s : State),
    (∀ l, s.dueLatches = [l] →
      let r := (s.at_ s.core.x.next).updV fun v => { v with latches := v.latches.filter fun k => !decide (k = l) }
      exec .vectorResultArrival s = .next ((l.targets.foldl State.writeTarget r).orFlags .x l.flags))
    ∧ (∀ g, s.core.stopped = false → s.dueLoad = some g → g.again = false → g.poison = none →
      exec .globalLoadArrival s = .next ((g.targets.foldl State.writeTarget
        ((s.at_ s.core.x.next).updV fun v => { v with gloads := v.gloads.filter fun k => k.seq != g.seq })).xDone (some g.seq)))
    ∧ (∀ g a, s.core.stopped = false → s.dueLoad = some g → g.again = false → g.poison = some a → ∃ t, exec .globalLoadArrival s = .next t ∧ t.mem = s.mem ∧
        (s.core.pend.length < 16 → ∃ p, t.core.pend = s.core.pend ++ [p] ∧ p.cause = 0x0C ∧ p.src = 2 ∧ p.tval = BitVec.ofNat 64 a ∧ p.pc = g.pc.toNat))
    ∧ (∀ l, s.core.c.dueLoad = some l → ∃ t, exec .cLoadArrival s = .next t ∧ t.core.c.loads = s.core.c.loads.erase l ∧ t.mem = s.mem
        ∧ (∀ r, t.core.c.read r = s.core.c.read r) ∧ ∀ n, l.line = some n → n ∈ t.core.gcache)
    ∧ (∀ k seq q n tick since, s.firstPost = some (k, seq, q, n, tick, since) → ∃ t, exec .hitchPostDelivery s = .next t
        ∧ t.core.hq[n] = (s.core.hq[n]).push 1 since (s.core.strand k).after ∧ (∀ m, m ≠ n → t.core.hq[m] = s.core.hq[m]) ∧ t.mem = s.mem ∧ t.core.c = s.core.c))
  ∧ (∀ (s : State) (v : Word64), s.core.deadlock = some v → s.core.c.handler = false →
    ∃ t, exec .queueDeadlock s = .next t ∧ t.core.frame.cause = 0x13 ∧ t.core.frame.tval = v ∧ t.core.c.handler = true
      ∧ t.core.c.saved = s.core.c.chain ∧ t.mem = s.mem)

/-- 09 R218, R220, R236; 20 R340: the head of a unit reaches its completion.  One whose plan holds moves its bytes; one that meets a page or a right
it lacks takes the cause, or freezes the core for a walk; a tfar whose peer is not reachable stays, with bit 2 of the fault word; one that was sent
leaves; one that met a fault stays; one that rett dropped leaves without its bytes; one that waited for the splice buffer goes on with what it has
left.  A freed slot ends the freeze of a full unit (`State.endFull`).  The arrival of a poisoned atom among the sources of a head completes it.

09 R231; 21 R352: a remote read brings its target's image, or the bytes of a peer's, which the model leaves free.

09 R232; 11 R263; 17 R300: the first remote write to land writes its bytes in its target's window and nowhere else, and counts its arrival there. -/
def Obligations.TransfersComplete : Prop :=
  (∀ (s : State) (u : XUnit) (e : Xfer) (l : List Xfer), (s.core.unit u).queue = e :: l →
    let now := { s with now := Nat.max s.now (s.unitTick u (s.leavesAt e)) }
    let p := now.planOf e
    let i : Instr := .transferComplete u
    (e.st = .queued → e.departed = false →
      (p.mapped = .ok → p.late = false → e.unserved = false → now.cutOff e = false → exec i s = .next (now.xferMove u e p p.todo p.flags).endFull)
      ∧ (∀ c a, p.mapped = .bad c a → exec i s = .next (now.xferFault u c a).endFull)
      ∧ (∀ a w, p.mapped = .walk a w → exec i s = .next (now.unitWalk a w).endFull
          ∧ (now.core.fullFrozen = false → now.unitWalk a w = now.freezeCore (.walk a w)))
      ∧ (p.mapped = .ok → p.late = false → e.unserved = false → now.cutOff e = true → exec i s = .next (now.raiseFault 2).endFull))
    ∧ (e.st = .queued → e.departed = true → exec i s = .next (now.xferDone u e 0).endFull)
    ∧ (e.st = .faulted → exec i s = .next now.endFull)
    ∧ (e.st = .dropped → exec i s = .next ((now.dropped e).xferDone u e 0).endFull)
    ∧ (e.st = .moving → (∀ n d c, e.op ≠ .wadv n d c) →
        exec i s = .next (now.xferMove u e { p with finish := id, poison := e.bad } (e.todo.getD []) e.flags).endFull)
    ∧ (∀ (pa : BitVec 52) (a : Nat × Nat) (b : Nat), pa.toNat / 32 ∈ s.poison → (∃ p ∈ s.sources e, a ∈ atomsOf p.1 p.2) →
        s.probe a.1 false = .ok b → b / 32 = pa.toNat / 32 → exec (.transferAtomArrival u pa) s = .next (s.xferComplete u e).endFull))
  ∧ (∀ (s : State) (e : Xfer) (l : List Xfer) (h : Nat) (H : Handle) (k : Kernel),
    s.core.inb.queue = e :: l → e.op = .tfetch h → e.extra = [] → s.handle? h = some H → s.myKernel = some k →
    (∀ v, farNode e.b = 0 → k.vc? (farDie e.b) (farCore e.b) = some v →
      exec .remoteReadRequest s = .next (s.updXHead .inb fun x =>
        { x with extra := H.cleanImage (Memory.readBytes s.mem (windowBase v.die v.q + farOff e.b) H.imageBytes) }))
    ∧ (farNode e.b ≠ 0 → exec .remoteReadRequest s = .next (State.updXHead { s with free := s.free + 1 } .inb fun x =>
        { x with extra := H.cleanImage ((List.range H.imageBytes).map (Config.peerByte s.free)) })))
  ∧ (∀ (s : State) (f : Flying) (rest : List Flying) (k : Kernel) (v : VCore),
    s.links.first = some (f, rest) → s.kernel? f.kid = some k → k.vc? f.vdie f.vcore = some v → v.die < 24 → v.q < 32 → f.off < 2 ^ 32 →
    ∃ t, exec .tfarLanding s = .next t ∧ t.now = Nat.max s.now f.lands ∧ t.links.flying = rest
      ∧ t.mem = Memory.writeMasked s.mem (windowBase v.die v.q + f.off) f.bytes
      ∧ (f.ident = none → t.disp = s.disp)
      ∧ ∀ id, f.ident = some id → ∃ x w, t.kernel? f.kid = some x ∧ x.vc? f.vdie f.vcore = some w
          ∧ w.landed = (v.land id).landed ∧ w.landedCount = (v.land id).landedCount)

/-- 06 R121; 08 R183, R186 to R188, R197 to R199: the head of the command queue starts at its start cycle, a single word with its operation, a nest with
its walk; its results become visible with their flags, those of a factorisation word with STATE 2; it leaves at the end of its occupancy; a nest
starts point after point, each with its checks; the self-test product goes in and is due 16 cycles later; operand bytes that arrive end the freeze.
That an mnest counts toward the self-test beside its points is the model's reading of R199 (log 66). -/
def Obligations.MatrixUnitAdvances : Prop :=
  ∀ (s : State),
    (∀ c e op row col, s.startCount = some c → s.core.m.about = some (e, op, row, col) → e.rest = false → op ≠ .nest →
      let r := s.matTo c
      exec .matrixEntryStart s = .next ((e.inView r fun s =>
        s.startOp op e.fmt row col e.seq (BitVec.ofNat 64 (imWord s.core.imX e.pc.toNat)) e.occ).settle r e.occ op.counted
          fun e => { e with start := some r.core.m.count }))
    ∧ (∀ c e row col n, s.startCount = some c → s.core.m.about = some (e, .nest, row, col) →
        let r := (s.matTo c).updM fun m => { m.promote (m.count + 1) with ops := m.ops + (if e.seq.isSome then 1 else 0) }
        r.core.m.running = some n → n.total ≠ 0 →
        exec .matrixEntryStart s = .next (r.updM fun m => m.updHead fun e => { e with start := some m.count }))
    ∧ (∀ e l, s.core.m.queue = e :: l → e.start.isSome = true → e.rest = false → s.core.m.factor = none ∨ s.core.m.tail = true →
        let r := s.matTo (Nat.max s.core.m.count s.core.m.free_)
        exec .matrixOccupancyEnd s = .next (r.updM fun m => ({ m with queue := l, factor := none }).promote m.count))
    ∧ (∀ r rest v, firstResult s.core.m.results = some (r, rest) →
        let b := (s.matTo (Nat.max s.core.m.count r.due)).updM fun m => { m with results := rest }
        let x := (v.orFlags .x r.flags).xDone r.seq
        b.writeAll r.ofX r.writes = .done v → exec .matrixResultVisible s = .next (if r.last = true then
          x.setFactorRegs (fstatN x.core.m.fstat) (fstatSet x.core.m.fstat 0 2) x.core.m.grow (x.now + x.core.div.mat) else x))
    ∧ (∀ c e op row col n, s.startCount = some c → s.core.m.about = some (e, op, row, col) → s.core.m.running = some n → e.rest = true →
        e.start.isSome = true →
        let r := s.matTo c
        let a := r.core.m.present
        let word : Word64 := BitVec.ofNat 64 (imWord (if e.seq.isSome then r.core.imX else r.core.imC) e.pc.toNat)
        (∀ f, r.entryFault a op n.fmt row col word = some f → exec .nestPoint s = .next (r.startFault f.1 f.2))
        ∧ (r.entryFault a op n.fmt row col word = none →
            let occ := r.occupancy a op n.fmt row col
            let last := decide (n.total ≤ n.point + 1)
            let v := (e.inView r fun s => s.startOp op n.fmt row col (if last then e.seq else none) word occ).settle r occ op.counted
              fun e => { e with occ := e.occ + occ, rest := !last }
            (v.core.m.free_ = r.core.m.count + occ → (v.core.m.queue.head?.any fun e => !e.bad) = true → v.core.freeze = none →
              exec .nestPoint s = .next (v.updM fun m => { m with running := m.running.map fun n =>
                { n with point := n.point + 1, ended := if last then some m.count else none } }))))
    ∧ (∃ t, exec .selfTestInject s = .next t ∧ t.core.m.ops = 0 ∧ t.mem = s.mem ∧
        (s.core.m.failing = false → t.core.m.testDue = some (Nat.max s.core.m.count (Nat.max s.core.m.count s.core.m.free_) + 16)))
    ∧ (s.core.freeze = some .operands → exec .operandFetchArrival s = .next s.unfreeze)

/-- 08 R203, R204, R209, R212: a factorisation word goes from column to column at its boundaries; a breakdown ends it with its column in
FCOL, its cause and STATE 3 in FSTAT, and the trap raised on C.

08 R199; 02 R25; 23 R374: a self-test product that differs fences its core and takes it out of service, 16 matrix cycles after the
operation.  That it waits for that cycle when it is told earlier, or while the core is frozen, is the model's choice (log 45). -/
def Obligations.FactorisationAndSelfTest : Prop :=
  (∀ (s : State) (f : Factor) (e : MEntry) (l : List MEntry), s.core.m.factor = some f → s.core.m.queue = e :: l →
    (s.core.c.handler = false → f.broke = none → s.core.m.tail = false → f.early = false →
      let r := s.matTo (Nat.max s.core.m.count f.due)
      exec .factorColumnBoundary s = .next ((r.colStep e.op f (r.now + r.core.div.mat)).factorNext e.op e.seq (f.col + 1) f.due
        (e.start.getD 0 + e.occ)))
    ∧ (∀ code, f.broke = some code → ∃ t, exec .factorisationBreakdown s = .next t ∧ t.core.m.factor = none ∧ t.core.m.queue = l
        ∧ t.core.m.fcol = f.col ∧ t.core.m.fstat = fstatSet s.core.m.fstat code 3 ∧ t.mem = s.mem
        ∧ (f.pended = true → t.core.pend = s.core.pend)
        ∧ (f.pended = false → s.core.pend.length < 16 → ∃ p, t.core.pend = s.core.pend ++ [p] ∧ p.cause = BitVec.ofNat 8 code ∧ p.src = 4
            ∧ p.tval = BitVec.ofNat 64 f.col ∧ p.pc = e.pc.toNat)))
  ∧ (∀ (s : State) (d : Nat), s.core.m.testDue = some d →
    (s.now < s.matTick d ∨ s.core.freeze.isSome = true → d ≥ s.matCount s.now → s.core.m.failing = false →
      exec .selfTestFailure s = .next (s.updM fun m => { m with failing := true }))
    ∧ (s.matTick d ≤ s.now → s.core.freeze = none → d ≥ s.matCount s.now ∨ s.core.m.failing = true → s.core.task = none →
      ∃ t, exec .selfTestFailure s = .next t ∧ t.core.m.fenced = true ∧ t.core.m.testDue = none ∧ t.mem = s.mem
        ∧ (s.core.die, s.core.q) ∈ t.serv.fencedCores))

/-- 05 R82; 20 R334: a word that is no instruction raises cause 0x01 at its strand, with the word as TVAL; after a modifier, at the modifier (05 R97).
That the modifier stays where the fault can only be raised after a stop is the model's choice (log 17).

20 R331 to R334, R339, R340: a cause that reaches a core enters its trap precisely at the word of C, L or S, or as an asynchronous one, which waits
while a handler runs; a pending entry is taken when its cycle of C has come, and leaves the list. -/
def Obligations.CausesReachTheCore : Prop :=
  (∀ (s : State) (w : Word32),
    exec (.reservedOpcode .c w) s = .next (s.cTrap 0x01 (w.zeroExtend 64))
    ∧ exec (.reservedOpcode .l w) s = .next (s.stepTrap .l 0x01 (w.zeroExtend 64) s.core.l.pc.toNat)
    ∧ exec (.reservedOpcode .s w) s = .next (s.stepTrap .s 0x01 (w.zeroExtend 64) s.core.s.pc.toNat)
    ∧ (s.core.v.modif = none → exec (.reservedOpcode .x w) s = .next (s.stepTrap .x 0x01 (w.zeroExtend 64) s.core.x.pc.toNat))
    ∧ (∀ m, s.core.v.modif = some m → exec (.reservedOpcode .x w) s = .next
        ((if s.core.c.handler = true then s else s.updV fun v => { v with modif := none }).stepTrap .x 0x01 (w.zeroExtend 64) m.pc.toNat)))
  ∧ (∀ (s : State) (cause : BitVec 8) (src : BitVec 4) (tval : Word64),
    cause ≠ 0x0D → cause ≠ 0x0F → (cause = 0x04 → s.core.task = none) →
    (cause ≠ 0x10 → src = 0 → exec (.trapEntry cause src tval) s = .next (s.cTrap cause tval))
    ∧ (cause ≠ 0x10 → src = 1 → exec (.trapEntry cause src tval) s = .next (s.stepTrap .l cause tval s.core.l.pc.toNat))
    ∧ (cause ≠ 0x10 → src = 3 → exec (.trapEntry cause src tval) s = .next (s.stepTrap .s cause tval s.core.s.pc.toNat))
    ∧ (cause ≠ 0x10 → 4 ≤ src.toNat → s.core.c.handler = false →
        exec (.trapEntry cause src tval) s = .next (s.enterTrap cause src false tval none 0 s.now))
    ∧ (cause ≠ 0x10 → 4 ≤ src.toNat → s.core.c.handler = true →
        exec (.trapEntry cause src tval) s = .next (s.raiseLater cause src tval))
    ∧ (∀ p, s.core.duePend = some p → s.core.c.handler = false → p.cause ≠ 0x11 → p.kept = false →
        ∃ t, exec .pendingEntryTaken s = .next t ∧ t.core.pend = (s.core.pend.erase p).map (fun e => { e with kept := e.kind != 3 })
          ∧ t.core.frame.cause = p.cause
          ∧ t.core.frame.tval = p.tval ∧ t.core.frame.src = p.src ∧ t.core.frame.precise = false ∧ t.core.c.handler = true
          ∧ t.core.c.saved = s.core.c.chain ∧ t.mem = s.mem))

/-- 20 R332, R334, R342: an external interrupt becomes the core's pending entry, or waits with its die's dispatcher behind one; the timer
compare raises cause 0x12 on the supervisor's core and clears TCMP.  That the supervisor's own core takes external interrupts, and that 64 may
wait for a core, are the model's choices (log 30).

11 R260; 20 R343, R344; 23 R370: a walk ends for every core that waits for its page; PGDONE resolves every future of its page: parked
virtual cores are aborted, and cores frozen on it walk again; a correctable retry freezes the core and ends its freeze (log 3). -/
def Obligations.InterruptsAndPages : Prop :=
  (∀ (s : State) (n : BitVec 16), s.core.task.isSome = true ∨ s.core.sup = true →
    (s.core.irqPending = false → s.core.irq = [] → exec (.externalInterrupt n) s = .next (s.raiseLater 0x11 7 (n.zeroExtend 64)))
    ∧ (s.core.irqPending = true ∨ s.core.irq ≠ [] → s.core.irq.length < 64 →
        exec (.externalInterrupt n) s = .next (s.updCore fun c => { c with irq := c.irq ++ [n] }))
    ∧ (s.core.sup = true → s.xlat.tcmp ≠ 0 → (s.core.pend.any fun e => e.cause == 0x12) = false → s.core.pend.length < 16 →
        ∃ t, exec .timerCompareMatch s = .next t ∧ t.xlat.tcmp = 0 ∧ t.mem = s.mem ∧
          ∃ p, t.core.pend = s.core.pend ++ [p] ∧ p.cause = 0x12 ∧ p.src = 9))
  ∧ (∀ (s : State) (v : Word64),
    (∀ va w, s.core.freeze = some (.walk va w) →
      exec .translationWalkComplete s = .next ((s.waiters s.core.csr.ctxid va).foldl
        (fun s w => s.onCore w.1 w.2.1 fun k => k.walkEnds w.2.2.1 w.2.2.2) s))
    ∧ (∃ t, exec (.pgdoneWrite v) s = .next t ∧ t.xlat.done = v ∧ t.mem = s.mem ∧ t.core.c = s.core.c
        ∧ (∀ va w, s.core.freeze = some (.pager va w) → s.core.csr.ctxid = v.extractLsb' 48 16 → va / 65536 = v.toNat % 2 ^ 36 →
            t.core.freeze = some (.walk va w))
        ∧ let free := fun (u : VCore) =>
            if u.state = .parked ∧ u.parked = some (v.toNat % 2 ^ 36) then { u with state := .aborted, parked := none } else u
          t.disp.kernels = s.disp.kernels.map fun (k : Kernel) => if k.ctx = v.extractLsb' 48 16 then { k with vcs := k.vcs.map free } else k)
    ∧ (s.core.freeze = some .retry → exec .correctableRetryResolved s = .next s.unfreeze)
    ∧ (s.core.freeze = none → s.core.task.isSome = true ∨ s.core.sup = true →
        exec .correctableRetryResolved s = .next (s.freezeCore .retry)))

/-! ### Events of tasks and kernels -/

/-- 02 R23, R25, R28: a task whose conditions hold is released on its virtual core's core, with its arguments and coordinates in s1 to s4 and its
arguments and ordinal in g1 and g2 of L, X and S, every other register 0, its image's code in the four memories, and C, L, X and S running from
address 0. -/
def Obligations.ReleaseStartsATask : Prop :=
  ∀ (s : State) (kid : BitVec 16) (vdie vcore : BitVec 8) (k : Kernel) (i : Image) (v : VCore),
    s.kernel? kid.toNat = some k → s.image? k.image = some i → k.vc? vdie.toNat vcore.toNat = some v → k.state = 2 → k.holds = true →
    s.releasable k i v = true → s.core.die = v.die → s.core.q = v.q →
      ∃ t, exec (.taskRelease kid vdie vcore) s = .next t ∧ t.mem = s.mem
        ∧ t.core.c.read 1 = k.args ∧ t.core.c.read 2 = BitVec.ofNat 64 v.vcore ∧ t.core.c.read 3 = BitVec.ofNat 64 v.vdie
        ∧ t.core.c.read 4 = BitVec.ofNat 64 v.pos ∧ (∀ r : BitVec 5, r = 0 ∨ 4 < r.toNat → t.core.c.read r = 0)
        ∧ (∀ x ∈ [t.core.l, t.core.x, t.core.s], x.readG 1 = k.args ∧ x.readG 2 = BitVec.ofNat 64 v.pos
            ∧ ∀ g : BitVec 4, g ≠ 1 → g ≠ 2 → x.readG g = 0)
        ∧ t.core.imC = Memory.writeBytes [] 0 (i.code.getD 0 []) ∧ t.core.imL = Memory.writeBytes [] 0 (i.code.getD 1 [])
        ∧ t.core.imX = Memory.writeBytes [] 0 (i.code.getD 2 []) ∧ t.core.imS = Memory.writeBytes [] 0 (i.code.getD 3 [])
        ∧ t.core.c.chain.pc = 0 ∧ t.core.l.pc = 0 ∧ t.core.x.pc = 0 ∧ t.core.s.pc = 0 ∧ t.core.c.cond = .running none ∧ t.core.l.cond = .running none ∧ t.core.x.cond = .running none
        ∧ t.core.s.cond = .running none ∧ t.core.csr.ctxid = k.ctx ∧ t.core.csr.seed = i.seeds ∧ t.core.div = k.div
        ∧ t.core.task.map (fun x => (x.kid, x.vdie, x.vcore, x.ord, x.pinned)) = some (k.kid, v.vdie, v.vcore, v.pos, false)

/-- 02 R25 to R31; 10 R239; 11 R266; 19 R325: a task that may retire splices and leaves its core, unless its splice would publish a second version of a
slot: then C takes cause 0x13 with the slot.  A cleat phase that is complete opens the next superstep at the first copy cycle of the dispatcher that
knows of it, applies the requests, counts expectations and landings anew and keeps the identities; a waiter then takes the cores.  A package frame
tick counts, and ticks every kernel: one without a hold and without a late task moves its KFRAME on.  kwait goes on once its producers are done.

The model's choices among these: that the identities of arrivals and expectations are kept while the rest is counted anew (log 32), which copy cycle
of the dispatcher completes a phase (log 55), who takes the cores (log 31), and when such an input counts (log 45). -/
def Obligations.TasksGoOn : Prop :=
  ∀ (s : State) (kid : BitVec 16),
    (s.core.spliced = true → s.twice = none → exec .spliceComplete s = .next s.retireTask)
    ∧ (∀ n, s.core.spliced = true → s.twice = some n →
        exec .spliceComplete s = .next ((s.updTask fun t => { t with state := .running }).endTrap (BitVec.ofNat 64 (0x100 + n)) s.now))
    ∧ (∀ k i, s.kernel? kid.toNat = some k → s.image? k.image = some i → s.cleatReady k = true →
        let r := s.at_ (s.cleatTick k)
        let next := r.updKernel k.kid fun k => (k.nextPhase i).applyRequests r.now
        (r.taker k = none → exec (.cleatComplete kid) s = .next next)
        ∧ (∀ w k1, r.taker k = some w → next.kernel? k.kid = some k1 → exec (.cleatComplete kid) s = .next (next.yieldTo k1 w k.phase))
        ∧ (k.nextPhase i).phase = k.phase + 1
        ∧ ∀ v ∈ (k.nextPhase i).vcs, v.expectSum = 0 ∧ v.landed = [] ∧ v.landedCount = 0
            ∧ ∃ u ∈ k.vcs, v.idents = u.idents ∧ v.expects = u.expects ∧ v.arrived = i.startArrival u.vdie u.vcore (k.phase + 1))
    ∧ (let tick := (s.disp.frame + 1) * 75
        let r : State := { s with now := Nat.max s.now tick, disp := { s.disp with frame := s.disp.frame + 1 } }
        let p := if s.serv.powered = true ∧ tick % 7500000000 = 0 then { r with serv := s.serv.second } else r
        exec .frameTick s = .next ((s.disp.kernels.map (·.kid)).foldl State.frameKernel p))
    ∧ (∀ (k : Kernel) (i : Image), k.hold = none →
        let f := if k.begun = true then k.kframe + 1 else k.kframe
        k.late i f = [] → s.kernelTick k i = s.updKernel k.kid fun k => { k with kframe := f, begun := true, hold := none })
    ∧ (s.core.c.cond = .running (some .kwait) → s.producersDone = true →
        exec .kwaitRelease s = .next ((s.at_ s.core.c.next).seeAll).cDone)

/-- 10 R242 to R244, R251, R252: fcast declares its forecast, which is then pending, unless its version has passed already or the run is a rerun: then it
completes at once.  A handle without a slot, a tolerance or a damping that is not one, a second declaration, and a pinned task do not.  fverd reads the
verdict's items (R255); for a handle that is not in the table it raises cause 0x07 with the word (18 R307), where the table has handles too: there the
spec says nothing, and it is the model's choice (log 67).

10 R239 to R254: a prediction that is built serves the waiting reads; an owed publication whose pages are present is made, and one whose page is absent
asks for it once; a passing verdict makes the task ordinary and a failing one squashes it with its cascade; forecasts that can never be judged resolve as
failing. -/
def Obligations.ForecastsGoOn : Prop :=
  (∀ (s : State) (d a : BitVec 5) (h : BitVec 10) (kind item : BitVec 2) (g : BitVec 3) (t : Task) (k : Kernel) (v : VCore),
    s.core.taskContext = true → s.core.task = some t → s.myKernel = some k → s.myVc = some v →
    let i : Instr := .fcast a h kind g
    let x := s.core.c.read a
    (s.cFree i [a] = true → (k.handle? h.toNat).bind (·.fslot) = none → exec i s = .next (s.cTrap 0x07 (BitVec.ofNat 64 h.toNat)))
    ∧ (∀ slot, (k.handle? h.toNat).bind (·.fslot) = some slot → s.cFree i [a] = true →
        (tolOk (x.toNat / 2 ^ 32) = false ∨ tolOk (x.toNat % 2 ^ 32) = false → exec i s = .next (s.cTrap 0x07 x))
        ∧ (tolOk (x.toNat / 2 ^ 32) = true → tolOk (x.toNat % 2 ^ 32) = true →
          (kind = 2 → deltaOk s.core.csr.fdamp.toNat = false → exec i s = .next (s.cTrap 0x07 (s.core.csr.fdamp.zeroExtend 64)))
          ∧ ((kind = 2 → deltaOk s.core.csr.fdamp.toNat = true) →
            (t.declared ≠ none → exec i s = .next (s.cTrap 0x13 (BitVec.ofNat 64 h.toNat)))
            ∧ (t.declared = none → t.pinned = true → exec i s = .next s.overflow)
            ∧ (t.declared = none → t.pinned = false → v.rerun ≠ none →
                ∃ u, exec i s = .next u ∧ CNoResult (s.updTask fun t => { t with declared := some h.toNat }) u)
            ∧ (∀ f e y, t.declared = none → t.pinned = false → v.rerun = none → v.forecast = some f → f.slot = slot → f.verdict = .passed e y →
                ∃ u, exec i s = .next u ∧ CNoResult (s.updTask fun t => { t with declared := some h.toNat }) u)
            ∧ (t.declared = none → t.pinned = false → v.rerun = none → v.forecast = none →
                ∃ u f, exec i s = .next u ∧ CNext s.core.c u.core.c ∧ u.mem = s.mem ∧ u.core.task.map (·.declared) = some (some h.toNat)
                  ∧ u.core.task.bind (·.forecast) = some f ∧ f.slot = slot ∧ f.h = h.toNat ∧ f.kind = kind.toNat ∧ f.group = g.toNat
                  ∧ f.ftola = x.toNat % 2 ^ 32 ∧ f.ftolr = x.toNat / 2 ^ 32 ∧ f.verdict = .pending ∧ f.built = none))))
    ∧ (s.cFree (.fverd d h item) [] = true → (s.handle? h.toNat).isSome = true →
        ∃ u, exec (.fverd d h item) s = .next u ∧ CResult s u d (BitVec.ofNat 64 (s.verdictItem h.toNat item.toNat)) 1)
    ∧ (s.cFree (.fverd d h item) [] = true → s.handle? h.toNat = none →
        exec (.fverd d h item) s = .next (s.cTrap 0x07 ((encode (.fverd d h item)).zeroExtend 64))))
  ∧ (∀ (s : State) (kid : BitVec 16) (k : Kernel),
    (∀ f, s.forecasting = some f → s.myKernel = some k → f.built = none →
      exec .predictionReady s = .next (s.updTask fun t => { t with forecast := some { f with built := some (k.predicted f) } }))
    ∧ (∀ n H, s.nextOwed = some (k, n, H, none) → exec .versionPublication s = .next (s.publish k n H))
    ∧ (∀ n H a, s.nextOwed = some (k, n, H, some a) → exec .versionPublication s = .next
        ((s.pageRequest k.ctx a false false).updKernel k.kid fun k => { k with slots := k.slots.zipIdx.map fun (p : Slot × Nat) =>
          if p.2 = n then { p.1 with asked := p.1.asked ++ [a / 65536] } else p.1 }))
    ∧ (∀ v f e x tick, s.firstVerdict = some (k, v, f, .passed e x, tick) →
        exec .verdictArrival s = .next (State.passVerdict { s with now := Nat.max s.now tick } k v f e x))
    ∧ (∀ v f why e x tick, s.firstVerdict = some (k, v, f, .failed why e x, tick) →
        exec .verdictArrival s = .next (State.squashPrimary { s with now := Nat.max s.now tick } k v f why e x))
    ∧ (s.kernel? kid.toNat = some k →
        exec (.orphanForecast kid) s = .next ((s.orphans k).foldl (fun s p => match s.pendingOf k.kid p.1 with
          | some f => s.squashPrimary k p.1 f 2 0 0
          | none => s) s)))

/-! ### Commands, power, time -/

/-- 19 R317, R318: the poll takes the first entry that waits as the command its fields name, goes on where none waits, and refuses a PROD out of range
with bit 0 of the fault word; a command completes by RESULT, CSTAT (its tag over its code) and CONS, and by no other byte but those of its entry. -/
def Obligations.CommandsAreTakenAndCompleted : Prop :=
  ∀ (s : State) (c : Cmd) (result code : Nat), s.cmdRing = true →
    let a := s.cmdEntry s.cmdCons
    let f := fun (o n : Nat) => Memory.readNat s.mem (a + o) n
    let taken : Cmd := ⟨BitVec.ofNat 16 (f 0 2), BitVec.ofNat 32 (f 4 4), BitVec.ofNat 64 (f 8 8), BitVec.ofNat 64 (f 16 8), BitVec.ofNat 64 (f 24 8)⟩
    (s.cmdPending ≤ s.cmdSize → s.cmdPending ≠ 0 →
      ∃ t, exec .commandRingPoll s = .next t ∧ t.agenda = s.agenda ++ [commandOf (f 2 2) taken] ∧ t.disp.ringStop = false ∧ t.mem = s.mem
        ∧ t.core = s.core)
    ∧ (s.cmdPending = 0 → exec .commandRingPoll s = .next { s with disp := { s.disp with ringStop := false } })
    ∧ (s.cmdSize < s.cmdPending → s.disp.ringStop = false →
        ∃ t, exec .commandRingPoll s = .next t ∧ t.agenda = s.agenda ∧ t.host.fault.getLsbD 0 = true ∧ t.disp.ringStop = true ∧ t.mem = s.mem)
    ∧ (s.MemCanonical → windowOf (a + 32) = none → (∀ k, k < 32 → s.deadByte (a + 32 + k) = false) → windowOf (s.host.cmdbase.toNat + 8) = none →
        (∀ k, k < 8 → s.deadByte (s.host.cmdbase.toNat + 8 + k) = false) → s.host.cmdbase.toNat + 16 ≤ a + 32 →
        let t := s.finishCmd c result code
        Memory.readNat t.mem (a + 32) 8 = result % 2 ^ 64 ∧ Memory.readNat t.mem (a + 40) 8 = (c.tag.toNat * 2 ^ 32 + code) % 2 ^ 64
        ∧ Memory.readNat t.mem (s.host.cmdbase.toNat + 8) 8 = (s.cmdCons + 1) % 2 ^ 64 ∧ t.core.c = s.core.c
        ∧ ∀ x, (x < a + 32 ∨ a + 64 ≤ x) → (x < s.host.cmdbase.toNat + 8 ∨ s.host.cmdbase.toNat + 16 ≤ x) →
            Memory.read t.mem x = Memory.read s.mem x)

/-- 19 R318 to R321, R324, R327, R328; 18 R314: the commands of the host, each with its effect and its completion code: a LOAD that fits its context's
root table or fixes it, or is refused with its section; a LAUNCH, copied into an open segment with room for it; STREAM, which stages its ranges;
RECORD where none is open and there is room; RECEND; DROP of a segment whose images stand; ABORT; UNLOAD of an image that nothing needs; a reserved
OP.  A context without a root table gives code 2.

19 R321, R322; 20 R346; 08 R213; 23 R374: a kernel's streams become resident, filled and pinned at their homes, within half of the grade's last-level
cache, and a kernel whose cores are all free takes them at a copy cycle of die 0, others for those that left service, with STATE 2 the first time and
its images restored, or ends with STATE 5 where an image of it cannot be.

The model's choices among these: that a refused LAUNCH completes with code 0 and RESULT 0 (log 33), the form of STREAM's list and what it leaves out
(log 44), and the copy cycle of the issue (log 55). -/
def Obligations.CommandsOfTheHost : Prop :=
  (∀ (s : State) (c : Cmd),
    let ctx : BitVec 16 := c.a1.truncate 16
    let known := s.knownCtx ctx = true
    let kid := c.a0.toNat % 2 ^ 16
    let seg := c.a1.toNat / 2 ^ 16 % 2 ^ 8
    (∀ x r, s.xlat.roots.find? (fun r => r.1 == ctx) = some r →
      (r.2 = c.a2.toNat → s.loadObject ctx c.a0.toNat r.2 = .ok x → exec (.load c) s = .next (x.1.finishCmd c x.2 0))
      ∧ (r.2 ≠ c.a2.toNat → exec (.load c) s = .next (s.finishCmd c 0 2)))
    ∧ (∀ x, s.xlat.roots.find? (fun r => r.1 == ctx) = none →
        State.loadObject { s with xlat := { s.xlat with roots := s.xlat.roots ++ [(ctx, c.a2.toNat)] } } ctx c.a0.toNat c.a2.toNat = .ok x →
        exec (.load c) s = .next (x.1.finishCmd c x.2 0))
    ∧ (∀ r b, s.xlat.roots.find? (fun r => r.1 == ctx) = some r → r.2 = c.a2.toNat → s.loadObject ctx c.a0.toNat r.2 = .error b →
      exec (.load c) s = .next (s.finishCmd c (b.1 * 2 ^ 32 + b.2 % 2 ^ 32) 3))
    ∧ (known →
        let desc := s.agentLoad ctx c.a0.toNat 64
        let r := s.acceptLaunch ctx desc 0 true none none
        let t := r.1.replayPump
        (r.2 = 0 ∨ t.openSegment ctx = none → exec (.cmdLaunch c) s = .next (t.finishCmd c r.2 0))
        ∧ (∀ g, r.2 ≠ 0 → t.openSegment ctx = some g → exec (.cmdLaunch c) s = .next (if 64 ≤ g.items.length then t.finishCmd c r.2 5
            else (t.updSegment g fun g => { g with items := g.items ++ [⟨desc, (s.descriptor ctx desc).image, r.2, ctx⟩] }).finishCmd c r.2 0)))
    ∧ (known → exec (.cmdStream c) s = .next ((s.streamWord ctx c.a0.toNat).finishCmd c 0 0))
    ∧ (known →
        let rest := s.disp.segments.filter fun g => !(g.id == c.a0.toNat % 2 ^ 8 && g.ctx == ctx)
        (s.openSegment ctx = none → rest.length < 256 → exec (.record c) s =
          .next (State.finishCmd { s with disp := { s.disp with segments := rest ++ [⟨c.a0.toNat % 2 ^ 8, ctx, true, []⟩] } } c 0 0))
        ∧ (s.openSegment ctx ≠ none → exec (.record c) s = .next (s.finishCmd c 0 6)))
    ∧ (∀ g, known → s.openSegment ctx = some g →
        exec (.recend c) s = .next ((s.updSegment g fun g => { g with isOpen := false }).finishCmd c g.items.length 0))
    ∧ (known → s.openSegment ctx = none → exec (.recend c) s = .next (s.finishCmd c 0 6))
    ∧ (∀ g, known → s.disp.segments.find? (fun g => g.id == seg && g.ctx == ctx) = some g →
        (∀ r ∈ g.items, (s.image? r.image).isSome = true) → exec (.drop c) s = .next (if 256 ≤ s.disp.marks.length then s.finishCmd c 0 5
          else State.finishCmd { s with disp := { s.disp with marks := s.disp.marks ++ [⟨ctx, c.a0.toNat, c.a2.toNat, seg⟩] } } c 0 0))
    ∧ (known → s.disp.segments.find? (fun g => g.id == seg && g.ctx == ctx) = none → exec (.drop c) s = .next (s.finishCmd c 0 4))
    ∧ exec (.abort c) s = .next (if s.kernelEnded kid = true then s.finishCmd c 0 4 else (s.killKernel kid 5 0).finishCmd c 0 0)
    ∧ (∀ i, s.image? c.a0.toNat = some i → (∀ k ∈ s.disp.kernels, k.image = c.a0.toNat → 3 ≤ k.state) → s.disp.marks = [] →
        exec (.unload c) s = .next (State.finishCmd
          { s with disp := { s.disp with images := s.disp.images.filter fun i => i.id != c.a0.toNat } } c 0 0))
    ∧ (s.image? c.a0.toNat = none → exec (.unload c) s = .next (s.finishCmd c 0 4))
    ∧ exec (.reservedCommand c) s = .next (s.finishCmd c 0 1)
    ∧ (¬known → ∀ i ∈ ([.cmdLaunch c, .cmdStream c, .record c, .recend c, .drop c] : List Instr), exec i s = .next (s.finishCmd c 0 2)))
  ∧ (∀ (s : State) (kid : BitVec 16) (k : Kernel), s.kernel? kid.toNat = some k →
    (s.mayPin k = true → exec (.streamResident kid) s =
      .next ((s.stage k.ctx [k.kid] k.streams).updKernel k.kid fun k => { k with resident := true }))
    ∧ (∀ i, s.image? k.image = some i → s.mayIssue k = true →
        let r := (s.at_ (copyTick0 s.now)).reassignAll k i
        (r.kernelEnded k.kid = true → exec (.kernelIssue kid) s = .next r)
        ∧ ∀ n, r.kernelEnded k.kid = false → r.kernel? k.kid = some n →
          let took := r.updKernel n.kid fun k => { k with holds := true, since := if k.state = 1 then r.now else k.since,
                                                          vcs := k.vcs.map fun v => { v with image := none } }
          ((∀ v ∈ n.vcs, ∀ m, v.image = some m → m.foreign v = false) →
            exec (.kernelIssue kid) s = .next (n.vcs.foldl (fun s v => s.restoreVc i v) (if n.state = 1 then took.setKernelState n.kid 2 0 else took)))
          ∧ ((∃ v ∈ n.vcs, ∃ m, v.image = some m ∧ m.foreign v = true) → exec (.kernelIssue kid) s = .next (r.killKernel n.kid 5 0))))

/-- 22 R358 to R362; 17 R297: a transition freezes the core of its kernel and puts it at the new divisors, all domains' cycles from one tick on, and ends at
that tick; a boundary is counted; the second step of a fall makes a transition due, 37,500 ticks after the boundary.

22 R363 to R365; 21 R353: a discipline step moves TIMER by one tick, at most once in 4096, after a loss as the last one did and after a late master
toward its time; an event message of the slave port sets the offset, and the first lock steps TIMER and makes the supervisor ready; a later lock
comes within 30 ticks; one of a master port changes nothing; without a lock the supervisor becomes ready at its time, and TIMER runs free.

The model's choices among these: that a withheld tick moves `now` by one (log 45), and that which port is the slave is free whenever another hears a
master (log 60). -/
def Obligations.ClocksAndTime : Prop :=
  (∀ (s : State) (kid : BitVec 16),
    (∀ k d q, s.dueChange = some k → s.coresOf k.kid = [(d, q)] → s.core.die = d → s.core.q = q → s.core.freeze = none →
        s.core.c.handler = false → ∃ t, exec .frequencyTransition s = .next t ∧ t.core.div = k.div ∧ t.mem = s.mem
          ∧ t.core.c.next = s.core.cyclesEnd s.now ∧ t.core.l.next = t.core.c.next ∧ t.core.x.next = t.core.c.next
          ∧ t.core.s.next = t.core.c.next ∧ t.core.m.next = t.core.c.next
          ∧ t.core.freeze = (if s.now < s.core.cyclesEnd s.now then some (.transition (s.core.cyclesEnd s.now)) else none))
    ∧ (∀ tick, s.dueChange = none → s.core.freeze = some (.transition tick) → exec .frequencyTransition s =
        .next ((s.at_ tick).updCore fun c => { c with freeze := none }))
    ∧ (s.time.boundary ≤ s.timer.toNat → ∃ t, exec .boostBoundary s = .next t ∧ t.time.boundary = s.time.boundary + 75000 ∧ t.time.bounded = s.now
        ∧ t.mem = s.mem ∧ t.core = s.core)
    ∧ (∀ k, s.kernel? kid.toNat = some k → k.fall ≠ 0 → ∃ t, exec (.fallStep kid) s = .next t ∧ t.mem = s.mem ∧ t.core = s.core
        ∧ t.now = Nat.max s.now (s.time.bounded + 37500)
        ∧ t.disp = (s.updKernel k.kid fun k => { k with fall := 0, change := true }).disp))
  ∧ (∀ (s : State) (port : BitVec 5) (off : BitVec 64),
    (s.time.lastAdj = 0 ∨ s.time.lastAdj + 4096 ≤ s.now + 1 →
      (s.time.toward true = true → exec (.timerDisciplineStep true) s =
        .next { s with time := { s.time with adjust := s.time.adjust + 1, lastAdj := s.now + 1, lastAdd := true } })
      ∧ (s.time.toward false = true → exec (.timerDisciplineStep false) s =
          .next { s with now := s.now + 1, time := { s.time with adjust := s.time.adjust - 1, lastAdj := s.now + 1, lastAdd := false } }))
    ∧ (s.time.lastAdj ≠ 0 → s.now + 1 < s.time.lastAdj + 4096 → ∀ b, exec (.timerDisciplineStep b) s = .next s)
    ∧ (∀ b, s.time.toward b = false → exec (.timerDisciplineStep b) s = .next s)
    ∧ (port.toNat < 18 → s.serv.booted = true → 2 ≤ (s.links.ports.toList.map (·.state)).getD port.toNat 0 →
        (s.time.slave = 0x1F ∨ s.time.slave = port.zeroExtend 8 →
          (s.time.lock = true → exec (.ptpEventMessage port off true) s =
            .next { s with time := { s.time with offset := satOffset off, slave := port.zeroExtend 8 } })
          ∧ (∃ t, exec (.ptpEventMessage port off false) s = .next t ∧ t.time.lock = false ∧ t.time.offset = satOffset off
              ∧ t.time.unlock = (s.time.unlock || s.time.lock) ∧ t.time.adjust = s.time.adjust)
          ∧ (s.time.lock = false → s.time.supReady = false → ∃ t, exec (.ptpEventMessage port off true) s = .next t ∧ t.time.lock = true
              ∧ t.time.unlock = false ∧ t.time.adjust = s.time.adjust - off.toInt ∧ t.time.supReady = true)
          ∧ (s.time.lock = false → s.time.supReady = true → ∃ t, exec (.ptpEventMessage port off true) s = .next t
              ∧ t.time.lock = decide (-30 ≤ off.toInt ∧ off.toInt ≤ 30) ∧ t.time.adjust = s.time.adjust))
        ∧ (s.time.slave ≠ 0x1F → s.time.slave ≠ port.zeroExtend 8 → ∀ b,
            ∃ t, exec (.ptpEventMessage port off b) s = .next t ∧ (Config.newSlave s.free = false → t = { s with free := s.free + 1 })
              ∧ (Config.newSlave s.free = true → t.time.slave = port.zeroExtend 8)))
    ∧ (s.time.supReady = false → s.serv.powered = true → s.serv.booted = true → ∃ t, exec .supervisorReadyTimeout s = .next t ∧ t.time.supReady = true
        ∧ t.time.freeRun = true ∧ t.time.unlock = true ∧ t.time.adjust = s.time.adjust))

/-! ### Host, links, collectives, service -/

/-- 21 R347, R348; 23 R366, R370: the host's accesses.  APBASE keeps bits [51:36]; a 1 clears a bit of the fault word; BAR0 takes aligned accesses of
8 bytes in its map and refuses any other: a read brings the doubleword, MODID, APBASE, CMDBASE and the fault word among them, a write of a table keeps
the fields of its entry, and one of a place that the host may only read changes nothing.  BAR2 reaches ready HBM from APBASE on, is all ones past it,
and refuses what lies past its window or on a stack that is not ready; CXL.mem reaches the command area in the CXL mode only.

The model's choices among these (log 37): that a write of a place the host may only read has no effect, that BAR2 and CXL.mem take accesses of any
length, and which aligned 1 MiB CXL.mem reaches. -/
def Obligations.HostAccesses : Prop :=
  ∀ (s : State) (v : Word64) (off : BitVec 20) (far : BitVec 36) (l : List Byte) (n : BitVec 13) (x : HostAccess),
    let o := off.toNat
    let w : Word64 := BitVec.ofNat 64 (leNat l)
    let pa := s.host.apbase.toNat + far.toNat
    let near := s.host.cmdbase.toNat / 2 ^ 20 * 2 ^ 20 + o
    let clean := fun (p : Nat) => ∀ k, k < n.toNat → (p + k) / 32 ∉ s.poison ∧ s.deadByte (p + k) = false
    let wrote := fun (p : Nat) (t : State) => ∀ a, Memory.read t.mem a = if p ≤ a ∧ a < p + l.length then l.getD (a - p) 0 else Memory.read s.mem a
    let apbase := { s with host := { s.host with apbase := v &&& 0xFFFF000000000, answer := none, unsupported := false } }
    let fault := { s with host := { s.host with fault := s.host.fault &&& ~~~(v.truncate 3), answer := none, unsupported := false } }
    exec (.apbaseWrite v) s = .next apbase
    ∧ exec (.faultWordClear v) s = .next fault
    ∧ (o % 8 ≠ 0 ∨ s.bar0Read o = none ∨ accessLen x ≠ 8 → exec (.bar0RegisterWrite off x) s = .next s.hostRefused)
    ∧ (∀ b, o % 8 = 0 → s.bar0Read o = some b → exec (.bar0RegisterWrite off (.read 8)) s = .next (s.hostDone (some b)))
    ∧ (s.bar0Read 0 = some (leBytes 8 s.host.modid.toNat) ∧ s.bar0Read 8 = some (leBytes 8 s.host.apbase.toNat)
        ∧ s.bar0Read 0x10 = some (leBytes 8 s.host.cmdbase.toNat) ∧ s.bar0Read 0x80 = some (leBytes 8 s.host.fault.toNat))
    ∧ (l.length = 8 → w = v → exec (.bar0RegisterWrite 8 (.write l)) s = .next apbase ∧ exec (.bar0RegisterWrite 0x80 (.write l)) s = .next fault)
    ∧ (l.length = 8 → o % 8 = 0 → inTables o = true → exec (.bar0RegisterWrite off (.write l)) s = .next ((State.dropUnreachable (State.resendLost
        { s with host := { s.host with tables := Memory.writeBytes s.host.tables o (leBytes 8 (w &&& tableMask o).toNat) } })).hostDone none))
    ∧ (l.length = 8 → o % 8 = 0 → (s.bar0Read o).isSome = true → o ≠ 8 → o ≠ 0x80 → inTables o = false →
        exec (.bar0RegisterWrite off (.write l)) s = .next (s.hostDone none))
    ∧ (far.toNat + accessLen x ≤ 2 ^ 36 → s.host.apbase.toNat < s.hbmTop →
        bitOf s.host.ready[1].toNat (stackOf pa) = true → s.paExists pa = true →
        (x = .write l → s.MemCanonical → windowOf pa = none → (∀ k, k < l.length → s.deadByte (pa + k) = false) →
          ∃ t, exec (.bar2Access far x) s = .next t ∧ wrote pa t ∧ t.host.unsupported = false ∧ t.host.answer = none)
        ∧ (x = .read n → clean pa → exec (.bar2Access far x) s = .next (s.hostDone (some (Memory.readBytes s.mem pa n.toNat)))))
    ∧ (far.toNat + n.toNat ≤ 2 ^ 36 → s.hbmTop ≤ s.host.apbase.toNat →
        exec (.bar2Access far (.read n)) s = .next (s.hostDone (some (List.replicate n.toNat 0xFF))))
    ∧ (2 ^ 36 < far.toNat + accessLen x → exec (.bar2Access far x) s = .next s.hostRefused)
    ∧ (s.host.apbase.toNat < s.hbmTop → bitOf s.host.ready[1].toNat (stackOf pa) = false → (s.stack (stackOf pa)).failed = false →
        exec (.bar2Access far x) s = .next s.hostRefused)
    ∧ (s.host.cxl = true → o + accessLen x ≤ 2 ^ 20 →
        (x = .write l → s.MemCanonical → windowOf near = none → (∀ k, k < l.length → s.deadByte (near + k) = false) →
          ∃ t, exec (.cxlMemAccess off x) s = .next t ∧ wrote near t ∧ t.host.unsupported = false ∧ t.host.answer = none)
        ∧ (x = .read n → clean near → exec (.cxlMemAccess off x) s = .next (s.hostDone (some (Memory.readBytes s.mem near n.toNat)))))
    ∧ (s.host.cxl = false → exec (.cxlMemAccess off x) s = .next s.hostRefused)

/-- 21 R349 to R352; 23 R367: a flit gives its acknowledgement; in order and whole, its remote write is taken in, where there is room, the next number
is expected, and its credits count once, with which the port sends on; a broken one and one past a gap are answered with a negative acknowledgement, and
one received before is dropped.  A negative acknowledgement counts a replay, and the sixteenth in a row retrains the port, and
participants it alone led to are dropped.  Training ends with the port up at its lanes, sending on what waits, on its valid record or with a new one that is valid, or with the port down and no record; a port lost is down; a
held write goes on its way to its kernel once that holds its cores, and its credit to the peer.

The model's choices among these (log 60): that a flit without a credit, for which there is no room, is answered with a negative acknowledgement; that no
port trains without firmware; and that whether a valid record's replay verifies is free.

21 R354 to R356: a contribution, a notice or a drop notice that comes before the start here is kept; one of the collective's generation is held once
per rank and chunk; a contribution of another generation is discarded and counted, and its sender dropped; a drop notice drops its participant with
the sender's bitmap; a timeout drops the ranks that were never heard of.  That an engine which has ended receives nothing of another generation is
the model's reading (log 59). -/
def Obligations.LinksAndCollectives : Prop :=
  (∀ (s : State) (port : BitVec 5) (p : Fin 18) (f : Flit) (seq : BitVec 12) (lanes : BitVec 4) (peer : BitVec 16) (w : PortWrite) (k : Kernel),
    p.val = port.toNat →
    let q := s.links.ports[p]
    let heard := (s.updPort p fun q => q.acked f.ack).pump p
    let took := fun (r : State) => (r.updPort p fun q => { q with rxNext := q.rxNext + 1, credit := q.credit + f.credit.toNat }).pump p
    let naked := fun (r : State) => r.updPort p fun q => { q with naks := q.naks + 1 }
    let replayed := s.updPort p fun q =>
      { q.acked (seq - 1) with retry := Nat.min (2 ^ 64 - 1) ((q.acked (seq - 1)).retry + 1), inRow := (q.acked (seq - 1)).inRow + 1 }
    (2 ≤ q.state → f.crcOk = true → f.seq = q.rxNext → f.write = none → exec (.flitReceive port f) s = .next (took heard))
    ∧ (∀ r, 2 ≤ q.state → f.crcOk = true → f.seq = q.rxNext → f.write = some w → heard.takeWrite port w = some r →
        exec (.flitReceive port f) s = .next (took r))
    ∧ (2 ≤ q.state → f.crcOk = true → f.seq = q.rxNext → f.write = some w → heard.takeWrite port w = none →
        exec (.flitReceive port f) s = .next (naked heard))
    ∧ (2 ≤ q.state → f.crcOk = true → 128 < (q.rxNext - f.seq).toNat → exec (.flitReceive port f) s = .next (naked heard))
    ∧ (2 ≤ q.state → f.crcOk = true → f.seq ≠ q.rxNext → (q.rxNext - f.seq).toNat ≤ 128 → exec (.flitReceive port f) s = .next heard)
    ∧ (2 ≤ q.state → f.crcOk = false → exec (.flitReceive port f) s = .next (naked s))
    ∧ (2 ≤ q.state → (q.acked (seq - 1)).inRow + 1 < 16 → exec (.nakReceived port seq) s = .next replayed)
    ∧ (2 ≤ q.state → 16 ≤ (q.acked (seq - 1)).inRow + 1 → ∃ r : State, exec (.nakReceived port seq) s = .next r.dropUnreachable
        ∧ (r.links.ports[p]).state = 1 ∧ (r.links.ports[p]).inRow = 0 ∧ (r.links.ports[p]).retrain = Nat.min 65535 (q.retrain + 1)
        ∧ r.mem = s.mem ∧ r.colls = s.colls)
    ∧ (s.serv.booted = true → lanes ∈ ([2, 4, 8] : List (BitVec 4)) → q.state = 1 →
        let serial := Config.portSerial p.val
        let next := fun (r : State) (x : Option TrainRecord) =>
          (((r.updPort p fun q =>
            { q with state := if lanes = 8 then 2 else 3, lanes := lanes.toNat, peer := peer, record := x }).portReady p).pump p).resendLost
        ∃ x r, exec (.portTrainingComplete port lanes peer) s = .next (next r (some x)) ∧ r = { s with free := r.free }
          ∧ s.recordValid serial (some x) = true
          ∧ (s.recordValid serial q.record = true ∧ Config.replayVerifies s.free = true → some x = q.record ∧ r.free = s.free + 1))
    ∧ (s.serv.booted = false → exec (.portTrainingComplete port lanes peer) s = .next s)
    ∧ (s.serv.booted = true → lanes ∉ ([2, 4, 8] : List (BitVec 4)) → exec (.portTrainingComplete port lanes peer) s = .next
        ((s.portDown p).updPort p fun q => { q with record := none }))
    ∧ exec (.linkLoss port) s = .next (s.portDown p)
    ∧ (∀ x : HeldWrite, s.releasableWrite = some (x, k) → exec .heldRemoteWriteRelease s = .next
        ((State.deliverWrite { s with links := { s.links with held := s.links.held.erase x } } k x.peer x.write).grant x.port)))
  ∧ (∀ (s : State) (id : BitVec 16) (gen : BitVec 32) (rank to_ chunk : BitVec 6) (data : List Byte) (map : Word64),
    let i : Instr := .collectiveContribution id gen rank to_ chunk data
    let n : Instr := .collectiveNotice id gen rank chunk
    ((∀ c ∈ s.colls, c.id = id.toNat → c.rank = to_.toNat → c.gen ≠ gen.toNat ∧ c.state ≠ 0) → exec i s =
        .next (s.keepEarly ⟨id.toNat, gen.toNat, rank.toNat, to_.toNat, chunk.toNat, some data⟩))
    ∧ ((∃ c ∈ s.colls, c.id = id.toNat ∧ c.rank = to_.toNat ∧ c.gen = gen.toNat) →
        exec i s = .next (s.onColls id.toNat fun c =>
          if c.rank = to_.toNat ∧ c.gen = gen.toNat then c.contribute rank.toNat chunk.toNat data else c))
    ∧ ((∃ c ∈ s.colls, c.id = id.toNat ∧ c.rank = to_.toNat ∧ c.state = 0) →
        (∀ c ∈ s.colls, c.id = id.toNat → c.rank = to_.toNat → c.gen ≠ gen.toNat) → exec i s =
        .next (State.onColls { s with serv := { s.serv with staleGen := Nat.min (2 ^ 64 - 1) (s.serv.staleGen + 1) } } id.toNat fun c =>
          if c.rank = to_.toNat then c.dropRank rank.toNat else c))
    ∧ ((∀ c ∈ s.colls, c.id = id.toNat → c.gen ≠ gen.toNat ∧ c.state ≠ 0) → exec n s =
        .next (s.keepEarly ⟨id.toNat, gen.toNat, rank.toNat, 0, chunk.toNat, none⟩))
    ∧ ((∃ c ∈ s.colls, c.id = id.toNat ∧ c.gen = gen.toNat) → exec n s = .next (s.onColls id.toNat fun c =>
        if c.gen ≠ gen.toNat ∨ (rank.toNat, chunk.toNat) ∈ c.notices then c else { c with notices := c.notices ++ [(rank.toNat, chunk.toNat)] }))
    ∧ ((∃ c ∈ s.colls, c.id = id.toNat ∧ c.state = 0) → (∀ c ∈ s.colls, c.id = id.toNat → c.gen ≠ gen.toNat) →
        exec n s = .next (s.onColls id.toNat fun c => c.dropRank rank.toNat))
    ∧ ((∃ c ∈ s.colls, c.id = id.toNat ∧ c.gen = gen.toNat) →
        exec (.collectiveDropNotice id gen rank to_ map) s = .next (s.onColls id.toNat fun c =>
          if c.gen ≠ gen.toNat ∨ c.state ≠ 0 then c
          else { c.dropRank to_.toNat with
            maps := (rank.toNat, map.toNat) :: (c.dropRank to_.toNat).maps.filter fun m => m.1 != rank.toNat }))
    ∧ ((∀ c ∈ s.colls, c.id = id.toNat → c.gen ≠ gen.toNat) → exec (.collectiveDropNotice id gen rank to_ map) s =
        .next { s with links := { s.links with
          drops := s.links.drops ++ [⟨id.toNat, gen.toNat, rank.toNat, to_.toNat, map.toNat⟩] } })
    ∧ (∀ c ∈ s.colls.filter fun c => c.id == id.toNat && c.overdue,
        (∀ o ∈ s.colls.filter fun c => c.id == id.toNat && c.overdue, c.deadline ≤ o.deadline) →
        let r := { s with now := Nat.max s.now c.deadline }
        exec (.collectiveTimeout id) s = .next (r.onColls id.toNat fun c =>
          if c.overdue ∧ c.deadline ≤ r.now then ((List.range c.npart).filter c.unheard).foldl Coll.dropRank c else c)))

/-- 23 R366, R367, R369, R373 to R375; 00 R1: power good resets the module, counts the cycle, fences the cores that fail their boot test, and runs the
firmware slot and the supervisor's core that R375 and R374 pick; dies, clusters, ports and the host port become ready; where firmware runs, a stack of the
grade that trained is ready, on its valid record or with a new one, one whose training failed is not; a die or a stack that fails is not ready; a
temperature is sampled, of a die and of a stack; the data-rate point follows it down and up.

23 R369 to R372, R375: an uncorrectable atom that is found is poison and counted, a corrected one counted, for its row too; a row with 16 of them in a
day is remapped, a channel fenced; an alert and a refresh stall or postpone as they may; life counters go to flash, an orderly stop does so and powers
down; a report is signed with the next sequence number.

The model's choices among these: which cores fail a boot test, and what it finds out of an atom, are inputs or free values (log 60); what flash and the
fuses hold at first (log 1) and what a power cycle keeps (log 38); the ticks of a refresh and of an alert, at their bounds (log 4). -/
def Obligations.UnitsPowerAndService : Prop :=
  (∀ (s : State) (n : BitVec 5) (c : BitVec 3) (temp : BitVec 16) (k : Nat), k = n.toNat →
    let here := s.core.die = k ∧ s.core.task.isSome = true ∨ ∃ o ∈ s.others, o.die = k ∧ o.task.isSome = true
    (∃ t, exec .powerGood s = .next t ∧ t.now = 0 ∧ t.agenda = s.agenda ∧ t.disp.kernels = [] ∧ t.core.task = none ∧ t.serv.powered = true
        ∧ t.serv.cycles = Nat.min (s.serv.cycles + 1) (2 ^ 64 - 1) ∧ t.host.cxl = s.host.flashCxl
        ∧ t.serv.booted = s.serv.firmware.isSome ∧ t.host.modid >>> 32 = (s.serv.firmware.getD 0).zeroExtend 64
        ∧ (∃ c ∈ t.others, c.sup = true ∧ c.q = s.serv.tested.pickSup)
        ∧ (∀ c ∈ bootFenced (s.serv.cycles + 1), c ∈ t.serv.fencedCores) ∧ ∀ c ∈ t.mem, 0xC000000000000 ≤ c.1)
    ∧ (s.serv.booted = true → k ∉ s.serv.failedDies → dieDisabled s.full k = false → exec (.unitReady (.die n)) s = .next (s.setReady 0 k true))
    ∧ (s.serv.booted = true → s.clusterServes k c.toNat = true → exec (.unitReady (.cluster n c)) s =
        .next (s.setReady (3 + (8 * k + c.toNat) / 64) ((8 * k + c.toNat) % 64) true))
    ∧ (∀ p : Fin 18, s.serv.booted = true → p.val = k → exec (.unitReady (.port n)) s =
        .next (s.setReady 2 k (decide (2 ≤ (s.links.ports[p]).state))))
    ∧ exec (.unitReady .hostPort) s = .next (s.setReady 2 32 true)
    ∧ (∀ replayed ok, s.serv.booted = false → exec (.stackTrainingComplete n replayed ok) s = .next s)
    ∧ (∀ h : k < 24, s.serv.booted = true → k < s.stackCount →
        let record := (s.serv.hbmStacks[k]).record
        let valid := s.recordValid (Config.stackSerial k) record
        (valid = true → (s.serv.hbmStacks[k]).failed = false → ∃ t, exec (.stackTrainingComplete n true true) s = .next t
          ∧ t.host.ready[1].getLsbD k = true ∧ (t.serv.hbmStacks[k]).record = record ∧ t.mem = s.mem)
        ∧ ((s.serv.hbmStacks[k]).failed = false → ∃ t x, exec (.stackTrainingComplete n false true) s = .next t
          ∧ t.host.ready[1].getLsbD k = true ∧ (t.serv.hbmStacks[k]).record = some x ∧ s.recordValid (Config.stackSerial k) (some x) = true ∧ t.mem = s.mem)
        ∧ (∀ replayed ok, ok = false ∨ (replayed = true ∧ valid = false) → ∃ t, exec (.stackTrainingComplete n replayed ok) s = .next t
          ∧ t.host.ready = s.host.ready ∧ (t.serv.hbmStacks[k]).record = none ∧ t.mem = s.mem))
    ∧ (∀ h : k < 24, k < s.stackCount → ∃ t, exec (.unitFailure (.stack n)) s = .next t ∧ t.host.ready[1].getLsbD k = false
        ∧ (t.serv.hbmStacks[k]).failed = true ∧ t.mem = s.mem)
    ∧ (k < 24 → ¬here → ∃ t, exec (.unitFailure (.die n)) s = .next t ∧ t.host.ready[0].getLsbD k = false ∧ k ∈ t.serv.failedDies
        ∧ t.mem = s.mem ∧ t.core = s.core)
    ∧ (∀ h : k < 24, ∃ t, exec (.thermalSample false n temp) s = .next t ∧ t.serv.dieTemp[k] = temp.toInt ∧ t.mem = s.mem
        ∧ t.serv.dieTherm[k] = (s.serv.dieTherm[k]).sample temp.toInt)
    ∧ (∀ h : k < 24, k < s.stackCount → ∃ t, exec (.thermalSample true n temp) s = .next t ∧ t.mem = s.mem
        ∧ t.serv.stkTherm[k] = (s.serv.stkTherm[k]).sample temp.toInt)
    ∧ (∀ h : k < 24, k < s.stackCount → ∃ t, exec (.ratePointSwitch n temp) s = .next t ∧ t.mem = s.mem
        ∧ (95 ≤ temp.toInt → (t.serv.hbmStacks[k]).rate = Nat.min 2 ((s.serv.hbmStacks[k]).rate + 1))
        ∧ (temp.toInt ≤ 85 → (s.serv.hbmStacks[k]).cool ≠ 0 → (s.serv.hbmStacks[k]).boot < (s.serv.hbmStacks[k]).rate →
            (s.serv.hbmStacks[k]).cool + 450000000000 ≤ s.now + 1 → (t.serv.hbmStacks[k]).rate = (s.serv.hbmStacks[k]).rate - 1)))
  ∧ (∀ (s : State) (n ch : BitVec 5) (bank : BitVec 16) (row : BitVec 32) (pa : BitVec 52) (k : Nat) (h : k < 24), k = n.toNat → k < s.stackCount →
    let st := s.serv.hbmStacks[k]
    (pa.toNat < s.hbmTop → stackOf pa.toNat = k → pa.toNat / 32 ∉ s.poison →
      ∃ t, exec (.patrolScrub pa true) s = .next t ∧ t.poison = pa.toNat / 32 :: s.poison ∧ t.mem = s.mem
        ∧ (t.serv.hbmStacks[k]).uncorr = Nat.min (2 ^ 64 - 1) (st.uncorr + 1))
    ∧ (pa.toNat < s.hbmTop → stackOf pa.toNat = k → ∃ t, exec (.patrolScrub pa false) s = .next t ∧ t.poison = s.poison ∧ t.mem = s.mem
        ∧ (t.serv.hbmStacks[k]).corr = Nat.min (2 ^ 64 - 1) (st.corr + 1)
        ∧ (t.serv.hbmStacks[k]).errors = st.errors ++ [(Config.rowOf pa.toNat, s.now)])
    ∧ (16 ≤ st.errorsOf row s.now → ∃ t, exec (.rowRemap n row) s = .next t ∧ (t.serv.hbmStacks[k]).remaps = Nat.min (st.remaps + 1) (2 ^ 32 - 1)
        ∧ (t.serv.hbmStacks[k]).remapped = st.remapped ++ [row] ∧ (t.serv.hbmStacks[k]).errorsOf row s.now = 0 ∧ t.mem = s.mem)
    ∧ (st.errorsOf row s.now < 16 → ∃ t, exec (.rowRemap n row) s = .next t ∧ t.serv.hbmStacks[k] = st ∧ t.mem = s.mem)
    ∧ (∃ t, exec (.channelFence n ch) s = .next t ∧ (t.serv.hbmStacks[k]).fenced = (st.fenced ||| (1 <<< ch.toNat)) ∧ t.mem = s.mem)
    ∧ (st.owed bank < 8 → ∃ t, exec (.activationAlert n bank) s = .next t
        ∧ (t.serv.hbmStacks[k]).stall bank = Nat.max s.now (st.stall bank) + 2250 ∧ t.mem = s.mem)
    ∧ (8 ≤ st.owed bank → ∃ t, exec (.activationAlert n bank) s = .next t ∧ (t.serv.hbmStacks[k]).owed bank = 0
        ∧ (t.serv.hbmStacks[k]).stall bank = Nat.max s.now (st.stall bank) + 9 * 1500 + 2250 ∧ t.mem = s.mem)
    ∧ (∃ t, exec (.refresh n bank) s = .next t ∧ (t.serv.hbmStacks[k]).owed bank ≤ 8 ∧ (t.serv.hbmStacks[k]).owed bank ≤ st.owed bank + 1 ∧ t.mem = s.mem)
    ∧ (∃ t, exec .lifeCounterFlush s = .next t ∧ t.serv.flash = s.serv.seconds :: s.serv.bands.toList ++ s.serv.retrains.toList ∧ t.mem = s.mem)
    ∧ (∃ t, exec .orderlyStop s = .next t ∧ t.serv.powered = false ∧ t.mem = s.mem
        ∧ t.serv.flash = s.serv.seconds :: s.serv.bands.toList ++ s.serv.retrains.toList)
    ∧ (∃ t, exec .signedReport s = .next t ∧ t.serv.reportSeq = s.serv.reportSeq + 1 ∧ t.mem = s.mem
        ∧ t.serv.report = s.reportBytes (s.serv.reportSeq + 1)))

/-! ### The whole machine -/

/-- 01 R13; 02 R23, R35; 06 R133 to R136; 20 R333; 22 R360: what the spec gives a core and the module right after reset: no task, empty queues, flags
of 0, MTESTI at 0x10000, every domain at divisor 6, the frame registers 0, 64 boost permits on each die; memory lists nothing (log 2). -/
def Obligations.ResetValues : Prop :=
  let s := State.reset
  s.core.task = none ∧ s.core.c.fflags = 0 ∧ s.core.l.fflags = 0 ∧ s.core.x.fflags = 0 ∧ s.core.s.fflags = 0
    ∧ (∀ n : Fin 12, (s.core.hq[n]).items = [] ∧ (s.core.dq[n]).items = []) ∧ s.core.fq.items = []
    ∧ s.csrRead 0x050 = some 0x10000 ∧ s.csrRead 0x083 = some 0x4000006666
    ∧ (∀ n ∈ [0x020, 0x021, 0x027, 0x030, 0x031, 0x032, 0x038, 0x091, 0x100, 0x101, 0x102, 0x103, 0x104, 0x105], s.csrRead n = some 0)
    ∧ (s.others.map (·.sup)) = [true] ∧ s.disp.kernels = [] ∧ (∀ d : Fin 24, (s.power[d]).permits = 64) ∧ s.mem = []

/-- 05 R82 to R97; 06 to 09: words written out from the encoding tables decode to the instructions they stand for. -/
def Obligations.WordsDecode : Prop :=
  decode .c 0x3803A110 = .ok (.amo 0 7 8 1 1) ∧ decode .c 0xA0500480 = .ok (.csrr 5 0x090) ∧ decode .c 0x4DF00005 = .ok (.jal 31 5)
    ∧ decode .c 0x52018002 = .ok (.loopi 3 2) ∧ decode .c 0x88000000 = .ok .texit ∧ decode .c 0x02500007 = .ok (.addi 5 0 7)
    ∧ decode .c 0x42507FFE = .ok (.bne 5 0 0x7FFE) ∧ decode .c 0x64534000 = .ok (.qtry 5 6 2) ∧ decode .c 0x6A048000 = .ok (.fmt 9)
    ∧ decode .c 0x92000002 = .ok (.fence 2) ∧ decode .l 0x08000000 = .ok (.gaddi .l ⟨0, 0⟩ 0 0 0)
    ∧ decode .x 0x10181402 = .ok (.stepLoopImm .x ⟨0, 0⟩ 1 5 2) ∧ decode .l 0x40005450 = .ok (.tld ⟨0, 0⟩ 5 4 5)
    ∧ decode .s 0x40005450 = .ok (.tst ⟨0, 0⟩ 5 4 5) ∧ decode .x 0x40030423 = .ok (.vadd ⟨0, 0⟩ 3 1 2 3)
    ∧ decode .x 0xF3000000 = .ok (.vectorModifier 3 0 0 0) ∧ decode .x 0xCB101083 = .ok (.vfma ⟨2, 3⟩ 4 1 2 3)
    ∧ decode .x 0x98054032 = .ok (.vld ⟨0, 0⟩ 5 4 3 2) ∧ decode .x 0x88101098 = .ok (.vhad ⟨0, 0⟩ 16 4 2 3)
    ∧ decode .x 0xB4140000 = .ok (.vwin ⟨0, 0⟩ 5) ∧ decode .x 0x28040520 = .ok (.mmab ⟨0, 0⟩ 5 2) ∧ decode .x 0x2C041800 = .ok (.mlu ⟨0, 0⟩ 3)

/-- 00 R3; 02 R20: when the four bytes at the next address of the strand that has the turn decode to an instruction, and no event is due
before and nothing holds the strand, the step is exec of that instruction at the beginning of the cycle, and then the strand whose cycle comes
next has the turn.

05 R82; 06 R116: in the same place, a word that decodes to nothing runs as a reserved opcode, and a fetch past the memory raises cause
0x05. -/
def Obligations.StepRunsTheDecodedInstruction : Prop :=
  (∀ (s : State) (i : Instr), s.agenda = [] → s.eventFirst = none → s.begin_.pause = none → s.begin_.core.pcOf s.turn ≤ 0xFFFC →
    decode s.turn (BitVec.ofNat 32 (Memory.readNat (s.begin_.core.im s.turn) (s.begin_.core.pcOf s.turn) 4)) = .ok i →
    step s = match exec i s.begin_ with
      | .next t => .next t.rotate
      | .fault f => .fault f
      | .refused r => .refused r)
  ∧ (∀ (s : State), s.agenda = [] → s.eventFirst = none → s.begin_.pause = none →
    let pc := s.begin_.core.pcOf s.turn
    let w := BitVec.ofNat 32 (Memory.readNat (s.begin_.core.im s.turn) pc 4)
    let i : Instr := if 0xFFFC < pc then .trapEntry 0x05 (strandSrc s.turn) (BitVec.ofNat 64 pc) else .reservedOpcode s.turn w
    (0xFFFC < pc ∨ ∀ j, decode s.turn w ≠ .ok j) →
    step s = match exec i s.begin_ with
      | .next t => .next t.rotate
      | .fault f => .fault f
      | .refused r => .refused r)

/-- 05 R82 to R96: every well-formed word of every strand decodes to itself from its encoding: no bit of an operand is dropped. -/
def Obligations.DecodeOfEncode : Prop :=
  ∀ (i : Instr) (t : Strand), i.home = some t → i.wf = true → decode t (encode i) = .ok i

/-- 05 R82; 20 R334: every word has its effect or raises a cause that its core takes, in every state: exec never faults and never refuses. -/
def Obligations.NoInstructionStops : Prop := ∀ (i : Instr) (s : State), ∃ t, exec i s = .next t

/-- 11 R256; log 2: every step keeps memory in its canonical form. -/
def Obligations.MemoryStaysCanonical : Prop := ∀ s t : State, s.MemCanonical → step s = .next t → t.MemCanonical

/-- 02 R20; 11 R266: after every step, if any strand of any core runs, the strand that has the turn runs, and no running strand has its next
cycle before it. -/
def Obligations.TheNextCycleHasTheTurn : Prop := ∀ s t : State, step s = .next t → t.TurnFirst

/-- Log 2: reset memory is in canonical form; 02 R20: no strand runs at reset. -/
def Obligations.ResetMeetsTheInvariants : Prop := State.reset.MemCanonical ∧ State.reset.TurnFirst
end

