-- ==== Sys2Proof/Laws/Memory.lean ====
section
/-!
SUPPORT. Memory: the canonical form as a sorted list, that every operation keeps it, and what a read gives after a write.
-/
namespace Sys2Proof.Machine

/-- The canonical form as propositions: rising addresses, no unlisted value. -/
def Memory.Sorted (m : List Host.Cell) : Prop := m.Pairwise (fun a b => a.1 < b.1) ∧ ∀ c ∈ m, c.2 ≠ Memory.unlisted

theorem Memory.wfAbove_iff (lo : Option Nat) (m : List Host.Cell) :
    Memory.wfAbove lo m = true ↔ (∀ l, lo = some l → ∀ c ∈ m, l < c.1) ∧ Memory.Sorted m := by
  induction m generalizing lo with
  | nil => simp [Memory.wfAbove, Memory.Sorted]
  | cons c m ih =>
    obtain ⟨a, b⟩ := c
    rw [Memory.wfAbove.eq_def]
    simp only [Bool.and_eq_true, ih, bne_iff_ne, Memory.Sorted, List.pairwise_cons, List.mem_cons, forall_eq_or_imp]
    constructor
    · rintro ⟨⟨h1, h2⟩, h3, h4, h5⟩
      have h3' : ∀ c ∈ m, a < c.1 := h3 a rfl
      refine ⟨?_, ⟨h3', h4⟩, h2, h5⟩
      rintro l rfl
      simp only [decide_eq_true_eq] at h1
      exact ⟨h1, fun c hc => h1.trans (h3' c hc)⟩
    · rintro ⟨h1, ⟨h2, h3⟩, h4, h5⟩
      refine ⟨⟨?_, h4⟩, ?_, h3, h5⟩
      · cases lo with
        | none => rfl
        | some l => simpa using (h1 l rfl).1
      · rintro l h c hc
        cases h
        exact h2 c hc

theorem Memory.wf_iff (m : List Host.Cell) : Memory.wf m = true ↔ Memory.Sorted m := by
  simp [Memory.wf, Memory.wfAbove_iff]

theorem Memory.Sorted.tail {c : Host.Cell} {m : List Host.Cell} (h : Memory.Sorted (c :: m)) : Memory.Sorted m :=
  ⟨(List.pairwise_cons.mp h.1).2, fun d hd => h.2 d (List.mem_cons_of_mem _ hd)⟩

theorem Memory.Sorted.head_lt {c : Host.Cell} {m : List Host.Cell} (h : Memory.Sorted (c :: m)) : ∀ d ∈ m, c.1 < d.1 :=
  (List.pairwise_cons.mp h.1).1

theorem Memory.sorted_cons {c : Host.Cell} {m : List Host.Cell} (h : Memory.Sorted m) (lt : ∀ d ∈ m, c.1 < d.1)
    (ne : c.2 ≠ Memory.unlisted) : Memory.Sorted (c :: m) :=
  ⟨List.pairwise_cons.mpr ⟨lt, h.1⟩, by simpa [ne] using h.2⟩

theorem Memory.sorted_nil : Memory.Sorted [] := ⟨List.Pairwise.nil, by simp⟩

/-! ### Reading -/

theorem Memory.read_eq_zero {m : List Host.Cell} {x : Nat} (h : ∀ c ∈ m, x < c.1) : Memory.read m x = Memory.unlisted := by
  cases m with
  | nil => rfl
  | cons c m =>
    have := h c (by simp)
    obtain ⟨a, b⟩ := c
    simp only [Memory.read]
    rw [if_neg (by simp at this; omega), if_pos (by simpa using this)]

theorem Memory.read_above (m : List Host.Cell) (a x : Nat) (h : a ≤ x) : Memory.read (Memory.above m a) x = Memory.read m x := by
  induction m with
  | nil => rfl
  | cons c m ih =>
    obtain ⟨y, b⟩ := c
    simp only [Memory.above, List.dropWhile_cons, decide_eq_true_eq]
    split
    · next hy =>
      rw [Memory.read, if_neg (by omega), if_neg (by omega)]
      exact ih
    · rfl

theorem Memory.readBytes_eq (m : List Host.Cell) (a n : Nat) :
    Memory.readBytes m a n = (List.range n).map fun i => Memory.read m (a + i) := by
  induction n generalizing m a with
  | zero => rfl
  | succ n ih =>
    rw [Memory.readBytes, ih, List.range_succ_eq_map, List.map_cons, List.map_map]
    simp only [Memory.read_above m a a (Nat.le_refl a), Nat.add_zero, List.cons.injEq, true_and]
    apply List.map_congr_left
    intro i _
    rw [Memory.read_above m a (a + 1 + i) (by omega)]
    simp only [Function.comp_apply, Nat.succ_eq_add_one]
    congr 1
    omega

@[simp] theorem Memory.readBytes_length (m : List Host.Cell) (a n : Nat) : (Memory.readBytes m a n).length = n := by
  simp [Memory.readBytes_eq]

/-! ### The parts below and above an address -/

theorem Memory.sorted_above {m : List Host.Cell} (h : Memory.Sorted m) (a : Nat) : Memory.Sorted (Memory.above m a) :=
  ⟨h.1.sublist (List.dropWhile_sublist _), fun c hc => h.2 c ((List.dropWhile_sublist _).subset hc)⟩

theorem Memory.sorted_below {m : List Host.Cell} (h : Memory.Sorted m) (a : Nat) : Memory.Sorted (Memory.below m a) :=
  ⟨h.1.sublist (List.takeWhile_sublist _), fun c hc => h.2 c ((List.takeWhile_sublist _).subset hc)⟩

theorem Memory.above_ge {m : List Host.Cell} (h : Memory.Sorted m) (a : Nat) : ∀ c ∈ Memory.above m a, a ≤ c.1 := by
  induction m with
  | nil => simp [Memory.above]
  | cons d m ih =>
    intro c hc
    simp only [Memory.above, List.dropWhile_cons, decide_eq_true_eq] at hc
    split at hc
    · exact ih h.tail c hc
    · rcases List.mem_cons.mp hc with rfl | hc
      · omega
      · have := h.head_lt c hc
        omega

theorem Memory.below_lt (m : List Host.Cell) (a : Nat) : ∀ c ∈ Memory.below m a, c.1 < a := by
  intro c hc
  simpa using List.mem_takeWhile_imp hc

theorem Memory.below_above (m : List Host.Cell) (a : Nat) : Memory.below m a ++ Memory.above m a = m :=
  List.takeWhile_append_dropWhile

theorem Memory.read_append_ge {l r : List Host.Cell} {a x : Nat} (h : ∀ c ∈ l, c.1 < a) (hx : a ≤ x) :
    Memory.read (l ++ r) x = Memory.read r x := by
  induction l with
  | nil => rfl
  | cons c l ih =>
    have := h c (by simp)
    obtain ⟨y, b⟩ := c
    simp only at this
    rw [List.cons_append, Memory.read, if_neg (by omega), if_neg (by omega)]
    exact ih fun d hd => h d (List.mem_cons_of_mem _ hd)

theorem Memory.read_append_lt {l r s : List Host.Cell} {a x : Nat} (hr : ∀ c ∈ r, a ≤ c.1) (hs : ∀ c ∈ s, a ≤ c.1) (hx : x < a) :
    Memory.read (l ++ r) x = Memory.read (l ++ s) x := by
  induction l with
  | nil =>
    rw [List.nil_append, List.nil_append, Memory.read_eq_zero fun c hc => by have := hr c hc; omega,
      Memory.read_eq_zero fun c hc => by have := hs c hc; omega]
  | cons c l ih =>
    obtain ⟨y, b⟩ := c
    rw [List.cons_append, List.cons_append, Memory.read, Memory.read, ih]

/-! ### Writing one byte -/

theorem Memory.mem_write {m : List Host.Cell} {x : Nat} {v : Byte} {c : Host.Cell} (h : c ∈ Memory.write m x v) :
    c = (x, v) ∨ c ∈ m := by
  induction m with
  | nil =>
    simp only [Memory.write] at h
    split at h <;> simp_all
  | cons d m ih =>
    obtain ⟨y, b⟩ := d
    simp only [Memory.write] at h
    split_ifs at h <;> simp_all only [List.mem_cons]
    · tauto
    · tauto
    · tauto
    · rcases h with h | h
      · exact .inr (.inl h)
      · rcases ih h with h | h
        · exact .inl h
        · exact .inr (.inr h)

theorem Memory.sorted_write {m : List Host.Cell} (h : Memory.Sorted m) (x : Nat) (v : Byte) : Memory.Sorted (Memory.write m x v) := by
  induction m with
  | nil =>
    simp only [Memory.write]
    split
    · exact Memory.sorted_nil
    · next hv => exact Memory.sorted_cons Memory.sorted_nil (by simp) hv
  | cons c m ih =>
    obtain ⟨a, b⟩ := c
    have hb : b ≠ Memory.unlisted := h.2 (a, b) (by simp)
    have ht := h.head_lt
    simp only at ht
    simp only [Memory.write]
    split
    · next e =>
      subst e
      split
      · exact h.tail
      · next hv => exact Memory.sorted_cons h.tail ht hv
    · split
      · next hx =>
        split
        · exact h
        · next hv =>
          refine Memory.sorted_cons h ?_ hv
          simp only [List.mem_cons, forall_eq_or_imp]
          exact ⟨hx, fun d hd => hx.trans (ht d hd)⟩
      · next hne hx =>
        refine Memory.sorted_cons (ih h.tail) ?_ hb
        intro d hd
        rcases Memory.mem_write hd with rfl | hd
        · simp only; omega
        · exact ht d hd

/-- A write keeps the canonical form. -/
theorem Memory.wf_write {m : List Host.Cell} (h : Memory.wf m = true) (x : Nat) (v : Byte) : Memory.wf (Memory.write m x v) = true := by
  rw [Memory.wf_iff] at *
  exact Memory.sorted_write h x v

/-! ### Writing bytes -/

theorem Memory.overlay_spec {m : List Host.Cell} (bs : List Byte) (a : Nat) (h : Memory.Sorted m) (ge : ∀ c ∈ m, a ≤ c.1) :
    Memory.Sorted (Memory.overlay m a bs) ∧ ∀ c ∈ Memory.overlay m a bs, a ≤ c.1 := by
  induction bs generalizing m a with
  | nil => exact ⟨h, ge⟩
  | cons b bs ih =>
    have r := ih (a + 1) (Memory.sorted_above h (a + 1)) (Memory.above_ge h (a + 1))
    simp only [Memory.overlay]
    split
    · exact ⟨r.1, fun c hc => by have := r.2 c hc; omega⟩
    · next hb =>
      refine ⟨Memory.sorted_cons r.1 (fun c hc => by have := r.2 c hc; simp only; omega) hb, ?_⟩
      simp only [List.mem_cons, forall_eq_or_imp]
      exact ⟨Nat.le_refl a, fun c hc => by have := r.2 c hc; omega⟩

/-- Writing bytes keeps the canonical form. -/
theorem Memory.wf_writeBytes {m : List Host.Cell} (h : Memory.wf m = true) (a : Nat) (bs : List Byte) :
    Memory.wf (Memory.writeBytes m a bs) = true := by
  rw [Memory.wf_iff] at *
  have r := Memory.overlay_spec bs a (Memory.sorted_above h a) (Memory.above_ge h a)
  have l := Memory.sorted_below h a
  refine ⟨List.pairwise_append.mpr ⟨l.1, r.1.1, fun c hc d hd => ?_⟩, fun c hc => ?_⟩
  · have := Memory.below_lt m a c hc
    have := r.2 d hd
    omega
  · rcases List.mem_append.mp hc with hc | hc
    · exact l.2 c hc
    · exact r.1.2 c hc

/-- Writing masked bytes keeps the canonical form. -/
theorem Memory.wf_writeMasked {m : List Host.Cell} (h : Memory.wf m = true) (a : Nat) (bs : List (Byte × Byte)) :
    Memory.wf (Memory.writeMasked m a bs) = true := Memory.wf_writeBytes h a _

theorem Memory.read_overlay {m : List Host.Cell} (bs : List Byte) (a x : Nat) (h : Memory.Sorted m) (ge : ∀ c ∈ m, a ≤ c.1) :
    Memory.read (Memory.overlay m a bs) x = if a ≤ x then bs.getD (x - a) (Memory.read m x) else Memory.unlisted := by
  induction bs generalizing m a with
  | nil =>
    simp only [Memory.overlay, List.getD_nil]
    split
    · rfl
    · exact Memory.read_eq_zero fun c hc => by have := ge c hc; omega
  | cons b bs ih =>
    have hs := Memory.sorted_above h (a + 1)
    have hg := Memory.above_ge h (a + 1)
    have r := Memory.overlay_spec bs (a + 1) hs hg
    have ih := ih (a + 1) hs hg
    simp only [Memory.overlay]
    by_cases hx : a ≤ x
    · rw [if_pos hx]
      rcases Nat.eq_or_lt_of_le hx with rfl | hlt
      · simp only [Nat.sub_self, List.getD_cons_zero]
        split
        · next hb => rw [hb]; exact Memory.read_eq_zero fun c hc => by have := r.2 c hc; omega
        · simp [Memory.read]
      · have e : x - a = (x - (a + 1)) + 1 := by omega
        rw [if_pos (by omega), Memory.read_above m (a + 1) x (by omega)] at ih
        rw [e, List.getD_cons_succ]
        split
        · exact ih
        · rw [Memory.read, if_neg (by omega), if_neg (by omega)]
          exact ih
    · rw [if_neg hx]
      split
      · exact Memory.read_eq_zero fun c hc => by have := r.2 c hc; omega
      · refine Memory.read_eq_zero fun c hc => ?_
        rcases List.mem_cons.mp hc with rfl | hc
        · simp only; omega
        · have := r.2 c hc
          omega

/-- What a byte reads as after bytes were written. -/
theorem Memory.read_writeBytes {m : List Host.Cell} (h : Memory.wf m = true) (a x : Nat) (bs : List Byte) :
    Memory.read (Memory.writeBytes m a bs) x = if a ≤ x then bs.getD (x - a) (Memory.read m x) else Memory.read m x := by
  rw [Memory.wf_iff] at h
  have hs := Memory.sorted_above h a
  have hg := Memory.above_ge h a
  have r := Memory.overlay_spec bs a hs hg
  by_cases hx : a ≤ x
  · rw [if_pos hx, Memory.writeBytes, Memory.read_append_ge (Memory.below_lt m a) hx, Memory.read_overlay bs a x hs hg, if_pos hx,
      Memory.read_above m a x hx]
  · rw [if_neg hx, Memory.writeBytes, Memory.read_append_lt r.2 hg (by omega), Memory.below_above]

/-- A byte outside the written range reads as before. -/
theorem Memory.read_writeBytes_out {m : List Host.Cell} (h : Memory.wf m = true) (a x : Nat) (bs : List Byte)
    (out : x < a ∨ a + bs.length ≤ x) : Memory.read (Memory.writeBytes m a bs) x = Memory.read m x := by
  rw [Memory.read_writeBytes h]
  split
  · rw [List.getD_eq_default _ _ (by omega)]
  · rfl

/-- A byte outside the range of masked bytes reads as before. -/
theorem Memory.read_writeMasked_out {m : List Host.Cell} (h : Memory.wf m = true) (a x : Nat) (bs : List (Byte × Byte))
    (out : x < a ∨ a + bs.length ≤ x) : Memory.read (Memory.writeMasked m a bs) x = Memory.read m x := by
  refine Memory.read_writeBytes_out h a x _ ?_
  simpa using out

/-- What a byte reads as after masked bytes were written. -/
theorem Memory.read_writeMasked {m : List Host.Cell} (h : Memory.wf m = true) (a x : Nat) (bs : List (Byte × Byte)) :
    Memory.read (Memory.writeMasked m a bs) x =
      if a ≤ x ∧ x < a + bs.length then mergeByte (Memory.read m x) (bs.getD (x - a) (0, 0)).2 (bs.getD (x - a) (0, 0)).1 else Memory.read m x := by
  split
  · next hx =>
    have i : x - a < bs.length := by omega
    rw [Memory.writeMasked, Memory.read_writeBytes h, if_pos hx.1, Memory.readBytes_eq, List.getD_eq_getElem _ _ (by simpa using i),
      List.getD_eq_getElem _ _ i]
    simp only [List.getElem_zipWith, List.getElem_map, List.getElem_range]
    rw [show a + (x - a) = x by omega]
  · next hx => exact Memory.read_writeMasked_out h a x bs (by omega)

theorem Memory.readBytes_writeBytes {m : List Host.Cell} (h : Memory.wf m = true) (a : Nat) (bs : List Byte) :
    Memory.readBytes (Memory.writeBytes m a bs) a bs.length = bs := by
  rw [Memory.readBytes_eq]
  apply List.ext_getElem
  · simp
  · intro i h1 h2
    simp [Memory.read_writeBytes h, h2]

theorem mergeByte_whole (old v : Byte) : mergeByte old 0xFF v = v := by
  have e : (0xFF : Byte) = BitVec.allOnes 8 := rfl
  rw [mergeByte, e, BitVec.not_allOnes, BitVec.and_zero, BitVec.zero_or, BitVec.and_allOnes]

/-- Whole bytes as masked bytes write as they are. -/
theorem Memory.writeMasked_whole (m : List Host.Cell) (a : Nat) (bs : List Byte) :
    Memory.writeMasked m a (whole bs) = Memory.writeBytes m a bs := by
  rw [Memory.writeMasked]
  congr 1
  apply List.ext_getElem
  · simp [whole]
  · intro i h1 h2
    simp only [whole, List.getElem_zipWith, List.getElem_map]
    exact mergeByte_whole _ _

end Sys2Proof.Machine
end

