-- ==== Sys2Proof/Laws/State.lean ====
section
/-!
SUPPORT. What each named update of the state leaves: one lemma per update and field, true by rfl, so that no proof unfolds an update.
-/
namespace Sys2Proof.Machine

/-! ### updCore -/

@[simp] theorem State.updCore_mem (s : State) (f : Core → Core) : (s.updCore f).mem = s.mem := rfl
@[simp] theorem State.updCore_poison (s : State) (f : Core → Core) : (s.updCore f).poison = s.poison := rfl
@[simp] theorem State.updCore_others (s : State) (f : Core → Core) : (s.updCore f).others = s.others := rfl
@[simp] theorem State.updCore_turn (s : State) (f : Core → Core) : (s.updCore f).turn = s.turn := rfl
@[simp] theorem State.updCore_now (s : State) (f : Core → Core) : (s.updCore f).now = s.now := rfl
@[simp] theorem State.updCore_free (s : State) (f : Core → Core) : (s.updCore f).free = s.free := rfl
@[simp] theorem State.updCore_agenda (s : State) (f : Core → Core) : (s.updCore f).agenda = s.agenda := rfl
@[simp] theorem State.updCore_full (s : State) (f : Core → Core) : (s.updCore f).full = s.full := rfl
@[simp] theorem State.updCore_xlat (s : State) (f : Core → Core) : (s.updCore f).xlat = s.xlat := rfl
@[simp] theorem State.updCore_disp (s : State) (f : Core → Core) : (s.updCore f).disp = s.disp := rfl
@[simp] theorem State.updCore_links (s : State) (f : Core → Core) : (s.updCore f).links = s.links := rfl
@[simp] theorem State.updCore_colls (s : State) (f : Core → Core) : (s.updCore f).colls = s.colls := rfl
@[simp] theorem State.updCore_host (s : State) (f : Core → Core) : (s.updCore f).host = s.host := rfl
@[simp] theorem State.updCore_power (s : State) (f : Core → Core) : (s.updCore f).power = s.power := rfl
@[simp] theorem State.updCore_time (s : State) (f : Core → Core) : (s.updCore f).time = s.time := rfl
@[simp] theorem State.updCore_serv (s : State) (f : Core → Core) : (s.updCore f).serv = s.serv := rfl
@[simp] theorem State.updCore_core (s : State) (f : Core → Core) : (s.updCore f).core = f s.core := rfl

/-! ### updC -/

@[simp] theorem State.updC_mem (s : State) (f : CStrand → CStrand) : (s.updC f).mem = s.mem := rfl
@[simp] theorem State.updC_poison (s : State) (f : CStrand → CStrand) : (s.updC f).poison = s.poison := rfl
@[simp] theorem State.updC_others (s : State) (f : CStrand → CStrand) : (s.updC f).others = s.others := rfl
@[simp] theorem State.updC_turn (s : State) (f : CStrand → CStrand) : (s.updC f).turn = s.turn := rfl
@[simp] theorem State.updC_now (s : State) (f : CStrand → CStrand) : (s.updC f).now = s.now := rfl
@[simp] theorem State.updC_free (s : State) (f : CStrand → CStrand) : (s.updC f).free = s.free := rfl
@[simp] theorem State.updC_agenda (s : State) (f : CStrand → CStrand) : (s.updC f).agenda = s.agenda := rfl
@[simp] theorem State.updC_full (s : State) (f : CStrand → CStrand) : (s.updC f).full = s.full := rfl
@[simp] theorem State.updC_xlat (s : State) (f : CStrand → CStrand) : (s.updC f).xlat = s.xlat := rfl
@[simp] theorem State.updC_disp (s : State) (f : CStrand → CStrand) : (s.updC f).disp = s.disp := rfl
@[simp] theorem State.updC_links (s : State) (f : CStrand → CStrand) : (s.updC f).links = s.links := rfl
@[simp] theorem State.updC_colls (s : State) (f : CStrand → CStrand) : (s.updC f).colls = s.colls := rfl
@[simp] theorem State.updC_host (s : State) (f : CStrand → CStrand) : (s.updC f).host = s.host := rfl
@[simp] theorem State.updC_power (s : State) (f : CStrand → CStrand) : (s.updC f).power = s.power := rfl
@[simp] theorem State.updC_time (s : State) (f : CStrand → CStrand) : (s.updC f).time = s.time := rfl
@[simp] theorem State.updC_serv (s : State) (f : CStrand → CStrand) : (s.updC f).serv = s.serv := rfl
@[simp] theorem State.updC_core_die (s : State) (f : CStrand → CStrand) : (s.updC f).core.die = s.core.die := rfl
@[simp] theorem State.updC_core_q (s : State) (f : CStrand → CStrand) : (s.updC f).core.q = s.core.q := rfl
@[simp] theorem State.updC_core_sup (s : State) (f : CStrand → CStrand) : (s.updC f).core.sup = s.core.sup := rfl
@[simp] theorem State.updC_core_halted (s : State) (f : CStrand → CStrand) : (s.updC f).core.halted = s.core.halted := rfl
@[simp] theorem State.updC_core_c (s : State) (f : CStrand → CStrand) : (s.updC f).core.c = f s.core.c := rfl
@[simp] theorem State.updC_core_l (s : State) (f : CStrand → CStrand) : (s.updC f).core.l = s.core.l := rfl
@[simp] theorem State.updC_core_x (s : State) (f : CStrand → CStrand) : (s.updC f).core.x = s.core.x := rfl
@[simp] theorem State.updC_core_s (s : State) (f : CStrand → CStrand) : (s.updC f).core.s = s.core.s := rfl
@[simp] theorem State.updC_core_v (s : State) (f : CStrand → CStrand) : (s.updC f).core.v = s.core.v := rfl
@[simp] theorem State.updC_core_m (s : State) (f : CStrand → CStrand) : (s.updC f).core.m = s.core.m := rfl
@[simp] theorem State.updC_core_inb (s : State) (f : CStrand → CStrand) : (s.updC f).core.inb = s.core.inb := rfl
@[simp] theorem State.updC_core_outb (s : State) (f : CStrand → CStrand) : (s.updC f).core.outb = s.core.outb := rfl
@[simp] theorem State.updC_core_rings (s : State) (f : CStrand → CStrand) : (s.updC f).core.rings = s.core.rings := rfl
@[simp] theorem State.updC_core_hq (s : State) (f : CStrand → CStrand) : (s.updC f).core.hq = s.core.hq := rfl
@[simp] theorem State.updC_core_dq (s : State) (f : CStrand → CStrand) : (s.updC f).core.dq = s.core.dq := rfl
@[simp] theorem State.updC_core_fq (s : State) (f : CStrand → CStrand) : (s.updC f).core.fq = s.core.fq := rfl
@[simp] theorem State.updC_core_csr (s : State) (f : CStrand → CStrand) : (s.updC f).core.csr = s.core.csr := rfl
@[simp] theorem State.updC_core_frame (s : State) (f : CStrand → CStrand) : (s.updC f).core.frame = s.core.frame := rfl
@[simp] theorem State.updC_core_pend (s : State) (f : CStrand → CStrand) : (s.updC f).core.pend = s.core.pend := rfl
@[simp] theorem State.updC_core_task (s : State) (f : CStrand → CStrand) : (s.updC f).core.task = s.core.task := rfl
@[simp] theorem State.updC_core_freeze (s : State) (f : CStrand → CStrand) : (s.updC f).core.freeze = s.core.freeze := rfl
@[simp] theorem State.updC_core_stop (s : State) (f : CStrand → CStrand) : (s.updC f).core.stop = s.core.stop := rfl
@[simp] theorem State.updC_core_resume (s : State) (f : CStrand → CStrand) : (s.updC f).core.resume = s.core.resume := rfl
@[simp] theorem State.updC_core_imC (s : State) (f : CStrand → CStrand) : (s.updC f).core.imC = s.core.imC := rfl
@[simp] theorem State.updC_core_imL (s : State) (f : CStrand → CStrand) : (s.updC f).core.imL = s.core.imL := rfl
@[simp] theorem State.updC_core_imX (s : State) (f : CStrand → CStrand) : (s.updC f).core.imX = s.core.imX := rfl
@[simp] theorem State.updC_core_imS (s : State) (f : CStrand → CStrand) : (s.updC f).core.imS = s.core.imS := rfl
@[simp] theorem State.updC_core_gcache (s : State) (f : CStrand → CStrand) : (s.updC f).core.gcache = s.core.gcache := rfl
@[simp] theorem State.updC_core_irq (s : State) (f : CStrand → CStrand) : (s.updC f).core.irq = s.core.irq := rfl
@[simp] theorem State.updC_core_div (s : State) (f : CStrand → CStrand) : (s.updC f).core.div = s.core.div := rfl

/-! ### updV -/

@[simp] theorem State.updV_mem (s : State) (f : Vec → Vec) : (s.updV f).mem = s.mem := rfl
@[simp] theorem State.updV_poison (s : State) (f : Vec → Vec) : (s.updV f).poison = s.poison := rfl
@[simp] theorem State.updV_others (s : State) (f : Vec → Vec) : (s.updV f).others = s.others := rfl
@[simp] theorem State.updV_turn (s : State) (f : Vec → Vec) : (s.updV f).turn = s.turn := rfl
@[simp] theorem State.updV_now (s : State) (f : Vec → Vec) : (s.updV f).now = s.now := rfl
@[simp] theorem State.updV_free (s : State) (f : Vec → Vec) : (s.updV f).free = s.free := rfl
@[simp] theorem State.updV_agenda (s : State) (f : Vec → Vec) : (s.updV f).agenda = s.agenda := rfl
@[simp] theorem State.updV_full (s : State) (f : Vec → Vec) : (s.updV f).full = s.full := rfl
@[simp] theorem State.updV_xlat (s : State) (f : Vec → Vec) : (s.updV f).xlat = s.xlat := rfl
@[simp] theorem State.updV_disp (s : State) (f : Vec → Vec) : (s.updV f).disp = s.disp := rfl
@[simp] theorem State.updV_links (s : State) (f : Vec → Vec) : (s.updV f).links = s.links := rfl
@[simp] theorem State.updV_colls (s : State) (f : Vec → Vec) : (s.updV f).colls = s.colls := rfl
@[simp] theorem State.updV_host (s : State) (f : Vec → Vec) : (s.updV f).host = s.host := rfl
@[simp] theorem State.updV_power (s : State) (f : Vec → Vec) : (s.updV f).power = s.power := rfl
@[simp] theorem State.updV_time (s : State) (f : Vec → Vec) : (s.updV f).time = s.time := rfl
@[simp] theorem State.updV_serv (s : State) (f : Vec → Vec) : (s.updV f).serv = s.serv := rfl
@[simp] theorem State.updV_core_die (s : State) (f : Vec → Vec) : (s.updV f).core.die = s.core.die := rfl
@[simp] theorem State.updV_core_q (s : State) (f : Vec → Vec) : (s.updV f).core.q = s.core.q := rfl
@[simp] theorem State.updV_core_sup (s : State) (f : Vec → Vec) : (s.updV f).core.sup = s.core.sup := rfl
@[simp] theorem State.updV_core_halted (s : State) (f : Vec → Vec) : (s.updV f).core.halted = s.core.halted := rfl
@[simp] theorem State.updV_core_c (s : State) (f : Vec → Vec) : (s.updV f).core.c = s.core.c := rfl
@[simp] theorem State.updV_core_l (s : State) (f : Vec → Vec) : (s.updV f).core.l = s.core.l := rfl
@[simp] theorem State.updV_core_x (s : State) (f : Vec → Vec) : (s.updV f).core.x = s.core.x := rfl
@[simp] theorem State.updV_core_s (s : State) (f : Vec → Vec) : (s.updV f).core.s = s.core.s := rfl
@[simp] theorem State.updV_core_v (s : State) (f : Vec → Vec) : (s.updV f).core.v = f s.core.v := rfl
@[simp] theorem State.updV_core_m (s : State) (f : Vec → Vec) : (s.updV f).core.m = s.core.m := rfl
@[simp] theorem State.updV_core_inb (s : State) (f : Vec → Vec) : (s.updV f).core.inb = s.core.inb := rfl
@[simp] theorem State.updV_core_outb (s : State) (f : Vec → Vec) : (s.updV f).core.outb = s.core.outb := rfl
@[simp] theorem State.updV_core_rings (s : State) (f : Vec → Vec) : (s.updV f).core.rings = s.core.rings := rfl
@[simp] theorem State.updV_core_hq (s : State) (f : Vec → Vec) : (s.updV f).core.hq = s.core.hq := rfl
@[simp] theorem State.updV_core_dq (s : State) (f : Vec → Vec) : (s.updV f).core.dq = s.core.dq := rfl
@[simp] theorem State.updV_core_fq (s : State) (f : Vec → Vec) : (s.updV f).core.fq = s.core.fq := rfl
@[simp] theorem State.updV_core_csr (s : State) (f : Vec → Vec) : (s.updV f).core.csr = s.core.csr := rfl
@[simp] theorem State.updV_core_frame (s : State) (f : Vec → Vec) : (s.updV f).core.frame = s.core.frame := rfl
@[simp] theorem State.updV_core_pend (s : State) (f : Vec → Vec) : (s.updV f).core.pend = s.core.pend := rfl
@[simp] theorem State.updV_core_task (s : State) (f : Vec → Vec) : (s.updV f).core.task = s.core.task := rfl
@[simp] theorem State.updV_core_freeze (s : State) (f : Vec → Vec) : (s.updV f).core.freeze = s.core.freeze := rfl
@[simp] theorem State.updV_core_stop (s : State) (f : Vec → Vec) : (s.updV f).core.stop = s.core.stop := rfl
@[simp] theorem State.updV_core_resume (s : State) (f : Vec → Vec) : (s.updV f).core.resume = s.core.resume := rfl
@[simp] theorem State.updV_core_imC (s : State) (f : Vec → Vec) : (s.updV f).core.imC = s.core.imC := rfl
@[simp] theorem State.updV_core_imL (s : State) (f : Vec → Vec) : (s.updV f).core.imL = s.core.imL := rfl
@[simp] theorem State.updV_core_imX (s : State) (f : Vec → Vec) : (s.updV f).core.imX = s.core.imX := rfl
@[simp] theorem State.updV_core_imS (s : State) (f : Vec → Vec) : (s.updV f).core.imS = s.core.imS := rfl
@[simp] theorem State.updV_core_gcache (s : State) (f : Vec → Vec) : (s.updV f).core.gcache = s.core.gcache := rfl
@[simp] theorem State.updV_core_irq (s : State) (f : Vec → Vec) : (s.updV f).core.irq = s.core.irq := rfl
@[simp] theorem State.updV_core_div (s : State) (f : Vec → Vec) : (s.updV f).core.div = s.core.div := rfl

/-! ### updM -/

@[simp] theorem State.updM_mem (s : State) (f : Matrix → Matrix) : (s.updM f).mem = s.mem := rfl
@[simp] theorem State.updM_poison (s : State) (f : Matrix → Matrix) : (s.updM f).poison = s.poison := rfl
@[simp] theorem State.updM_others (s : State) (f : Matrix → Matrix) : (s.updM f).others = s.others := rfl
@[simp] theorem State.updM_turn (s : State) (f : Matrix → Matrix) : (s.updM f).turn = s.turn := rfl
@[simp] theorem State.updM_now (s : State) (f : Matrix → Matrix) : (s.updM f).now = s.now := rfl
@[simp] theorem State.updM_free (s : State) (f : Matrix → Matrix) : (s.updM f).free = s.free := rfl
@[simp] theorem State.updM_agenda (s : State) (f : Matrix → Matrix) : (s.updM f).agenda = s.agenda := rfl
@[simp] theorem State.updM_full (s : State) (f : Matrix → Matrix) : (s.updM f).full = s.full := rfl
@[simp] theorem State.updM_xlat (s : State) (f : Matrix → Matrix) : (s.updM f).xlat = s.xlat := rfl
@[simp] theorem State.updM_disp (s : State) (f : Matrix → Matrix) : (s.updM f).disp = s.disp := rfl
@[simp] theorem State.updM_links (s : State) (f : Matrix → Matrix) : (s.updM f).links = s.links := rfl
@[simp] theorem State.updM_colls (s : State) (f : Matrix → Matrix) : (s.updM f).colls = s.colls := rfl
@[simp] theorem State.updM_host (s : State) (f : Matrix → Matrix) : (s.updM f).host = s.host := rfl
@[simp] theorem State.updM_power (s : State) (f : Matrix → Matrix) : (s.updM f).power = s.power := rfl
@[simp] theorem State.updM_time (s : State) (f : Matrix → Matrix) : (s.updM f).time = s.time := rfl
@[simp] theorem State.updM_serv (s : State) (f : Matrix → Matrix) : (s.updM f).serv = s.serv := rfl
@[simp] theorem State.updM_core_die (s : State) (f : Matrix → Matrix) : (s.updM f).core.die = s.core.die := rfl
@[simp] theorem State.updM_core_q (s : State) (f : Matrix → Matrix) : (s.updM f).core.q = s.core.q := rfl
@[simp] theorem State.updM_core_sup (s : State) (f : Matrix → Matrix) : (s.updM f).core.sup = s.core.sup := rfl
@[simp] theorem State.updM_core_halted (s : State) (f : Matrix → Matrix) : (s.updM f).core.halted = s.core.halted := rfl
@[simp] theorem State.updM_core_c (s : State) (f : Matrix → Matrix) : (s.updM f).core.c = s.core.c := rfl
@[simp] theorem State.updM_core_l (s : State) (f : Matrix → Matrix) : (s.updM f).core.l = s.core.l := rfl
@[simp] theorem State.updM_core_x (s : State) (f : Matrix → Matrix) : (s.updM f).core.x = s.core.x := rfl
@[simp] theorem State.updM_core_s (s : State) (f : Matrix → Matrix) : (s.updM f).core.s = s.core.s := rfl
@[simp] theorem State.updM_core_v (s : State) (f : Matrix → Matrix) : (s.updM f).core.v = s.core.v := rfl
@[simp] theorem State.updM_core_m (s : State) (f : Matrix → Matrix) : (s.updM f).core.m = f s.core.m := rfl
@[simp] theorem State.updM_core_inb (s : State) (f : Matrix → Matrix) : (s.updM f).core.inb = s.core.inb := rfl
@[simp] theorem State.updM_core_outb (s : State) (f : Matrix → Matrix) : (s.updM f).core.outb = s.core.outb := rfl
@[simp] theorem State.updM_core_rings (s : State) (f : Matrix → Matrix) : (s.updM f).core.rings = s.core.rings := rfl
@[simp] theorem State.updM_core_hq (s : State) (f : Matrix → Matrix) : (s.updM f).core.hq = s.core.hq := rfl
@[simp] theorem State.updM_core_dq (s : State) (f : Matrix → Matrix) : (s.updM f).core.dq = s.core.dq := rfl
@[simp] theorem State.updM_core_fq (s : State) (f : Matrix → Matrix) : (s.updM f).core.fq = s.core.fq := rfl
@[simp] theorem State.updM_core_csr (s : State) (f : Matrix → Matrix) : (s.updM f).core.csr = s.core.csr := rfl
@[simp] theorem State.updM_core_frame (s : State) (f : Matrix → Matrix) : (s.updM f).core.frame = s.core.frame := rfl
@[simp] theorem State.updM_core_pend (s : State) (f : Matrix → Matrix) : (s.updM f).core.pend = s.core.pend := rfl
@[simp] theorem State.updM_core_task (s : State) (f : Matrix → Matrix) : (s.updM f).core.task = s.core.task := rfl
@[simp] theorem State.updM_core_freeze (s : State) (f : Matrix → Matrix) : (s.updM f).core.freeze = s.core.freeze := rfl
@[simp] theorem State.updM_core_stop (s : State) (f : Matrix → Matrix) : (s.updM f).core.stop = s.core.stop := rfl
@[simp] theorem State.updM_core_resume (s : State) (f : Matrix → Matrix) : (s.updM f).core.resume = s.core.resume := rfl
@[simp] theorem State.updM_core_imC (s : State) (f : Matrix → Matrix) : (s.updM f).core.imC = s.core.imC := rfl
@[simp] theorem State.updM_core_imL (s : State) (f : Matrix → Matrix) : (s.updM f).core.imL = s.core.imL := rfl
@[simp] theorem State.updM_core_imX (s : State) (f : Matrix → Matrix) : (s.updM f).core.imX = s.core.imX := rfl
@[simp] theorem State.updM_core_imS (s : State) (f : Matrix → Matrix) : (s.updM f).core.imS = s.core.imS := rfl
@[simp] theorem State.updM_core_gcache (s : State) (f : Matrix → Matrix) : (s.updM f).core.gcache = s.core.gcache := rfl
@[simp] theorem State.updM_core_irq (s : State) (f : Matrix → Matrix) : (s.updM f).core.irq = s.core.irq := rfl
@[simp] theorem State.updM_core_div (s : State) (f : Matrix → Matrix) : (s.updM f).core.div = s.core.div := rfl

/-! ### updCsr -/

@[simp] theorem State.updCsr_mem (s : State) (f : Csr → Csr) : (s.updCsr f).mem = s.mem := rfl
@[simp] theorem State.updCsr_poison (s : State) (f : Csr → Csr) : (s.updCsr f).poison = s.poison := rfl
@[simp] theorem State.updCsr_others (s : State) (f : Csr → Csr) : (s.updCsr f).others = s.others := rfl
@[simp] theorem State.updCsr_turn (s : State) (f : Csr → Csr) : (s.updCsr f).turn = s.turn := rfl
@[simp] theorem State.updCsr_now (s : State) (f : Csr → Csr) : (s.updCsr f).now = s.now := rfl
@[simp] theorem State.updCsr_free (s : State) (f : Csr → Csr) : (s.updCsr f).free = s.free := rfl
@[simp] theorem State.updCsr_agenda (s : State) (f : Csr → Csr) : (s.updCsr f).agenda = s.agenda := rfl
@[simp] theorem State.updCsr_full (s : State) (f : Csr → Csr) : (s.updCsr f).full = s.full := rfl
@[simp] theorem State.updCsr_xlat (s : State) (f : Csr → Csr) : (s.updCsr f).xlat = s.xlat := rfl
@[simp] theorem State.updCsr_disp (s : State) (f : Csr → Csr) : (s.updCsr f).disp = s.disp := rfl
@[simp] theorem State.updCsr_links (s : State) (f : Csr → Csr) : (s.updCsr f).links = s.links := rfl
@[simp] theorem State.updCsr_colls (s : State) (f : Csr → Csr) : (s.updCsr f).colls = s.colls := rfl
@[simp] theorem State.updCsr_host (s : State) (f : Csr → Csr) : (s.updCsr f).host = s.host := rfl
@[simp] theorem State.updCsr_power (s : State) (f : Csr → Csr) : (s.updCsr f).power = s.power := rfl
@[simp] theorem State.updCsr_time (s : State) (f : Csr → Csr) : (s.updCsr f).time = s.time := rfl
@[simp] theorem State.updCsr_serv (s : State) (f : Csr → Csr) : (s.updCsr f).serv = s.serv := rfl
@[simp] theorem State.updCsr_core_die (s : State) (f : Csr → Csr) : (s.updCsr f).core.die = s.core.die := rfl
@[simp] theorem State.updCsr_core_q (s : State) (f : Csr → Csr) : (s.updCsr f).core.q = s.core.q := rfl
@[simp] theorem State.updCsr_core_sup (s : State) (f : Csr → Csr) : (s.updCsr f).core.sup = s.core.sup := rfl
@[simp] theorem State.updCsr_core_halted (s : State) (f : Csr → Csr) : (s.updCsr f).core.halted = s.core.halted := rfl
@[simp] theorem State.updCsr_core_c (s : State) (f : Csr → Csr) : (s.updCsr f).core.c = s.core.c := rfl
@[simp] theorem State.updCsr_core_l (s : State) (f : Csr → Csr) : (s.updCsr f).core.l = s.core.l := rfl
@[simp] theorem State.updCsr_core_x (s : State) (f : Csr → Csr) : (s.updCsr f).core.x = s.core.x := rfl
@[simp] theorem State.updCsr_core_s (s : State) (f : Csr → Csr) : (s.updCsr f).core.s = s.core.s := rfl
@[simp] theorem State.updCsr_core_v (s : State) (f : Csr → Csr) : (s.updCsr f).core.v = s.core.v := rfl
@[simp] theorem State.updCsr_core_m (s : State) (f : Csr → Csr) : (s.updCsr f).core.m = s.core.m := rfl
@[simp] theorem State.updCsr_core_inb (s : State) (f : Csr → Csr) : (s.updCsr f).core.inb = s.core.inb := rfl
@[simp] theorem State.updCsr_core_outb (s : State) (f : Csr → Csr) : (s.updCsr f).core.outb = s.core.outb := rfl
@[simp] theorem State.updCsr_core_rings (s : State) (f : Csr → Csr) : (s.updCsr f).core.rings = s.core.rings := rfl
@[simp] theorem State.updCsr_core_hq (s : State) (f : Csr → Csr) : (s.updCsr f).core.hq = s.core.hq := rfl
@[simp] theorem State.updCsr_core_dq (s : State) (f : Csr → Csr) : (s.updCsr f).core.dq = s.core.dq := rfl
@[simp] theorem State.updCsr_core_fq (s : State) (f : Csr → Csr) : (s.updCsr f).core.fq = s.core.fq := rfl
@[simp] theorem State.updCsr_core_csr (s : State) (f : Csr → Csr) : (s.updCsr f).core.csr = f s.core.csr := rfl
@[simp] theorem State.updCsr_core_frame (s : State) (f : Csr → Csr) : (s.updCsr f).core.frame = s.core.frame := rfl
@[simp] theorem State.updCsr_core_pend (s : State) (f : Csr → Csr) : (s.updCsr f).core.pend = s.core.pend := rfl
@[simp] theorem State.updCsr_core_task (s : State) (f : Csr → Csr) : (s.updCsr f).core.task = s.core.task := rfl
@[simp] theorem State.updCsr_core_freeze (s : State) (f : Csr → Csr) : (s.updCsr f).core.freeze = s.core.freeze := rfl
@[simp] theorem State.updCsr_core_stop (s : State) (f : Csr → Csr) : (s.updCsr f).core.stop = s.core.stop := rfl
@[simp] theorem State.updCsr_core_resume (s : State) (f : Csr → Csr) : (s.updCsr f).core.resume = s.core.resume := rfl
@[simp] theorem State.updCsr_core_imC (s : State) (f : Csr → Csr) : (s.updCsr f).core.imC = s.core.imC := rfl
@[simp] theorem State.updCsr_core_imL (s : State) (f : Csr → Csr) : (s.updCsr f).core.imL = s.core.imL := rfl
@[simp] theorem State.updCsr_core_imX (s : State) (f : Csr → Csr) : (s.updCsr f).core.imX = s.core.imX := rfl
@[simp] theorem State.updCsr_core_imS (s : State) (f : Csr → Csr) : (s.updCsr f).core.imS = s.core.imS := rfl
@[simp] theorem State.updCsr_core_gcache (s : State) (f : Csr → Csr) : (s.updCsr f).core.gcache = s.core.gcache := rfl
@[simp] theorem State.updCsr_core_irq (s : State) (f : Csr → Csr) : (s.updCsr f).core.irq = s.core.irq := rfl
@[simp] theorem State.updCsr_core_div (s : State) (f : Csr → Csr) : (s.updCsr f).core.div = s.core.div := rfl

/-! ### updTask -/

@[simp] theorem State.updTask_mem (s : State) (f : Task → Task) : (s.updTask f).mem = s.mem := rfl
@[simp] theorem State.updTask_poison (s : State) (f : Task → Task) : (s.updTask f).poison = s.poison := rfl
@[simp] theorem State.updTask_others (s : State) (f : Task → Task) : (s.updTask f).others = s.others := rfl
@[simp] theorem State.updTask_turn (s : State) (f : Task → Task) : (s.updTask f).turn = s.turn := rfl
@[simp] theorem State.updTask_now (s : State) (f : Task → Task) : (s.updTask f).now = s.now := rfl
@[simp] theorem State.updTask_free (s : State) (f : Task → Task) : (s.updTask f).free = s.free := rfl
@[simp] theorem State.updTask_agenda (s : State) (f : Task → Task) : (s.updTask f).agenda = s.agenda := rfl
@[simp] theorem State.updTask_full (s : State) (f : Task → Task) : (s.updTask f).full = s.full := rfl
@[simp] theorem State.updTask_xlat (s : State) (f : Task → Task) : (s.updTask f).xlat = s.xlat := rfl
@[simp] theorem State.updTask_disp (s : State) (f : Task → Task) : (s.updTask f).disp = s.disp := rfl
@[simp] theorem State.updTask_links (s : State) (f : Task → Task) : (s.updTask f).links = s.links := rfl
@[simp] theorem State.updTask_colls (s : State) (f : Task → Task) : (s.updTask f).colls = s.colls := rfl
@[simp] theorem State.updTask_host (s : State) (f : Task → Task) : (s.updTask f).host = s.host := rfl
@[simp] theorem State.updTask_power (s : State) (f : Task → Task) : (s.updTask f).power = s.power := rfl
@[simp] theorem State.updTask_time (s : State) (f : Task → Task) : (s.updTask f).time = s.time := rfl
@[simp] theorem State.updTask_serv (s : State) (f : Task → Task) : (s.updTask f).serv = s.serv := rfl
@[simp] theorem State.updTask_core_die (s : State) (f : Task → Task) : (s.updTask f).core.die = s.core.die := rfl
@[simp] theorem State.updTask_core_q (s : State) (f : Task → Task) : (s.updTask f).core.q = s.core.q := rfl
@[simp] theorem State.updTask_core_sup (s : State) (f : Task → Task) : (s.updTask f).core.sup = s.core.sup := rfl
@[simp] theorem State.updTask_core_halted (s : State) (f : Task → Task) : (s.updTask f).core.halted = s.core.halted := rfl
@[simp] theorem State.updTask_core_c (s : State) (f : Task → Task) : (s.updTask f).core.c = s.core.c := rfl
@[simp] theorem State.updTask_core_l (s : State) (f : Task → Task) : (s.updTask f).core.l = s.core.l := rfl
@[simp] theorem State.updTask_core_x (s : State) (f : Task → Task) : (s.updTask f).core.x = s.core.x := rfl
@[simp] theorem State.updTask_core_s (s : State) (f : Task → Task) : (s.updTask f).core.s = s.core.s := rfl
@[simp] theorem State.updTask_core_v (s : State) (f : Task → Task) : (s.updTask f).core.v = s.core.v := rfl
@[simp] theorem State.updTask_core_m (s : State) (f : Task → Task) : (s.updTask f).core.m = s.core.m := rfl
@[simp] theorem State.updTask_core_inb (s : State) (f : Task → Task) : (s.updTask f).core.inb = s.core.inb := rfl
@[simp] theorem State.updTask_core_outb (s : State) (f : Task → Task) : (s.updTask f).core.outb = s.core.outb := rfl
@[simp] theorem State.updTask_core_rings (s : State) (f : Task → Task) : (s.updTask f).core.rings = s.core.rings := rfl
@[simp] theorem State.updTask_core_hq (s : State) (f : Task → Task) : (s.updTask f).core.hq = s.core.hq := rfl
@[simp] theorem State.updTask_core_dq (s : State) (f : Task → Task) : (s.updTask f).core.dq = s.core.dq := rfl
@[simp] theorem State.updTask_core_fq (s : State) (f : Task → Task) : (s.updTask f).core.fq = s.core.fq := rfl
@[simp] theorem State.updTask_core_csr (s : State) (f : Task → Task) : (s.updTask f).core.csr = s.core.csr := rfl
@[simp] theorem State.updTask_core_frame (s : State) (f : Task → Task) : (s.updTask f).core.frame = s.core.frame := rfl
@[simp] theorem State.updTask_core_pend (s : State) (f : Task → Task) : (s.updTask f).core.pend = s.core.pend := rfl
@[simp] theorem State.updTask_core_task (s : State) (f : Task → Task) : (s.updTask f).core.task = s.core.task.map f := rfl
@[simp] theorem State.updTask_core_freeze (s : State) (f : Task → Task) : (s.updTask f).core.freeze = s.core.freeze := rfl
@[simp] theorem State.updTask_core_stop (s : State) (f : Task → Task) : (s.updTask f).core.stop = s.core.stop := rfl
@[simp] theorem State.updTask_core_resume (s : State) (f : Task → Task) : (s.updTask f).core.resume = s.core.resume := rfl
@[simp] theorem State.updTask_core_imC (s : State) (f : Task → Task) : (s.updTask f).core.imC = s.core.imC := rfl
@[simp] theorem State.updTask_core_imL (s : State) (f : Task → Task) : (s.updTask f).core.imL = s.core.imL := rfl
@[simp] theorem State.updTask_core_imX (s : State) (f : Task → Task) : (s.updTask f).core.imX = s.core.imX := rfl
@[simp] theorem State.updTask_core_imS (s : State) (f : Task → Task) : (s.updTask f).core.imS = s.core.imS := rfl
@[simp] theorem State.updTask_core_gcache (s : State) (f : Task → Task) : (s.updTask f).core.gcache = s.core.gcache := rfl
@[simp] theorem State.updTask_core_irq (s : State) (f : Task → Task) : (s.updTask f).core.irq = s.core.irq := rfl
@[simp] theorem State.updTask_core_div (s : State) (f : Task → Task) : (s.updTask f).core.div = s.core.div := rfl

/-! ### updStep -/

@[simp] theorem State.updStep_mem (s : State) (t : StepStrand) (f : Step → Step) : (s.updStep t f).mem = s.mem := rfl
@[simp] theorem State.updStep_poison (s : State) (t : StepStrand) (f : Step → Step) : (s.updStep t f).poison = s.poison := rfl
@[simp] theorem State.updStep_others (s : State) (t : StepStrand) (f : Step → Step) : (s.updStep t f).others = s.others := rfl
@[simp] theorem State.updStep_turn (s : State) (t : StepStrand) (f : Step → Step) : (s.updStep t f).turn = s.turn := rfl
@[simp] theorem State.updStep_now (s : State) (t : StepStrand) (f : Step → Step) : (s.updStep t f).now = s.now := rfl
@[simp] theorem State.updStep_free (s : State) (t : StepStrand) (f : Step → Step) : (s.updStep t f).free = s.free := rfl
@[simp] theorem State.updStep_agenda (s : State) (t : StepStrand) (f : Step → Step) : (s.updStep t f).agenda = s.agenda := rfl
@[simp] theorem State.updStep_full (s : State) (t : StepStrand) (f : Step → Step) : (s.updStep t f).full = s.full := rfl
@[simp] theorem State.updStep_xlat (s : State) (t : StepStrand) (f : Step → Step) : (s.updStep t f).xlat = s.xlat := rfl
@[simp] theorem State.updStep_disp (s : State) (t : StepStrand) (f : Step → Step) : (s.updStep t f).disp = s.disp := rfl
@[simp] theorem State.updStep_links (s : State) (t : StepStrand) (f : Step → Step) : (s.updStep t f).links = s.links := rfl
@[simp] theorem State.updStep_colls (s : State) (t : StepStrand) (f : Step → Step) : (s.updStep t f).colls = s.colls := rfl
@[simp] theorem State.updStep_host (s : State) (t : StepStrand) (f : Step → Step) : (s.updStep t f).host = s.host := rfl
@[simp] theorem State.updStep_power (s : State) (t : StepStrand) (f : Step → Step) : (s.updStep t f).power = s.power := rfl
@[simp] theorem State.updStep_time (s : State) (t : StepStrand) (f : Step → Step) : (s.updStep t f).time = s.time := rfl
@[simp] theorem State.updStep_serv (s : State) (t : StepStrand) (f : Step → Step) : (s.updStep t f).serv = s.serv := rfl
@[simp] theorem State.updStep_core_die (s : State) (t : StepStrand) (f : Step → Step) : (s.updStep t f).core.die = s.core.die := by cases t <;> rfl
@[simp] theorem State.updStep_core_q (s : State) (t : StepStrand) (f : Step → Step) : (s.updStep t f).core.q = s.core.q := by cases t <;> rfl
@[simp] theorem State.updStep_core_sup (s : State) (t : StepStrand) (f : Step → Step) : (s.updStep t f).core.sup = s.core.sup := by cases t <;> rfl
@[simp] theorem State.updStep_core_halted (s : State) (t : StepStrand) (f : Step → Step) : (s.updStep t f).core.halted = s.core.halted := by cases t <;> rfl
@[simp] theorem State.updStep_core_c (s : State) (t : StepStrand) (f : Step → Step) : (s.updStep t f).core.c = s.core.c := by cases t <;> rfl
@[simp] theorem State.updStep_core_v (s : State) (t : StepStrand) (f : Step → Step) : (s.updStep t f).core.v = s.core.v := by cases t <;> rfl
@[simp] theorem State.updStep_core_m (s : State) (t : StepStrand) (f : Step → Step) : (s.updStep t f).core.m = s.core.m := by cases t <;> rfl
@[simp] theorem State.updStep_core_inb (s : State) (t : StepStrand) (f : Step → Step) : (s.updStep t f).core.inb = s.core.inb := by cases t <;> rfl
@[simp] theorem State.updStep_core_outb (s : State) (t : StepStrand) (f : Step → Step) : (s.updStep t f).core.outb = s.core.outb := by cases t <;> rfl
@[simp] theorem State.updStep_core_rings (s : State) (t : StepStrand) (f : Step → Step) : (s.updStep t f).core.rings = s.core.rings := by cases t <;> rfl
@[simp] theorem State.updStep_core_hq (s : State) (t : StepStrand) (f : Step → Step) : (s.updStep t f).core.hq = s.core.hq := by cases t <;> rfl
@[simp] theorem State.updStep_core_dq (s : State) (t : StepStrand) (f : Step → Step) : (s.updStep t f).core.dq = s.core.dq := by cases t <;> rfl
@[simp] theorem State.updStep_core_fq (s : State) (t : StepStrand) (f : Step → Step) : (s.updStep t f).core.fq = s.core.fq := by cases t <;> rfl
@[simp] theorem State.updStep_core_csr (s : State) (t : StepStrand) (f : Step → Step) : (s.updStep t f).core.csr = s.core.csr := by cases t <;> rfl
@[simp] theorem State.updStep_core_frame (s : State) (t : StepStrand) (f : Step → Step) : (s.updStep t f).core.frame = s.core.frame := by cases t <;> rfl
@[simp] theorem State.updStep_core_pend (s : State) (t : StepStrand) (f : Step → Step) : (s.updStep t f).core.pend = s.core.pend := by cases t <;> rfl
@[simp] theorem State.updStep_core_task (s : State) (t : StepStrand) (f : Step → Step) : (s.updStep t f).core.task = s.core.task := by cases t <;> rfl
@[simp] theorem State.updStep_core_freeze (s : State) (t : StepStrand) (f : Step → Step) : (s.updStep t f).core.freeze = s.core.freeze := by cases t <;> rfl
@[simp] theorem State.updStep_core_stop (s : State) (t : StepStrand) (f : Step → Step) : (s.updStep t f).core.stop = s.core.stop := by cases t <;> rfl
@[simp] theorem State.updStep_core_resume (s : State) (t : StepStrand) (f : Step → Step) : (s.updStep t f).core.resume = s.core.resume := by cases t <;> rfl
@[simp] theorem State.updStep_core_imC (s : State) (t : StepStrand) (f : Step → Step) : (s.updStep t f).core.imC = s.core.imC := by cases t <;> rfl
@[simp] theorem State.updStep_core_imL (s : State) (t : StepStrand) (f : Step → Step) : (s.updStep t f).core.imL = s.core.imL := by cases t <;> rfl
@[simp] theorem State.updStep_core_imX (s : State) (t : StepStrand) (f : Step → Step) : (s.updStep t f).core.imX = s.core.imX := by cases t <;> rfl
@[simp] theorem State.updStep_core_imS (s : State) (t : StepStrand) (f : Step → Step) : (s.updStep t f).core.imS = s.core.imS := by cases t <;> rfl
@[simp] theorem State.updStep_core_gcache (s : State) (t : StepStrand) (f : Step → Step) : (s.updStep t f).core.gcache = s.core.gcache := by cases t <;> rfl
@[simp] theorem State.updStep_core_irq (s : State) (t : StepStrand) (f : Step → Step) : (s.updStep t f).core.irq = s.core.irq := by cases t <;> rfl
@[simp] theorem State.updStep_core_div (s : State) (t : StepStrand) (f : Step → Step) : (s.updStep t f).core.div = s.core.div := by cases t <;> rfl
@[simp] theorem State.updStep_strand (s : State) (t : StepStrand) (f : Step → Step) :
    (s.updStep t f).core.strand t = f (s.core.strand t) := by cases t <;> rfl
theorem State.updStep_strand_ne (s : State) {t u : StepStrand} (f : Step → Step) (h : u ≠ t) :
    (s.updStep t f).core.strand u = s.core.strand u := by cases t <;> cases u <;> first | rfl | exact absurd rfl h
@[simp] theorem Core.divOf_updStep (s : State) (t : StepStrand) (f : Step → Step) (u : Strand) :
    (s.updStep t f).core.divOf u = s.core.divOf u := by cases t <;> rfl

end Sys2Proof.Machine
end

