-- ==== Sys2Proof/Laws/Words.lean ====
section
/-!
SUPPORT. The course of a word that nothing holds, on C and on a step strand, and what the operations that complete a word leave.
-/
namespace Sys2Proof.Machine

/-! ### C -/

theorem CStrand.isReady_missing {c : CStrand} {r : BitVec 5} (h : c.isReady r = true) : c.missing r = false := by
  simp only [CStrand.isReady, Bool.or_eq_true, beq_iff_eq, Bool.and_eq_true, Bool.not_eq_true'] at h
  rcases h with h | h
  · simp [CStrand.missing, h]
  · exact h.1

/-- A word of C that nothing holds has its effect. -/
theorem cWord_free {i : Instr} {srcs : List (BitVec 5)} {s : State} (k : State → State) (h : s.cFree i srcs = true) :
    cWord i srcs k s = .next (k s) := by
  simp only [State.cFree, Bool.and_eq_true, Bool.not_eq_true', List.all_eq_true] at h
  have m : (srcs.any fun r => s.core.c.missing r) = false := by
    simpa using fun r hr => CStrand.isReady_missing (h.2 r hr)
  have a : (srcs.all fun r => s.core.c.isReady r) = true := by simpa using h.2
  rw [cWord, h.1, m, a]
  rfl

/-- A context check that holds lets the word go on. -/
theorem cIf_pos {ok : Bool} {i : Instr} {k : State → State} {s : State} (h : ok = true) : cIf ok i k s = k s := by rw [cIf, h]; rfl

@[simp] theorem CStrand.read_zero (c : CStrand) : c.read 0 = 0 := rfl

theorem CStrand.regs_write (c : CStrand) (d : BitVec 5) (v : Word64) (h : d ≠ 0) :
    (c.write d v).regs = c.regs.set d.toNat v (by have := d.isLt; omega) := by
  rw [CStrand.write, if_neg h, CStrand.regs, CStrand.regs]
  cases e : c.handler <;> simp

theorem CStrand.read_write (c : CStrand) (d : BitVec 5) (v : Word64) (h : d ≠ 0) : (c.write d v).read d = v := by
  rw [CStrand.read, if_neg h]
  simp [CStrand.regs_write c d v h]

theorem CStrand.read_write_ne (c : CStrand) {d r : BitVec 5} (v : Word64) (h : r ≠ d) : (c.write d v).read r = c.read r := by
  by_cases hd : d = 0
  · rw [CStrand.write, if_pos hd]
  · rw [CStrand.read, CStrand.read]
    split
    · rfl
    · simp only [CStrand.regs_write c d v hd]
      exact Vector.getElem_set_ne _ _ fun e => h (BitVec.eq_of_toNat_eq e.symm)

theorem CStrand.write_regs_only (c : CStrand) (d : BitVec 5) (v : Word64) :
    c.write d v = { c with prim := (c.write d v).prim, shadow := (c.write d v).shadow } := by
  rw [CStrand.write]
  split
  · rfl
  · split <;> rfl

theorem CStrand.advance_only (c : CStrand) :
    c.advance = { c with chain := c.advance.chain, loops := c.advance.loops, shLoops := c.advance.shLoops } := by
  unfold CStrand.advance CStrand.setStack
  split
  · split <;> rfl
  · split
    · rfl
    · split <;> rfl

@[simp] theorem CStrand.advance_handler (c : CStrand) : c.advance.handler = c.handler := by rw [c.advance_only]
@[simp] theorem CStrand.advance_count (c : CStrand) : c.advance.count = c.count := by rw [c.advance_only]
@[simp] theorem CStrand.advance_hcount (c : CStrand) : c.advance.hcount = c.hcount := by rw [c.advance_only]
@[simp] theorem CStrand.advance_ready (c : CStrand) : c.advance.ready = c.ready := by rw [c.advance_only]
@[simp] theorem CStrand.write_handler (c : CStrand) (d : BitVec 5) (v : Word64) : (c.write d v).handler = c.handler := by
  rw [c.write_regs_only]
@[simp] theorem CStrand.write_count (c : CStrand) (d : BitVec 5) (v : Word64) : (c.write d v).count = c.count := by
  rw [c.write_regs_only]

@[simp] theorem CStrand.write_hcount (c : CStrand) (d : BitVec 5) (v : Word64) : (c.write d v).hcount = c.hcount := by
  rw [c.write_regs_only]

/-- Advancing reads the chain, the stack in use and the context, and nothing else. -/
theorem CStrand.advance_congr {c e : CStrand} (h : e.chain = c.chain) (k : e.stack = c.stack) (m : e.handler = c.handler) :
    e.advance.chain = c.advance.chain ∧ e.advance.stack = c.advance.stack := by
  unfold CStrand.advance CStrand.setStack CStrand.stack at *
  simp only [h, m] at *
  cases hm : c.handler <;> simp only [hm, if_true, if_false, Bool.false_eq_true] at k ⊢ <;> rw [k] <;> split <;>
    first | exact ⟨rfl, rfl⟩ | skip
  all_goals (split <;> exact ⟨rfl, rfl⟩)

/-- Reading a register looks at the two sets and the context. -/
theorem CStrand.read_congr {c e : CStrand} (p : e.prim = c.prim) (q : e.shadow = c.shadow) (h : e.handler = c.handler) (r : BitVec 5) :
    e.read r = c.read r := by
  have : e.regs = c.regs := by simp only [CStrand.regs, p, q, h]
  simp only [CStrand.read, this]

theorem CStrand.newResult_only (c : CStrand) (d : BitVec 5) (n : Nat) :
    c.newResult d n = { c with ready := (c.newResult d n).ready, shReady := (c.newResult d n).shReady, origin := (c.newResult d n).origin,
                               loads := (c.newResult d n).loads } := by
  unfold CStrand.newResult CStrand.setReady
  split <;> rfl

@[simp] theorem CStrand.newResult_handler (c : CStrand) (d : BitVec 5) (n : Nat) : (c.newResult d n).handler = c.handler := by
  rw [c.newResult_only]
@[simp] theorem CStrand.newResult_count (c : CStrand) (d : BitVec 5) (n : Nat) : (c.newResult d n).count = c.count := by
  rw [c.newResult_only]

@[simp] theorem CStrand.newResult_hcount (c : CStrand) (d : BitVec 5) (n : Nat) : (c.newResult d n).hcount = c.hcount := by
  rw [c.newResult_only]

theorem CStrand.newResult_readyAt (c : CStrand) (d : BitVec 5) (n : Nat) : (c.newResult d n).readyAt d = c.cycles + n := by
  unfold CStrand.newResult CStrand.setReady CStrand.readyAt
  cases h : c.handler <;> simp

/-- When a register of the context in use is ready depends on the two tables and the context. -/
theorem CStrand.readyAt_congr {c e : CStrand} (p : e.ready = c.ready) (q : e.shReady = c.shReady) (h : e.handler = c.handler) (r : BitVec 5) :
    e.readyAt r = c.readyAt r := by
  simp only [CStrand.readyAt, p, q, h]

/-- The counts of C after a word completed (02 R34; 20 R331). -/
theorem State.cDone_counts (s : State) :
    s.cDone.core.c.cycles = s.core.c.cycles + 1 ∧ s.cDone.core.c.count = s.core.c.count + (if s.core.c.handler then 0 else 1) := by
  have e : s.cDone.core.c = { s.core.c.advance with
      count := s.core.c.advance.count + (if s.core.c.advance.handler then 0 else 1),
      hcount := s.core.c.advance.hcount + (if s.core.c.advance.handler then 1 else 0),
      next := s.now + s.core.div.ctl, cond := .running none } := rfl
  cases h : s.core.c.handler <;> simp [e, CStrand.cycles, h]

/-- A word of C that completes without a result. -/
theorem State.cDone_spec (s : State) : CNoResult s s.cDone := by
  have a := CStrand.advance_only s.core.c
  refine ⟨?_, ?_, ?_, rfl, ?_⟩
  · rw [OnlyC]; rfl
  · refine ⟨?_, ?_, ?_, ?_, ?_, ?_, ?_⟩ <;> simp only [State.cDone, State.cTick, State.updC_core_c] <;> rw [a]
    split <;> rfl
  · intro r
    refine CStrand.read_congr ?_ ?_ ?_ r <;> simp only [State.cDone, State.cTick, State.updC_core_c] <;> rw [a]
  · rfl

/-- What a register held is kept for the snapshot, and nothing else changes. -/
theorem CStrand.remember_only (c : CStrand) (r : BitVec 5) : c.remember r = { c with before := (c.remember r).before } := by
  unfold CStrand.remember
  split <;> rfl

@[simp] theorem CStrand.remember_handler (c : CStrand) (r : BitVec 5) : (c.remember r).handler = c.handler := by rw [c.remember_only]
@[simp] theorem CStrand.remember_count (c : CStrand) (r : BitVec 5) : (c.remember r).count = c.count := by rw [c.remember_only]
@[simp] theorem CStrand.remember_hcount (c : CStrand) (r : BitVec 5) : (c.remember r).hcount = c.hcount := by rw [c.remember_only]
@[simp] theorem CStrand.remember_read (c : CStrand) (r q : BitVec 5) : (c.remember r).read q = c.read q := by
  rw [c.remember_only]; exact CStrand.read_congr rfl rfl rfl q

/-- A word of C that completes with one result. -/
theorem State.result_spec (s : State) (d : BitVec 5) (v : Word64) (lat : Nat) : CResult s (s.result d v lat) d v lat := by
  have m := CStrand.remember_only s.core.c d
  have w := CStrand.write_regs_only (s.core.c.remember d) d v
  have n := CStrand.newResult_only ((s.core.c.remember d).write d v) d lat
  have a := CStrand.advance_only (((s.core.c.remember d).write d v).newResult d lat)
  have hm : (((s.core.c.remember d).write d v).newResult d lat).handler = s.core.c.handler := by simp
  have rg : ∀ r, (s.result d v lat).core.c.read r = ((s.core.c.remember d).write d v).read r := by
    intro r
    refine CStrand.read_congr ?_ ?_ ?_ r <;> simp only [State.result, State.setS, State.cDone, State.cTick, State.updC_core_c] <;> rw [a, n]
  have g := CStrand.advance_congr (c := s.core.c) (e := ((s.core.c.remember d).write d v).newResult d lat) (by rw [n, w, m])
    (by simp only [CStrand.stack]; rw [n, w, m]) hm
  refine ⟨?_, ?_, ?_, ?_, g.1, g.2, ?_⟩
  · rw [OnlyC]; rfl
  · have p : if s.core.c.handler then ((s.core.c.remember d).write d v).prim = s.core.c.prim
        else ((s.core.c.remember d).write d v).shadow = s.core.c.shadow := by
      unfold CStrand.write
      rw [m]
      split <;> split <;> rfl
    refine ⟨?_, ?_, ?_, ?_, ?_, ?_, ?_⟩ <;> simp only [State.result, State.setS, State.cDone, State.cTick, State.updC_core_c] <;>
      rw [a, n] <;> first | exact p | rw [w, m]
  · intro h; rw [rg, CStrand.read_write _ _ _ h]
  · intro r h; rw [rg, CStrand.read_write_ne _ _ h, CStrand.remember_read]
  · have wc : ((s.core.c.remember d).write d v).cycles = s.core.c.cycles := by simp only [CStrand.cycles]; rw [w, m]
    have q := CStrand.newResult_readyAt ((s.core.c.remember d).write d v) d lat
    have k := (s.setS d v lat).cDone_counts
    have e : (s.setS d v lat).core.c = ((s.core.c.remember d).write d v).newResult d lat := rfl
    rw [e] at k
    refine ⟨k.1.trans ?_, ?_, k.2.trans ?_⟩
    · simp only [CStrand.cycles, CStrand.newResult_handler, CStrand.newResult_count, CStrand.newResult_hcount, CStrand.write_handler,
        CStrand.write_count, CStrand.write_hcount, CStrand.remember_handler, CStrand.remember_count, CStrand.remember_hcount]
    · rw [← wc, ← q]
      refine CStrand.readyAt_congr ?_ ?_ ?_ d <;> simp only [State.result, State.setS, State.cDone, State.cTick, State.updC_core_c] <;> rw [a]
    · simp only [CStrand.newResult_handler, CStrand.newResult_count, CStrand.write_handler, CStrand.write_count, CStrand.remember_handler,
        CStrand.remember_count]

/-! ### L, X and S -/

/-- A word of a step strand that nothing holds comes to what its effect says. -/
theorem stepWord_free {t : StepStrand} {h : Hitch} {i : Instr} {paced : Bool} {tokens posts : List (BitVec 2)} {s : State}
    (act : State → WordRes) (f : s.stepFree t h i paced tokens posts = true) :
    stepWord t h i paced tokens posts act s =
      match act s with
      | .wait w => s.stepTick t (some w)
      | .fault c v => s.stepTrap t c v (s.core.strand t).pc.toNat
      | .freeze z => if s.core.c.handler then s.stepTick t none else s.freezeAt t z
      | .also s' => s'
      | .ok s' done go => s.issues s' t h i paced tokens posts done go := by
  simp only [State.stepFree, Bool.and_eq_true, Option.isNone_iff_eq_none, Bool.not_eq_true'] at f
  obtain ⟨⟨⟨m, k⟩, p⟩, g⟩ := f
  have a : stepWord.stepAct t i paced (codes h.wait ++ tokens) (codes h.post ++ posts) (s.core.strand t) act s =
      match act s with
      | .wait w => s.stepTick t (some w)
      | .fault c v => s.stepTrap t c v (s.core.strand t).pc.toNat
      | .freeze z => if s.core.c.handler then s.stepTick t none else s.freezeAt t z
      | .also s' => s'
      | .ok s' done go => s.issues s' t h i paced tokens posts done go := by
    rw [stepWord.stepAct, g]; rfl
  rw [← a]
  unfold stepWord
  have c : (codes h.post ++ posts).find? (s.core.heldPost t s.now) = none := by
    rw [List.find?_eq_none]
    intro q hq e
    have := List.any_eq_false.mp p q hq
    exact this e
  clear a p g
  cases t <;> cases hm : s.core.v.modif <;> (try simp only [hm] at m) <;> (try simp only [m, if_true]) <;> simp only [k, c]

/-- A vector word that nothing holds, without a fault of its own and with its registers free, issues with its result on the way. -/
theorem vecWord_free {h : Hitch} {i : Instr} {fault : State → Option (BitVec 8 × Word64)} {names : State → List Nat} {lat : State → Nat}
    {k : State → List LatchTarget × Flags} {s : State} (f : s.stepFree .x h i false [] [] = true) (n : fault s = none)
    (b : s.scoreboarded (names s) = false) : vecWord h i fault names lat k s = .next (s.issuesVec h i (lat s) (k s)) := by
  rw [vecWord, stepWord_free _ f]
  simp only [n, b, Bool.false_eq_true, if_false]
  rfl

end Sys2Proof.Machine
end

