-- ==== Sys2Proof/Laws/CMem.lean ====
section
/-!
SUPPORT. What writing memory leaves as it was, and the bytes that a load sees and a store writes.
-/
namespace Sys2Proof.Machine

/-! ### Bytes -/

theorem leBytes_length (n v : Nat) : (leBytes n v).length = n := by
  induction n generalizing v with
  | zero => rfl
  | succ n ih => simp [leBytes, ih]

theorem leBytes_get (n v k : Nat) (h : k < n) : (leBytes n v).getD k 0 = BitVec.ofNat 8 (v / 256 ^ k) := by
  induction n generalizing v k with
  | zero => omega
  | succ n ih =>
    cases k with
    | zero => simp [leBytes]
    | succ k =>
      have := ih (v / 256) k (by omega)
      rw [leBytes, List.getD_cons_succ, this, Nat.div_div_eq_div_mul, pow_succ']

/-! ### Writing -/

theorem State.putCore_core_other (s : State) (c : Core) (h : ¬(s.core.die = c.die ∧ s.core.q = c.q)) : (s.putCore c).core = s.core := by
  rw [putCore, if_neg h]
  split <;> rfl

theorem State.putCore_mem (s : State) (c : Core) : (s.putCore c).mem = s.mem := by
  unfold State.putCore
  split
  · rfl
  · split <;> rfl

/-- What recording a line leaves of the core in focus and of memory. -/
def SameButLines (s t : State) : Prop :=
  t.mem = s.mem ∧ t.core = { s.core with gcache := t.core.gcache, pts := t.core.pts } ∧
    t = { s with llc := t.llc, core := { s.core with gcache := t.core.gcache, pts := t.core.pts } }

theorem SameButLines.refl (s : State) : SameButLines s s := ⟨rfl, rfl, rfl⟩

theorem SameButLines.trans {s t u : State} (h : SameButLines s t) (k : SameButLines t u) : SameButLines s u := by
  obtain ⟨a, b, c⟩ := h
  obtain ⟨d, e, f⟩ := k
  refine ⟨d.trans a, ?_, ?_⟩
  · rw [e, b]
  · rw [f, c]

theorem SameButLines.setLine (s : State) (x : Line) : SameButLines s (s.setLine x) := by
  unfold State.setLine
  dsimp only
  split <;> exact ⟨rfl, rfl, rfl⟩

theorem SameButLines.giveBack (s : State) (l : Nat) (b : Bool) : SameButLines s (s.giveBack l b) := ⟨rfl, rfl, rfl⟩

theorem SameButLines.core (s : State) (g : List GLine) (p : Nat) :
    SameButLines s { s with core := { s.core with gcache := g, pts := p } } := ⟨rfl, rfl, rfl⟩

theorem SameButLines.keepLine (s : State) (g : GLine) : SameButLines s (s.keepLine g) := by
  unfold State.keepLine
  dsimp only
  split
  · exact (SameButLines.giveBack s _ _).trans (.core _ _ _)
  · exact .core _ _ _

theorem SameButLines.foldl {α : Type} (l : List α) (f : State → α → State) (h : ∀ s x, SameButLines s (f s x)) (s : State) :
    SameButLines s (l.foldl f s) := by
  induction l generalizing s with
  | nil => exact .refl s
  | cons x l ih => exact (h s x).trans (ih _)

/-- A store recorded at the homes of its lines changes no memory, and of the core only its cache and timestamp. -/
theorem SameButLines.noteStore (s : State) (own : Bool) (stamp pa n : Nat) : SameButLines s (s.noteStore own stamp pa n) := by
  unfold State.noteStore
  dsimp only
  refine SameButLines.foldl _ _ (fun s l => ?_) s
  split
  · split
    · exact (SameButLines.core { s with llc := _ } s.core.gcache _)
    · exact ⟨rfl, rfl, rfl⟩
  · split
    · exact ((SameButLines.setLine s _).trans (.core _ _ _)).trans (.keepLine _ _)
    · exact .setLine s _

/-- A read at the homes of its lines. -/
theorem SameButLines.homeRead (s : State) (pa n : Nat) : SameButLines s (s.homeRead pa n) := by
  refine SameButLines.foldl _ _ (fun s l => ?_) s
  split
  · exact ⟨rfl, rfl, rfl⟩
  · exact (SameButLines.setLine s _).trans (.core _ _ _)

/-- A copy leased. -/
theorem SameButLines.lease (s : State) (l : Nat) : SameButLines s (s.lease l).1 :=
  (SameButLines.homeRead s _ _).trans (.setLine _ _)

/-- What a store of one line leaves: the core but for its cache and timestamp, and every byte's channel as it was. -/
theorem State.pokeLine_core (s : State) (own : Bool) (stamp pa : Nat) (bs : List (Byte × Byte)) :
    (s.pokeLine own stamp pa bs).core = { s.core with gcache := (s.pokeLine own stamp pa bs).core.gcache, pts := (s.pokeLine own stamp pa bs).core.pts } := by
  unfold State.pokeLine
  split
  · rfl
  · have h := (SameButLines.noteStore { s with mem := Memory.writeMasked s.mem pa bs, poison := clearPoison s.poison pa bs } own stamp pa bs.length).2.1
    rw [h]

theorem State.pokeLine_dead (s : State) (own : Bool) (stamp pa p : Nat) (bs : List (Byte × Byte)) :
    (s.pokeLine own stamp pa bs).deadByte p = s.deadByte p := by
  unfold State.pokeLine
  split
  · rfl
  · have h := (SameButLines.noteStore { s with mem := Memory.writeMasked s.mem pa bs, poison := clearPoison s.poison pa bs } own stamp pa bs.length).2.2
    rw [h]
    rfl

/-- Memory after a store of one line: the bytes merged in, or in a dead channel nothing. -/
theorem State.pokeLine_mem (s : State) (own : Bool) (stamp pa : Nat) (bs : List (Byte × Byte)) :
    (s.pokeLine own stamp pa bs).mem = if s.deadByte pa then s.mem else Memory.writeMasked s.mem pa bs := by
  unfold State.pokeLine
  split
  · rfl
  · exact (SameButLines.noteStore { s with mem := Memory.writeMasked s.mem pa bs, poison := clearPoison s.poison pa bs } own stamp pa bs.length).1

/-- What recording lines leaves of a core. -/
def SameButCache (c e : Core) : Prop := e = { c with gcache := e.gcache, pts := e.pts }

theorem SameButCache.refl (c : Core) : SameButCache c c := rfl
theorem SameButCache.trans {c e f : Core} (h : SameButCache c e) (k : SameButCache e f) : SameButCache c f := by
  rw [SameButCache] at *
  rw [k, h]

/-- Stores of several lines, one after another. -/
def State.pokeLines (s : State) (own : Bool) (stamp : Nat) (l : List (Nat × List (Byte × Byte))) : State :=
  l.foldl (fun s p => s.pokeLine own stamp p.1 p.2) s

/-- What stores of several lines leave of the core. -/
theorem State.pokeLines_core (own : Bool) (stamp : Nat) (l : List (Nat × List (Byte × Byte))) (s : State) :
    SameButCache s.core (s.pokeLines own stamp l).core := by
  induction l generalizing s with
  | nil => exact .refl _
  | cons p l ih => exact SameButCache.trans (s.pokeLine_core own stamp p.1 p.2) (ih _)

/-- What a buffered or performed effect of plain bytes leaves of the core in focus. -/
def SameButTask (c e : Core) : Prop := e = { c with task := e.task, rings := e.rings, gcache := e.gcache, pts := e.pts }

theorem SameButTask.refl (c : Core) : SameButTask c c := rfl
theorem SameButTask.trans {c e f : Core} (h : SameButTask c e) (k : SameButTask e f) : SameButTask c f := by
  rw [SameButTask] at *
  rw [k, h]
theorem SameButCache.same {c e : Core} (h : SameButCache c e) : SameButTask c e := by
  rw [SameButTask]
  rw [SameButCache] at h
  rw [h]

/-- Writing changes a task, the rings and the cache of the core in focus, and nothing else of it. -/
theorem State.poke_core (s : State) (own : Bool) (pa : Nat) (bs : List (Byte × Byte)) (stamp : Nat := 0) :
    SameButTask s.core (s.poke own pa bs stamp).core := by
  unfold State.poke
  cases w : windowOf pa with
  | none => exact (State.pokeLines_core own (Nat.max stamp (s.stampAll own (linesOf pa bs.length))) (lineParts pa bs) s).same
  | some p =>
    obtain ⟨d, q, off⟩ := p
    simp only [State.updCoreAt]
    generalize hx : s.noteWrite (s.coreAt d q) (own && d == s.core.die && q == s.core.q) off bs = x
    by_cases h : s.core.die = x.die ∧ s.core.q = x.q
    · by_cases g : s.core.die = d ∧ s.core.q = q
      · rw [State.coreAt, if_pos g] at hx
        rw [State.putCore, if_pos h, ← hx]
        rfl
      · exfalso
        apply g
        have e : x.die = (s.coreAt d q).die ∧ x.q = (s.coreAt d q).q := by rw [← hx]; exact ⟨rfl, rfl⟩
        rw [State.coreAt, if_neg g] at e
        cases f : (s.others.find? fun c => c.die == d && c.q == q) with
        | none => simp only [f, Option.getD_none, Core.reset] at e; exact ⟨h.1.trans e.1, h.2.trans e.2⟩
        | some y =>
          have := List.find?_some f
          simp only [Bool.and_eq_true, beq_iff_eq] at this
          simp only [f, Option.getD_some] at e
          exact ⟨h.1.trans (e.1.trans this.1), h.2.trans (e.2.trans this.2)⟩
    · rw [State.putCore_core_other _ _ h]
      exact .refl _

/-- One more line of a write: from the bytes below `base` merged in to those below `top`. -/
theorem State.pokeLine_read {s t : State} (own : Bool) (stamp pa base top a : Nat) (bs : List (Byte × Byte))
    (ha : a = max pa base) (hb : base < pa + bs.length)
    (live : ∀ k, k < bs.length → t.deadByte (pa + k) = false) (iw : Memory.wf t.mem = true)
    (ir : ∀ x, Memory.read t.mem x = if pa ≤ x ∧ x < pa + bs.length ∧ x < base then
        mergeByte (Memory.read s.mem x) (bs.getD (x - pa) (0, 0)).2 (bs.getD (x - pa) (0, 0)).1 else Memory.read s.mem x) :
    let u := t.pokeLine own stamp a ((bs.drop (a - pa)).take (top - a))
    Memory.wf u.mem = true ∧ (∀ p, u.deadByte p = t.deadByte p) ∧ (base ≤ top → ∀ x, Memory.read u.mem x =
      if pa ≤ x ∧ x < pa + bs.length ∧ x < top then
        mergeByte (Memory.read s.mem x) (bs.getD (x - pa) (0, 0)).2 (bs.getD (x - pa) (0, 0)).1 else Memory.read s.mem x) := by
  generalize hp : (bs.drop (a - pa)).take (top - a) = part
  have len : part.length = min (top - a) (bs.length - (a - pa)) := by
    rw [← hp, List.length_take, List.length_drop]
  have get : ∀ x, a ≤ x → x < a + part.length → part.getD (x - a) (0, 0) = bs.getD (x - pa) (0, 0) := by
    intro x h1 h2
    rw [List.getD_eq_getElem _ _ (by omega), List.getD_eq_getElem _ _ (by omega)]
    subst hp
    simp only [List.getElem_take, List.getElem_drop]
    congr 1
    omega
  refine ⟨?_, fun p => State.pokeLine_dead _ _ _ _ _ _, fun bt x => ?_⟩
  · rw [State.pokeLine_mem]
    split
    · exact iw
    · exact Memory.wf_writeMasked iw a part
  · rw [State.pokeLine_mem]
    by_cases e : bs.length = 0
    · have : ∀ y, Memory.read (if t.deadByte a then t.mem else Memory.writeMasked t.mem a part) y = Memory.read t.mem y := by
        intro y
        split
        · rfl
        · rw [Memory.read_writeMasked iw, if_neg (by omega)]
      rw [this, ir, if_neg (by omega), if_neg (by omega)]
    · have al : t.deadByte a = false := by
        rw [show a = pa + (a - pa) by omega]
        exact live _ (by omega)
      rw [al, if_neg (by simp), Memory.read_writeMasked iw, ir]
      by_cases c : a ≤ x ∧ x < a + part.length
      · have d : ¬(pa ≤ x ∧ x < pa + bs.length ∧ x < base) := by omega
        have f : pa ≤ x ∧ x < pa + bs.length ∧ x < top := by omega
        rw [if_pos c, if_neg d, if_pos f, get x c.1 c.2]
      · rw [if_neg c]
        by_cases d : pa ≤ x ∧ x < pa + bs.length ∧ x < base
        · have f : pa ≤ x ∧ x < pa + bs.length ∧ x < top := by omega
          rw [if_pos d, if_pos f]
        · have f : ¬(pa ≤ x ∧ x < pa + bs.length ∧ x < top) := by omega
          rw [if_neg d, if_neg f]

theorem natMax_eq (a b : Nat) : Nat.max a b = max a b := rfl

/-- Where the i'th line from that of an address starts. -/
def lineStart (pa i : Nat) : Nat := (pa / 1024 + i) * 1024

/-- The part of a write that lies in its i'th line, and where it starts. -/
def linePart (pa : Nat) (bs : List (Byte × Byte)) (i : Nat) : Nat × List (Byte × Byte) :=
  (Nat.max pa (lineStart pa i), (bs.drop (Nat.max pa (lineStart pa i) - pa)).take (lineStart pa (i + 1) - Nat.max pa (lineStart pa i)))

theorem lineParts_eq (pa : Nat) (bs : List (Byte × Byte)) :
    lineParts pa bs = (List.range ((pa % 1024 + bs.length + 1023) / 1024)).map (linePart pa bs) := by
  unfold lineParts
  refine List.map_congr_left fun i _ => ?_
  simp only [linePart, lineStart, Nat.add_assoc]

theorem State.pokeLines_append (s : State) (own : Bool) (stamp : Nat) (l m : List (Nat × List (Byte × Byte))) :
    s.pokeLines own stamp (l ++ m) = (s.pokeLines own stamp l).pokeLines own stamp m := List.foldl_append

theorem State.pokeLines_cons (s : State) (own : Bool) (stamp : Nat) (p : Nat × List (Byte × Byte)) (l : List (Nat × List (Byte × Byte))) :
    s.pokeLines own stamp (p :: l) = (s.pokeLine own stamp p.1 p.2).pokeLines own stamp l := by
  rw [State.pokeLines, List.foldl_cons, State.pokeLines]

theorem State.pokeLines_one (s : State) (own : Bool) (stamp : Nat) (p : Nat × List (Byte × Byte)) :
    s.pokeLines own stamp [p] = s.pokeLine own stamp p.1 p.2 := by
  rw [State.pokeLines, List.foldl_cons, List.foldl_nil]

theorem linePart_fst (pa : Nat) (bs : List (Byte × Byte)) (i : Nat) : (linePart pa bs i).1 = max pa (lineStart pa i) := by
  unfold linePart
  exact natMax_eq _ _

theorem linePart_snd (pa : Nat) (bs : List (Byte × Byte)) (i : Nat) :
    (linePart pa bs i).2 = (bs.drop ((linePart pa bs i).1 - pa)).take (lineStart pa (i + 1) - (linePart pa bs i).1) := by
  unfold linePart
  generalize lineStart pa (i + 1) = b
  generalize Nat.max pa (lineStart pa i) = a
  rfl

/-- A byte of memory after the first k lines of a write: merged in below the end of line k, else as before. -/
theorem State.pokeLines_read {s : State} (h : Memory.wf s.mem = true) (own : Bool) (stamp pa : Nat) (bs : List (Byte × Byte))
    (live : ∀ k, k < bs.length → s.deadByte (pa + k) = false) (k : Nat) (hk : ∀ i, i < k → lineStart pa i < pa + bs.length) :
    Memory.wf (s.pokeLines own stamp ((List.range k).map (linePart pa bs))).mem = true ∧
    (∀ p, (s.pokeLines own stamp ((List.range k).map (linePart pa bs))).deadByte p = s.deadByte p) ∧
    ∀ x, Memory.read (s.pokeLines own stamp ((List.range k).map (linePart pa bs))).mem x =
      if pa ≤ x ∧ x < pa + bs.length ∧ x < lineStart pa k then
        mergeByte (Memory.read s.mem x) (bs.getD (x - pa) (0, 0)).2 (bs.getD (x - pa) (0, 0)).1
      else Memory.read s.mem x := by
  induction k with
  | zero => exact ⟨h, fun _ => rfl, fun x => by rw [if_neg (by unfold lineStart; omega)]; rfl⟩
  | succ k ih =>
    obtain ⟨iw, id_, ir⟩ := ih (fun i hi => hk i (Nat.lt_succ_of_lt hi))
    rw [List.range_succ, List.map_append, State.pokeLines_append, List.map_cons, List.map_nil, State.pokeLines_one]
    generalize s.pokeLines own stamp ((List.range k).map (linePart pa bs)) = t at iw id_ ir ⊢
    rw [linePart_snd]
    obtain ⟨a, b, c⟩ := State.pokeLine_read (s := s) (t := t) own stamp pa (lineStart pa k) (lineStart pa (k + 1)) (linePart pa bs k).1 bs
      (linePart_fst pa bs k) (hk k (Nat.lt_succ_self k))
      (fun j hj => (id_ _).trans (live j hj)) iw ir
    exact ⟨a, fun p => (b p).trans (id_ p), c (by unfold lineStart; omega)⟩

/-- A byte of memory after a write whose bytes land: merged in, or as before outside the range. -/
theorem State.poke_read {s : State} (h : Memory.wf s.mem = true) (own : Bool) (pa : Nat) (bs : List (Byte × Byte)) (stamp : Nat)
    (live : (windowOf pa).isSome = true ∨ ∀ k, k < bs.length → s.deadByte (pa + k) = false) (x : Nat) :
    Memory.read (s.poke own pa bs stamp).mem x =
      if pa ≤ x ∧ x < pa + bs.length then mergeByte (Memory.read s.mem x) (bs.getD (x - pa) (0, 0)).2 (bs.getD (x - pa) (0, 0)).1
      else Memory.read s.mem x := by
  unfold State.poke
  cases w : windowOf pa with
  | none =>
    have l : ∀ k, k < bs.length → s.deadByte (pa + k) = false := by simpa [w] using live
    have hk : ∀ i, i < (pa % 1024 + bs.length + 1023) / 1024 → lineStart pa i < pa + bs.length := by
      intro i hi
      unfold lineStart
      omega
    have r := (State.pokeLines_read h own (Nat.max stamp (s.stampAll own (linesOf pa bs.length))) pa bs l _ hk).2.2 x
    have top : pa + bs.length ≤ lineStart pa ((pa % 1024 + bs.length + 1023) / 1024) := by unfold lineStart; omega
    rw [← lineParts_eq] at r
    refine r.trans ?_
    clear r hk
    generalize lineStart pa ((pa % 1024 + bs.length + 1023) / 1024) = e at top ⊢
    by_cases c : pa ≤ x ∧ x < pa + bs.length
    · rw [if_pos c, if_pos (by omega)]
    · rw [if_neg c, if_neg (by omega)]
  | some p => exact Memory.read_writeMasked h pa x bs

/-- The same for whole bytes. -/
theorem State.pokeBytes_read {s : State} (h : Memory.wf s.mem = true) (own : Bool) (pa : Nat) (bs : List Byte) (stamp : Nat)
    (live : (windowOf pa).isSome = true ∨ ∀ k, k < bs.length → s.deadByte (pa + k) = false) (x : Nat) :
    Memory.read (s.pokeBytes own pa bs stamp).mem x =
      if pa ≤ x ∧ x < pa + bs.length then bs.getD (x - pa) 0 else Memory.read s.mem x := by
  have n : (whole bs).length = bs.length := by simp [whole]
  rw [State.pokeBytes, State.poke_read h own pa (whole bs) stamp (by rwa [n]), n]
  split
  · next c =>
    have i : x - pa < bs.length := by omega
    rw [List.getD_eq_getElem _ _ (by omega), List.getD_eq_getElem _ _ i]
    simp only [whole, List.getElem_map]
    exact mergeByte_whole _ _
  · rfl

/-- A store inside one line of global memory that stands writes its bytes. -/
theorem State.pokeBytes_mem (s : State) (own : Bool) (pa : Nat) (bs : List Byte) (stamp : Nat) (p : 0 < bs.length)
    (h : pa % 1024 + bs.length ≤ 1024) (w : windowOf pa = none) (d : s.deadByte pa = false) :
    (s.pokeBytes own pa bs stamp).mem = Memory.writeBytes s.mem pa bs := by
  have l : (whole bs).length = bs.length := by simp [whole]
  have n : (pa % 1024 + (whole bs).length + 1023) / 1024 = 1 := by rw [l]; omega
  have e : lineParts pa (whole bs) = [(pa, whole bs)] := by
    rw [lineParts_eq, n, List.range_one, List.map_singleton]
    have f : (linePart pa (whole bs) 0).1 = pa := by
      rw [linePart_fst]
      have := Nat.div_mul_le_self pa 1024
      unfold lineStart; omega
    refine congrArg (fun x => [x]) (Prod.ext f ?_)
    have := Nat.div_add_mod pa 1024
    rw [linePart_snd, f, Nat.sub_self, List.drop_zero, List.take_of_length_le (by rw [l]; unfold lineStart; omega)]
  unfold State.pokeBytes State.poke
  rw [w]
  dsimp only
  rw [e, List.foldl_cons, List.foldl_nil, State.pokeLine_mem, if_neg (by simp [d]), Memory.writeMasked_whole]

theorem State.isLocal_window {s : State} {pa : Nat} (h : s.isLocal pa = true) : (windowOf pa).isSome = true := by
  unfold State.isLocal at h
  cases w : windowOf pa with
  | none => simp [w] at h
  | some p => rfl

/-! ### Completing -/

theorem SameRest.trans {c e f : CStrand} (h : SameRest c e) (k : SameRest e f) : SameRest c f := by
  obtain ⟨h1, h2, h3, h4, h5, h6, h7⟩ := h
  obtain ⟨k1, k2, k3, k4, k5, k6, k7⟩ := k
  refine ⟨k1.trans h1, k2.trans h2, ?_, k4.trans h4, k5.trans h5, k6.trans h6, k7.trans h7⟩
  rw [h1] at k3
  split <;> simp_all

theorem SameRest.write (c : CStrand) (d : BitVec 5) (v : Word64) : SameRest c (c.write d v) := by
  have p : if c.handler then (c.write d v).prim = c.prim else (c.write d v).shadow = c.shadow := by
    unfold CStrand.write
    split <;> split <;> rfl
  refine ⟨?_, ?_, p, ?_, ?_, ?_, ?_⟩ <;> rw [CStrand.write_regs_only]

theorem SameRest.remember (c : CStrand) (d : BitVec 5) : SameRest c (c.remember d) := by
  rw [c.remember_only]
  refine ⟨rfl, rfl, ?_, rfl, rfl, rfl, rfl⟩
  split <;> rfl

theorem SameRest.of_loads (c : CStrand) (r q : Vector Nat 32) (o : Vector (Nat × Nat) 32) (x : List CLoad) :
    SameRest c { c with ready := r, shReady := q, origin := o, loads := x } := by
  refine ⟨rfl, rfl, ?_, rfl, rfl, rfl, rfl⟩
  split <;> rfl

/-- What completing leaves of C once a result is written, whatever is recorded about when it is ready. -/
theorem State.cDone_result (s s1 : State) (d : BitVec 5) (v : Word64) (r p : Vector Nat 32) (o : Vector (Nat × Nat) 32) (x : List CLoad)
    (h : s1.core.c = { (s.core.c.remember d).write d v with ready := r, shReady := p, origin := o, loads := x }) :
    SameRest s.core.c s1.cDone.core.c ∧ (d ≠ 0 → s1.cDone.core.c.read d = v) ∧ (∀ q, q ≠ d → s1.cDone.core.c.read q = s.core.c.read q) ∧
      s1.cDone.core.c.chain = s.core.c.advance.chain ∧ s1.cDone.core.c.stack = s.core.c.advance.stack := by
  have m := CStrand.remember_only s.core.c d
  have w := CStrand.write_regs_only (s.core.c.remember d) d v
  obtain ⟨-, c1, c2, c3, c4⟩ := s1.cDone_spec
  have g := CStrand.advance_congr (c := s.core.c) (e := s1.core.c) (by rw [h, w, m]) (by simp only [h, CStrand.stack]; rw [w, m]) (by rw [h, w, m])
  have rd : ∀ q, s1.cDone.core.c.read q = ((s.core.c.remember d).write d v).read q :=
    fun q => (c2 q).trans (CStrand.read_congr (by rw [h]) (by rw [h]) (by rw [h]) q)
  refine ⟨?_, fun e => by rw [rd, CStrand.read_write _ _ _ e], fun q e => by rw [rd, CStrand.read_write_ne _ _ e, CStrand.remember_read], c3.trans g.1, c4.trans g.2⟩
  rw [h] at c1
  exact ((SameRest.remember _ d).trans (SameRest.write _ d v)).trans ((SameRest.of_loads _ r p o x).trans c1)

/-- A load whose data comes later completes. -/
theorem State.resultLate_spec (s : State) (d : BitVec 5) (v : Word64) (l : Option GLine) (va pa : Nat) :
    s.resultLate d v l va pa = { s with free := s.free + 1, core := { s.core with c := (s.resultLate d v l va pa).core.c } } ∧
      SameRest s.core.c (s.resultLate d v l va pa).core.c ∧ (d ≠ 0 → (s.resultLate d v l va pa).core.c.read d = v) ∧
      (∀ q, q ≠ d → (s.resultLate d v l va pa).core.c.read q = s.core.c.read q) ∧
      (s.resultLate d v l va pa).core.c.chain = s.core.c.advance.chain ∧ (s.resultLate d v l va pa).core.c.stack = s.core.c.advance.stack := by
  have n := CStrand.newResult_only ((s.core.c.remember d).write d v) d 1
  refine ⟨rfl, ?_⟩
  refine State.cDone_result s _ d v (((s.core.c.remember d).write d v).newResult d 1).ready (((s.core.c.remember d).write d v).newResult d 1).shReady
    (((s.core.c.remember d).write d v).newResult d 1).origin ((((s.core.c.remember d).write d v).newResult d 1).loads ++
      [⟨d, s.servedFrom [pa] + (1 + Config.loadDelay s.free) * s.core.div.ctl, l, (((s.core.c.remember d).write d v).newResult d 1).handler,
        BitVec.ofNat 64 va⟩]) ?_
  simp only [State.updC_core_c, State.setS, State.fresh]
  rw [n]

/-- A word of C whose lines were recorded before it completed has loaded. -/
theorem SameButLines.loaded {s s1 t : State} {d : BitVec 5} {v : Word64} (h : SameButLines s s1) (k : CLoaded s1 t d v) : CLoaded s t d v := by
  obtain ⟨-, hc, h⟩ := h
  obtain ⟨a, b, c, e, f, g⟩ := k
  have cc : s1.core.c = s.core.c := by rw [hc]
  rw [cc] at b e f g
  refine ⟨?_, b, c, e, f, g⟩
  rw [a, h]

/-- A load completes. -/
theorem State.loaded_spec (s : State) (d : BitVec 5) (v : Word64) (va pa : Nat) :
    CLoaded s (s.loaded d v va pa) d v ∧
      (s.isLocal pa = true → (s.loaded d v va pa).core.c.readyAt d = s.core.c.cycles + 6) := by
  have R : ∀ (s : State) n, CLoaded s (s.result d v n) d v := by
    intro s n
    obtain ⟨a, b, c, e, f, g, -⟩ := State.result_spec s d v n
    refine ⟨?_, b, c, e, f, g⟩
    rw [OnlyC] at a; rw [a]
  have L : ∀ (s : State) l, CLoaded s (s.resultLate d v l va pa) d v := by
    intro s l
    obtain ⟨a, r⟩ := State.resultLate_spec s d v l va pa
    refine ⟨?_, r⟩
    rw [a]
  unfold State.loaded
  split
  · exact ⟨R s 6, fun _ => (State.result_spec s d v 6).2.2.2.2.2.2.2.1⟩
  · next h =>
    refine ⟨?_, fun k => absurd k h⟩
    split
    · exact L s _
    · split
      · exact (SameButLines.homeRead s _ _).loaded (L _ _)
      · split
        · exact (SameButLines.core s s.core.gcache (s.core.pts + 1)).loaded (R _ 8)
        · exact (SameButLines.lease s _).loaded (L _ _)

/-- Nothing stands in the way of the bytes of a load. -/
theorem State.loadAt_free (s : State) (va pa n : Nat) (k : Nat → State → State) (h : ∀ i, i < n → s.notBuilt (va + i) = false)
    (p : s.poisonIn va pa n = none) : s.loadAt va pa n k = k (leNat (s.seenBytes va pa n)) s := by
  unfold State.loadAt
  rw [if_neg, p]
  simpa using h

/-- What an access comes after has performed. -/
theorem State.cAccess_free {s : State} {pa : Nat} (k : State → State) (h : (s.isLocal pa || (snapOf pa).isSome || s.cOrdered) = true) :
    s.cAccess pa k = k s := by rw [State.cAccess, if_pos h]

theorem State.cPage_ok {s : State} {va pa : Nat} {write : Bool} (k : Nat → State → State) (h : s.page va write = .ok pa) :
    s.cPage va write k = k pa s := by rw [State.cPage, h]

theorem CLoaded.giveUpLine {s t : State} {d : BitVec 5} {v : Word64} (h : CLoaded s t d v) (pa : Nat) : CLoaded s (t.giveUpLine pa) d v := by
  obtain ⟨a, b, c, e, f, g⟩ := h
  refine ⟨?_, b.trans ?_, c, e, f, g⟩
  · conv_lhs => rw [State.giveUpLine, State.giveBack, State.updCore, a]
    rw [a]; rfl
  · exact ⟨rfl, rfl, by split <;> rfl, rfl, rfl, rfl, rfl⟩

/-- A load that nothing holds and that reaches its bytes completes. -/
theorem cLoad_free {i : Instr} {d a : BitVec 5} {imm : BitVec 15} {n pa : Nat} {ext : Nat → Word64} {after : Nat → State → State} {s : State}
    (f : s.cFree i [a] = true) (h : s.reaches (s.core.c.read a + imm.signExtend 64).toNat pa n false) :
    cLoad i d a imm n ext after s =
      .next (after pa (s.loaded d (ext (leNat (s.seenBytes (s.core.c.read a + imm.signExtend 64).toNat pa n))) (s.core.c.read a + imm.signExtend 64).toNat pa)) := by
  obtain ⟨al, pg, od, rd⟩ := h
  rw [cLoad, cWord_free _ f]
  dsimp only
  rw [show imm15 imm = imm.signExtend 64 from rfl, if_neg (by simpa using al), State.cPage_ok _ pg, State.cAccess_free _ (od (.inl rfl)), State.loadAt_free _ _ _ _ _ (rd rfl).1 (rd rfl).2]

/-! ### Stores and effects -/

theorem SameButTask.updTask (s : State) (f : Task → Task) : SameButTask s.core (s.updTask f).core := rfl
theorem SameButTask.poke (s : State) (own : Bool) (pa : Nat) (bs : List (Byte × Byte)) (stamp : Nat) :
    SameButTask s.core (s.poke own pa bs stamp).core := s.poke_core own pa bs stamp

theorem SameButTask.c {c e : Core} (h : SameButTask c e) : e.c = c.c := by rw [h]

/-- A store to global memory that performs writes its bytes. -/
theorem State.perform_store (s : State) (va : Nat) {pa : Nat} (bs : List (Byte × Byte)) (w : windowOf pa = none) :
    s.perform (.store va pa bs) = s.poke true pa bs := by
  simp only [State.perform, State.storeTo, w]

/-- A store that is no snapshot's and performs at once writes its bytes, every other byte as before, and completes. -/
theorem State.storeAt_performs {s : State} {va pa : Nat} {bytes : List Byte} (wf : Memory.wf s.mem = true) (h : s.performsAt pa bytes.length) :
    ∃ s1 : State, s.storeAt va pa bytes = s1.cDone ∧ SameButTask s.core s1.core ∧
      ∀ x, Memory.read s1.mem x = if pa ≤ x ∧ x < pa + bytes.length then bytes.getD (x - pa) 0 else Memory.read s.mem x := by
  obtain ⟨sn, h⟩ := h
  unfold State.storeAt
  rw [sn]
  dsimp only
  by_cases l : s.isLocal pa = true
  · rw [if_pos l]
    exact ⟨_, rfl, .poke _ _ _ _ _, s.pokeBytes_read wf _ _ _ _ (.inl (State.isLocal_window l))⟩
  rw [if_neg l]
  rcases h with h | h | ⟨w, dd, h⟩
  · exact absurd h l
  · obtain ⟨⟨x, q, off, w, fl⟩, fo⟩ := h
    rw [if_pos (by simp [w, fo])]
    refine ⟨_, rfl, ?_, ?_⟩
    · simp only [State.perform, State.storeTo, w, fl, ite_self]
      exact .poke _ _ _ _ _
    · simp only [State.perform, State.storeTo, w, fl, ite_self]
      exact s.pokeBytes_read wf true _ _ _ (.inl (by simp [w]))
  · rw [if_neg (by simp [w])]
    unfold State.put
    cases e : s.core.task with
    | none =>
      refine ⟨_, rfl, ?_, ?_⟩ <;> rw [State.perform_store _ _ _ w]
      · exact .poke _ _ _ _ _
      · exact s.pokeBytes_read wf true _ _ _ (.inr dd)
    | some t =>
      dsimp only
      rw [if_pos (h t e)]
      refine ⟨_, rfl, ?_, ?_⟩ <;> rw [State.perform_store _ _ _ w]
      · exact (SameButTask.updTask s _).trans (.poke _ _ _ _ _)
      · exact State.pokeBytes_read (s := s.updTask _) wf true _ _ _ (.inr dd)

/-- An effect that has room in the splice buffer of a task that is not pinned goes into it. -/
theorem State.put_buffers {s : State} {k : Task} {e : EffKind} (rank : Nat) (h : s.core.task = some k) (p : k.pinned = false)
    (r : k.used + s.core.m.reserved + e.size ≤ 524288) :
    ∃ s1 : State, s.put rank e = .done s1 ∧ s1.mem = s.mem ∧ SameButTask s.core s1.core ∧
      s1.core.task.map (·.buf) = some (insertEff ⟨e, s.copyCycle, rank, none, s.issuePhase rank⟩ k.buf) := by
  unfold State.put
  rw [h]
  dsimp only
  rw [if_neg (by simp [p]), if_pos r]
  exact ⟨_, rfl, rfl, (SameButTask.updTask s _).trans (.updTask _ _), by simp [State.updTask, h]⟩

theorem cStore_free {i : Instr} {b a : BitVec 5} {imm : BitVec 15} {n pa : Nat} {s : State}
    (f : s.cFree i [a, b] = true) (h : s.reaches (s.core.c.read a + imm.signExtend 64).toNat pa n true) :
    cStore i b a imm n s = .next (s.storeAt (s.core.c.read a + imm.signExtend 64).toNat pa (leBytes n (s.core.c.read b).toNat)) := by
  obtain ⟨al, pg, od, -⟩ := h
  rw [cStore, cWord_free _ f]
  dsimp only
  rw [show imm15 imm = imm.signExtend 64 from rfl, if_neg (by simpa using al), State.cPage_ok _ pg]
  cases e : s.pinnedTask with
  | false => rfl
  | true => rw [if_pos rfl, State.cAccess_free _ (od (.inr e))]

theorem State.cDone_mem (s : State) : s.cDone.mem = s.mem := rfl
theorem State.cDone_core (s : State) : s.cDone.core = { s.core with c := s.cDone.core.c } := by
  have := s.cDone_spec.1
  rw [OnlyC] at this
  rw [this]

theorem State.cDone_next {s s1 : State} (h : SameButTask s.core s1.core) : CNext s.core.c s1.cDone.core.c := by
  have := s1.cDone_spec.2
  rwa [h.c] at this

end Sys2Proof.Machine
end

