-- ==== Sys2Proof/Laws/Fields.lean ====
section
/-!
SUPPORT. Fields of a word built by `put`: a placed field reads as the value placed, and the other fields as before.
-/
namespace Sys2Proof.Laws

/-- n bits of a number from bit lo on. -/
def fieldAt (m lo n : Nat) : Nat := m / 2 ^ lo % 2 ^ n

/-- A field of a word as a number. -/
theorem bits_word {m lo n x : Nat} (h : lo + n ≤ 32) (e : fieldAt m lo n = x) : (bits (word m) lo n).toNat = x := by
  rw [bits, word, BitVec.toNat_ofNat, BitVec.toNat_ofNat, ← e, fieldAt]
  rw [← Nat.add_sub_cancel' (Nat.le_of_add_right_le h), pow_add, Nat.mod_mul_right_div_self, Nat.mod_mod_of_dvd]
  exact pow_dvd_pow 2 (by omega)

/-- A field of a word as a bit vector. -/
theorem bits_is {m lo n : Nat} {v : BitVec n} (h : lo + n ≤ 32) (e : fieldAt m lo n = v.toNat) : bits (word m) lo n = v :=
  BitVec.eq_of_toNat_eq (bits_word h e)

/-- A hitch field of two codes. -/
theorem hitch_is {m lo : Nat} {h : Hitch} (l : lo + 4 ≤ 32) (a : fieldAt m (lo + 2) 2 = h.wait.toNat) (b : fieldAt m lo 2 = h.post.toNat) :
    hitchAt (word m) lo = h := by
  rw [hitchAt, bits_is (by omega) a, bits_is (by omega) b]

/-- A field differs from a value whose part of it is another one. -/
theorem bits_isNot {m lo n p k x : Nat} {v : BitVec n} (h : lo + n ≤ 32) (e : fieldAt m p k = x) (lp : lo ≤ p) (pk : p + k ≤ lo + n)
    (ne : x ≠ fieldAt v.toNat (p - lo) k) : ¬ bits (word m) lo n = v := by
  intro c
  apply ne
  rw [← e, ← c, bits_word h rfl, fieldAt, fieldAt, fieldAt]
  obtain ⟨q, rfl⟩ := Nat.exists_eq_add_of_le lp
  obtain ⟨r, rfl⟩ : ∃ r, n = q + (k + r) := ⟨n - q - k, by omega⟩
  rw [Nat.add_sub_cancel_left, pow_add 2 q, Nat.mod_mul_right_div_self, Nat.mod_mod_of_dvd _ (pow_dvd_pow 2 (by omega)), pow_add,
    Nat.div_div_eq_div_mul]

/-- The field placed. -/
theorem put_get {lo n acc : Nat} {v : BitVec n} (f : fieldAt acc lo n = 0) : fieldAt (put lo v acc) lo n = v.toNat := by
  have hv := v.isLt
  rw [put, fieldAt, Nat.add_mul_div_right _ _ (by positivity), Nat.add_mod]
  rw [fieldAt] at f
  rw [f, Nat.zero_add, Nat.mod_mod, Nat.mod_eq_of_lt hv]

/-- A field below the one placed. -/
theorem put_low {lo n acc p k x : Nat} {v : BitVec n} (h : p + k ≤ lo) (e : fieldAt acc p k = x) : fieldAt (put lo v acc) p k = x := by
  rw [← e, put, fieldAt, fieldAt]
  obtain ⟨r, rfl⟩ : ∃ r, lo = p + (k + r) := ⟨lo - p - k, by omega⟩
  rw [pow_add, mul_left_comm, Nat.add_mul_div_left _ _ (by positivity), pow_add, mul_left_comm, Nat.add_mul_mod_self_left]

/-- A field above the one placed. -/
theorem put_high {lo n acc p k x : Nat} {v : BitVec n} (h : lo + n ≤ p) (f : fieldAt acc lo n = 0) (e : fieldAt acc p k = x) :
    fieldAt (put lo v acc) p k = x := by
  have hv := v.isLt
  rw [← e, put, fieldAt, fieldAt]
  congr 1
  obtain ⟨r, rfl⟩ := Nat.exists_eq_add_of_le h
  rw [pow_add, ← Nat.div_div_eq_div_mul, ← Nat.div_div_eq_div_mul, pow_add, ← Nat.div_div_eq_div_mul, ← Nat.div_div_eq_div_mul,
    Nat.add_mul_div_right _ _ (by positivity)]
  rw [fieldAt] at f
  congr 1
  have h2 : acc / 2 ^ lo = 2 ^ n * (acc / 2 ^ lo / 2 ^ n) := by have := Nat.div_add_mod (acc / 2 ^ lo) (2 ^ n); omega
  rw [h2, Nat.mul_add_div (by positivity), Nat.mul_div_cancel_left _ (by positivity), Nat.div_eq_of_lt hv, Nat.add_zero]

/-! ### The maps -/

/-- A strand's map applied to a word, its result checked for reserved values. -/
theorem decode_c {w : Word32} {i : Instr} (r : decodeC w = .ok i) (wf : i.wf = true) : decode .c w = .ok i := by
  simp only [decode, r, wf, if_true]
theorem decode_l {w : Word32} {i : Instr} (r : decodeStep .l w (decodeL w) = .ok i) (wf : i.wf = true) : decode .l w = .ok i := by
  simp only [decode, r, wf, if_true]
theorem decode_x {w : Word32} {i : Instr} (r : decodeStep .x w (decodeX w) = .ok i) (wf : i.wf = true) : decode .x w = .ok i := by
  simp only [decode, r, wf, if_true]
theorem decode_s {w : Word32} {i : Instr} (r : decodeStep .s w (decodeS w) = .ok i) (wf : i.wf = true) : decode .s w = .ok i := by
  simp only [decode, r, wf, if_true]

/-- A form common to L, X and S. -/
theorem decode_step {t : StepStrand} {w : Word32} {i : Instr} (r : ∀ o, decodeStep t w o = .ok i) (wf : i.wf = true) :
    decode t.strand w = .ok i := by
  cases t
  · exact decode_l (r _) wf
  · exact decode_x (r _) wf
  · exact decode_s (r _) wf

/-- An opcode past the forms common to L, X and S goes to the strand's own map. -/
theorem decodeStep_own {t : StepStrand} {w : Word32} {o r : Except DecodeError Instr} (h : 10 ≤ (bits w 26 6).toNat) (e : o = r) :
    decodeStep t w o = r := by
  subst e
  unfold decodeStep
  split <;> first | rfl | omega

/-- The opcode of a word whose top four bits are not below 3. -/
theorem top_own {w : Word32} {k : Nat} (h : (bits w 28 4).toNat = k) (ge : 3 ≤ k) : 10 ≤ (bits w 26 6).toNat := by
  have := w.isLt
  simp only [bits, BitVec.toNat_ofNat] at h ⊢
  omega

/-- An opcode below 0x30 goes to X's words with the opcode-and-hitch layout. -/
theorem decodeX_hitch {w : Word32} {r : Except DecodeError Instr} (h : (bits w 28 4).toNat < 12) (e : decodeXHitch w = r) :
    decodeX w = r := by
  subst e
  unfold decodeX
  split <;> first | rfl | omega

end Sys2Proof.Laws
end

