-- ==== Sys2Proof/Laws/PerInstr.lean ====
section
/-!
SUPPORT. One lemma per constructor for the families of LAWS.json.  RoundTrip: decoding the word of an instruction, in the map of its
strand, gives the instruction back, with every operand at every value that is not reserved (05 R82 to R97).
-/
namespace Sys2Proof.Laws.RoundTrip

/-- The instruction's own strand reads its word as the instruction, unless a field holds a reserved value. -/
def Statement (i : Instr) : Prop := ∀ t, i.home = some t → i.wf = true → decode t (encode i) = .ok i

theorem decodeC_op00 {w : Word32} (o : (bits w 25 7).toNat = 0) : decodeC w =
    (if bits w 0 10 = 0x0 then .ok (.add (bits w 20 5) (bits w 15 5) (bits w 10 5))
     else if bits w 0 10 = 0x1 then .ok (.sub (bits w 20 5) (bits w 15 5) (bits w 10 5))
     else if bits w 0 10 = 0x2 then .ok (.and (bits w 20 5) (bits w 15 5) (bits w 10 5))
     else if bits w 0 10 = 0x3 then .ok (.or (bits w 20 5) (bits w 15 5) (bits w 10 5))
     else if bits w 0 10 = 0x4 then .ok (.xor (bits w 20 5) (bits w 15 5) (bits w 10 5))
     else if bits w 0 10 = 0x5 then .ok (.shl (bits w 20 5) (bits w 15 5) (bits w 10 5))
     else if bits w 0 10 = 0x6 then .ok (.shr (bits w 20 5) (bits w 15 5) (bits w 10 5))
     else if bits w 0 10 = 0x7 then .ok (.sra (bits w 20 5) (bits w 15 5) (bits w 10 5))
     else if bits w 0 10 = 0x8 then .ok (.slt (bits w 20 5) (bits w 15 5) (bits w 10 5))
     else if bits w 0 10 = 0x9 then .ok (.sltu (bits w 20 5) (bits w 15 5) (bits w 10 5))
     else if bits w 0 10 = 0xA then .ok (.seq (bits w 20 5) (bits w 15 5) (bits w 10 5))
     else if bits w 0 10 = 0xB then .ok (.min (bits w 20 5) (bits w 15 5) (bits w 10 5))
     else if bits w 0 10 = 0xC then .ok (.max (bits w 20 5) (bits w 15 5) (bits w 10 5))
     else if bits w 0 10 = 0xD then .ok (.minu (bits w 20 5) (bits w 15 5) (bits w 10 5))
     else if bits w 0 10 = 0xE then .ok (.maxu (bits w 20 5) (bits w 15 5) (bits w 10 5))
     else if bits w 0 10 = 0xF then .ok (.mul (bits w 20 5) (bits w 15 5) (bits w 10 5))
     else if bits w 0 10 = 0x10 then .ok (.mulh (bits w 20 5) (bits w 15 5) (bits w 10 5))
     else if bits w 0 10 = 0x11 then .ok (.mulhu (bits w 20 5) (bits w 15 5) (bits w 10 5))
     else if bits w 0 10 = 0x12 then .ok (.divu (bits w 20 5) (bits w 15 5) (bits w 10 5))
     else if bits w 0 10 = 0x13 then .ok (.remu (bits w 20 5) (bits w 15 5) (bits w 10 5))
     else if bits w 0 15 = 0x14 then .ok (.clz (bits w 20 5) (bits w 15 5))
     else if bits w 0 15 = 0x15 then .ok (.popc (bits w 20 5) (bits w 15 5))
     else if bits w 0 10 = 0x16 then .ok (.extS (bits w 20 5) (bits w 15 5) (bits w 10 5))
     else if bits w 0 10 = 0x17 then .ok (.extZ (bits w 20 5) (bits w 15 5) (bits w 10 5))
     else .error .reservedField) := by
  unfold decodeC
  simp only [o]

theorem decodeL_op10 {w : Word32} (o : (bits w 26 6).toNat = 16) : decodeL w =
    (if bits w 0 4 = 0x0 then .ok (.tld (hitchAt w 22) (bits w 12 10) (bits w 8 4) (bits w 4 4))
     else if bits w 0 4 = 0x1 then .ok (.tldT (hitchAt w 22) (bits w 12 10) (bits w 8 4) (bits w 4 4))
     else .error .reservedField) := by
  unfold decodeL
  simp only [o]

theorem decodeL_op11 {w : Word32} (o : (bits w 26 6).toNat = 17) : decodeL w =
    (if bits w 2 2 = 0x0 then .ok (.wopen (hitchAt w 22) (bits w 12 10) (bits w 8 4) (bits w 4 4) (bits w 0 2))
     else if bits w 2 2 = 0x1 then .ok (.wopenW (hitchAt w 22) (bits w 12 10) (bits w 8 4) (bits w 4 4) (bits w 0 2))
     else .error .reservedField) := by
  unfold decodeL
  simp only [o]

theorem decodeStep_op04 {t : StepStrand} {other : Except DecodeError Instr} {w : Word32} (o : (bits w 26 6).toNat = 4) : decodeStep t w other =
    (if bits w 19 1 = 0x1 then .ok (.stepLoopImm t (hitchAt w 22) (bits w 20 2) (bits w 10 9) (bits w 0 10))
     else if bits w 14 6 = 0x0 then .ok (.stepLoopReg t (hitchAt w 22) (bits w 20 2) (bits w 10 4) (bits w 0 10))
     else .error .reservedField) := by
  unfold decodeStep
  simp only [o]

theorem decodeXHitch_op0A {w : Word32} (o : (bits w 26 6).toNat = 10) : decodeXHitch w =
    (if bits w 18 4 = 0x0 ∧ bits w 0 8 = 0x0 then .ok (.mldb (hitchAt w 22) (bits w 8 10))
     else if bits w 18 4 = 0x1 ∧ bits w 0 4 = 0x0 then .ok (.mmab (hitchAt w 22) (bits w 8 10) (bits w 4 4))
     else if bits w 18 4 = 0x2 ∧ bits w 0 4 = 0x0 then .ok (.mmas (hitchAt w 22) (bits w 8 10) (bits w 4 4))
     else if bits w 18 4 = 0x3 ∧ bits w 0 4 = 0x0 then .ok (.mdrain (hitchAt w 22) (bits w 8 10) (bits w 4 4))
     else if bits w 8 14 = 0x1000 ∧ bits w 0 4 = 0x0 then .ok (.mzero (hitchAt w 22) (bits w 4 4))
     else if bits w 0 22 = 0x140000 then .ok (.mnest (hitchAt w 22))
     else if bits w 0 22 = 0x180000 then .ok (.mtest (hitchAt w 22))
     else .error .reservedField) := by
  unfold decodeXHitch
  simp only [o]

theorem decodeXHitch_op0B {w : Word32} (o : (bits w 26 6).toNat = 11) : decodeXHitch w =
    (if bits w 18 4 = 0x0 ∧ bits w 0 1 = 0x0 then .ok (.mtrsmLo (hitchAt w 22) (bits w 11 7) (bits w 1 10))
     else if bits w 18 4 = 0x0 ∧ bits w 0 1 = 0x1 then .ok (.mtrsmUp (hitchAt w 22) (bits w 11 7) (bits w 1 10))
     else if bits w 18 4 = 0x1 ∧ bits w 0 11 = 0x0 then .ok (.mlu (hitchAt w 22) (bits w 11 7))
     else if bits w 18 4 = 0x2 ∧ bits w 0 11 = 0x0 then .ok (.mchol (hitchAt w 22) (bits w 11 7))
     else if bits w 18 4 = 0x3 ∧ bits w 0 11 = 0x0 then .ok (.mgiv (hitchAt w 22) (bits w 11 7))
     else if bits w 11 11 = 0x200 ∧ bits w 0 1 = 0x0 then .ok (.mpiv (hitchAt w 22) (bits w 1 10))
     else if bits w 0 22 = 0x140000 then .ok (.mfst (hitchAt w 22))
     else .error .reservedField) := by
  unfold decodeXHitch
  simp only [o]

theorem decodeXHitch_op15 {w : Word32} (o : (bits w 26 6).toNat = 21) : decodeXHitch w =
    (if bits w 0 4 = 0x0 then .ok (.vand (hitchAt w 22) (bits w 16 6) (bits w 10 6) (bits w 4 6))
     else if bits w 0 4 = 0x1 then .ok (.vor (hitchAt w 22) (bits w 16 6) (bits w 10 6) (bits w 4 6))
     else if bits w 0 4 = 0x2 then .ok (.vxor (hitchAt w 22) (bits w 16 6) (bits w 10 6) (bits w 4 6))
     else if bits w 0 4 = 0x3 then .ok (.vshl (hitchAt w 22) (bits w 16 6) (bits w 10 6) (bits w 4 6))
     else if bits w 0 4 = 0x4 then .ok (.vshr (hitchAt w 22) (bits w 16 6) (bits w 10 6) (bits w 4 6))
     else if bits w 0 4 = 0x5 then .ok (.vsra (hitchAt w 22) (bits w 16 6) (bits w 10 6) (bits w 4 6))
     else if bits w 0 4 = 0x6 then .ok (.vaddsat (hitchAt w 22) (bits w 16 6) (bits w 10 6) (bits w 4 6))
     else if bits w 0 4 = 0x7 then .ok (.vsubsat (hitchAt w 22) (bits w 16 6) (bits w 10 6) (bits w 4 6))
     else .error .reservedField) := by
  unfold decodeXHitch
  simp only [o]

theorem decodeXHitch_op17 {w : Word32} (o : (bits w 26 6).toNat = 23) : decodeXHitch w =
    (if bits w 4 6 = 0x0 then .ok (.vabs (hitchAt w 22) (bits w 16 6) (bits w 10 6) (bits w 0 4))
     else if bits w 4 6 = 0x1 then .ok (.vneg (hitchAt w 22) (bits w 16 6) (bits w 10 6) (bits w 0 4))
     else if bits w 4 6 = 0x2 then .ok (.vnot (hitchAt w 22) (bits w 16 6) (bits w 10 6) (bits w 0 4))
     else if bits w 4 6 = 0x3 then .ok (.vmov (hitchAt w 22) (bits w 16 6) (bits w 10 6) (bits w 0 4))
     else if bits w 4 6 = 0x4 then .ok (.vrcp (hitchAt w 22) (bits w 16 6) (bits w 10 6) (bits w 0 4))
     else if bits w 4 6 = 0x5 then .ok (.vrsqrt (hitchAt w 22) (bits w 16 6) (bits w 10 6) (bits w 0 4))
     else if bits w 4 6 = 0x6 then .ok (.vsqrt (hitchAt w 22) (bits w 16 6) (bits w 10 6) (bits w 0 4))
     else if bits w 4 6 = 0x7 then .ok (.vexp2 (hitchAt w 22) (bits w 16 6) (bits w 10 6) (bits w 0 4))
     else if bits w 4 6 = 0x8 then .ok (.vlog2 (hitchAt w 22) (bits w 16 6) (bits w 10 6) (bits w 0 4))
     else .error .reservedField) := by
  unfold decodeXHitch
  simp only [o]

theorem decodeXHitch_op1A {w : Word32} (o : (bits w 26 6).toNat = 26) : decodeXHitch w =
    (if bits w 0 4 = 0x0 then .ok (.vperm (hitchAt w 22) (bits w 16 6) (bits w 10 6) (bits w 4 6))
     else if bits w 0 4 = 0x1 then .ok (.vzip (hitchAt w 22) (bits w 16 6) (bits w 10 6) (bits w 4 6))
     else if bits w 0 4 = 0x2 then .ok (.vunzip (hitchAt w 22) (bits w 16 6) (bits w 10 6) (bits w 4 6))
     else .error .reservedField) := by
  unfold decodeXHitch
  simp only [o]

theorem decodeXHitch_op25 {w : Word32} (o : (bits w 26 6).toNat = 37) : decodeXHitch w =
    (if bits w 2 4 = 0x0 then .ok (.vdq (hitchAt w 22) (bits w 16 6) (bits w 10 6) (bits w 6 4) (bits w 0 2))
     else if bits w 2 1 = 0x1 then .ok (.vdqInv (hitchAt w 22) (bits w 16 6) (bits w 10 6) (bits w 6 4) (bits w 3 3) (bits w 0 2))
     else .error .reservedField) := by
  unfold decodeXHitch
  simp only [o]

theorem add (d : BitVec 5) (a : BitVec 5) (b : BitVec 5) : Statement (.add d a b) := by
  rintro t ⟨⟩ wf
  generalize hw : encode (.add d a b) = wd
  have ⟨hop, f1, f2, f3, f4⟩ : (bits wd 25 7).toNat = 0 ∧ bits wd 0 10 = 0x0 ∧ bits wd 20 5 = d ∧ bits wd 15 5 = a ∧ bits wd 10 5 = b := by
    rw [← hw]; refine ⟨bits_word (by decide) ?_, bits_is (by decide) ?_, bits_is (by decide) ?_, bits_is (by decide) ?_, bits_is (by decide) ?_⟩
    all_goals repeat' first | exact rfl | apply put_get | apply put_low (by decide) | apply put_high (by decide)
  exact decode_c ((decodeC_op00 hop).trans ((if_pos f1).trans (congrArg Except.ok (by rw [f2, f3, f4])))) wf

theorem sub (d : BitVec 5) (a : BitVec 5) (b : BitVec 5) : Statement (.sub d a b) := by
  rintro t ⟨⟩ wf
  generalize hw : encode (.sub d a b) = wd
  have ⟨hop, f1, f2, f3, f4, f5⟩ : (bits wd 25 7).toNat = 0 ∧ ¬(bits wd 0 10 = 0x0) ∧ bits wd 0 10 = 0x1 ∧ bits wd 20 5 = d ∧ bits wd 15 5 = a ∧ bits wd 10 5 = b := by
    rw [← hw]; refine ⟨bits_word (by decide) ?_, bits_isNot (p := 0) (k := 10) (x := 1) (by decide) ?_ (by decide) (by decide) (by decide), bits_is (by decide) ?_, bits_is (by decide) ?_, bits_is (by decide) ?_, bits_is (by decide) ?_⟩
    all_goals repeat' first | exact rfl | apply put_get | apply put_low (by decide) | apply put_high (by decide)
  exact decode_c ((decodeC_op00 hop).trans ((if_neg f1).trans ((if_pos f2).trans (congrArg Except.ok (by rw [f3, f4, f5]))))) wf

theorem and (d : BitVec 5) (a : BitVec 5) (b : BitVec 5) : Statement (.and d a b) := by
  rintro t ⟨⟩ wf
  generalize hw : encode (.and d a b) = wd
  have ⟨hop, f1, f2, f3, f4, f5, f6⟩ : (bits wd 25 7).toNat = 0 ∧ ¬(bits wd 0 10 = 0x0) ∧ ¬(bits wd 0 10 = 0x1) ∧ bits wd 0 10 = 0x2 ∧ bits wd 20 5 = d ∧ bits wd 15 5 = a ∧ bits wd 10 5 = b := by
    rw [← hw]; refine ⟨bits_word (by decide) ?_, bits_isNot (p := 0) (k := 10) (x := 2) (by decide) ?_ (by decide) (by decide) (by decide), bits_isNot (p := 0) (k := 10) (x := 2) (by decide) ?_ (by decide) (by decide) (by decide), bits_is (by decide) ?_, bits_is (by decide) ?_, bits_is (by decide) ?_, bits_is (by decide) ?_⟩
    all_goals repeat' first | exact rfl | apply put_get | apply put_low (by decide) | apply put_high (by decide)
  exact decode_c ((decodeC_op00 hop).trans ((if_neg f1).trans ((if_neg f2).trans ((if_pos f3).trans (congrArg Except.ok (by rw [f4, f5, f6])))))) wf

theorem or (d : BitVec 5) (a : BitVec 5) (b : BitVec 5) : Statement (.or d a b) := by
  rintro t ⟨⟩ wf
  generalize hw : encode (.or d a b) = wd
  have ⟨hop, f1, f2, f3, f4, f5, f6, f7⟩ : (bits wd 25 7).toNat = 0 ∧ ¬(bits wd 0 10 = 0x0) ∧ ¬(bits wd 0 10 = 0x1) ∧ ¬(bits wd 0 10 = 0x2) ∧ bits wd 0 10 = 0x3 ∧ bits wd 20 5 = d ∧ bits wd 15 5 = a ∧ bits wd 10 5 = b := by
    rw [← hw]; refine ⟨bits_word (by decide) ?_, bits_isNot (p := 0) (k := 10) (x := 3) (by decide) ?_ (by decide) (by decide) (by decide), bits_isNot (p := 0) (k := 10) (x := 3) (by decide) ?_ (by decide) (by decide) (by decide), bits_isNot (p := 0) (k := 10) (x := 3) (by decide) ?_ (by decide) (by decide) (by decide), bits_is (by decide) ?_, bits_is (by decide) ?_, bits_is (by decide) ?_, bits_is (by decide) ?_⟩
    all_goals repeat' first | exact rfl | apply put_get | apply put_low (by decide) | apply put_high (by decide)
  exact decode_c ((decodeC_op00 hop).trans ((if_neg f1).trans ((if_neg f2).trans ((if_neg f3).trans ((if_pos f4).trans (congrArg Except.ok (by rw [f5, f6, f7]))))))) wf

theorem xor (d : BitVec 5) (a : BitVec 5) (b : BitVec 5) : Statement (.xor d a b) := by
  rintro t ⟨⟩ wf
  generalize hw : encode (.xor d a b) = wd
  have ⟨hop, f1, f2, f3, f4, f5, f6, f7, f8⟩ : (bits wd 25 7).toNat = 0 ∧ ¬(bits wd 0 10 = 0x0) ∧ ¬(bits wd 0 10 = 0x1) ∧ ¬(bits wd 0 10 = 0x2) ∧ ¬(bits wd 0 10 = 0x3) ∧ bits wd 0 10 = 0x4 ∧ bits wd 20 5 = d ∧ bits wd 15 5 = a ∧ bits wd 10 5 = b := by
    rw [← hw]; refine ⟨bits_word (by decide) ?_, bits_isNot (p := 0) (k := 10) (x := 4) (by decide) ?_ (by decide) (by decide) (by decide), bits_isNot (p := 0) (k := 10) (x := 4) (by decide) ?_ (by decide) (by decide) (by decide), bits_isNot (p := 0) (k := 10) (x := 4) (by decide) ?_ (by decide) (by decide) (by decide), bits_isNot (p := 0) (k := 10) (x := 4) (by decide) ?_ (by decide) (by decide) (by decide), bits_is (by decide) ?_, bits_is (by decide) ?_, bits_is (by decide) ?_, bits_is (by decide) ?_⟩
    all_goals repeat' first | exact rfl | apply put_get | apply put_low (by decide) | apply put_high (by decide)
  exact decode_c ((decodeC_op00 hop).trans ((if_neg f1).trans ((if_neg f2).trans ((if_neg f3).trans ((if_neg f4).trans ((if_pos f5).trans (congrArg Except.ok (by rw [f6, f7, f8])))))))) wf

theorem shl (d : BitVec 5) (a : BitVec 5) (b : BitVec 5) : Statement (.shl d a b) := by
  rintro t ⟨⟩ wf
  generalize hw : encode (.shl d a b) = wd
  have ⟨hop, f1, f2, f3, f4, f5, f6, f7, f8, f9⟩ : (bits wd 25 7).toNat = 0 ∧ ¬(bits wd 0 10 = 0x0) ∧ ¬(bits wd 0 10 = 0x1) ∧ ¬(bits wd 0 10 = 0x2) ∧ ¬(bits wd 0 10 = 0x3) ∧ ¬(bits wd 0 10 = 0x4) ∧ bits wd 0 10 = 0x5 ∧ bits wd 20 5 = d ∧ bits wd 15 5 = a ∧ bits wd 10 5 = b := by
    rw [← hw]; refine ⟨bits_word (by decide) ?_, bits_isNot (p := 0) (k := 10) (x := 5) (by decide) ?_ (by decide) (by decide) (by decide), bits_isNot (p := 0) (k := 10) (x := 5) (by decide) ?_ (by decide) (by decide) (by decide), bits_isNot (p := 0) (k := 10) (x := 5) (by decide) ?_ (by decide) (by decide) (by decide), bits_isNot (p := 0) (k := 10) (x := 5) (by decide) ?_ (by decide) (by decide) (by decide), bits_isNot (p := 0) (k := 10) (x := 5) (by decide) ?_ (by decide) (by decide) (by decide), bits_is (by decide) ?_, bits_is (by decide) ?_, bits_is (by decide) ?_, bits_is (by decide) ?_⟩
    all_goals repeat' first | exact rfl | apply put_get | apply put_low (by decide) | apply put_high (by decide)
  exact decode_c ((decodeC_op00 hop).trans ((if_neg f1).trans ((if_neg f2).trans ((if_neg f3).trans ((if_neg f4).trans ((if_neg f5).trans ((if_pos f6).trans (congrArg Except.ok (by rw [f7, f8, f9]))))))))) wf

theorem shr (d : BitVec 5) (a : BitVec 5) (b : BitVec 5) : Statement (.shr d a b) := by
  rintro t ⟨⟩ wf
  generalize hw : encode (.shr d a b) = wd
  have ⟨hop, f1, f2, f3, f4, f5, f6, f7, f8, f9, f10⟩ : (bits wd 25 7).toNat = 0 ∧ ¬(bits wd 0 10 = 0x0) ∧ ¬(bits wd 0 10 = 0x1) ∧ ¬(bits wd 0 10 = 0x2) ∧ ¬(bits wd 0 10 = 0x3) ∧ ¬(bits wd 0 10 = 0x4) ∧ ¬(bits wd 0 10 = 0x5) ∧ bits wd 0 10 = 0x6 ∧ bits wd 20 5 = d ∧ bits wd 15 5 = a ∧ bits wd 10 5 = b := by
    rw [← hw]; refine ⟨bits_word (by decide) ?_, bits_isNot (p := 0) (k := 10) (x := 6) (by decide) ?_ (by decide) (by decide) (by decide), bits_isNot (p := 0) (k := 10) (x := 6) (by decide) ?_ (by decide) (by decide) (by decide), bits_isNot (p := 0) (k := 10) (x := 6) (by decide) ?_ (by decide) (by decide) (by decide), bits_isNot (p := 0) (k := 10) (x := 6) (by decide) ?_ (by decide) (by decide) (by decide), bits_isNot (p := 0) (k := 10) (x := 6) (by decide) ?_ (by decide) (by decide) (by decide), bits_isNot (p := 0) (k := 10) (x := 6) (by decide) ?_ (by decide) (by decide) (by decide), bits_is (by decide) ?_, bits_is (by decide) ?_, bits_is (by decide) ?_, bits_is (by decide) ?_⟩
    all_goals repeat' first | exact rfl | apply put_get | apply put_low (by decide) | apply put_high (by decide)
  exact decode_c ((decodeC_op00 hop).trans ((if_neg f1).trans ((if_neg f2).trans ((if_neg f3).trans ((if_neg f4).trans ((if_neg f5).trans ((if_neg f6).trans ((if_pos f7).trans (congrArg Except.ok (by rw [f8, f9, f10])))))))))) wf

theorem sra (d : BitVec 5) (a : BitVec 5) (b : BitVec 5) : Statement (.sra d a b) := by
  rintro t ⟨⟩ wf
  generalize hw : encode (.sra d a b) = wd
  have ⟨hop, f1, f2, f3, f4, f5, f6, f7, f8, f9, f10, f11⟩ : (bits wd 25 7).toNat = 0 ∧ ¬(bits wd 0 10 = 0x0) ∧ ¬(bits wd 0 10 = 0x1) ∧ ¬(bits wd 0 10 = 0x2) ∧ ¬(bits wd 0 10 = 0x3) ∧ ¬(bits wd 0 10 = 0x4) ∧ ¬(bits wd 0 10 = 0x5) ∧ ¬(bits wd 0 10 = 0x6) ∧ bits wd 0 10 = 0x7 ∧ bits wd 20 5 = d ∧ bits wd 15 5 = a ∧ bits wd 10 5 = b := by
    rw [← hw]; refine ⟨bits_word (by decide) ?_, bits_isNot (p := 0) (k := 10) (x := 7) (by decide) ?_ (by decide) (by decide) (by decide), bits_isNot (p := 0) (k := 10) (x := 7) (by decide) ?_ (by decide) (by decide) (by decide), bits_isNot (p := 0) (k := 10) (x := 7) (by decide) ?_ (by decide) (by decide) (by decide), bits_isNot (p := 0) (k := 10) (x := 7) (by decide) ?_ (by decide) (by decide) (by decide), bits_isNot (p := 0) (k := 10) (x := 7) (by decide) ?_ (by decide) (by decide) (by decide), bits_isNot (p := 0) (k := 10) (x := 7) (by decide) ?_ (by decide) (by decide) (by decide), bits_isNot (p := 0) (k := 10) (x := 7) (by decide) ?_ (by decide) (by decide) (by decide), bits_is (by decide) ?_, bits_is (by decide) ?_, bits_is (by decide) ?_, bits_is (by decide) ?_⟩
    all_goals repeat' first | exact rfl | apply put_get | apply put_low (by decide) | apply put_high (by decide)
  exact decode_c ((decodeC_op00 hop).trans ((if_neg f1).trans ((if_neg f2).trans ((if_neg f3).trans ((if_neg f4).trans ((if_neg f5).trans ((if_neg f6).trans ((if_neg f7).trans ((if_pos f8).trans (congrArg Except.ok (by rw [f9, f10, f11]))))))))))) wf

theorem slt (d : BitVec 5) (a : BitVec 5) (b : BitVec 5) : Statement (.slt d a b) := by
  rintro t ⟨⟩ wf
  generalize hw : encode (.slt d a b) = wd
  have ⟨hop, f1, f2, f3, f4, f5, f6, f7, f8, f9, f10, f11, f12⟩ : (bits wd 25 7).toNat = 0 ∧ ¬(bits wd 0 10 = 0x0) ∧ ¬(bits wd 0 10 = 0x1) ∧ ¬(bits wd 0 10 = 0x2) ∧ ¬(bits wd 0 10 = 0x3) ∧ ¬(bits wd 0 10 = 0x4) ∧ ¬(bits wd 0 10 = 0x5) ∧ ¬(bits wd 0 10 = 0x6) ∧ ¬(bits wd 0 10 = 0x7) ∧ bits wd 0 10 = 0x8 ∧ bits wd 20 5 = d ∧ bits wd 15 5 = a ∧ bits wd 10 5 = b := by
    rw [← hw]; refine ⟨bits_word (by decide) ?_, bits_isNot (p := 0) (k := 10) (x := 8) (by decide) ?_ (by decide) (by decide) (by decide), bits_isNot (p := 0) (k := 10) (x := 8) (by decide) ?_ (by decide) (by decide) (by decide), bits_isNot (p := 0) (k := 10) (x := 8) (by decide) ?_ (by decide) (by decide) (by decide), bits_isNot (p := 0) (k := 10) (x := 8) (by decide) ?_ (by decide) (by decide) (by decide), bits_isNot (p := 0) (k := 10) (x := 8) (by decide) ?_ (by decide) (by decide) (by decide), bits_isNot (p := 0) (k := 10) (x := 8) (by decide) ?_ (by decide) (by decide) (by decide), bits_isNot (p := 0) (k := 10) (x := 8) (by decide) ?_ (by decide) (by decide) (by decide), bits_isNot (p := 0) (k := 10) (x := 8) (by decide) ?_ (by decide) (by decide) (by decide), bits_is (by decide) ?_, bits_is (by decide) ?_, bits_is (by decide) ?_, bits_is (by decide) ?_⟩
    all_goals repeat' first | exact rfl | apply put_get | apply put_low (by decide) | apply put_high (by decide)
  exact decode_c ((decodeC_op00 hop).trans ((if_neg f1).trans ((if_neg f2).trans ((if_neg f3).trans ((if_neg f4).trans ((if_neg f5).trans ((if_neg f6).trans ((if_neg f7).trans ((if_neg f8).trans ((if_pos f9).trans (congrArg Except.ok (by rw [f10, f11, f12])))))))))))) wf

theorem sltu (d : BitVec 5) (a : BitVec 5) (b : BitVec 5) : Statement (.sltu d a b) := by
  rintro t ⟨⟩ wf
  generalize hw : encode (.sltu d a b) = wd
  have ⟨hop, f1, f2, f3, f4, f5, f6, f7, f8, f9, f10, f11, f12, f13⟩ : (bits wd 25 7).toNat = 0 ∧ ¬(bits wd 0 10 = 0x0) ∧ ¬(bits wd 0 10 = 0x1) ∧ ¬(bits wd 0 10 = 0x2) ∧ ¬(bits wd 0 10 = 0x3) ∧ ¬(bits wd 0 10 = 0x4) ∧ ¬(bits wd 0 10 = 0x5) ∧ ¬(bits wd 0 10 = 0x6) ∧ ¬(bits wd 0 10 = 0x7) ∧ ¬(bits wd 0 10 = 0x8) ∧ bits wd 0 10 = 0x9 ∧ bits wd 20 5 = d ∧ bits wd 15 5 = a ∧ bits wd 10 5 = b := by
    rw [← hw]; refine ⟨bits_word (by decide) ?_, bits_isNot (p := 0) (k := 10) (x := 9) (by decide) ?_ (by decide) (by decide) (by decide), bits_isNot (p := 0) (k := 10) (x := 9) (by decide) ?_ (by decide) (by decide) (by decide), bits_isNot (p := 0) (k := 10) (x := 9) (by decide) ?_ (by decide) (by decide) (by decide), bits_isNot (p := 0) (k := 10) (x := 9) (by decide) ?_ (by decide) (by decide) (by decide), bits_isNot (p := 0) (k := 10) (x := 9) (by decide) ?_ (by decide) (by decide) (by decide), bits_isNot (p := 0) (k := 10) (x := 9) (by decide) ?_ (by decide) (by decide) (by decide), bits_isNot (p := 0) (k := 10) (x := 9) (by decide) ?_ (by decide) (by decide) (by decide), bits_isNot (p := 0) (k := 10) (x := 9) (by decide) ?_ (by decide) (by decide) (by decide), bits_isNot (p := 0) (k := 10) (x := 9) (by decide) ?_ (by decide) (by decide) (by decide), bits_is (by decide) ?_, bits_is (by decide) ?_, bits_is (by decide) ?_, bits_is (by decide) ?_⟩
    all_goals repeat' first | exact rfl | apply put_get | apply put_low (by decide) | apply put_high (by decide)
  exact decode_c ((decodeC_op00 hop).trans ((if_neg f1).trans ((if_neg f2).trans ((if_neg f3).trans ((if_neg f4).trans ((if_neg f5).trans ((if_neg f6).trans ((if_neg f7).trans ((if_neg f8).trans ((if_neg f9).trans ((if_pos f10).trans (congrArg Except.ok (by rw [f11, f12, f13]))))))))))))) wf

theorem seq (d : BitVec 5) (a : BitVec 5) (b : BitVec 5) : Statement (.seq d a b) := by
  rintro t ⟨⟩ wf
  generalize hw : encode (.seq d a b) = wd
  have ⟨hop, f1, f2, f3, f4, f5, f6, f7, f8, f9, f10, f11, f12, f13, f14⟩ : (bits wd 25 7).toNat = 0 ∧ ¬(bits wd 0 10 = 0x0) ∧ ¬(bits wd 0 10 = 0x1) ∧ ¬(bits wd 0 10 = 0x2) ∧ ¬(bits wd 0 10 = 0x3) ∧ ¬(bits wd 0 10 = 0x4) ∧ ¬(bits wd 0 10 = 0x5) ∧ ¬(bits wd 0 10 = 0x6) ∧ ¬(bits wd 0 10 = 0x7) ∧ ¬(bits wd 0 10 = 0x8) ∧ ¬(bits wd 0 10 = 0x9) ∧ bits wd 0 10 = 0xA ∧ bits wd 20 5 = d ∧ bits wd 15 5 = a ∧ bits wd 10 5 = b := by
    rw [← hw]; refine ⟨bits_word (by decide) ?_, bits_isNot (p := 0) (k := 10) (x := 10) (by decide) ?_ (by decide) (by decide) (by decide), bits_isNot (p := 0) (k := 10) (x := 10) (by decide) ?_ (by decide) (by decide) (by decide), bits_isNot (p := 0) (k := 10) (x := 10) (by decide) ?_ (by decide) (by decide) (by decide), bits_isNot (p := 0) (k := 10) (x := 10) (by decide) ?_ (by decide) (by decide) (by decide), bits_isNot (p := 0) (k := 10) (x := 10) (by decide) ?_ (by decide) (by decide) (by decide), bits_isNot (p := 0) (k := 10) (x := 10) (by decide) ?_ (by decide) (by decide) (by decide), bits_isNot (p := 0) (k := 10) (x := 10) (by decide) ?_ (by decide) (by decide) (by decide), bits_isNot (p := 0) (k := 10) (x := 10) (by decide) ?_ (by decide) (by decide) (by decide), bits_isNot (p := 0) (k := 10) (x := 10) (by decide) ?_ (by decide) (by decide) (by decide), bits_isNot (p := 0) (k := 10) (x := 10) (by decide) ?_ (by decide) (by decide) (by decide), bits_is (by decide) ?_, bits_is (by decide) ?_, bits_is (by decide) ?_, bits_is (by decide) ?_⟩
    all_goals repeat' first | exact rfl | apply put_get | apply put_low (by decide) | apply put_high (by decide)
  exact decode_c ((decodeC_op00 hop).trans ((if_neg f1).trans ((if_neg f2).trans ((if_neg f3).trans ((if_neg f4).trans ((if_neg f5).trans ((if_neg f6).trans ((if_neg f7).trans ((if_neg f8).trans ((if_neg f9).trans ((if_neg f10).trans ((if_pos f11).trans (congrArg Except.ok (by rw [f12, f13, f14])))))))))))))) wf

theorem min (d : BitVec 5) (a : BitVec 5) (b : BitVec 5) : Statement (.min d a b) := by
  rintro t ⟨⟩ wf
  generalize hw : encode (.min d a b) = wd
  have ⟨hop, f1, f2, f3, f4, f5, f6, f7, f8, f9, f10, f11, f12, f13, f14, f15⟩ : (bits wd 25 7).toNat = 0 ∧ ¬(bits wd 0 10 = 0x0) ∧ ¬(bits wd 0 10 = 0x1) ∧ ¬(bits wd 0 10 = 0x2) ∧ ¬(bits wd 0 10 = 0x3) ∧ ¬(bits wd 0 10 = 0x4) ∧ ¬(bits wd 0 10 = 0x5) ∧ ¬(bits wd 0 10 = 0x6) ∧ ¬(bits wd 0 10 = 0x7) ∧ ¬(bits wd 0 10 = 0x8) ∧ ¬(bits wd 0 10 = 0x9) ∧ ¬(bits wd 0 10 = 0xA) ∧ bits wd 0 10 = 0xB ∧ bits wd 20 5 = d ∧ bits wd 15 5 = a ∧ bits wd 10 5 = b := by
    rw [← hw]; refine ⟨bits_word (by decide) ?_, bits_isNot (p := 0) (k := 10) (x := 11) (by decide) ?_ (by decide) (by decide) (by decide), bits_isNot (p := 0) (k := 10) (x := 11) (by decide) ?_ (by decide) (by decide) (by decide), bits_isNot (p := 0) (k := 10) (x := 11) (by decide) ?_ (by decide) (by decide) (by decide), bits_isNot (p := 0) (k := 10) (x := 11) (by decide) ?_ (by decide) (by decide) (by decide), bits_isNot (p := 0) (k := 10) (x := 11) (by decide) ?_ (by decide) (by decide) (by decide), bits_isNot (p := 0) (k := 10) (x := 11) (by decide) ?_ (by decide) (by decide) (by decide), bits_isNot (p := 0) (k := 10) (x := 11) (by decide) ?_ (by decide) (by decide) (by decide), bits_isNot (p := 0) (k := 10) (x := 11) (by decide) ?_ (by decide) (by decide) (by decide), bits_isNot (p := 0) (k := 10) (x := 11) (by decide) ?_ (by decide) (by decide) (by decide), bits_isNot (p := 0) (k := 10) (x := 11) (by decide) ?_ (by decide) (by decide) (by decide), bits_isNot (p := 0) (k := 10) (x := 11) (by decide) ?_ (by decide) (by decide) (by decide), bits_is (by decide) ?_, bits_is (by decide) ?_, bits_is (by decide) ?_, bits_is (by decide) ?_⟩
    all_goals repeat' first | exact rfl | apply put_get | apply put_low (by decide) | apply put_high (by decide)
  exact decode_c ((decodeC_op00 hop).trans ((if_neg f1).trans ((if_neg f2).trans ((if_neg f3).trans ((if_neg f4).trans ((if_neg f5).trans ((if_neg f6).trans ((if_neg f7).trans ((if_neg f8).trans ((if_neg f9).trans ((if_neg f10).trans ((if_neg f11).trans ((if_pos f12).trans (congrArg Except.ok (by rw [f13, f14, f15]))))))))))))))) wf

theorem max (d : BitVec 5) (a : BitVec 5) (b : BitVec 5) : Statement (.max d a b) := by
  rintro t ⟨⟩ wf
  generalize hw : encode (.max d a b) = wd
  have ⟨hop, f1, f2, f3, f4, f5, f6, f7, f8, f9, f10, f11, f12, f13, f14, f15, f16⟩ : (bits wd 25 7).toNat = 0 ∧ ¬(bits wd 0 10 = 0x0) ∧ ¬(bits wd 0 10 = 0x1) ∧ ¬(bits wd 0 10 = 0x2) ∧ ¬(bits wd 0 10 = 0x3) ∧ ¬(bits wd 0 10 = 0x4) ∧ ¬(bits wd 0 10 = 0x5) ∧ ¬(bits wd 0 10 = 0x6) ∧ ¬(bits wd 0 10 = 0x7) ∧ ¬(bits wd 0 10 = 0x8) ∧ ¬(bits wd 0 10 = 0x9) ∧ ¬(bits wd 0 10 = 0xA) ∧ ¬(bits wd 0 10 = 0xB) ∧ bits wd 0 10 = 0xC ∧ bits wd 20 5 = d ∧ bits wd 15 5 = a ∧ bits wd 10 5 = b := by
    rw [← hw]; refine ⟨bits_word (by decide) ?_, bits_isNot (p := 0) (k := 10) (x := 12) (by decide) ?_ (by decide) (by decide) (by decide), bits_isNot (p := 0) (k := 10) (x := 12) (by decide) ?_ (by decide) (by decide) (by decide), bits_isNot (p := 0) (k := 10) (x := 12) (by decide) ?_ (by decide) (by decide) (by decide), bits_isNot (p := 0) (k := 10) (x := 12) (by decide) ?_ (by decide) (by decide) (by decide), bits_isNot (p := 0) (k := 10) (x := 12) (by decide) ?_ (by decide) (by decide) (by decide), bits_isNot (p := 0) (k := 10) (x := 12) (by decide) ?_ (by decide) (by decide) (by decide), bits_isNot (p := 0) (k := 10) (x := 12) (by decide) ?_ (by decide) (by decide) (by decide), bits_isNot (p := 0) (k := 10) (x := 12) (by decide) ?_ (by decide) (by decide) (by decide), bits_isNot (p := 0) (k := 10) (x := 12) (by decide) ?_ (by decide) (by decide) (by decide), bits_isNot (p := 0) (k := 10) (x := 12) (by decide) ?_ (by decide) (by decide) (by decide), bits_isNot (p := 0) (k := 10) (x := 12) (by decide) ?_ (by decide) (by decide) (by decide), bits_isNot (p := 0) (k := 10) (x := 12) (by decide) ?_ (by decide) (by decide) (by decide), bits_is (by decide) ?_, bits_is (by decide) ?_, bits_is (by decide) ?_, bits_is (by decide) ?_⟩
    all_goals repeat' first | exact rfl | apply put_get | apply put_low (by decide) | apply put_high (by decide)
  exact decode_c ((decodeC_op00 hop).trans ((if_neg f1).trans ((if_neg f2).trans ((if_neg f3).trans ((if_neg f4).trans ((if_neg f5).trans ((if_neg f6).trans ((if_neg f7).trans ((if_neg f8).trans ((if_neg f9).trans ((if_neg f10).trans ((if_neg f11).trans ((if_neg f12).trans ((if_pos f13).trans (congrArg Except.ok (by rw [f14, f15, f16])))))))))))))))) wf

theorem minu (d : BitVec 5) (a : BitVec 5) (b : BitVec 5) : Statement (.minu d a b) := by
  rintro t ⟨⟩ wf
  generalize hw : encode (.minu d a b) = wd
  have ⟨hop, f1, f2, f3, f4, f5, f6, f7, f8, f9, f10, f11, f12, f13, f14, f15, f16, f17⟩ : (bits wd 25 7).toNat = 0 ∧ ¬(bits wd 0 10 = 0x0) ∧ ¬(bits wd 0 10 = 0x1) ∧ ¬(bits wd 0 10 = 0x2) ∧ ¬(bits wd 0 10 = 0x3) ∧ ¬(bits wd 0 10 = 0x4) ∧ ¬(bits wd 0 10 = 0x5) ∧ ¬(bits wd 0 10 = 0x6) ∧ ¬(bits wd 0 10 = 0x7) ∧ ¬(bits wd 0 10 = 0x8) ∧ ¬(bits wd 0 10 = 0x9) ∧ ¬(bits wd 0 10 = 0xA) ∧ ¬(bits wd 0 10 = 0xB) ∧ ¬(bits wd 0 10 = 0xC) ∧ bits wd 0 10 = 0xD ∧ bits wd 20 5 = d ∧ bits wd 15 5 = a ∧ bits wd 10 5 = b := by
    rw [← hw]; refine ⟨bits_word (by decide) ?_, bits_isNot (p := 0) (k := 10) (x := 13) (by decide) ?_ (by decide) (by decide) (by decide), bits_isNot (p := 0) (k := 10) (x := 13) (by decide) ?_ (by decide) (by decide) (by decide), bits_isNot (p := 0) (k := 10) (x := 13) (by decide) ?_ (by decide) (by decide) (by decide), bits_isNot (p := 0) (k := 10) (x := 13) (by decide) ?_ (by decide) (by decide) (by decide), bits_isNot (p := 0) (k := 10) (x := 13) (by decide) ?_ (by decide) (by decide) (by decide), bits_isNot (p := 0) (k := 10) (x := 13) (by decide) ?_ (by decide) (by decide) (by decide), bits_isNot (p := 0) (k := 10) (x := 13) (by decide) ?_ (by decide) (by decide) (by decide), bits_isNot (p := 0) (k := 10) (x := 13) (by decide) ?_ (by decide) (by decide) (by decide), bits_isNot (p := 0) (k := 10) (x := 13) (by decide) ?_ (by decide) (by decide) (by decide), bits_isNot (p := 0) (k := 10) (x := 13) (by decide) ?_ (by decide) (by decide) (by decide), bits_isNot (p := 0) (k := 10) (x := 13) (by decide) ?_ (by decide) (by decide) (by decide), bits_isNot (p := 0) (k := 10) (x := 13) (by decide) ?_ (by decide) (by decide) (by decide), bits_isNot (p := 0) (k := 10) (x := 13) (by decide) ?_ (by decide) (by decide) (by decide), bits_is (by decide) ?_, bits_is (by decide) ?_, bits_is (by decide) ?_, bits_is (by decide) ?_⟩
    all_goals repeat' first | exact rfl | apply put_get | apply put_low (by decide) | apply put_high (by decide)
  exact decode_c ((decodeC_op00 hop).trans ((if_neg f1).trans ((if_neg f2).trans ((if_neg f3).trans ((if_neg f4).trans ((if_neg f5).trans ((if_neg f6).trans ((if_neg f7).trans ((if_neg f8).trans ((if_neg f9).trans ((if_neg f10).trans ((if_neg f11).trans ((if_neg f12).trans ((if_neg f13).trans ((if_pos f14).trans (congrArg Except.ok (by rw [f15, f16, f17]))))))))))))))))) wf

theorem maxu (d : BitVec 5) (a : BitVec 5) (b : BitVec 5) : Statement (.maxu d a b) := by
  rintro t ⟨⟩ wf
  generalize hw : encode (.maxu d a b) = wd
  have ⟨hop, f1, f2, f3, f4, f5, f6, f7, f8, f9, f10, f11, f12, f13, f14, f15, f16, f17, f18⟩ : (bits wd 25 7).toNat = 0 ∧ ¬(bits wd 0 10 = 0x0) ∧ ¬(bits wd 0 10 = 0x1) ∧ ¬(bits wd 0 10 = 0x2) ∧ ¬(bits wd 0 10 = 0x3) ∧ ¬(bits wd 0 10 = 0x4) ∧ ¬(bits wd 0 10 = 0x5) ∧ ¬(bits wd 0 10 = 0x6) ∧ ¬(bits wd 0 10 = 0x7) ∧ ¬(bits wd 0 10 = 0x8) ∧ ¬(bits wd 0 10 = 0x9) ∧ ¬(bits wd 0 10 = 0xA) ∧ ¬(bits wd 0 10 = 0xB) ∧ ¬(bits wd 0 10 = 0xC) ∧ ¬(bits wd 0 10 = 0xD) ∧ bits wd 0 10 = 0xE ∧ bits wd 20 5 = d ∧ bits wd 15 5 = a ∧ bits wd 10 5 = b := by
    rw [← hw]; refine ⟨bits_word (by decide) ?_, bits_isNot (p := 0) (k := 10) (x := 14) (by decide) ?_ (by decide) (by decide) (by decide), bits_isNot (p := 0) (k := 10) (x := 14) (by decide) ?_ (by decide) (by decide) (by decide), bits_isNot (p := 0) (k := 10) (x := 14) (by decide) ?_ (by decide) (by decide) (by decide), bits_isNot (p := 0) (k := 10) (x := 14) (by decide) ?_ (by decide) (by decide) (by decide), bits_isNot (p := 0) (k := 10) (x := 14) (by decide) ?_ (by decide) (by decide) (by decide), bits_isNot (p := 0) (k := 10) (x := 14) (by decide) ?_ (by decide) (by decide) (by decide), bits_isNot (p := 0) (k := 10) (x := 14) (by decide) ?_ (by decide) (by decide) (by decide), bits_isNot (p := 0) (k := 10) (x := 14) (by decide) ?_ (by decide) (by decide) (by decide), bits_isNot (p := 0) (k := 10) (x := 14) (by decide) ?_ (by decide) (by decide) (by decide), bits_isNot (p := 0) (k := 10) (x := 14) (by decide) ?_ (by decide) (by decide) (by decide), bits_isNot (p := 0) (k := 10) (x := 14) (by decide) ?_ (by decide) (by decide) (by decide), bits_isNot (p := 0) (k := 10) (x := 14) (by decide) ?_ (by decide) (by decide) (by decide), bits_isNot (p := 0) (k := 10) (x := 14) (by decide) ?_ (by decide) (by decide) (by decide), bits_isNot (p := 0) (k := 10) (x := 14) (by decide) ?_ (by decide) (by decide) (by decide), bits_is (by decide) ?_, bits_is (by decide) ?_, bits_is (by decide) ?_, bits_is (by decide) ?_⟩
    all_goals repeat' first | exact rfl | apply put_get | apply put_low (by decide) | apply put_high (by decide)
  exact decode_c ((decodeC_op00 hop).trans ((if_neg f1).trans ((if_neg f2).trans ((if_neg f3).trans ((if_neg f4).trans ((if_neg f5).trans ((if_neg f6).trans ((if_neg f7).trans ((if_neg f8).trans ((if_neg f9).trans ((if_neg f10).trans ((if_neg f11).trans ((if_neg f12).trans ((if_neg f13).trans ((if_neg f14).trans ((if_pos f15).trans (congrArg Except.ok (by rw [f16, f17, f18])))))))))))))))))) wf

theorem mul (d : BitVec 5) (a : BitVec 5) (b : BitVec 5) : Statement (.mul d a b) := by
  rintro t ⟨⟩ wf
  generalize hw : encode (.mul d a b) = wd
  have ⟨hop, f1, f2, f3, f4, f5, f6, f7, f8, f9, f10, f11, f12, f13, f14, f15, f16, f17, f18, f19⟩ : (bits wd 25 7).toNat = 0 ∧ ¬(bits wd 0 10 = 0x0) ∧ ¬(bits wd 0 10 = 0x1) ∧ ¬(bits wd 0 10 = 0x2) ∧ ¬(bits wd 0 10 = 0x3) ∧ ¬(bits wd 0 10 = 0x4) ∧ ¬(bits wd 0 10 = 0x5) ∧ ¬(bits wd 0 10 = 0x6) ∧ ¬(bits wd 0 10 = 0x7) ∧ ¬(bits wd 0 10 = 0x8) ∧ ¬(bits wd 0 10 = 0x9) ∧ ¬(bits wd 0 10 = 0xA) ∧ ¬(bits wd 0 10 = 0xB) ∧ ¬(bits wd 0 10 = 0xC) ∧ ¬(bits wd 0 10 = 0xD) ∧ ¬(bits wd 0 10 = 0xE) ∧ bits wd 0 10 = 0xF ∧ bits wd 20 5 = d ∧ bits wd 15 5 = a ∧ bits wd 10 5 = b := by
    rw [← hw]; refine ⟨bits_word (by decide) ?_, bits_isNot (p := 0) (k := 10) (x := 15) (by decide) ?_ (by decide) (by decide) (by decide), bits_isNot (p := 0) (k := 10) (x := 15) (by decide) ?_ (by decide) (by decide) (by decide), bits_isNot (p := 0) (k := 10) (x := 15) (by decide) ?_ (by decide) (by decide) (by decide), bits_isNot (p := 0) (k := 10) (x := 15) (by decide) ?_ (by decide) (by decide) (by decide), bits_isNot (p := 0) (k := 10) (x := 15) (by decide) ?_ (by decide) (by decide) (by decide), bits_isNot (p := 0) (k := 10) (x := 15) (by decide) ?_ (by decide) (by decide) (by decide), bits_isNot (p := 0) (k := 10) (x := 15) (by decide) ?_ (by decide) (by decide) (by decide), bits_isNot (p := 0) (k := 10) (x := 15) (by decide) ?_ (by decide) (by decide) (by decide), bits_isNot (p := 0) (k := 10) (x := 15) (by decide) ?_ (by decide) (by decide) (by decide), bits_isNot (p := 0) (k := 10) (x := 15) (by decide) ?_ (by decide) (by decide) (by decide), bits_isNot (p := 0) (k := 10) (x := 15) (by decide) ?_ (by decide) (by decide) (by decide), bits_isNot (p := 0) (k := 10) (x := 15) (by decide) ?_ (by decide) (by decide) (by decide), bits_isNot (p := 0) (k := 10) (x := 15) (by decide) ?_ (by decide) (by decide) (by decide), bits_isNot (p := 0) (k := 10) (x := 15) (by decide) ?_ (by decide) (by decide) (by decide), bits_isNot (p := 0) (k := 10) (x := 15) (by decide) ?_ (by decide) (by decide) (by decide), bits_is (by decide) ?_, bits_is (by decide) ?_, bits_is (by decide) ?_, bits_is (by decide) ?_⟩
    all_goals repeat' first | exact rfl | apply put_get | apply put_low (by decide) | apply put_high (by decide)
  exact decode_c ((decodeC_op00 hop).trans ((if_neg f1).trans ((if_neg f2).trans ((if_neg f3).trans ((if_neg f4).trans ((if_neg f5).trans ((if_neg f6).trans ((if_neg f7).trans ((if_neg f8).trans ((if_neg f9).trans ((if_neg f10).trans ((if_neg f11).trans ((if_neg f12).trans ((if_neg f13).trans ((if_neg f14).trans ((if_neg f15).trans ((if_pos f16).trans (congrArg Except.ok (by rw [f17, f18, f19]))))))))))))))))))) wf

theorem mulh (d : BitVec 5) (a : BitVec 5) (b : BitVec 5) : Statement (.mulh d a b) := by
  rintro t ⟨⟩ wf
  generalize hw : encode (.mulh d a b) = wd
  have ⟨hop, f1, f2, f3, f4, f5, f6, f7, f8, f9, f10, f11, f12, f13, f14, f15, f16, f17, f18, f19, f20⟩ : (bits wd 25 7).toNat = 0 ∧ ¬(bits wd 0 10 = 0x0) ∧ ¬(bits wd 0 10 = 0x1) ∧ ¬(bits wd 0 10 = 0x2) ∧ ¬(bits wd 0 10 = 0x3) ∧ ¬(bits wd 0 10 = 0x4) ∧ ¬(bits wd 0 10 = 0x5) ∧ ¬(bits wd 0 10 = 0x6) ∧ ¬(bits wd 0 10 = 0x7) ∧ ¬(bits wd 0 10 = 0x8) ∧ ¬(bits wd 0 10 = 0x9) ∧ ¬(bits wd 0 10 = 0xA) ∧ ¬(bits wd 0 10 = 0xB) ∧ ¬(bits wd 0 10 = 0xC) ∧ ¬(bits wd 0 10 = 0xD) ∧ ¬(bits wd 0 10 = 0xE) ∧ ¬(bits wd 0 10 = 0xF) ∧ bits wd 0 10 = 0x10 ∧ bits wd 20 5 = d ∧ bits wd 15 5 = a ∧ bits wd 10 5 = b := by
    rw [← hw]; refine ⟨bits_word (by decide) ?_, bits_isNot (p := 0) (k := 10) (x := 16) (by decide) ?_ (by decide) (by decide) (by decide), bits_isNot (p := 0) (k := 10) (x := 16) (by decide) ?_ (by decide) (by decide) (by decide), bits_isNot (p := 0) (k := 10) (x := 16) (by decide) ?_ (by decide) (by decide) (by decide), bits_isNot (p := 0) (k := 10) (x := 16) (by decide) ?_ (by decide) (by decide) (by decide), bits_isNot (p := 0) (k := 10) (x := 16) (by decide) ?_ (by decide) (by decide) (by decide), bits_isNot (p := 0) (k := 10) (x := 16) (by decide) ?_ (by decide) (by decide) (by decide), bits_isNot (p := 0) (k := 10) (x := 16) (by decide) ?_ (by decide) (by decide) (by decide), bits_isNot (p := 0) (k := 10) (x := 16) (by decide) ?_ (by decide) (by decide) (by decide), bits_isNot (p := 0) (k := 10) (x := 16) (by decide) ?_ (by decide) (by decide) (by decide), bits_isNot (p := 0) (k := 10) (x := 16) (by decide) ?_ (by decide) (by decide) (by decide), bits_isNot (p := 0) (k := 10) (x := 16) (by decide) ?_ (by decide) (by decide) (by decide), bits_isNot (p := 0) (k := 10) (x := 16) (by decide) ?_ (by decide) (by decide) (by decide), bits_isNot (p := 0) (k := 10) (x := 16) (by decide) ?_ (by decide) (by decide) (by decide), bits_isNot (p := 0) (k := 10) (x := 16) (by decide) ?_ (by decide) (by decide) (by decide), bits_isNot (p := 0) (k := 10) (x := 16) (by decide) ?_ (by decide) (by decide) (by decide), bits_isNot (p := 0) (k := 10) (x := 16) (by decide) ?_ (by decide) (by decide) (by decide), bits_is (by decide) ?_, bits_is (by decide) ?_, bits_is (by decide) ?_, bits_is (by decide) ?_⟩
    all_goals repeat' first | exact rfl | apply put_get | apply put_low (by decide) | apply put_high (by decide)
  exact decode_c ((decodeC_op00 hop).trans ((if_neg f1).trans ((if_neg f2).trans ((if_neg f3).trans ((if_neg f4).trans ((if_neg f5).trans ((if_neg f6).trans ((if_neg f7).trans ((if_neg f8).trans ((if_neg f9).trans ((if_neg f10).trans ((if_neg f11).trans ((if_neg f12).trans ((if_neg f13).trans ((if_neg f14).trans ((if_neg f15).trans ((if_neg f16).trans ((if_pos f17).trans (congrArg Except.ok (by rw [f18, f19, f20])))))))))))))))))))) wf

theorem mulhu (d : BitVec 5) (a : BitVec 5) (b : BitVec 5) : Statement (.mulhu d a b) := by
  rintro t ⟨⟩ wf
  generalize hw : encode (.mulhu d a b) = wd
  have ⟨hop, f1, f2, f3, f4, f5, f6, f7, f8, f9, f10, f11, f12, f13, f14, f15, f16, f17, f18, f19, f20, f21⟩ : (bits wd 25 7).toNat = 0 ∧ ¬(bits wd 0 10 = 0x0) ∧ ¬(bits wd 0 10 = 0x1) ∧ ¬(bits wd 0 10 = 0x2) ∧ ¬(bits wd 0 10 = 0x3) ∧ ¬(bits wd 0 10 = 0x4) ∧ ¬(bits wd 0 10 = 0x5) ∧ ¬(bits wd 0 10 = 0x6) ∧ ¬(bits wd 0 10 = 0x7) ∧ ¬(bits wd 0 10 = 0x8) ∧ ¬(bits wd 0 10 = 0x9) ∧ ¬(bits wd 0 10 = 0xA) ∧ ¬(bits wd 0 10 = 0xB) ∧ ¬(bits wd 0 10 = 0xC) ∧ ¬(bits wd 0 10 = 0xD) ∧ ¬(bits wd 0 10 = 0xE) ∧ ¬(bits wd 0 10 = 0xF) ∧ ¬(bits wd 0 10 = 0x10) ∧ bits wd 0 10 = 0x11 ∧ bits wd 20 5 = d ∧ bits wd 15 5 = a ∧ bits wd 10 5 = b := by
    rw [← hw]; refine ⟨bits_word (by decide) ?_, bits_isNot (p := 0) (k := 10) (x := 17) (by decide) ?_ (by decide) (by decide) (by decide), bits_isNot (p := 0) (k := 10) (x := 17) (by decide) ?_ (by decide) (by decide) (by decide), bits_isNot (p := 0) (k := 10) (x := 17) (by decide) ?_ (by decide) (by decide) (by decide), bits_isNot (p := 0) (k := 10) (x := 17) (by decide) ?_ (by decide) (by decide) (by decide), bits_isNot (p := 0) (k := 10) (x := 17) (by decide) ?_ (by decide) (by decide) (by decide), bits_isNot (p := 0) (k := 10) (x := 17) (by decide) ?_ (by decide) (by decide) (by decide), bits_isNot (p := 0) (k := 10) (x := 17) (by decide) ?_ (by decide) (by decide) (by decide), bits_isNot (p := 0) (k := 10) (x := 17) (by decide) ?_ (by decide) (by decide) (by decide), bits_isNot (p := 0) (k := 10) (x := 17) (by decide) ?_ (by decide) (by decide) (by decide), bits_isNot (p := 0) (k := 10) (x := 17) (by decide) ?_ (by decide) (by decide) (by decide), bits_isNot (p := 0) (k := 10) (x := 17) (by decide) ?_ (by decide) (by decide) (by decide), bits_isNot (p := 0) (k := 10) (x := 17) (by decide) ?_ (by decide) (by decide) (by decide), bits_isNot (p := 0) (k := 10) (x := 17) (by decide) ?_ (by decide) (by decide) (by decide), bits_isNot (p := 0) (k := 10) (x := 17) (by decide) ?_ (by decide) (by decide) (by decide), bits_isNot (p := 0) (k := 10) (x := 17) (by decide) ?_ (by decide) (by decide) (by decide), bits_isNot (p := 0) (k := 10) (x := 17) (by decide) ?_ (by decide) (by decide) (by decide), bits_isNot (p := 0) (k := 10) (x := 17) (by decide) ?_ (by decide) (by decide) (by decide), bits_is (by decide) ?_, bits_is (by decide) ?_, bits_is (by decide) ?_, bits_is (by decide) ?_⟩
    all_goals repeat' first | exact rfl | apply put_get | apply put_low (by decide) | apply put_high (by decide)
  exact decode_c ((decodeC_op00 hop).trans ((if_neg f1).trans ((if_neg f2).trans ((if_neg f3).trans ((if_neg f4).trans ((if_neg f5).trans ((if_neg f6).trans ((if_neg f7).trans ((if_neg f8).trans ((if_neg f9).trans ((if_neg f10).trans ((if_neg f11).trans ((if_neg f12).trans ((if_neg f13).trans ((if_neg f14).trans ((if_neg f15).trans ((if_neg f16).trans ((if_neg f17).trans ((if_pos f18).trans (congrArg Except.ok (by rw [f19, f20, f21]))))))))))))))))))))) wf

theorem divu (d : BitVec 5) (a : BitVec 5) (b : BitVec 5) : Statement (.divu d a b) := by
  rintro t ⟨⟩ wf
  generalize hw : encode (.divu d a b) = wd
  have ⟨hop, f1, f2, f3, f4, f5, f6, f7, f8, f9, f10, f11, f12, f13, f14, f15, f16, f17, f18, f19, f20, f21, f22⟩ : (bits wd 25 7).toNat = 0 ∧ ¬(bits wd 0 10 = 0x0) ∧ ¬(bits wd 0 10 = 0x1) ∧ ¬(bits wd 0 10 = 0x2) ∧ ¬(bits wd 0 10 = 0x3) ∧ ¬(bits wd 0 10 = 0x4) ∧ ¬(bits wd 0 10 = 0x5) ∧ ¬(bits wd 0 10 = 0x6) ∧ ¬(bits wd 0 10 = 0x7) ∧ ¬(bits wd 0 10 = 0x8) ∧ ¬(bits wd 0 10 = 0x9) ∧ ¬(bits wd 0 10 = 0xA) ∧ ¬(bits wd 0 10 = 0xB) ∧ ¬(bits wd 0 10 = 0xC) ∧ ¬(bits wd 0 10 = 0xD) ∧ ¬(bits wd 0 10 = 0xE) ∧ ¬(bits wd 0 10 = 0xF) ∧ ¬(bits wd 0 10 = 0x10) ∧ ¬(bits wd 0 10 = 0x11) ∧ bits wd 0 10 = 0x12 ∧ bits wd 20 5 = d ∧ bits wd 15 5 = a ∧ bits wd 10 5 = b := by
    rw [← hw]; refine ⟨bits_word (by decide) ?_, bits_isNot (p := 0) (k := 10) (x := 18) (by decide) ?_ (by decide) (by decide) (by decide), bits_isNot (p := 0) (k := 10) (x := 18) (by decide) ?_ (by decide) (by decide) (by decide), bits_isNot (p := 0) (k := 10) (x := 18) (by decide) ?_ (by decide) (by decide) (by decide), bits_isNot (p := 0) (k := 10) (x := 18) (by decide) ?_ (by decide) (by decide) (by decide), bits_isNot (p := 0) (k := 10) (x := 18) (by decide) ?_ (by decide) (by decide) (by decide), bits_isNot (p := 0) (k := 10) (x := 18) (by decide) ?_ (by decide) (by decide) (by decide), bits_isNot (p := 0) (k := 10) (x := 18) (by decide) ?_ (by decide) (by decide) (by decide), bits_isNot (p := 0) (k := 10) (x := 18) (by decide) ?_ (by decide) (by decide) (by decide), bits_isNot (p := 0) (k := 10) (x := 18) (by decide) ?_ (by decide) (by decide) (by decide), bits_isNot (p := 0) (k := 10) (x := 18) (by decide) ?_ (by decide) (by decide) (by decide), bits_isNot (p := 0) (k := 10) (x := 18) (by decide) ?_ (by decide) (by decide) (by decide), bits_isNot (p := 0) (k := 10) (x := 18) (by decide) ?_ (by decide) (by decide) (by decide), bits_isNot (p := 0) (k := 10) (x := 18) (by decide) ?_ (by decide) (by decide) (by decide), bits_isNot (p := 0) (k := 10) (x := 18) (by decide) ?_ (by decide) (by decide) (by decide), bits_isNot (p := 0) (k := 10) (x := 18) (by decide) ?_ (by decide) (by decide) (by decide), bits_isNot (p := 0) (k := 10) (x := 18) (by decide) ?_ (by decide) (by decide) (by decide), bits_isNot (p := 0) (k := 10) (x := 18) (by decide) ?_ (by decide) (by decide) (by decide), bits_isNot (p := 0) (k := 10) (x := 18) (by decide) ?_ (by decide) (by decide) (by decide), bits_is (by decide) ?_, bits_is (by decide) ?_, bits_is (by decide) ?_, bits_is (by decide) ?_⟩
    all_goals repeat' first | exact rfl | apply put_get | apply put_low (by decide) | apply put_high (by decide)
  exact decode_c ((decodeC_op00 hop).trans ((if_neg f1).trans ((if_neg f2).trans ((if_neg f3).trans ((if_neg f4).trans ((if_neg f5).trans ((if_neg f6).trans ((if_neg f7).trans ((if_neg f8).trans ((if_neg f9).trans ((if_neg f10).trans ((if_neg f11).trans ((if_neg f12).trans ((if_neg f13).trans ((if_neg f14).trans ((if_neg f15).trans ((if_neg f16).trans ((if_neg f17).trans ((if_neg f18).trans ((if_pos f19).trans (congrArg Except.ok (by rw [f20, f21, f22])))))))))))))))))))))) wf

theorem remu (d : BitVec 5) (a : BitVec 5) (b : BitVec 5) : Statement (.remu d a b) := by
  rintro t ⟨⟩ wf
  generalize hw : encode (.remu d a b) = wd
  have ⟨hop, f1, f2, f3, f4, f5, f6, f7, f8, f9, f10, f11, f12, f13, f14, f15, f16, f17, f18, f19, f20, f21, f22, f23⟩ : (bits wd 25 7).toNat = 0 ∧ ¬(bits wd 0 10 = 0x0) ∧ ¬(bits wd 0 10 = 0x1) ∧ ¬(bits wd 0 10 = 0x2) ∧ ¬(bits wd 0 10 = 0x3) ∧ ¬(bits wd 0 10 = 0x4) ∧ ¬(bits wd 0 10 = 0x5) ∧ ¬(bits wd 0 10 = 0x6) ∧ ¬(bits wd 0 10 = 0x7) ∧ ¬(bits wd 0 10 = 0x8) ∧ ¬(bits wd 0 10 = 0x9) ∧ ¬(bits wd 0 10 = 0xA) ∧ ¬(bits wd 0 10 = 0xB) ∧ ¬(bits wd 0 10 = 0xC) ∧ ¬(bits wd 0 10 = 0xD) ∧ ¬(bits wd 0 10 = 0xE) ∧ ¬(bits wd 0 10 = 0xF) ∧ ¬(bits wd 0 10 = 0x10) ∧ ¬(bits wd 0 10 = 0x11) ∧ ¬(bits wd 0 10 = 0x12) ∧ bits wd 0 10 = 0x13 ∧ bits wd 20 5 = d ∧ bits wd 15 5 = a ∧ bits wd 10 5 = b := by
    rw [← hw]; refine ⟨bits_word (by decide) ?_, bits_isNot (p := 0) (k := 10) (x := 19) (by decide) ?_ (by decide) (by decide) (by decide), bits_isNot (p := 0) (k := 10) (x := 19) (by decide) ?_ (by decide) (by decide) (by decide), bits_isNot (p := 0) (k := 10) (x := 19) (by decide) ?_ (by decide) (by decide) (by decide), bits_isNot (p := 0) (k := 10) (x := 19) (by decide) ?_ (by decide) (by decide) (by decide), bits_isNot (p := 0) (k := 10) (x := 19) (by decide) ?_ (by decide) (by decide) (by decide), bits_isNot (p := 0) (k := 10) (x := 19) (by decide) ?_ (by decide) (by decide) (by decide), bits_isNot (p := 0) (k := 10) (x := 19) (by decide) ?_ (by decide) (by decide) (by decide), bits_isNot (p := 0) (k := 10) (x := 19) (by decide) ?_ (by decide) (by decide) (by decide), bits_isNot (p := 0) (k := 10) (x := 19) (by decide) ?_ (by decide) (by decide) (by decide), bits_isNot (p := 0) (k := 10) (x := 19) (by decide) ?_ (by decide) (by decide) (by decide), bits_isNot (p := 0) (k := 10) (x := 19) (by decide) ?_ (by decide) (by decide) (by decide), bits_isNot (p := 0) (k := 10) (x := 19) (by decide) ?_ (by decide) (by decide) (by decide), bits_isNot (p := 0) (k := 10) (x := 19) (by decide) ?_ (by decide) (by decide) (by decide), bits_isNot (p := 0) (k := 10) (x := 19) (by decide) ?_ (by decide) (by decide) (by decide), bits_isNot (p := 0) (k := 10) (x := 19) (by decide) ?_ (by decide) (by decide) (by decide), bits_isNot (p := 0) (k := 10) (x := 19) (by decide) ?_ (by decide) (by decide) (by decide), bits_isNot (p := 0) (k := 10) (x := 19) (by decide) ?_ (by decide) (by decide) (by decide), bits_isNot (p := 0) (k := 10) (x := 19) (by decide) ?_ (by decide) (by decide) (by decide), bits_isNot (p := 0) (k := 10) (x := 19) (by decide) ?_ (by decide) (by decide) (by decide), bits_is (by decide) ?_, bits_is (by decide) ?_, bits_is (by decide) ?_, bits_is (by decide) ?_⟩
    all_goals repeat' first | exact rfl | apply put_get | apply put_low (by decide) | apply put_high (by decide)
  exact decode_c ((decodeC_op00 hop).trans ((if_neg f1).trans ((if_neg f2).trans ((if_neg f3).trans ((if_neg f4).trans ((if_neg f5).trans ((if_neg f6).trans ((if_neg f7).trans ((if_neg f8).trans ((if_neg f9).trans ((if_neg f10).trans ((if_neg f11).trans ((if_neg f12).trans ((if_neg f13).trans ((if_neg f14).trans ((if_neg f15).trans ((if_neg f16).trans ((if_neg f17).trans ((if_neg f18).trans ((if_neg f19).trans ((if_pos f20).trans (congrArg Except.ok (by rw [f21, f22, f23]))))))))))))))))))))))) wf

theorem clz (d : BitVec 5) (a : BitVec 5) : Statement (.clz d a) := by
  rintro t ⟨⟩ wf
  generalize hw : encode (.clz d a) = wd
  have ⟨hop, f1, f2, f3, f4, f5, f6, f7, f8, f9, f10, f11, f12, f13, f14, f15, f16, f17, f18, f19, f20, f21, f22, f23⟩ : (bits wd 25 7).toNat = 0 ∧ ¬(bits wd 0 10 = 0x0) ∧ ¬(bits wd 0 10 = 0x1) ∧ ¬(bits wd 0 10 = 0x2) ∧ ¬(bits wd 0 10 = 0x3) ∧ ¬(bits wd 0 10 = 0x4) ∧ ¬(bits wd 0 10 = 0x5) ∧ ¬(bits wd 0 10 = 0x6) ∧ ¬(bits wd 0 10 = 0x7) ∧ ¬(bits wd 0 10 = 0x8) ∧ ¬(bits wd 0 10 = 0x9) ∧ ¬(bits wd 0 10 = 0xA) ∧ ¬(bits wd 0 10 = 0xB) ∧ ¬(bits wd 0 10 = 0xC) ∧ ¬(bits wd 0 10 = 0xD) ∧ ¬(bits wd 0 10 = 0xE) ∧ ¬(bits wd 0 10 = 0xF) ∧ ¬(bits wd 0 10 = 0x10) ∧ ¬(bits wd 0 10 = 0x11) ∧ ¬(bits wd 0 10 = 0x12) ∧ ¬(bits wd 0 10 = 0x13) ∧ bits wd 0 15 = 0x14 ∧ bits wd 20 5 = d ∧ bits wd 15 5 = a := by
    rw [← hw]; refine ⟨bits_word (by decide) ?_, bits_isNot (p := 0) (k := 10) (x := 20) (by decide) ?_ (by decide) (by decide) (by decide), bits_isNot (p := 0) (k := 10) (x := 20) (by decide) ?_ (by decide) (by decide) (by decide), bits_isNot (p := 0) (k := 10) (x := 20) (by decide) ?_ (by decide) (by decide) (by decide), bits_isNot (p := 0) (k := 10) (x := 20) (by decide) ?_ (by decide) (by decide) (by decide), bits_isNot (p := 0) (k := 10) (x := 20) (by decide) ?_ (by decide) (by decide) (by decide), bits_isNot (p := 0) (k := 10) (x := 20) (by decide) ?_ (by decide) (by decide) (by decide), bits_isNot (p := 0) (k := 10) (x := 20) (by decide) ?_ (by decide) (by decide) (by decide), bits_isNot (p := 0) (k := 10) (x := 20) (by decide) ?_ (by decide) (by decide) (by decide), bits_isNot (p := 0) (k := 10) (x := 20) (by decide) ?_ (by decide) (by decide) (by decide), bits_isNot (p := 0) (k := 10) (x := 20) (by decide) ?_ (by decide) (by decide) (by decide), bits_isNot (p := 0) (k := 10) (x := 20) (by decide) ?_ (by decide) (by decide) (by decide), bits_isNot (p := 0) (k := 10) (x := 20) (by decide) ?_ (by decide) (by decide) (by decide), bits_isNot (p := 0) (k := 10) (x := 20) (by decide) ?_ (by decide) (by decide) (by decide), bits_isNot (p := 0) (k := 10) (x := 20) (by decide) ?_ (by decide) (by decide) (by decide), bits_isNot (p := 0) (k := 10) (x := 20) (by decide) ?_ (by decide) (by decide) (by decide), bits_isNot (p := 0) (k := 10) (x := 20) (by decide) ?_ (by decide) (by decide) (by decide), bits_isNot (p := 0) (k := 10) (x := 20) (by decide) ?_ (by decide) (by decide) (by decide), bits_isNot (p := 0) (k := 10) (x := 20) (by decide) ?_ (by decide) (by decide) (by decide), bits_isNot (p := 0) (k := 10) (x := 20) (by decide) ?_ (by decide) (by decide) (by decide), bits_isNot (p := 0) (k := 10) (x := 20) (by decide) ?_ (by decide) (by decide) (by decide), bits_is (by decide) ?_, bits_is (by decide) ?_, bits_is (by decide) ?_⟩
    all_goals repeat' first | exact rfl | apply put_get | apply put_low (by decide) | apply put_high (by decide)
  exact decode_c ((decodeC_op00 hop).trans ((if_neg f1).trans ((if_neg f2).trans ((if_neg f3).trans ((if_neg f4).trans ((if_neg f5).trans ((if_neg f6).trans ((if_neg f7).trans ((if_neg f8).trans ((if_neg f9).trans ((if_neg f10).trans ((if_neg f11).trans ((if_neg f12).trans ((if_neg f13).trans ((if_neg f14).trans ((if_neg f15).trans ((if_neg f16).trans ((if_neg f17).trans ((if_neg f18).trans ((if_neg f19).trans ((if_neg f20).trans ((if_pos f21).trans (congrArg Except.ok (by rw [f22, f23])))))))))))))))))))))))) wf

theorem popc (d : BitVec 5) (a : BitVec 5) : Statement (.popc d a) := by
  rintro t ⟨⟩ wf
  generalize hw : encode (.popc d a) = wd
  have ⟨hop, f1, f2, f3, f4, f5, f6, f7, f8, f9, f10, f11, f12, f13, f14, f15, f16, f17, f18, f19, f20, f21, f22, f23, f24⟩ : (bits wd 25 7).toNat = 0 ∧ ¬(bits wd 0 10 = 0x0) ∧ ¬(bits wd 0 10 = 0x1) ∧ ¬(bits wd 0 10 = 0x2) ∧ ¬(bits wd 0 10 = 0x3) ∧ ¬(bits wd 0 10 = 0x4) ∧ ¬(bits wd 0 10 = 0x5) ∧ ¬(bits wd 0 10 = 0x6) ∧ ¬(bits wd 0 10 = 0x7) ∧ ¬(bits wd 0 10 = 0x8) ∧ ¬(bits wd 0 10 = 0x9) ∧ ¬(bits wd 0 10 = 0xA) ∧ ¬(bits wd 0 10 = 0xB) ∧ ¬(bits wd 0 10 = 0xC) ∧ ¬(bits wd 0 10 = 0xD) ∧ ¬(bits wd 0 10 = 0xE) ∧ ¬(bits wd 0 10 = 0xF) ∧ ¬(bits wd 0 10 = 0x10) ∧ ¬(bits wd 0 10 = 0x11) ∧ ¬(bits wd 0 10 = 0x12) ∧ ¬(bits wd 0 10 = 0x13) ∧ ¬(bits wd 0 15 = 0x14) ∧ bits wd 0 15 = 0x15 ∧ bits wd 20 5 = d ∧ bits wd 15 5 = a := by
    rw [← hw]; refine ⟨bits_word (by decide) ?_, bits_isNot (p := 0) (k := 10) (x := 21) (by decide) ?_ (by decide) (by decide) (by decide), bits_isNot (p := 0) (k := 10) (x := 21) (by decide) ?_ (by decide) (by decide) (by decide), bits_isNot (p := 0) (k := 10) (x := 21) (by decide) ?_ (by decide) (by decide) (by decide), bits_isNot (p := 0) (k := 10) (x := 21) (by decide) ?_ (by decide) (by decide) (by decide), bits_isNot (p := 0) (k := 10) (x := 21) (by decide) ?_ (by decide) (by decide) (by decide), bits_isNot (p := 0) (k := 10) (x := 21) (by decide) ?_ (by decide) (by decide) (by decide), bits_isNot (p := 0) (k := 10) (x := 21) (by decide) ?_ (by decide) (by decide) (by decide), bits_isNot (p := 0) (k := 10) (x := 21) (by decide) ?_ (by decide) (by decide) (by decide), bits_isNot (p := 0) (k := 10) (x := 21) (by decide) ?_ (by decide) (by decide) (by decide), bits_isNot (p := 0) (k := 10) (x := 21) (by decide) ?_ (by decide) (by decide) (by decide), bits_isNot (p := 0) (k := 10) (x := 21) (by decide) ?_ (by decide) (by decide) (by decide), bits_isNot (p := 0) (k := 10) (x := 21) (by decide) ?_ (by decide) (by decide) (by decide), bits_isNot (p := 0) (k := 10) (x := 21) (by decide) ?_ (by decide) (by decide) (by decide), bits_isNot (p := 0) (k := 10) (x := 21) (by decide) ?_ (by decide) (by decide) (by decide), bits_isNot (p := 0) (k := 10) (x := 21) (by decide) ?_ (by decide) (by decide) (by decide), bits_isNot (p := 0) (k := 10) (x := 21) (by decide) ?_ (by decide) (by decide) (by decide), bits_isNot (p := 0) (k := 10) (x := 21) (by decide) ?_ (by decide) (by decide) (by decide), bits_isNot (p := 0) (k := 10) (x := 21) (by decide) ?_ (by decide) (by decide) (by decide), bits_isNot (p := 0) (k := 10) (x := 21) (by decide) ?_ (by decide) (by decide) (by decide), bits_isNot (p := 0) (k := 10) (x := 21) (by decide) ?_ (by decide) (by decide) (by decide), bits_isNot (p := 0) (k := 15) (x := 21) (by decide) ?_ (by decide) (by decide) (by decide), bits_is (by decide) ?_, bits_is (by decide) ?_, bits_is (by decide) ?_⟩
    all_goals repeat' first | exact rfl | apply put_get | apply put_low (by decide) | apply put_high (by decide)
  exact decode_c ((decodeC_op00 hop).trans ((if_neg f1).trans ((if_neg f2).trans ((if_neg f3).trans ((if_neg f4).trans ((if_neg f5).trans ((if_neg f6).trans ((if_neg f7).trans ((if_neg f8).trans ((if_neg f9).trans ((if_neg f10).trans ((if_neg f11).trans ((if_neg f12).trans ((if_neg f13).trans ((if_neg f14).trans ((if_neg f15).trans ((if_neg f16).trans ((if_neg f17).trans ((if_neg f18).trans ((if_neg f19).trans ((if_neg f20).trans ((if_neg f21).trans ((if_pos f22).trans (congrArg Except.ok (by rw [f23, f24]))))))))))))))))))))))))) wf

theorem extS (d : BitVec 5) (a : BitVec 5) (w : BitVec 5) : Statement (.extS d a w) := by
  rintro t ⟨⟩ wf
  generalize hw : encode (.extS d a w) = wd
  have ⟨hop, f1, f2, f3, f4, f5, f6, f7, f8, f9, f10, f11, f12, f13, f14, f15, f16, f17, f18, f19, f20, f21, f22, f23, f24, f25, f26⟩ : (bits wd 25 7).toNat = 0 ∧ ¬(bits wd 0 10 = 0x0) ∧ ¬(bits wd 0 10 = 0x1) ∧ ¬(bits wd 0 10 = 0x2) ∧ ¬(bits wd 0 10 = 0x3) ∧ ¬(bits wd 0 10 = 0x4) ∧ ¬(bits wd 0 10 = 0x5) ∧ ¬(bits wd 0 10 = 0x6) ∧ ¬(bits wd 0 10 = 0x7) ∧ ¬(bits wd 0 10 = 0x8) ∧ ¬(bits wd 0 10 = 0x9) ∧ ¬(bits wd 0 10 = 0xA) ∧ ¬(bits wd 0 10 = 0xB) ∧ ¬(bits wd 0 10 = 0xC) ∧ ¬(bits wd 0 10 = 0xD) ∧ ¬(bits wd 0 10 = 0xE) ∧ ¬(bits wd 0 10 = 0xF) ∧ ¬(bits wd 0 10 = 0x10) ∧ ¬(bits wd 0 10 = 0x11) ∧ ¬(bits wd 0 10 = 0x12) ∧ ¬(bits wd 0 10 = 0x13) ∧ ¬(bits wd 0 15 = 0x14) ∧ ¬(bits wd 0 15 = 0x15) ∧ bits wd 0 10 = 0x16 ∧ bits wd 20 5 = d ∧ bits wd 15 5 = a ∧ bits wd 10 5 = w := by
    rw [← hw]; refine ⟨bits_word (by decide) ?_, bits_isNot (p := 0) (k := 10) (x := 22) (by decide) ?_ (by decide) (by decide) (by decide), bits_isNot (p := 0) (k := 10) (x := 22) (by decide) ?_ (by decide) (by decide) (by decide), bits_isNot (p := 0) (k := 10) (x := 22) (by decide) ?_ (by decide) (by decide) (by decide), bits_isNot (p := 0) (k := 10) (x := 22) (by decide) ?_ (by decide) (by decide) (by decide), bits_isNot (p := 0) (k := 10) (x := 22) (by decide) ?_ (by decide) (by decide) (by decide), bits_isNot (p := 0) (k := 10) (x := 22) (by decide) ?_ (by decide) (by decide) (by decide), bits_isNot (p := 0) (k := 10) (x := 22) (by decide) ?_ (by decide) (by decide) (by decide), bits_isNot (p := 0) (k := 10) (x := 22) (by decide) ?_ (by decide) (by decide) (by decide), bits_isNot (p := 0) (k := 10) (x := 22) (by decide) ?_ (by decide) (by decide) (by decide), bits_isNot (p := 0) (k := 10) (x := 22) (by decide) ?_ (by decide) (by decide) (by decide), bits_isNot (p := 0) (k := 10) (x := 22) (by decide) ?_ (by decide) (by decide) (by decide), bits_isNot (p := 0) (k := 10) (x := 22) (by decide) ?_ (by decide) (by decide) (by decide), bits_isNot (p := 0) (k := 10) (x := 22) (by decide) ?_ (by decide) (by decide) (by decide), bits_isNot (p := 0) (k := 10) (x := 22) (by decide) ?_ (by decide) (by decide) (by decide), bits_isNot (p := 0) (k := 10) (x := 22) (by decide) ?_ (by decide) (by decide) (by decide), bits_isNot (p := 0) (k := 10) (x := 22) (by decide) ?_ (by decide) (by decide) (by decide), bits_isNot (p := 0) (k := 10) (x := 22) (by decide) ?_ (by decide) (by decide) (by decide), bits_isNot (p := 0) (k := 10) (x := 22) (by decide) ?_ (by decide) (by decide) (by decide), bits_isNot (p := 0) (k := 10) (x := 22) (by decide) ?_ (by decide) (by decide) (by decide), bits_isNot (p := 0) (k := 10) (x := 22) (by decide) ?_ (by decide) (by decide) (by decide), bits_isNot (p := 0) (k := 10) (x := 22) (by decide) ?_ (by decide) (by decide) (by decide), bits_isNot (p := 0) (k := 10) (x := 22) (by decide) ?_ (by decide) (by decide) (by decide), bits_is (by decide) ?_, bits_is (by decide) ?_, bits_is (by decide) ?_, bits_is (by decide) ?_⟩
    all_goals repeat' first | exact rfl | apply put_get | apply put_low (by decide) | apply put_high (by decide)
  exact decode_c ((decodeC_op00 hop).trans ((if_neg f1).trans ((if_neg f2).trans ((if_neg f3).trans ((if_neg f4).trans ((if_neg f5).trans ((if_neg f6).trans ((if_neg f7).trans ((if_neg f8).trans ((if_neg f9).trans ((if_neg f10).trans ((if_neg f11).trans ((if_neg f12).trans ((if_neg f13).trans ((if_neg f14).trans ((if_neg f15).trans ((if_neg f16).trans ((if_neg f17).trans ((if_neg f18).trans ((if_neg f19).trans ((if_neg f20).trans ((if_neg f21).trans ((if_neg f22).trans ((if_pos f23).trans (congrArg Except.ok (by rw [f24, f25, f26])))))))))))))))))))))))))) wf

theorem extZ (d : BitVec 5) (a : BitVec 5) (w : BitVec 5) : Statement (.extZ d a w) := by
  rintro t ⟨⟩ wf
  generalize hw : encode (.extZ d a w) = wd
  have ⟨hop, f1, f2, f3, f4, f5, f6, f7, f8, f9, f10, f11, f12, f13, f14, f15, f16, f17, f18, f19, f20, f21, f22, f23, f24, f25, f26, f27⟩ : (bits wd 25 7).toNat = 0 ∧ ¬(bits wd 0 10 = 0x0) ∧ ¬(bits wd 0 10 = 0x1) ∧ ¬(bits wd 0 10 = 0x2) ∧ ¬(bits wd 0 10 = 0x3) ∧ ¬(bits wd 0 10 = 0x4) ∧ ¬(bits wd 0 10 = 0x5) ∧ ¬(bits wd 0 10 = 0x6) ∧ ¬(bits wd 0 10 = 0x7) ∧ ¬(bits wd 0 10 = 0x8) ∧ ¬(bits wd 0 10 = 0x9) ∧ ¬(bits wd 0 10 = 0xA) ∧ ¬(bits wd 0 10 = 0xB) ∧ ¬(bits wd 0 10 = 0xC) ∧ ¬(bits wd 0 10 = 0xD) ∧ ¬(bits wd 0 10 = 0xE) ∧ ¬(bits wd 0 10 = 0xF) ∧ ¬(bits wd 0 10 = 0x10) ∧ ¬(bits wd 0 10 = 0x11) ∧ ¬(bits wd 0 10 = 0x12) ∧ ¬(bits wd 0 10 = 0x13) ∧ ¬(bits wd 0 15 = 0x14) ∧ ¬(bits wd 0 15 = 0x15) ∧ ¬(bits wd 0 10 = 0x16) ∧ bits wd 0 10 = 0x17 ∧ bits wd 20 5 = d ∧ bits wd 15 5 = a ∧ bits wd 10 5 = w := by
    rw [← hw]; refine ⟨bits_word (by decide) ?_, bits_isNot (p := 0) (k := 10) (x := 23) (by decide) ?_ (by decide) (by decide) (by decide), bits_isNot (p := 0) (k := 10) (x := 23) (by decide) ?_ (by decide) (by decide) (by decide), bits_isNot (p := 0) (k := 10) (x := 23) (by decide) ?_ (by decide) (by decide) (by decide), bits_isNot (p := 0) (k := 10) (x := 23) (by decide) ?_ (by decide) (by decide) (by decide), bits_isNot (p := 0) (k := 10) (x := 23) (by decide) ?_ (by decide) (by decide) (by decide), bits_isNot (p := 0) (k := 10) (x := 23) (by decide) ?_ (by decide) (by decide) (by decide), bits_isNot (p := 0) (k := 10) (x := 23) (by decide) ?_ (by decide) (by decide) (by decide), bits_isNot (p := 0) (k := 10) (x := 23) (by decide) ?_ (by decide) (by decide) (by decide), bits_isNot (p := 0) (k := 10) (x := 23) (by decide) ?_ (by decide) (by decide) (by decide), bits_isNot (p := 0) (k := 10) (x := 23) (by decide) ?_ (by decide) (by decide) (by decide), bits_isNot (p := 0) (k := 10) (x := 23) (by decide) ?_ (by decide) (by decide) (by decide), bits_isNot (p := 0) (k := 10) (x := 23) (by decide) ?_ (by decide) (by decide) (by decide), bits_isNot (p := 0) (k := 10) (x := 23) (by decide) ?_ (by decide) (by decide) (by decide), bits_isNot (p := 0) (k := 10) (x := 23) (by decide) ?_ (by decide) (by decide) (by decide), bits_isNot (p := 0) (k := 10) (x := 23) (by decide) ?_ (by decide) (by decide) (by decide), bits_isNot (p := 0) (k := 10) (x := 23) (by decide) ?_ (by decide) (by decide) (by decide), bits_isNot (p := 0) (k := 10) (x := 23) (by decide) ?_ (by decide) (by decide) (by decide), bits_isNot (p := 0) (k := 10) (x := 23) (by decide) ?_ (by decide) (by decide) (by decide), bits_isNot (p := 0) (k := 10) (x := 23) (by decide) ?_ (by decide) (by decide) (by decide), bits_isNot (p := 0) (k := 10) (x := 23) (by decide) ?_ (by decide) (by decide) (by decide), bits_isNot (p := 0) (k := 10) (x := 23) (by decide) ?_ (by decide) (by decide) (by decide), bits_isNot (p := 0) (k := 10) (x := 23) (by decide) ?_ (by decide) (by decide) (by decide), bits_isNot (p := 0) (k := 10) (x := 23) (by decide) ?_ (by decide) (by decide) (by decide), bits_is (by decide) ?_, bits_is (by decide) ?_, bits_is (by decide) ?_, bits_is (by decide) ?_⟩
    all_goals repeat' first | exact rfl | apply put_get | apply put_low (by decide) | apply put_high (by decide)
  exact decode_c ((decodeC_op00 hop).trans ((if_neg f1).trans ((if_neg f2).trans ((if_neg f3).trans ((if_neg f4).trans ((if_neg f5).trans ((if_neg f6).trans ((if_neg f7).trans ((if_neg f8).trans ((if_neg f9).trans ((if_neg f10).trans ((if_neg f11).trans ((if_neg f12).trans ((if_neg f13).trans ((if_neg f14).trans ((if_neg f15).trans ((if_neg f16).trans ((if_neg f17).trans ((if_neg f18).trans ((if_neg f19).trans ((if_neg f20).trans ((if_neg f21).trans ((if_neg f22).trans ((if_neg f23).trans ((if_pos f24).trans (congrArg Except.ok (by rw [f25, f26, f27]))))))))))))))))))))))))))) wf

theorem addi (d : BitVec 5) (a : BitVec 5) (i : BitVec 15) : Statement (.addi d a i) := by
  rintro t ⟨⟩ wf
  generalize hw : encode (.addi d a i) = wd
  have ⟨hop, f1, f2, f3⟩ : (bits wd 25 7).toNat = 1 ∧ bits wd 20 5 = d ∧ bits wd 15 5 = a ∧ bits wd 0 15 = i := by
    rw [← hw]; refine ⟨bits_word (by decide) ?_, bits_is (by decide) ?_, bits_is (by decide) ?_, bits_is (by decide) ?_⟩
    all_goals repeat' first | exact rfl | apply put_get | apply put_low (by decide) | apply put_high (by decide)
  exact decode_c (by unfold decodeC; rw [hop]; exact congrArg Except.ok (by rw [f1, f2, f3])) wf

theorem andi (d : BitVec 5) (a : BitVec 5) (i : BitVec 15) : Statement (.andi d a i) := by
  rintro t ⟨⟩ wf
  generalize hw : encode (.andi d a i) = wd
  have ⟨hop, f1, f2, f3⟩ : (bits wd 25 7).toNat = 2 ∧ bits wd 20 5 = d ∧ bits wd 15 5 = a ∧ bits wd 0 15 = i := by
    rw [← hw]; refine ⟨bits_word (by decide) ?_, bits_is (by decide) ?_, bits_is (by decide) ?_, bits_is (by decide) ?_⟩
    all_goals repeat' first | exact rfl | apply put_get | apply put_low (by decide) | apply put_high (by decide)
  exact decode_c (by unfold decodeC; rw [hop]; exact congrArg Except.ok (by rw [f1, f2, f3])) wf

theorem ori (d : BitVec 5) (a : BitVec 5) (i : BitVec 15) : Statement (.ori d a i) := by
  rintro t ⟨⟩ wf
  generalize hw : encode (.ori d a i) = wd
  have ⟨hop, f1, f2, f3⟩ : (bits wd 25 7).toNat = 3 ∧ bits wd 20 5 = d ∧ bits wd 15 5 = a ∧ bits wd 0 15 = i := by
    rw [← hw]; refine ⟨bits_word (by decide) ?_, bits_is (by decide) ?_, bits_is (by decide) ?_, bits_is (by decide) ?_⟩
    all_goals repeat' first | exact rfl | apply put_get | apply put_low (by decide) | apply put_high (by decide)
  exact decode_c (by unfold decodeC; rw [hop]; exact congrArg Except.ok (by rw [f1, f2, f3])) wf

theorem xori (d : BitVec 5) (a : BitVec 5) (i : BitVec 15) : Statement (.xori d a i) := by
  rintro t ⟨⟩ wf
  generalize hw : encode (.xori d a i) = wd
  have ⟨hop, f1, f2, f3⟩ : (bits wd 25 7).toNat = 4 ∧ bits wd 20 5 = d ∧ bits wd 15 5 = a ∧ bits wd 0 15 = i := by
    rw [← hw]; refine ⟨bits_word (by decide) ?_, bits_is (by decide) ?_, bits_is (by decide) ?_, bits_is (by decide) ?_⟩
    all_goals repeat' first | exact rfl | apply put_get | apply put_low (by decide) | apply put_high (by decide)
  exact decode_c (by unfold decodeC; rw [hop]; exact congrArg Except.ok (by rw [f1, f2, f3])) wf

theorem shli (d : BitVec 5) (a : BitVec 5) (n : BitVec 6) : Statement (.shli d a n) := by
  rintro t ⟨⟩ wf
  generalize hw : encode (.shli d a n) = wd
  have ⟨hop, f1, f2, f3, f4⟩ : (bits wd 25 7).toNat = 5 ∧ bits wd 6 9 = 0x0 ∧ bits wd 20 5 = d ∧ bits wd 15 5 = a ∧ bits wd 0 6 = n := by
    rw [← hw]; refine ⟨bits_word (by decide) ?_, bits_is (by decide) ?_, bits_is (by decide) ?_, bits_is (by decide) ?_, bits_is (by decide) ?_⟩
    all_goals repeat' first | exact rfl | apply put_get | apply put_low (by decide) | apply put_high (by decide)
  exact decode_c (by unfold decodeC; simp only [hop]; exact (if_pos f1).trans (congrArg Except.ok (by rw [f2, f3, f4]))) wf

theorem shri (d : BitVec 5) (a : BitVec 5) (n : BitVec 6) : Statement (.shri d a n) := by
  rintro t ⟨⟩ wf
  generalize hw : encode (.shri d a n) = wd
  have ⟨hop, f1, f2, f3, f4⟩ : (bits wd 25 7).toNat = 6 ∧ bits wd 6 9 = 0x0 ∧ bits wd 20 5 = d ∧ bits wd 15 5 = a ∧ bits wd 0 6 = n := by
    rw [← hw]; refine ⟨bits_word (by decide) ?_, bits_is (by decide) ?_, bits_is (by decide) ?_, bits_is (by decide) ?_, bits_is (by decide) ?_⟩
    all_goals repeat' first | exact rfl | apply put_get | apply put_low (by decide) | apply put_high (by decide)
  exact decode_c (by unfold decodeC; simp only [hop]; exact (if_pos f1).trans (congrArg Except.ok (by rw [f2, f3, f4]))) wf

theorem srai (d : BitVec 5) (a : BitVec 5) (n : BitVec 6) : Statement (.srai d a n) := by
  rintro t ⟨⟩ wf
  generalize hw : encode (.srai d a n) = wd
  have ⟨hop, f1, f2, f3, f4⟩ : (bits wd 25 7).toNat = 7 ∧ bits wd 6 9 = 0x0 ∧ bits wd 20 5 = d ∧ bits wd 15 5 = a ∧ bits wd 0 6 = n := by
    rw [← hw]; refine ⟨bits_word (by decide) ?_, bits_is (by decide) ?_, bits_is (by decide) ?_, bits_is (by decide) ?_, bits_is (by decide) ?_⟩
    all_goals repeat' first | exact rfl | apply put_get | apply put_low (by decide) | apply put_high (by decide)
  exact decode_c (by unfold decodeC; simp only [hop]; exact (if_pos f1).trans (congrArg Except.ok (by rw [f2, f3, f4]))) wf

theorem slti (d : BitVec 5) (a : BitVec 5) (i : BitVec 15) : Statement (.slti d a i) := by
  rintro t ⟨⟩ wf
  generalize hw : encode (.slti d a i) = wd
  have ⟨hop, f1, f2, f3⟩ : (bits wd 25 7).toNat = 8 ∧ bits wd 20 5 = d ∧ bits wd 15 5 = a ∧ bits wd 0 15 = i := by
    rw [← hw]; refine ⟨bits_word (by decide) ?_, bits_is (by decide) ?_, bits_is (by decide) ?_, bits_is (by decide) ?_⟩
    all_goals repeat' first | exact rfl | apply put_get | apply put_low (by decide) | apply put_high (by decide)
  exact decode_c (by unfold decodeC; rw [hop]; exact congrArg Except.ok (by rw [f1, f2, f3])) wf

theorem sltui (d : BitVec 5) (a : BitVec 5) (i : BitVec 15) : Statement (.sltui d a i) := by
  rintro t ⟨⟩ wf
  generalize hw : encode (.sltui d a i) = wd
  have ⟨hop, f1, f2, f3⟩ : (bits wd 25 7).toNat = 9 ∧ bits wd 20 5 = d ∧ bits wd 15 5 = a ∧ bits wd 0 15 = i := by
    rw [← hw]; refine ⟨bits_word (by decide) ?_, bits_is (by decide) ?_, bits_is (by decide) ?_, bits_is (by decide) ?_⟩
    all_goals repeat' first | exact rfl | apply put_get | apply put_low (by decide) | apply put_high (by decide)
  exact decode_c (by unfold decodeC; rw [hop]; exact congrArg Except.ok (by rw [f1, f2, f3])) wf

theorem lui (d : BitVec 5) (i : BitVec 20) : Statement (.lui d i) := by
  rintro t ⟨⟩ wf
  generalize hw : encode (.lui d i) = wd
  have ⟨hop, f1, f2⟩ : (bits wd 25 7).toNat = 10 ∧ bits wd 20 5 = d ∧ bits wd 0 20 = i := by
    rw [← hw]; refine ⟨bits_word (by decide) ?_, bits_is (by decide) ?_, bits_is (by decide) ?_⟩
    all_goals repeat' first | exact rfl | apply put_get | apply put_low (by decide) | apply put_high (by decide)
  exact decode_c (by unfold decodeC; rw [hop]; exact congrArg Except.ok (by rw [f1, f2])) wf

theorem apc (d : BitVec 5) (i : BitVec 20) : Statement (.apc d i) := by
  rintro t ⟨⟩ wf
  generalize hw : encode (.apc d i) = wd
  have ⟨hop, f1, f2⟩ : (bits wd 25 7).toNat = 11 ∧ bits wd 20 5 = d ∧ bits wd 0 20 = i := by
    rw [← hw]; refine ⟨bits_word (by decide) ?_, bits_is (by decide) ?_, bits_is (by decide) ?_⟩
    all_goals repeat' first | exact rfl | apply put_get | apply put_low (by decide) | apply put_high (by decide)
  exact decode_c (by unfold decodeC; rw [hop]; exact congrArg Except.ok (by rw [f1, f2])) wf

theorem ldB (d : BitVec 5) (a : BitVec 5) (i : BitVec 15) : Statement (.ldB d a i) := by
  rintro t ⟨⟩ wf
  generalize hw : encode (.ldB d a i) = wd
  have ⟨hop, f1, f2, f3⟩ : (bits wd 25 7).toNat = 16 ∧ bits wd 20 5 = d ∧ bits wd 15 5 = a ∧ bits wd 0 15 = i := by
    rw [← hw]; refine ⟨bits_word (by decide) ?_, bits_is (by decide) ?_, bits_is (by decide) ?_, bits_is (by decide) ?_⟩
    all_goals repeat' first | exact rfl | apply put_get | apply put_low (by decide) | apply put_high (by decide)
  exact decode_c (by unfold decodeC; rw [hop]; exact congrArg Except.ok (by rw [f1, f2, f3])) wf

theorem ldH (d : BitVec 5) (a : BitVec 5) (i : BitVec 15) : Statement (.ldH d a i) := by
  rintro t ⟨⟩ wf
  generalize hw : encode (.ldH d a i) = wd
  have ⟨hop, f1, f2, f3⟩ : (bits wd 25 7).toNat = 17 ∧ bits wd 20 5 = d ∧ bits wd 15 5 = a ∧ bits wd 0 15 = i := by
    rw [← hw]; refine ⟨bits_word (by decide) ?_, bits_is (by decide) ?_, bits_is (by decide) ?_, bits_is (by decide) ?_⟩
    all_goals repeat' first | exact rfl | apply put_get | apply put_low (by decide) | apply put_high (by decide)
  exact decode_c (by unfold decodeC; rw [hop]; exact congrArg Except.ok (by rw [f1, f2, f3])) wf

theorem ldW (d : BitVec 5) (a : BitVec 5) (i : BitVec 15) : Statement (.ldW d a i) := by
  rintro t ⟨⟩ wf
  generalize hw : encode (.ldW d a i) = wd
  have ⟨hop, f1, f2, f3⟩ : (bits wd 25 7).toNat = 18 ∧ bits wd 20 5 = d ∧ bits wd 15 5 = a ∧ bits wd 0 15 = i := by
    rw [← hw]; refine ⟨bits_word (by decide) ?_, bits_is (by decide) ?_, bits_is (by decide) ?_, bits_is (by decide) ?_⟩
    all_goals repeat' first | exact rfl | apply put_get | apply put_low (by decide) | apply put_high (by decide)
  exact decode_c (by unfold decodeC; rw [hop]; exact congrArg Except.ok (by rw [f1, f2, f3])) wf

theorem ldD (d : BitVec 5) (a : BitVec 5) (i : BitVec 15) : Statement (.ldD d a i) := by
  rintro t ⟨⟩ wf
  generalize hw : encode (.ldD d a i) = wd
  have ⟨hop, f1, f2, f3⟩ : (bits wd 25 7).toNat = 19 ∧ bits wd 20 5 = d ∧ bits wd 15 5 = a ∧ bits wd 0 15 = i := by
    rw [← hw]; refine ⟨bits_word (by decide) ?_, bits_is (by decide) ?_, bits_is (by decide) ?_, bits_is (by decide) ?_⟩
    all_goals repeat' first | exact rfl | apply put_get | apply put_low (by decide) | apply put_high (by decide)
  exact decode_c (by unfold decodeC; rw [hop]; exact congrArg Except.ok (by rw [f1, f2, f3])) wf

theorem lduB (d : BitVec 5) (a : BitVec 5) (i : BitVec 15) : Statement (.lduB d a i) := by
  rintro t ⟨⟩ wf
  generalize hw : encode (.lduB d a i) = wd
  have ⟨hop, f1, f2, f3⟩ : (bits wd 25 7).toNat = 20 ∧ bits wd 20 5 = d ∧ bits wd 15 5 = a ∧ bits wd 0 15 = i := by
    rw [← hw]; refine ⟨bits_word (by decide) ?_, bits_is (by decide) ?_, bits_is (by decide) ?_, bits_is (by decide) ?_⟩
    all_goals repeat' first | exact rfl | apply put_get | apply put_low (by decide) | apply put_high (by decide)
  exact decode_c (by unfold decodeC; rw [hop]; exact congrArg Except.ok (by rw [f1, f2, f3])) wf

theorem lduH (d : BitVec 5) (a : BitVec 5) (i : BitVec 15) : Statement (.lduH d a i) := by
  rintro t ⟨⟩ wf
  generalize hw : encode (.lduH d a i) = wd
  have ⟨hop, f1, f2, f3⟩ : (bits wd 25 7).toNat = 21 ∧ bits wd 20 5 = d ∧ bits wd 15 5 = a ∧ bits wd 0 15 = i := by
    rw [← hw]; refine ⟨bits_word (by decide) ?_, bits_is (by decide) ?_, bits_is (by decide) ?_, bits_is (by decide) ?_⟩
    all_goals repeat' first | exact rfl | apply put_get | apply put_low (by decide) | apply put_high (by decide)
  exact decode_c (by unfold decodeC; rw [hop]; exact congrArg Except.ok (by rw [f1, f2, f3])) wf

theorem lduW (d : BitVec 5) (a : BitVec 5) (i : BitVec 15) : Statement (.lduW d a i) := by
  rintro t ⟨⟩ wf
  generalize hw : encode (.lduW d a i) = wd
  have ⟨hop, f1, f2, f3⟩ : (bits wd 25 7).toNat = 22 ∧ bits wd 20 5 = d ∧ bits wd 15 5 = a ∧ bits wd 0 15 = i := by
    rw [← hw]; refine ⟨bits_word (by decide) ?_, bits_is (by decide) ?_, bits_is (by decide) ?_, bits_is (by decide) ?_⟩
    all_goals repeat' first | exact rfl | apply put_get | apply put_low (by decide) | apply put_high (by decide)
  exact decode_c (by unfold decodeC; rw [hop]; exact congrArg Except.ok (by rw [f1, f2, f3])) wf

theorem ldLast (d : BitVec 5) (a : BitVec 5) (i : BitVec 15) : Statement (.ldLast d a i) := by
  rintro t ⟨⟩ wf
  generalize hw : encode (.ldLast d a i) = wd
  have ⟨hop, f1, f2, f3⟩ : (bits wd 25 7).toNat = 23 ∧ bits wd 20 5 = d ∧ bits wd 15 5 = a ∧ bits wd 0 15 = i := by
    rw [← hw]; refine ⟨bits_word (by decide) ?_, bits_is (by decide) ?_, bits_is (by decide) ?_, bits_is (by decide) ?_⟩
    all_goals repeat' first | exact rfl | apply put_get | apply put_low (by decide) | apply put_high (by decide)
  exact decode_c (by unfold decodeC; rw [hop]; exact congrArg Except.ok (by rw [f1, f2, f3])) wf

theorem stB (b : BitVec 5) (a : BitVec 5) (i : BitVec 15) : Statement (.stB b a i) := by
  rintro t ⟨⟩ wf
  generalize hw : encode (.stB b a i) = wd
  have ⟨hop, f1, f2, f3⟩ : (bits wd 25 7).toNat = 24 ∧ bits wd 20 5 = b ∧ bits wd 15 5 = a ∧ bits wd 0 15 = i := by
    rw [← hw]; refine ⟨bits_word (by decide) ?_, bits_is (by decide) ?_, bits_is (by decide) ?_, bits_is (by decide) ?_⟩
    all_goals repeat' first | exact rfl | apply put_get | apply put_low (by decide) | apply put_high (by decide)
  exact decode_c (by unfold decodeC; rw [hop]; exact congrArg Except.ok (by rw [f1, f2, f3])) wf

theorem stH (b : BitVec 5) (a : BitVec 5) (i : BitVec 15) : Statement (.stH b a i) := by
  rintro t ⟨⟩ wf
  generalize hw : encode (.stH b a i) = wd
  have ⟨hop, f1, f2, f3⟩ : (bits wd 25 7).toNat = 25 ∧ bits wd 20 5 = b ∧ bits wd 15 5 = a ∧ bits wd 0 15 = i := by
    rw [← hw]; refine ⟨bits_word (by decide) ?_, bits_is (by decide) ?_, bits_is (by decide) ?_, bits_is (by decide) ?_⟩
    all_goals repeat' first | exact rfl | apply put_get | apply put_low (by decide) | apply put_high (by decide)
  exact decode_c (by unfold decodeC; rw [hop]; exact congrArg Except.ok (by rw [f1, f2, f3])) wf

theorem stW (b : BitVec 5) (a : BitVec 5) (i : BitVec 15) : Statement (.stW b a i) := by
  rintro t ⟨⟩ wf
  generalize hw : encode (.stW b a i) = wd
  have ⟨hop, f1, f2, f3⟩ : (bits wd 25 7).toNat = 26 ∧ bits wd 20 5 = b ∧ bits wd 15 5 = a ∧ bits wd 0 15 = i := by
    rw [← hw]; refine ⟨bits_word (by decide) ?_, bits_is (by decide) ?_, bits_is (by decide) ?_, bits_is (by decide) ?_⟩
    all_goals repeat' first | exact rfl | apply put_get | apply put_low (by decide) | apply put_high (by decide)
  exact decode_c (by unfold decodeC; rw [hop]; exact congrArg Except.ok (by rw [f1, f2, f3])) wf

theorem stD (b : BitVec 5) (a : BitVec 5) (i : BitVec 15) : Statement (.stD b a i) := by
  rintro t ⟨⟩ wf
  generalize hw : encode (.stD b a i) = wd
  have ⟨hop, f1, f2, f3⟩ : (bits wd 25 7).toNat = 27 ∧ bits wd 20 5 = b ∧ bits wd 15 5 = a ∧ bits wd 0 15 = i := by
    rw [← hw]; refine ⟨bits_word (by decide) ?_, bits_is (by decide) ?_, bits_is (by decide) ?_, bits_is (by decide) ?_⟩
    all_goals repeat' first | exact rfl | apply put_get | apply put_low (by decide) | apply put_high (by decide)
  exact decode_c (by unfold decodeC; rw [hop]; exact congrArg Except.ok (by rw [f1, f2, f3])) wf

theorem amo (d : BitVec 5) (a : BitVec 5) (b : BitVec 5) (use : BitVec 2) (op : BitVec 4) : Statement (.amo d a b use op) := by
  rintro t ⟨⟩ wf
  generalize hw : encode (.amo d a b use op) = wd
  have ⟨hop, f1, f2, f3, f4, f5, f6⟩ : (bits wd 25 7).toNat = 28 ∧ bits wd 0 4 = 0x0 ∧ bits wd 20 5 = d ∧ bits wd 15 5 = a ∧ bits wd 10 5 = b ∧ bits wd 8 2 = use ∧ bits wd 4 4 = op := by
    rw [← hw]; refine ⟨bits_word (by decide) ?_, bits_is (by decide) ?_, bits_is (by decide) ?_, bits_is (by decide) ?_, bits_is (by decide) ?_, bits_is (by decide) ?_, bits_is (by decide) ?_⟩
    all_goals repeat' first | exact rfl | apply put_get | apply put_low (by decide) | apply put_high (by decide)
  exact decode_c (by unfold decodeC; simp only [hop]; exact (if_pos f1).trans (congrArg Except.ok (by rw [f2, f3, f4, f5, f6]))) wf

theorem cas (d : BitVec 5) (a : BitVec 5) (b : BitVec 5) : Statement (.cas d a b) := by
  rintro t ⟨⟩ wf
  generalize hw : encode (.cas d a b) = wd
  have ⟨hop, f1, f2, f3, f4⟩ : (bits wd 25 7).toNat = 29 ∧ bits wd 0 10 = 0x0 ∧ bits wd 20 5 = d ∧ bits wd 15 5 = a ∧ bits wd 10 5 = b := by
    rw [← hw]; refine ⟨bits_word (by decide) ?_, bits_is (by decide) ?_, bits_is (by decide) ?_, bits_is (by decide) ?_, bits_is (by decide) ?_⟩
    all_goals repeat' first | exact rfl | apply put_get | apply put_low (by decide) | apply put_high (by decide)
  exact decode_c (by unfold decodeC; simp only [hop]; exact (if_pos f1).trans (congrArg Except.ok (by rw [f2, f3, f4]))) wf

theorem beq (a : BitVec 5) (b : BitVec 5) (o : BitVec 15) : Statement (.beq a b o) := by
  rintro t ⟨⟩ wf
  generalize hw : encode (.beq a b o) = wd
  have ⟨hop, f1, f2, f3⟩ : (bits wd 25 7).toNat = 32 ∧ bits wd 20 5 = a ∧ bits wd 15 5 = b ∧ bits wd 0 15 = o := by
    rw [← hw]; refine ⟨bits_word (by decide) ?_, bits_is (by decide) ?_, bits_is (by decide) ?_, bits_is (by decide) ?_⟩
    all_goals repeat' first | exact rfl | apply put_get | apply put_low (by decide) | apply put_high (by decide)
  exact decode_c (by unfold decodeC; rw [hop]; exact congrArg Except.ok (by rw [f1, f2, f3])) wf

theorem bne (a : BitVec 5) (b : BitVec 5) (o : BitVec 15) : Statement (.bne a b o) := by
  rintro t ⟨⟩ wf
  generalize hw : encode (.bne a b o) = wd
  have ⟨hop, f1, f2, f3⟩ : (bits wd 25 7).toNat = 33 ∧ bits wd 20 5 = a ∧ bits wd 15 5 = b ∧ bits wd 0 15 = o := by
    rw [← hw]; refine ⟨bits_word (by decide) ?_, bits_is (by decide) ?_, bits_is (by decide) ?_, bits_is (by decide) ?_⟩
    all_goals repeat' first | exact rfl | apply put_get | apply put_low (by decide) | apply put_high (by decide)
  exact decode_c (by unfold decodeC; rw [hop]; exact congrArg Except.ok (by rw [f1, f2, f3])) wf

theorem blt (a : BitVec 5) (b : BitVec 5) (o : BitVec 15) : Statement (.blt a b o) := by
  rintro t ⟨⟩ wf
  generalize hw : encode (.blt a b o) = wd
  have ⟨hop, f1, f2, f3⟩ : (bits wd 25 7).toNat = 34 ∧ bits wd 20 5 = a ∧ bits wd 15 5 = b ∧ bits wd 0 15 = o := by
    rw [← hw]; refine ⟨bits_word (by decide) ?_, bits_is (by decide) ?_, bits_is (by decide) ?_, bits_is (by decide) ?_⟩
    all_goals repeat' first | exact rfl | apply put_get | apply put_low (by decide) | apply put_high (by decide)
  exact decode_c (by unfold decodeC; rw [hop]; exact congrArg Except.ok (by rw [f1, f2, f3])) wf

theorem bge (a : BitVec 5) (b : BitVec 5) (o : BitVec 15) : Statement (.bge a b o) := by
  rintro t ⟨⟩ wf
  generalize hw : encode (.bge a b o) = wd
  have ⟨hop, f1, f2, f3⟩ : (bits wd 25 7).toNat = 35 ∧ bits wd 20 5 = a ∧ bits wd 15 5 = b ∧ bits wd 0 15 = o := by
    rw [← hw]; refine ⟨bits_word (by decide) ?_, bits_is (by decide) ?_, bits_is (by decide) ?_, bits_is (by decide) ?_⟩
    all_goals repeat' first | exact rfl | apply put_get | apply put_low (by decide) | apply put_high (by decide)
  exact decode_c (by unfold decodeC; rw [hop]; exact congrArg Except.ok (by rw [f1, f2, f3])) wf

theorem bltu (a : BitVec 5) (b : BitVec 5) (o : BitVec 15) : Statement (.bltu a b o) := by
  rintro t ⟨⟩ wf
  generalize hw : encode (.bltu a b o) = wd
  have ⟨hop, f1, f2, f3⟩ : (bits wd 25 7).toNat = 36 ∧ bits wd 20 5 = a ∧ bits wd 15 5 = b ∧ bits wd 0 15 = o := by
    rw [← hw]; refine ⟨bits_word (by decide) ?_, bits_is (by decide) ?_, bits_is (by decide) ?_, bits_is (by decide) ?_⟩
    all_goals repeat' first | exact rfl | apply put_get | apply put_low (by decide) | apply put_high (by decide)
  exact decode_c (by unfold decodeC; rw [hop]; exact congrArg Except.ok (by rw [f1, f2, f3])) wf

theorem bgeu (a : BitVec 5) (b : BitVec 5) (o : BitVec 15) : Statement (.bgeu a b o) := by
  rintro t ⟨⟩ wf
  generalize hw : encode (.bgeu a b o) = wd
  have ⟨hop, f1, f2, f3⟩ : (bits wd 25 7).toNat = 37 ∧ bits wd 20 5 = a ∧ bits wd 15 5 = b ∧ bits wd 0 15 = o := by
    rw [← hw]; refine ⟨bits_word (by decide) ?_, bits_is (by decide) ?_, bits_is (by decide) ?_, bits_is (by decide) ?_⟩
    all_goals repeat' first | exact rfl | apply put_get | apply put_low (by decide) | apply put_high (by decide)
  exact decode_c (by unfold decodeC; rw [hop]; exact congrArg Except.ok (by rw [f1, f2, f3])) wf

theorem jal (d : BitVec 5) (o : BitVec 20) : Statement (.jal d o) := by
  rintro t ⟨⟩ wf
  generalize hw : encode (.jal d o) = wd
  have ⟨hop, f1, f2⟩ : (bits wd 25 7).toNat = 38 ∧ bits wd 20 5 = d ∧ bits wd 0 20 = o := by
    rw [← hw]; refine ⟨bits_word (by decide) ?_, bits_is (by decide) ?_, bits_is (by decide) ?_⟩
    all_goals repeat' first | exact rfl | apply put_get | apply put_low (by decide) | apply put_high (by decide)
  exact decode_c (by unfold decodeC; rw [hop]; exact congrArg Except.ok (by rw [f1, f2])) wf

theorem jalr (d : BitVec 5) (a : BitVec 5) (i : BitVec 15) : Statement (.jalr d a i) := by
  rintro t ⟨⟩ wf
  generalize hw : encode (.jalr d a i) = wd
  have ⟨hop, f1, f2, f3⟩ : (bits wd 25 7).toNat = 39 ∧ bits wd 20 5 = d ∧ bits wd 15 5 = a ∧ bits wd 0 15 = i := by
    rw [← hw]; refine ⟨bits_word (by decide) ?_, bits_is (by decide) ?_, bits_is (by decide) ?_, bits_is (by decide) ?_⟩
    all_goals repeat' first | exact rfl | apply put_get | apply put_low (by decide) | apply put_high (by decide)
  exact decode_c (by unfold decodeC; rw [hop]; exact congrArg Except.ok (by rw [f1, f2, f3])) wf

theorem loop (c : BitVec 5) (o : BitVec 15) : Statement (.loop c o) := by
  rintro t ⟨⟩ wf
  generalize hw : encode (.loop c o) = wd
  have ⟨hop, f1, f2, f3⟩ : (bits wd 25 7).toNat = 40 ∧ bits wd 15 5 = 0x0 ∧ bits wd 20 5 = c ∧ bits wd 0 15 = o := by
    rw [← hw]; refine ⟨bits_word (by decide) ?_, bits_is (by decide) ?_, bits_is (by decide) ?_, bits_is (by decide) ?_⟩
    all_goals repeat' first | exact rfl | apply put_get | apply put_low (by decide) | apply put_high (by decide)
  exact decode_c (by unfold decodeC; simp only [hop]; exact (if_pos f1).trans (congrArg Except.ok (by rw [f2, f3]))) wf

theorem loopi (n : BitVec 10) (o : BitVec 15) : Statement (.loopi n o) := by
  rintro t ⟨⟩ wf
  generalize hw : encode (.loopi n o) = wd
  have ⟨hop, f1, f2⟩ : (bits wd 25 7).toNat = 41 ∧ bits wd 15 10 = n ∧ bits wd 0 15 = o := by
    rw [← hw]; refine ⟨bits_word (by decide) ?_, bits_is (by decide) ?_, bits_is (by decide) ?_⟩
    all_goals repeat' first | exact rfl | apply put_get | apply put_low (by decide) | apply put_high (by decide)
  exact decode_c (by unfold decodeC; rw [hop]; exact congrArg Except.ok (by rw [f1, f2])) wf

theorem qpush (v : BitVec 5) (p : BitVec 2) : Statement (.qpush v p) := by
  rintro t ⟨⟩ wf
  generalize hw : encode (.qpush v p) = wd
  have ⟨hop, f1, f2, f3, f4⟩ : (bits wd 25 7).toNat = 48 ∧ bits wd 15 5 = 0x0 ∧ bits wd 0 13 = 0x0 ∧ bits wd 20 5 = v ∧ bits wd 13 2 = p := by
    rw [← hw]; refine ⟨bits_word (by decide) ?_, bits_is (by decide) ?_, bits_is (by decide) ?_, bits_is (by decide) ?_, bits_is (by decide) ?_⟩
    all_goals repeat' first | exact rfl | apply put_get | apply put_low (by decide) | apply put_high (by decide)
  exact decode_c (by unfold decodeC; simp only [hop]; exact (if_pos ⟨f1, f2⟩).trans (congrArg Except.ok (by rw [f3, f4]))) wf

theorem qpop (v : BitVec 5) (p : BitVec 2) : Statement (.qpop v p) := by
  rintro t ⟨⟩ wf
  generalize hw : encode (.qpop v p) = wd
  have ⟨hop, f1, f2, f3, f4⟩ : (bits wd 25 7).toNat = 49 ∧ bits wd 15 5 = 0x0 ∧ bits wd 0 13 = 0x0 ∧ bits wd 20 5 = v ∧ bits wd 13 2 = p := by
    rw [← hw]; refine ⟨bits_word (by decide) ?_, bits_is (by decide) ?_, bits_is (by decide) ?_, bits_is (by decide) ?_, bits_is (by decide) ?_⟩
    all_goals repeat' first | exact rfl | apply put_get | apply put_low (by decide) | apply put_high (by decide)
  exact decode_c (by unfold decodeC; simp only [hop]; exact (if_pos ⟨f1, f2⟩).trans (congrArg Except.ok (by rw [f3, f4]))) wf

theorem qtry (v : BitVec 5) (e : BitVec 5) (p : BitVec 2) : Statement (.qtry v e p) := by
  rintro t ⟨⟩ wf
  generalize hw : encode (.qtry v e p) = wd
  have ⟨hop, f1, f2, f3, f4⟩ : (bits wd 25 7).toNat = 50 ∧ bits wd 0 13 = 0x0 ∧ bits wd 20 5 = v ∧ bits wd 15 5 = e ∧ bits wd 13 2 = p := by
    rw [← hw]; refine ⟨bits_word (by decide) ?_, bits_is (by decide) ?_, bits_is (by decide) ?_, bits_is (by decide) ?_, bits_is (by decide) ?_⟩
    all_goals repeat' first | exact rfl | apply put_get | apply put_low (by decide) | apply put_high (by decide)
  exact decode_c (by unfold decodeC; simp only [hop]; exact (if_pos f1).trans (congrArg Except.ok (by rw [f2, f3, f4]))) wf

theorem tpost (p : BitVec 2) : Statement (.tpost p) := by
  rintro t ⟨⟩ wf
  generalize hw : encode (.tpost p) = wd
  have ⟨hop, f1, f2, f3⟩ : (bits wd 25 7).toNat = 51 ∧ bits wd 15 10 = 0x0 ∧ bits wd 0 13 = 0x0 ∧ bits wd 13 2 = p := by
    rw [← hw]; refine ⟨bits_word (by decide) ?_, bits_is (by decide) ?_, bits_is (by decide) ?_, bits_is (by decide) ?_⟩
    all_goals repeat' first | exact rfl | apply put_get | apply put_low (by decide) | apply put_high (by decide)
  exact decode_c (by unfold decodeC; simp only [hop]; exact (if_pos ⟨f1, f2⟩).trans (congrArg Except.ok (by rw [f3]))) wf

theorem twait (p : BitVec 2) : Statement (.twait p) := by
  rintro t ⟨⟩ wf
  generalize hw : encode (.twait p) = wd
  have ⟨hop, f1, f2, f3⟩ : (bits wd 25 7).toNat = 52 ∧ bits wd 15 10 = 0x0 ∧ bits wd 0 13 = 0x0 ∧ bits wd 13 2 = p := by
    rw [← hw]; refine ⟨bits_word (by decide) ?_, bits_is (by decide) ?_, bits_is (by decide) ?_, bits_is (by decide) ?_⟩
    all_goals repeat' first | exact rfl | apply put_get | apply put_low (by decide) | apply put_high (by decide)
  exact decode_c (by unfold decodeC; simp only [hop]; exact (if_pos ⟨f1, f2⟩).trans (congrArg Except.ok (by rw [f3]))) wf

theorem fmt (a : BitVec 5) : Statement (.fmt a) := by
  rintro t ⟨⟩ wf
  generalize hw : encode (.fmt a) = wd
  have ⟨hop, f1, f2, f3⟩ : (bits wd 25 7).toNat = 53 ∧ bits wd 20 5 = 0x0 ∧ bits wd 0 15 = 0x0 ∧ bits wd 15 5 = a := by
    rw [← hw]; refine ⟨bits_word (by decide) ?_, bits_is (by decide) ?_, bits_is (by decide) ?_, bits_is (by decide) ?_⟩
    all_goals repeat' first | exact rfl | apply put_get | apply put_low (by decide) | apply put_high (by decide)
  exact decode_c (by unfold decodeC; simp only [hop]; exact (if_pos ⟨f1, f2⟩).trans (congrArg Except.ok (by rw [f3]))) wf

theorem nestW (a : BitVec 5) (i : BitVec 4) : Statement (.nestW a i) := by
  rintro t ⟨⟩ wf
  generalize hw : encode (.nestW a i) = wd
  have ⟨hop, f1, f2, f3, f4⟩ : (bits wd 25 7).toNat = 54 ∧ bits wd 20 5 = 0x0 ∧ bits wd 4 11 = 0x0 ∧ bits wd 15 5 = a ∧ bits wd 0 4 = i := by
    rw [← hw]; refine ⟨bits_word (by decide) ?_, bits_is (by decide) ?_, bits_is (by decide) ?_, bits_is (by decide) ?_, bits_is (by decide) ?_⟩
    all_goals repeat' first | exact rfl | apply put_get | apply put_low (by decide) | apply put_high (by decide)
  exact decode_c (by unfold decodeC; simp only [hop]; exact (if_pos ⟨f1, f2⟩).trans (congrArg Except.ok (by rw [f3, f4]))) wf

theorem nestGo : Statement .nestGo := by
  rintro t ⟨⟩ wf
  generalize hw : encode .nestGo = wd
  have ⟨hop, f1⟩ : (bits wd 25 7).toNat = 55 ∧ bits wd 0 25 = 0x0 := by
    rw [← hw]; refine ⟨bits_word (by decide) ?_, bits_is (by decide) ?_⟩
    all_goals exact rfl
  exact decode_c (by unfold decodeC; simp only [hop]; exact (if_pos f1).trans rfl) wf

theorem launch (d : BitVec 5) (a : BitVec 5) : Statement (.launch d a) := by
  rintro t ⟨⟩ wf
  generalize hw : encode (.launch d a) = wd
  have ⟨hop, f1, f2, f3⟩ : (bits wd 25 7).toNat = 64 ∧ bits wd 0 15 = 0x0 ∧ bits wd 20 5 = d ∧ bits wd 15 5 = a := by
    rw [← hw]; refine ⟨bits_word (by decide) ?_, bits_is (by decide) ?_, bits_is (by decide) ?_, bits_is (by decide) ?_⟩
    all_goals repeat' first | exact rfl | apply put_get | apply put_low (by decide) | apply put_high (by decide)
  exact decode_c (by unfold decodeC; simp only [hop]; exact (if_pos f1).trans (congrArg Except.ok (by rw [f2, f3]))) wf

theorem stream (a : BitVec 5) : Statement (.stream a) := by
  rintro t ⟨⟩ wf
  generalize hw : encode (.stream a) = wd
  have ⟨hop, f1, f2, f3⟩ : (bits wd 25 7).toNat = 65 ∧ bits wd 20 5 = 0x0 ∧ bits wd 0 15 = 0x0 ∧ bits wd 15 5 = a := by
    rw [← hw]; refine ⟨bits_word (by decide) ?_, bits_is (by decide) ?_, bits_is (by decide) ?_, bits_is (by decide) ?_⟩
    all_goals repeat' first | exact rfl | apply put_get | apply put_low (by decide) | apply put_high (by decide)
  exact decode_c (by unfold decodeC; simp only [hop]; exact (if_pos ⟨f1, f2⟩).trans (congrArg Except.ok (by rw [f3]))) wf

theorem ktrig : Statement .ktrig := by
  rintro t ⟨⟩ wf
  generalize hw : encode .ktrig = wd
  have ⟨hop, f1⟩ : (bits wd 25 7).toNat = 66 ∧ bits wd 0 25 = 0x0 := by
    rw [← hw]; refine ⟨bits_word (by decide) ?_, bits_is (by decide) ?_⟩
    all_goals exact rfl
  exact decode_c (by unfold decodeC; simp only [hop]; exact (if_pos f1).trans rfl) wf

theorem kwait : Statement .kwait := by
  rintro t ⟨⟩ wf
  generalize hw : encode .kwait = wd
  have ⟨hop, f1⟩ : (bits wd 25 7).toNat = 67 ∧ bits wd 0 25 = 0x0 := by
    rw [← hw]; refine ⟨bits_word (by decide) ?_, bits_is (by decide) ?_⟩
    all_goals exact rfl
  exact decode_c (by unfold decodeC; simp only [hop]; exact (if_pos f1).trans rfl) wf

theorem texit : Statement .texit := by
  rintro t ⟨⟩ wf
  generalize hw : encode .texit = wd
  have ⟨hop, f1⟩ : (bits wd 25 7).toNat = 68 ∧ bits wd 0 25 = 0x0 := by
    rw [← hw]; refine ⟨bits_word (by decide) ?_, bits_is (by decide) ?_⟩
    all_goals exact rfl
  exact decode_c (by unfold decodeC; simp only [hop]; exact (if_pos f1).trans rfl) wf

theorem coll (d : BitVec 5) (a : BitVec 5) : Statement (.coll d a) := by
  rintro t ⟨⟩ wf
  generalize hw : encode (.coll d a) = wd
  have ⟨hop, f1, f2, f3⟩ : (bits wd 25 7).toNat = 69 ∧ bits wd 0 15 = 0x0 ∧ bits wd 20 5 = d ∧ bits wd 15 5 = a := by
    rw [← hw]; refine ⟨bits_word (by decide) ?_, bits_is (by decide) ?_, bits_is (by decide) ?_, bits_is (by decide) ?_⟩
    all_goals repeat' first | exact rfl | apply put_get | apply put_low (by decide) | apply put_high (by decide)
  exact decode_c (by unfold decodeC; simp only [hop]; exact (if_pos f1).trans (congrArg Except.ok (by rw [f2, f3]))) wf

theorem cleatArrive : Statement .cleatArrive := by
  rintro t ⟨⟩ wf
  generalize hw : encode .cleatArrive = wd
  have ⟨hop, f1⟩ : (bits wd 25 7).toNat = 70 ∧ bits wd 0 25 = 0x0 := by
    rw [← hw]; refine ⟨bits_word (by decide) ?_, bits_is (by decide) ?_⟩
    all_goals exact rfl
  exact decode_c (by unfold decodeC; simp only [hop]; exact (if_pos f1).trans rfl) wf

theorem cleatExpect (a : BitVec 5) : Statement (.cleatExpect a) := by
  rintro t ⟨⟩ wf
  generalize hw : encode (.cleatExpect a) = wd
  have ⟨hop, f1, f2, f3⟩ : (bits wd 25 7).toNat = 71 ∧ bits wd 20 5 = 0x0 ∧ bits wd 0 15 = 0x0 ∧ bits wd 15 5 = a := by
    rw [← hw]; refine ⟨bits_word (by decide) ?_, bits_is (by decide) ?_, bits_is (by decide) ?_, bits_is (by decide) ?_⟩
    all_goals repeat' first | exact rfl | apply put_get | apply put_low (by decide) | apply put_high (by decide)
  exact decode_c (by unfold decodeC; simp only [hop]; exact (if_pos ⟨f1, f2⟩).trans (congrArg Except.ok (by rw [f3]))) wf

theorem cleatWait (a : BitVec 5) : Statement (.cleatWait a) := by
  rintro t ⟨⟩ wf
  generalize hw : encode (.cleatWait a) = wd
  have ⟨hop, f1, f2, f3⟩ : (bits wd 25 7).toNat = 72 ∧ bits wd 20 5 = 0x0 ∧ bits wd 0 15 = 0x0 ∧ bits wd 15 5 = a := by
    rw [← hw]; refine ⟨bits_word (by decide) ?_, bits_is (by decide) ?_, bits_is (by decide) ?_, bits_is (by decide) ?_⟩
    all_goals repeat' first | exact rfl | apply put_get | apply put_low (by decide) | apply put_high (by decide)
  exact decode_c (by unfold decodeC; simp only [hop]; exact (if_pos ⟨f1, f2⟩).trans (congrArg Except.ok (by rw [f3]))) wf

theorem fence (scope : BitVec 2) : Statement (.fence scope) := by
  rintro t ⟨⟩ wf
  generalize hw : encode (.fence scope) = wd
  have ⟨hop, f1, f2⟩ : (bits wd 25 7).toNat = 73 ∧ bits wd 2 23 = 0x0 ∧ bits wd 0 2 = scope := by
    rw [← hw]; refine ⟨bits_word (by decide) ?_, bits_is (by decide) ?_, bits_is (by decide) ?_⟩
    all_goals repeat' first | exact rfl | apply put_get | apply put_low (by decide) | apply put_high (by decide)
  exact decode_c (by unfold decodeC; simp only [hop]; exact (if_pos f1).trans (congrArg Except.ok (by rw [f2]))) wf

theorem csrr (d : BitVec 5) (csr : BitVec 12) : Statement (.csrr d csr) := by
  rintro t ⟨⟩ wf
  generalize hw : encode (.csrr d csr) = wd
  have ⟨hop, f1, f2, f3, f4⟩ : (bits wd 25 7).toNat = 80 ∧ bits wd 15 5 = 0x0 ∧ bits wd 0 3 = 0x0 ∧ bits wd 20 5 = d ∧ bits wd 3 12 = csr := by
    rw [← hw]; refine ⟨bits_word (by decide) ?_, bits_is (by decide) ?_, bits_is (by decide) ?_, bits_is (by decide) ?_, bits_is (by decide) ?_⟩
    all_goals repeat' first | exact rfl | apply put_get | apply put_low (by decide) | apply put_high (by decide)
  exact decode_c (by unfold decodeC; simp only [hop]; exact (if_pos ⟨f1, f2⟩).trans (congrArg Except.ok (by rw [f3, f4]))) wf

theorem csrw (a : BitVec 5) (csr : BitVec 12) : Statement (.csrw a csr) := by
  rintro t ⟨⟩ wf
  generalize hw : encode (.csrw a csr) = wd
  have ⟨hop, f1, f2, f3, f4⟩ : (bits wd 25 7).toNat = 81 ∧ bits wd 20 5 = 0x0 ∧ bits wd 0 3 = 0x0 ∧ bits wd 15 5 = a ∧ bits wd 3 12 = csr := by
    rw [← hw]; refine ⟨bits_word (by decide) ?_, bits_is (by decide) ?_, bits_is (by decide) ?_, bits_is (by decide) ?_, bits_is (by decide) ?_⟩
    all_goals repeat' first | exact rfl | apply put_get | apply put_low (by decide) | apply put_high (by decide)
  exact decode_c (by unfold decodeC; simp only [hop]; exact (if_pos ⟨f1, f2⟩).trans (congrArg Except.ok (by rw [f3, f4]))) wf

theorem csrx (d : BitVec 5) (a : BitVec 5) (csr : BitVec 12) : Statement (.csrx d a csr) := by
  rintro t ⟨⟩ wf
  generalize hw : encode (.csrx d a csr) = wd
  have ⟨hop, f1, f2, f3, f4⟩ : (bits wd 25 7).toNat = 82 ∧ bits wd 0 3 = 0x0 ∧ bits wd 20 5 = d ∧ bits wd 15 5 = a ∧ bits wd 3 12 = csr := by
    rw [← hw]; refine ⟨bits_word (by decide) ?_, bits_is (by decide) ?_, bits_is (by decide) ?_, bits_is (by decide) ?_, bits_is (by decide) ?_⟩
    all_goals repeat' first | exact rfl | apply put_get | apply put_low (by decide) | apply put_high (by decide)
  exact decode_c (by unfold decodeC; simp only [hop]; exact (if_pos f1).trans (congrArg Except.ok (by rw [f2, f3, f4]))) wf

theorem trap (code : BitVec 8) : Statement (.trap code) := by
  rintro t ⟨⟩ wf
  generalize hw : encode (.trap code) = wd
  have ⟨hop, f1, f2⟩ : (bits wd 25 7).toNat = 83 ∧ bits wd 8 17 = 0x0 ∧ bits wd 0 8 = code := by
    rw [← hw]; refine ⟨bits_word (by decide) ?_, bits_is (by decide) ?_, bits_is (by decide) ?_⟩
    all_goals repeat' first | exact rfl | apply put_get | apply put_low (by decide) | apply put_high (by decide)
  exact decode_c (by unfold decodeC; simp only [hop]; exact (if_pos f1).trans (congrArg Except.ok (by rw [f2]))) wf

theorem rett : Statement .rett := by
  rintro t ⟨⟩ wf
  generalize hw : encode .rett = wd
  have ⟨hop, f1⟩ : (bits wd 25 7).toNat = 84 ∧ bits wd 0 25 = 0x0 := by
    rw [← hw]; refine ⟨bits_word (by decide) ?_, bits_is (by decide) ?_⟩
    all_goals exact rfl
  exact decode_c (by unfold decodeC; simp only [hop]; exact (if_pos f1).trans rfl) wf

theorem ecall : Statement .ecall := by
  rintro t ⟨⟩ wf
  generalize hw : encode .ecall = wd
  have ⟨hop, f1⟩ : (bits wd 25 7).toNat = 85 ∧ bits wd 0 25 = 0x0 := by
    rw [← hw]; refine ⟨bits_word (by decide) ?_, bits_is (by decide) ?_⟩
    all_goals exact rfl
  exact decode_c (by unfold decodeC; simp only [hop]; exact (if_pos f1).trans rfl) wf

theorem clkdiv (a : BitVec 5) (dom : BitVec 2) : Statement (.clkdiv a dom) := by
  rintro t ⟨⟩ wf
  generalize hw : encode (.clkdiv a dom) = wd
  have ⟨hop, f1, f2, f3, f4⟩ : (bits wd 25 7).toNat = 86 ∧ bits wd 20 5 = 0x0 ∧ bits wd 2 13 = 0x0 ∧ bits wd 15 5 = a ∧ bits wd 0 2 = dom := by
    rw [← hw]; refine ⟨bits_word (by decide) ?_, bits_is (by decide) ?_, bits_is (by decide) ?_, bits_is (by decide) ?_, bits_is (by decide) ?_⟩
    all_goals repeat' first | exact rfl | apply put_get | apply put_low (by decide) | apply put_high (by decide)
  exact decode_c (by unfold decodeC; simp only [hop]; exact (if_pos ⟨f1, f2⟩).trans (congrArg Except.ok (by rw [f3, f4]))) wf

theorem pace (a : BitVec 5) (r : BitVec 2) : Statement (.pace a r) := by
  rintro t ⟨⟩ wf
  generalize hw : encode (.pace a r) = wd
  have ⟨hop, f1, f2, f3, f4⟩ : (bits wd 25 7).toNat = 87 ∧ bits wd 20 5 = 0x0 ∧ bits wd 2 13 = 0x0 ∧ bits wd 15 5 = a ∧ bits wd 0 2 = r := by
    rw [← hw]; refine ⟨bits_word (by decide) ?_, bits_is (by decide) ?_, bits_is (by decide) ?_, bits_is (by decide) ?_, bits_is (by decide) ?_⟩
    all_goals repeat' first | exact rfl | apply put_get | apply put_low (by decide) | apply put_high (by decide)
  exact decode_c (by unfold decodeC; simp only [hop]; exact (if_pos ⟨f1, f2⟩).trans (congrArg Except.ok (by rw [f3, f4]))) wf

theorem idle : Statement .idle := by
  rintro t ⟨⟩ wf
  generalize hw : encode .idle = wd
  have ⟨hop, f1⟩ : (bits wd 25 7).toNat = 88 ∧ bits wd 0 25 = 0x0 := by
    rw [← hw]; refine ⟨bits_word (by decide) ?_, bits_is (by decide) ?_⟩
    all_goals exact rfl
  exact decode_c (by unfold decodeC; simp only [hop]; exact (if_pos f1).trans rfl) wf

theorem tlbinv (a : BitVec 5) (ctx : BitVec 1) : Statement (.tlbinv a ctx) := by
  rintro t ⟨⟩ wf
  generalize hw : encode (.tlbinv a ctx) = wd
  have ⟨hop, f1, f2, f3, f4⟩ : (bits wd 25 7).toNat = 89 ∧ bits wd 20 5 = 0x0 ∧ bits wd 1 14 = 0x0 ∧ bits wd 15 5 = a ∧ bits wd 0 1 = ctx := by
    rw [← hw]; refine ⟨bits_word (by decide) ?_, bits_is (by decide) ?_, bits_is (by decide) ?_, bits_is (by decide) ?_, bits_is (by decide) ?_⟩
    all_goals repeat' first | exact rfl | apply put_get | apply put_low (by decide) | apply put_high (by decide)
  exact decode_c (by unfold decodeC; simp only [hop]; exact (if_pos ⟨f1, f2⟩).trans (congrArg Except.ok (by rw [f3, f4]))) wf

theorem fcast (a : BitVec 5) (h : BitVec 10) (kind : BitVec 2) (group : BitVec 3) : Statement (.fcast a h kind group) := by
  rintro t ⟨⟩ wf
  generalize hw : encode (.fcast a h kind group) = wd
  have ⟨hop, f1, f2, f3, f4, f5⟩ : (bits wd 25 7).toNat = 90 ∧ bits wd 20 5 = 0x0 ∧ bits wd 15 5 = a ∧ bits wd 5 10 = h ∧ bits wd 3 2 = kind ∧ bits wd 0 3 = group := by
    rw [← hw]; refine ⟨bits_word (by decide) ?_, bits_is (by decide) ?_, bits_is (by decide) ?_, bits_is (by decide) ?_, bits_is (by decide) ?_, bits_is (by decide) ?_⟩
    all_goals repeat' first | exact rfl | apply put_get | apply put_low (by decide) | apply put_high (by decide)
  exact decode_c (by unfold decodeC; simp only [hop]; exact (if_pos f1).trans (congrArg Except.ok (by rw [f2, f3, f4, f5]))) wf

theorem fverd (d : BitVec 5) (h : BitVec 10) (item : BitVec 2) : Statement (.fverd d h item) := by
  rintro t ⟨⟩ wf
  generalize hw : encode (.fverd d h item) = wd
  have ⟨hop, f1, f2, f3, f4, f5⟩ : (bits wd 25 7).toNat = 91 ∧ bits wd 15 5 = 0x0 ∧ bits wd 2 3 = 0x0 ∧ bits wd 20 5 = d ∧ bits wd 5 10 = h ∧ bits wd 0 2 = item := by
    rw [← hw]; refine ⟨bits_word (by decide) ?_, bits_is (by decide) ?_, bits_is (by decide) ?_, bits_is (by decide) ?_, bits_is (by decide) ?_, bits_is (by decide) ?_⟩
    all_goals repeat' first | exact rfl | apply put_get | apply put_low (by decide) | apply put_high (by decide)
  exact decode_c (by unfold decodeC; simp only [hop]; exact (if_pos ⟨f1, f2⟩).trans (congrArg Except.ok (by rw [f3, f4, f5]))) wf

theorem endStrand (t : StepStrand) (h : Hitch) : Statement (.endStrand t h) := by
  rintro t ⟨⟩ wf
  generalize hw : encode (.endStrand t h) = wd
  have ⟨hop, f1, f2⟩ : (bits wd 26 6).toNat = 0 ∧ bits wd 0 22 = 0x0 ∧ hitchAt wd 22 = h := by
    rw [← hw]; refine ⟨bits_word (by decide) ?_, bits_is (by decide) ?_, hitch_is (by decide) ?_ ?_⟩
    all_goals repeat' first | exact rfl | apply put_get | apply put_low (by decide) | apply put_high (by decide)
  exact decode_step (fun _ => by unfold decodeStep; simp only [hop]; exact (if_pos f1).trans (congrArg Except.ok (by rw [f2]))) wf

theorem gadd (t : StepStrand) (h : Hitch) (d : BitVec 4) (a : BitVec 4) (b : BitVec 4) : Statement (.gadd t h d a b) := by
  rintro t ⟨⟩ wf
  generalize hw : encode (.gadd t h d a b) = wd
  have ⟨hop, f1, f2, f3, f4, f5⟩ : (bits wd 26 6).toNat = 1 ∧ bits wd 0 10 = 0x0 ∧ hitchAt wd 22 = h ∧ bits wd 18 4 = d ∧ bits wd 14 4 = a ∧ bits wd 10 4 = b := by
    rw [← hw]; refine ⟨bits_word (by decide) ?_, bits_is (by decide) ?_, hitch_is (by decide) ?_ ?_, bits_is (by decide) ?_, bits_is (by decide) ?_, bits_is (by decide) ?_⟩
    all_goals repeat' first | exact rfl | apply put_get | apply put_low (by decide) | apply put_high (by decide)
  exact decode_step (fun _ => by unfold decodeStep; simp only [hop]; exact (if_pos f1).trans (congrArg Except.ok (by rw [f2, f3, f4, f5]))) wf

theorem gaddi (t : StepStrand) (h : Hitch) (d : BitVec 4) (a : BitVec 4) (i : BitVec 14) : Statement (.gaddi t h d a i) := by
  rintro t ⟨⟩ wf
  generalize hw : encode (.gaddi t h d a i) = wd
  have ⟨hop, f1, f2, f3, f4⟩ : (bits wd 26 6).toNat = 2 ∧ hitchAt wd 22 = h ∧ bits wd 18 4 = d ∧ bits wd 14 4 = a ∧ bits wd 0 14 = i := by
    rw [← hw]; refine ⟨bits_word (by decide) ?_, hitch_is (by decide) ?_ ?_, bits_is (by decide) ?_, bits_is (by decide) ?_, bits_is (by decide) ?_⟩
    all_goals repeat' first | exact rfl | apply put_get | apply put_low (by decide) | apply put_high (by decide)
  exact decode_step (fun _ => by unfold decodeStep; rw [hop]; exact congrArg Except.ok (by rw [f1, f2, f3, f4])) wf

theorem gli (t : StepStrand) (h : Hitch) (d : BitVec 4) (i : BitVec 18) : Statement (.gli t h d i) := by
  rintro t ⟨⟩ wf
  generalize hw : encode (.gli t h d i) = wd
  have ⟨hop, f1, f2, f3⟩ : (bits wd 26 6).toNat = 3 ∧ hitchAt wd 22 = h ∧ bits wd 18 4 = d ∧ bits wd 0 18 = i := by
    rw [← hw]; refine ⟨bits_word (by decide) ?_, hitch_is (by decide) ?_ ?_, bits_is (by decide) ?_, bits_is (by decide) ?_⟩
    all_goals repeat' first | exact rfl | apply put_get | apply put_low (by decide) | apply put_high (by decide)
  exact decode_step (fun _ => by unfold decodeStep; rw [hop]; exact congrArg Except.ok (by rw [f1, f2, f3])) wf

theorem stepLoopImm (t : StepStrand) (h : Hitch) (lc : BitVec 2) (n : BitVec 9) (o : BitVec 10) : Statement (.stepLoopImm t h lc n o) := by
  rintro t ⟨⟩ wf
  generalize hw : encode (.stepLoopImm t h lc n o) = wd
  have ⟨hop, f1, f2, f3, f4, f5⟩ : (bits wd 26 6).toNat = 4 ∧ bits wd 19 1 = 0x1 ∧ hitchAt wd 22 = h ∧ bits wd 20 2 = lc ∧ bits wd 10 9 = n ∧ bits wd 0 10 = o := by
    rw [← hw]; refine ⟨bits_word (by decide) ?_, bits_is (by decide) ?_, hitch_is (by decide) ?_ ?_, bits_is (by decide) ?_, bits_is (by decide) ?_, bits_is (by decide) ?_⟩
    all_goals repeat' first | exact rfl | apply put_get | apply put_low (by decide) | apply put_high (by decide)
  exact decode_step (fun _ => (decodeStep_op04 hop).trans ((if_pos f1).trans (congrArg Except.ok (by rw [f2, f3, f4, f5])))) wf

theorem stepLoopReg (t : StepStrand) (h : Hitch) (lc : BitVec 2) (g : BitVec 4) (o : BitVec 10) : Statement (.stepLoopReg t h lc g o) := by
  rintro t ⟨⟩ wf
  generalize hw : encode (.stepLoopReg t h lc g o) = wd
  have ⟨hop, f1, f2, f3, f4, f5, f6⟩ : (bits wd 26 6).toNat = 4 ∧ ¬(bits wd 19 1 = 0x1) ∧ bits wd 14 6 = 0x0 ∧ hitchAt wd 22 = h ∧ bits wd 20 2 = lc ∧ bits wd 10 4 = g ∧ bits wd 0 10 = o := by
    rw [← hw]; refine ⟨bits_word (by decide) ?_, bits_isNot (p := 19) (k := 1) (x := 0) (by decide) ?_ (by decide) (by decide) (by decide), bits_is (by decide) ?_, hitch_is (by decide) ?_ ?_, bits_is (by decide) ?_, bits_is (by decide) ?_, bits_is (by decide) ?_⟩
    all_goals repeat' first | exact rfl | apply put_get | apply put_low (by decide) | apply put_high (by decide)
  exact decode_step (fun _ => (decodeStep_op04 hop).trans ((if_neg f1).trans ((if_pos f2).trans (congrArg Except.ok (by rw [f3, f4, f5, f6]))))) wf

theorem brq (t : StepStrand) (h : Hitch) (q : BitVec 2) (cond : BitVec 3) (o : BitVec 17) : Statement (.brq t h q cond o) := by
  rintro t ⟨⟩ wf
  generalize hw : encode (.brq t h q cond o) = wd
  have ⟨hop, f1, f2, f3, f4⟩ : (bits wd 26 6).toNat = 5 ∧ hitchAt wd 22 = h ∧ bits wd 20 2 = q ∧ bits wd 17 3 = cond ∧ bits wd 0 17 = o := by
    rw [← hw]; refine ⟨bits_word (by decide) ?_, hitch_is (by decide) ?_ ?_, bits_is (by decide) ?_, bits_is (by decide) ?_, bits_is (by decide) ?_⟩
    all_goals repeat' first | exact rfl | apply put_get | apply put_low (by decide) | apply put_high (by decide)
  exact decode_step (fun _ => by unfold decodeStep; rw [hop]; exact congrArg Except.ok (by rw [f1, f2, f3, f4])) wf

theorem stepTpost (t : StepStrand) (h : Hitch) (q : BitVec 2) : Statement (.stepTpost t h q) := by
  rintro t ⟨⟩ wf
  generalize hw : encode (.stepTpost t h q) = wd
  have ⟨hop, f1, f2, f3⟩ : (bits wd 26 6).toNat = 6 ∧ bits wd 0 20 = 0x0 ∧ hitchAt wd 22 = h ∧ bits wd 20 2 = q := by
    rw [← hw]; refine ⟨bits_word (by decide) ?_, bits_is (by decide) ?_, hitch_is (by decide) ?_ ?_, bits_is (by decide) ?_⟩
    all_goals repeat' first | exact rfl | apply put_get | apply put_low (by decide) | apply put_high (by decide)
  exact decode_step (fun _ => by unfold decodeStep; simp only [hop]; exact (if_pos f1).trans (congrArg Except.ok (by rw [f2, f3]))) wf

theorem stepTwait (t : StepStrand) (h : Hitch) (q : BitVec 2) : Statement (.stepTwait t h q) := by
  rintro t ⟨⟩ wf
  generalize hw : encode (.stepTwait t h q) = wd
  have ⟨hop, f1, f2, f3⟩ : (bits wd 26 6).toNat = 7 ∧ bits wd 0 20 = 0x0 ∧ hitchAt wd 22 = h ∧ bits wd 20 2 = q := by
    rw [← hw]; refine ⟨bits_word (by decide) ?_, bits_is (by decide) ?_, hitch_is (by decide) ?_ ?_, bits_is (by decide) ?_⟩
    all_goals repeat' first | exact rfl | apply put_get | apply put_low (by decide) | apply put_high (by decide)
  exact decode_step (fun _ => by unfold decodeStep; simp only [hop]; exact (if_pos f1).trans (congrArg Except.ok (by rw [f2, f3]))) wf

theorem stepQpush (t : StepStrand) (h : Hitch) (q : BitVec 2) (a : BitVec 4) : Statement (.stepQpush t h q a) := by
  rintro t ⟨⟩ wf
  generalize hw : encode (.stepQpush t h q a) = wd
  have ⟨hop, f1, f2, f3, f4⟩ : (bits wd 26 6).toNat = 8 ∧ bits wd 0 16 = 0x0 ∧ hitchAt wd 22 = h ∧ bits wd 20 2 = q ∧ bits wd 16 4 = a := by
    rw [← hw]; refine ⟨bits_word (by decide) ?_, bits_is (by decide) ?_, hitch_is (by decide) ?_ ?_, bits_is (by decide) ?_, bits_is (by decide) ?_⟩
    all_goals repeat' first | exact rfl | apply put_get | apply put_low (by decide) | apply put_high (by decide)
  exact decode_step (fun _ => by unfold decodeStep; simp only [hop]; exact (if_pos f1).trans (congrArg Except.ok (by rw [f2, f3, f4]))) wf

theorem stepQpop (t : StepStrand) (h : Hitch) (q : BitVec 2) (d : BitVec 4) : Statement (.stepQpop t h q d) := by
  rintro t ⟨⟩ wf
  generalize hw : encode (.stepQpop t h q d) = wd
  have ⟨hop, f1, f2, f3, f4⟩ : (bits wd 26 6).toNat = 9 ∧ bits wd 0 16 = 0x0 ∧ hitchAt wd 22 = h ∧ bits wd 20 2 = q ∧ bits wd 16 4 = d := by
    rw [← hw]; refine ⟨bits_word (by decide) ?_, bits_is (by decide) ?_, hitch_is (by decide) ?_ ?_, bits_is (by decide) ?_, bits_is (by decide) ?_⟩
    all_goals repeat' first | exact rfl | apply put_get | apply put_low (by decide) | apply put_high (by decide)
  exact decode_step (fun _ => by unfold decodeStep; simp only [hop]; exact (if_pos f1).trans (congrArg Except.ok (by rw [f2, f3, f4]))) wf

theorem vadd (h : Hitch) (d : BitVec 6) (a : BitVec 6) (b : BitVec 6) (pn : BitVec 4) : Statement (.vadd h d a b pn) := by
  rintro t ⟨⟩ wf
  generalize hw : encode (.vadd h d a b pn) = wd
  have ⟨hop, f1, f2, f3, f4, f5, top⟩ : (bits wd 26 6).toNat = 16 ∧ hitchAt wd 22 = h ∧ bits wd 16 6 = d ∧ bits wd 10 6 = a ∧ bits wd 4 6 = b ∧ bits wd 0 4 = pn ∧ (bits wd 28 4).toNat = 4 := by
    rw [← hw]; refine ⟨bits_word (by decide) ?_, hitch_is (by decide) ?_ ?_, bits_is (by decide) ?_, bits_is (by decide) ?_, bits_is (by decide) ?_, bits_is (by decide) ?_, bits_word (by decide) ?_⟩
    all_goals repeat' first | exact rfl | apply put_get | apply put_low (by decide) | apply put_high (by decide)
  exact decode_x (decodeStep_own (by omega) (decodeX_hitch (by omega) (by unfold decodeXHitch; rw [hop]; exact congrArg Except.ok (by rw [f1, f2, f3, f4, f5])))) wf

theorem vsub (h : Hitch) (d : BitVec 6) (a : BitVec 6) (b : BitVec 6) (pn : BitVec 4) : Statement (.vsub h d a b pn) := by
  rintro t ⟨⟩ wf
  generalize hw : encode (.vsub h d a b pn) = wd
  have ⟨hop, f1, f2, f3, f4, f5, top⟩ : (bits wd 26 6).toNat = 17 ∧ hitchAt wd 22 = h ∧ bits wd 16 6 = d ∧ bits wd 10 6 = a ∧ bits wd 4 6 = b ∧ bits wd 0 4 = pn ∧ (bits wd 28 4).toNat = 4 := by
    rw [← hw]; refine ⟨bits_word (by decide) ?_, hitch_is (by decide) ?_ ?_, bits_is (by decide) ?_, bits_is (by decide) ?_, bits_is (by decide) ?_, bits_is (by decide) ?_, bits_word (by decide) ?_⟩
    all_goals repeat' first | exact rfl | apply put_get | apply put_low (by decide) | apply put_high (by decide)
  exact decode_x (decodeStep_own (by omega) (decodeX_hitch (by omega) (by unfold decodeXHitch; rw [hop]; exact congrArg Except.ok (by rw [f1, f2, f3, f4, f5])))) wf

theorem vmul (h : Hitch) (d : BitVec 6) (a : BitVec 6) (b : BitVec 6) (pn : BitVec 4) : Statement (.vmul h d a b pn) := by
  rintro t ⟨⟩ wf
  generalize hw : encode (.vmul h d a b pn) = wd
  have ⟨hop, f1, f2, f3, f4, f5, top⟩ : (bits wd 26 6).toNat = 18 ∧ hitchAt wd 22 = h ∧ bits wd 16 6 = d ∧ bits wd 10 6 = a ∧ bits wd 4 6 = b ∧ bits wd 0 4 = pn ∧ (bits wd 28 4).toNat = 4 := by
    rw [← hw]; refine ⟨bits_word (by decide) ?_, hitch_is (by decide) ?_ ?_, bits_is (by decide) ?_, bits_is (by decide) ?_, bits_is (by decide) ?_, bits_is (by decide) ?_, bits_word (by decide) ?_⟩
    all_goals repeat' first | exact rfl | apply put_get | apply put_low (by decide) | apply put_high (by decide)
  exact decode_x (decodeStep_own (by omega) (decodeX_hitch (by omega) (by unfold decodeXHitch; rw [hop]; exact congrArg Except.ok (by rw [f1, f2, f3, f4, f5])))) wf

theorem vmin (h : Hitch) (d : BitVec 6) (a : BitVec 6) (b : BitVec 6) (pn : BitVec 4) : Statement (.vmin h d a b pn) := by
  rintro t ⟨⟩ wf
  generalize hw : encode (.vmin h d a b pn) = wd
  have ⟨hop, f1, f2, f3, f4, f5, top⟩ : (bits wd 26 6).toNat = 19 ∧ hitchAt wd 22 = h ∧ bits wd 16 6 = d ∧ bits wd 10 6 = a ∧ bits wd 4 6 = b ∧ bits wd 0 4 = pn ∧ (bits wd 28 4).toNat = 4 := by
    rw [← hw]; refine ⟨bits_word (by decide) ?_, hitch_is (by decide) ?_ ?_, bits_is (by decide) ?_, bits_is (by decide) ?_, bits_is (by decide) ?_, bits_is (by decide) ?_, bits_word (by decide) ?_⟩
    all_goals repeat' first | exact rfl | apply put_get | apply put_low (by decide) | apply put_high (by decide)
  exact decode_x (decodeStep_own (by omega) (decodeX_hitch (by omega) (by unfold decodeXHitch; rw [hop]; exact congrArg Except.ok (by rw [f1, f2, f3, f4, f5])))) wf

theorem vmax (h : Hitch) (d : BitVec 6) (a : BitVec 6) (b : BitVec 6) (pn : BitVec 4) : Statement (.vmax h d a b pn) := by
  rintro t ⟨⟩ wf
  generalize hw : encode (.vmax h d a b pn) = wd
  have ⟨hop, f1, f2, f3, f4, f5, top⟩ : (bits wd 26 6).toNat = 20 ∧ hitchAt wd 22 = h ∧ bits wd 16 6 = d ∧ bits wd 10 6 = a ∧ bits wd 4 6 = b ∧ bits wd 0 4 = pn ∧ (bits wd 28 4).toNat = 5 := by
    rw [← hw]; refine ⟨bits_word (by decide) ?_, hitch_is (by decide) ?_ ?_, bits_is (by decide) ?_, bits_is (by decide) ?_, bits_is (by decide) ?_, bits_is (by decide) ?_, bits_word (by decide) ?_⟩
    all_goals repeat' first | exact rfl | apply put_get | apply put_low (by decide) | apply put_high (by decide)
  exact decode_x (decodeStep_own (by omega) (decodeX_hitch (by omega) (by unfold decodeXHitch; rw [hop]; exact congrArg Except.ok (by rw [f1, f2, f3, f4, f5])))) wf

theorem vand (h : Hitch) (d : BitVec 6) (a : BitVec 6) (b : BitVec 6) : Statement (.vand h d a b) := by
  rintro t ⟨⟩ wf
  generalize hw : encode (.vand h d a b) = wd
  have ⟨hop, f1, f2, f3, f4, f5, top⟩ : (bits wd 26 6).toNat = 21 ∧ bits wd 0 4 = 0x0 ∧ hitchAt wd 22 = h ∧ bits wd 16 6 = d ∧ bits wd 10 6 = a ∧ bits wd 4 6 = b ∧ (bits wd 28 4).toNat = 5 := by
    rw [← hw]; refine ⟨bits_word (by decide) ?_, bits_is (by decide) ?_, hitch_is (by decide) ?_ ?_, bits_is (by decide) ?_, bits_is (by decide) ?_, bits_is (by decide) ?_, bits_word (by decide) ?_⟩
    all_goals repeat' first | exact rfl | apply put_get | apply put_low (by decide) | apply put_high (by decide)
  exact decode_x (decodeStep_own (by omega) (decodeX_hitch (by omega) ((decodeXHitch_op15 hop).trans ((if_pos f1).trans (congrArg Except.ok (by rw [f2, f3, f4, f5])))))) wf

theorem vor (h : Hitch) (d : BitVec 6) (a : BitVec 6) (b : BitVec 6) : Statement (.vor h d a b) := by
  rintro t ⟨⟩ wf
  generalize hw : encode (.vor h d a b) = wd
  have ⟨hop, f1, f2, f3, f4, f5, f6, top⟩ : (bits wd 26 6).toNat = 21 ∧ ¬(bits wd 0 4 = 0x0) ∧ bits wd 0 4 = 0x1 ∧ hitchAt wd 22 = h ∧ bits wd 16 6 = d ∧ bits wd 10 6 = a ∧ bits wd 4 6 = b ∧ (bits wd 28 4).toNat = 5 := by
    rw [← hw]; refine ⟨bits_word (by decide) ?_, bits_isNot (p := 0) (k := 4) (x := 1) (by decide) ?_ (by decide) (by decide) (by decide), bits_is (by decide) ?_, hitch_is (by decide) ?_ ?_, bits_is (by decide) ?_, bits_is (by decide) ?_, bits_is (by decide) ?_, bits_word (by decide) ?_⟩
    all_goals repeat' first | exact rfl | apply put_get | apply put_low (by decide) | apply put_high (by decide)
  exact decode_x (decodeStep_own (by omega) (decodeX_hitch (by omega) ((decodeXHitch_op15 hop).trans ((if_neg f1).trans ((if_pos f2).trans (congrArg Except.ok (by rw [f3, f4, f5, f6]))))))) wf

theorem vxor (h : Hitch) (d : BitVec 6) (a : BitVec 6) (b : BitVec 6) : Statement (.vxor h d a b) := by
  rintro t ⟨⟩ wf
  generalize hw : encode (.vxor h d a b) = wd
  have ⟨hop, f1, f2, f3, f4, f5, f6, f7, top⟩ : (bits wd 26 6).toNat = 21 ∧ ¬(bits wd 0 4 = 0x0) ∧ ¬(bits wd 0 4 = 0x1) ∧ bits wd 0 4 = 0x2 ∧ hitchAt wd 22 = h ∧ bits wd 16 6 = d ∧ bits wd 10 6 = a ∧ bits wd 4 6 = b ∧ (bits wd 28 4).toNat = 5 := by
    rw [← hw]; refine ⟨bits_word (by decide) ?_, bits_isNot (p := 0) (k := 4) (x := 2) (by decide) ?_ (by decide) (by decide) (by decide), bits_isNot (p := 0) (k := 4) (x := 2) (by decide) ?_ (by decide) (by decide) (by decide), bits_is (by decide) ?_, hitch_is (by decide) ?_ ?_, bits_is (by decide) ?_, bits_is (by decide) ?_, bits_is (by decide) ?_, bits_word (by decide) ?_⟩
    all_goals repeat' first | exact rfl | apply put_get | apply put_low (by decide) | apply put_high (by decide)
  exact decode_x (decodeStep_own (by omega) (decodeX_hitch (by omega) ((decodeXHitch_op15 hop).trans ((if_neg f1).trans ((if_neg f2).trans ((if_pos f3).trans (congrArg Except.ok (by rw [f4, f5, f6, f7])))))))) wf

theorem vshl (h : Hitch) (d : BitVec 6) (a : BitVec 6) (b : BitVec 6) : Statement (.vshl h d a b) := by
  rintro t ⟨⟩ wf
  generalize hw : encode (.vshl h d a b) = wd
  have ⟨hop, f1, f2, f3, f4, f5, f6, f7, f8, top⟩ : (bits wd 26 6).toNat = 21 ∧ ¬(bits wd 0 4 = 0x0) ∧ ¬(bits wd 0 4 = 0x1) ∧ ¬(bits wd 0 4 = 0x2) ∧ bits wd 0 4 = 0x3 ∧ hitchAt wd 22 = h ∧ bits wd 16 6 = d ∧ bits wd 10 6 = a ∧ bits wd 4 6 = b ∧ (bits wd 28 4).toNat = 5 := by
    rw [← hw]; refine ⟨bits_word (by decide) ?_, bits_isNot (p := 0) (k := 4) (x := 3) (by decide) ?_ (by decide) (by decide) (by decide), bits_isNot (p := 0) (k := 4) (x := 3) (by decide) ?_ (by decide) (by decide) (by decide), bits_isNot (p := 0) (k := 4) (x := 3) (by decide) ?_ (by decide) (by decide) (by decide), bits_is (by decide) ?_, hitch_is (by decide) ?_ ?_, bits_is (by decide) ?_, bits_is (by decide) ?_, bits_is (by decide) ?_, bits_word (by decide) ?_⟩
    all_goals repeat' first | exact rfl | apply put_get | apply put_low (by decide) | apply put_high (by decide)
  exact decode_x (decodeStep_own (by omega) (decodeX_hitch (by omega) ((decodeXHitch_op15 hop).trans ((if_neg f1).trans ((if_neg f2).trans ((if_neg f3).trans ((if_pos f4).trans (congrArg Except.ok (by rw [f5, f6, f7, f8]))))))))) wf

theorem vshr (h : Hitch) (d : BitVec 6) (a : BitVec 6) (b : BitVec 6) : Statement (.vshr h d a b) := by
  rintro t ⟨⟩ wf
  generalize hw : encode (.vshr h d a b) = wd
  have ⟨hop, f1, f2, f3, f4, f5, f6, f7, f8, f9, top⟩ : (bits wd 26 6).toNat = 21 ∧ ¬(bits wd 0 4 = 0x0) ∧ ¬(bits wd 0 4 = 0x1) ∧ ¬(bits wd 0 4 = 0x2) ∧ ¬(bits wd 0 4 = 0x3) ∧ bits wd 0 4 = 0x4 ∧ hitchAt wd 22 = h ∧ bits wd 16 6 = d ∧ bits wd 10 6 = a ∧ bits wd 4 6 = b ∧ (bits wd 28 4).toNat = 5 := by
    rw [← hw]; refine ⟨bits_word (by decide) ?_, bits_isNot (p := 0) (k := 4) (x := 4) (by decide) ?_ (by decide) (by decide) (by decide), bits_isNot (p := 0) (k := 4) (x := 4) (by decide) ?_ (by decide) (by decide) (by decide), bits_isNot (p := 0) (k := 4) (x := 4) (by decide) ?_ (by decide) (by decide) (by decide), bits_isNot (p := 0) (k := 4) (x := 4) (by decide) ?_ (by decide) (by decide) (by decide), bits_is (by decide) ?_, hitch_is (by decide) ?_ ?_, bits_is (by decide) ?_, bits_is (by decide) ?_, bits_is (by decide) ?_, bits_word (by decide) ?_⟩
    all_goals repeat' first | exact rfl | apply put_get | apply put_low (by decide) | apply put_high (by decide)
  exact decode_x (decodeStep_own (by omega) (decodeX_hitch (by omega) ((decodeXHitch_op15 hop).trans ((if_neg f1).trans ((if_neg f2).trans ((if_neg f3).trans ((if_neg f4).trans ((if_pos f5).trans (congrArg Except.ok (by rw [f6, f7, f8, f9])))))))))) wf

theorem vsra (h : Hitch) (d : BitVec 6) (a : BitVec 6) (b : BitVec 6) : Statement (.vsra h d a b) := by
  rintro t ⟨⟩ wf
  generalize hw : encode (.vsra h d a b) = wd
  have ⟨hop, f1, f2, f3, f4, f5, f6, f7, f8, f9, f10, top⟩ : (bits wd 26 6).toNat = 21 ∧ ¬(bits wd 0 4 = 0x0) ∧ ¬(bits wd 0 4 = 0x1) ∧ ¬(bits wd 0 4 = 0x2) ∧ ¬(bits wd 0 4 = 0x3) ∧ ¬(bits wd 0 4 = 0x4) ∧ bits wd 0 4 = 0x5 ∧ hitchAt wd 22 = h ∧ bits wd 16 6 = d ∧ bits wd 10 6 = a ∧ bits wd 4 6 = b ∧ (bits wd 28 4).toNat = 5 := by
    rw [← hw]; refine ⟨bits_word (by decide) ?_, bits_isNot (p := 0) (k := 4) (x := 5) (by decide) ?_ (by decide) (by decide) (by decide), bits_isNot (p := 0) (k := 4) (x := 5) (by decide) ?_ (by decide) (by decide) (by decide), bits_isNot (p := 0) (k := 4) (x := 5) (by decide) ?_ (by decide) (by decide) (by decide), bits_isNot (p := 0) (k := 4) (x := 5) (by decide) ?_ (by decide) (by decide) (by decide), bits_isNot (p := 0) (k := 4) (x := 5) (by decide) ?_ (by decide) (by decide) (by decide), bits_is (by decide) ?_, hitch_is (by decide) ?_ ?_, bits_is (by decide) ?_, bits_is (by decide) ?_, bits_is (by decide) ?_, bits_word (by decide) ?_⟩
    all_goals repeat' first | exact rfl | apply put_get | apply put_low (by decide) | apply put_high (by decide)
  exact decode_x (decodeStep_own (by omega) (decodeX_hitch (by omega) ((decodeXHitch_op15 hop).trans ((if_neg f1).trans ((if_neg f2).trans ((if_neg f3).trans ((if_neg f4).trans ((if_neg f5).trans ((if_pos f6).trans (congrArg Except.ok (by rw [f7, f8, f9, f10]))))))))))) wf

theorem vaddsat (h : Hitch) (d : BitVec 6) (a : BitVec 6) (b : BitVec 6) : Statement (.vaddsat h d a b) := by
  rintro t ⟨⟩ wf
  generalize hw : encode (.vaddsat h d a b) = wd
  have ⟨hop, f1, f2, f3, f4, f5, f6, f7, f8, f9, f10, f11, top⟩ : (bits wd 26 6).toNat = 21 ∧ ¬(bits wd 0 4 = 0x0) ∧ ¬(bits wd 0 4 = 0x1) ∧ ¬(bits wd 0 4 = 0x2) ∧ ¬(bits wd 0 4 = 0x3) ∧ ¬(bits wd 0 4 = 0x4) ∧ ¬(bits wd 0 4 = 0x5) ∧ bits wd 0 4 = 0x6 ∧ hitchAt wd 22 = h ∧ bits wd 16 6 = d ∧ bits wd 10 6 = a ∧ bits wd 4 6 = b ∧ (bits wd 28 4).toNat = 5 := by
    rw [← hw]; refine ⟨bits_word (by decide) ?_, bits_isNot (p := 0) (k := 4) (x := 6) (by decide) ?_ (by decide) (by decide) (by decide), bits_isNot (p := 0) (k := 4) (x := 6) (by decide) ?_ (by decide) (by decide) (by decide), bits_isNot (p := 0) (k := 4) (x := 6) (by decide) ?_ (by decide) (by decide) (by decide), bits_isNot (p := 0) (k := 4) (x := 6) (by decide) ?_ (by decide) (by decide) (by decide), bits_isNot (p := 0) (k := 4) (x := 6) (by decide) ?_ (by decide) (by decide) (by decide), bits_isNot (p := 0) (k := 4) (x := 6) (by decide) ?_ (by decide) (by decide) (by decide), bits_is (by decide) ?_, hitch_is (by decide) ?_ ?_, bits_is (by decide) ?_, bits_is (by decide) ?_, bits_is (by decide) ?_, bits_word (by decide) ?_⟩
    all_goals repeat' first | exact rfl | apply put_get | apply put_low (by decide) | apply put_high (by decide)
  exact decode_x (decodeStep_own (by omega) (decodeX_hitch (by omega) ((decodeXHitch_op15 hop).trans ((if_neg f1).trans ((if_neg f2).trans ((if_neg f3).trans ((if_neg f4).trans ((if_neg f5).trans ((if_neg f6).trans ((if_pos f7).trans (congrArg Except.ok (by rw [f8, f9, f10, f11])))))))))))) wf

theorem vsubsat (h : Hitch) (d : BitVec 6) (a : BitVec 6) (b : BitVec 6) : Statement (.vsubsat h d a b) := by
  rintro t ⟨⟩ wf
  generalize hw : encode (.vsubsat h d a b) = wd
  have ⟨hop, f1, f2, f3, f4, f5, f6, f7, f8, f9, f10, f11, f12, top⟩ : (bits wd 26 6).toNat = 21 ∧ ¬(bits wd 0 4 = 0x0) ∧ ¬(bits wd 0 4 = 0x1) ∧ ¬(bits wd 0 4 = 0x2) ∧ ¬(bits wd 0 4 = 0x3) ∧ ¬(bits wd 0 4 = 0x4) ∧ ¬(bits wd 0 4 = 0x5) ∧ ¬(bits wd 0 4 = 0x6) ∧ bits wd 0 4 = 0x7 ∧ hitchAt wd 22 = h ∧ bits wd 16 6 = d ∧ bits wd 10 6 = a ∧ bits wd 4 6 = b ∧ (bits wd 28 4).toNat = 5 := by
    rw [← hw]; refine ⟨bits_word (by decide) ?_, bits_isNot (p := 0) (k := 4) (x := 7) (by decide) ?_ (by decide) (by decide) (by decide), bits_isNot (p := 0) (k := 4) (x := 7) (by decide) ?_ (by decide) (by decide) (by decide), bits_isNot (p := 0) (k := 4) (x := 7) (by decide) ?_ (by decide) (by decide) (by decide), bits_isNot (p := 0) (k := 4) (x := 7) (by decide) ?_ (by decide) (by decide) (by decide), bits_isNot (p := 0) (k := 4) (x := 7) (by decide) ?_ (by decide) (by decide) (by decide), bits_isNot (p := 0) (k := 4) (x := 7) (by decide) ?_ (by decide) (by decide) (by decide), bits_isNot (p := 0) (k := 4) (x := 7) (by decide) ?_ (by decide) (by decide) (by decide), bits_is (by decide) ?_, hitch_is (by decide) ?_ ?_, bits_is (by decide) ?_, bits_is (by decide) ?_, bits_is (by decide) ?_, bits_word (by decide) ?_⟩
    all_goals repeat' first | exact rfl | apply put_get | apply put_low (by decide) | apply put_high (by decide)
  exact decode_x (decodeStep_own (by omega) (decodeX_hitch (by omega) ((decodeXHitch_op15 hop).trans ((if_neg f1).trans ((if_neg f2).trans ((if_neg f3).trans ((if_neg f4).trans ((if_neg f5).trans ((if_neg f6).trans ((if_neg f7).trans ((if_pos f8).trans (congrArg Except.ok (by rw [f9, f10, f11, f12]))))))))))))) wf

theorem vcmp (h : Hitch) (d : BitVec 4) (cond : BitVec 2) (a : BitVec 6) (b : BitVec 6) (pn : BitVec 4) : Statement (.vcmp h d cond a b pn) := by
  rintro t ⟨⟩ wf
  generalize hw : encode (.vcmp h d cond a b pn) = wd
  have ⟨hop, f1, f2, f3, f4, f5, f6, top⟩ : (bits wd 26 6).toNat = 22 ∧ hitchAt wd 22 = h ∧ bits wd 18 4 = d ∧ bits wd 16 2 = cond ∧ bits wd 10 6 = a ∧ bits wd 4 6 = b ∧ bits wd 0 4 = pn ∧ (bits wd 28 4).toNat = 5 := by
    rw [← hw]; refine ⟨bits_word (by decide) ?_, hitch_is (by decide) ?_ ?_, bits_is (by decide) ?_, bits_is (by decide) ?_, bits_is (by decide) ?_, bits_is (by decide) ?_, bits_is (by decide) ?_, bits_word (by decide) ?_⟩
    all_goals repeat' first | exact rfl | apply put_get | apply put_low (by decide) | apply put_high (by decide)
  exact decode_x (decodeStep_own (by omega) (decodeX_hitch (by omega) (by unfold decodeXHitch; rw [hop]; exact congrArg Except.ok (by rw [f1, f2, f3, f4, f5, f6])))) wf

theorem vabs (h : Hitch) (d : BitVec 6) (a : BitVec 6) (pn : BitVec 4) : Statement (.vabs h d a pn) := by
  rintro t ⟨⟩ wf
  generalize hw : encode (.vabs h d a pn) = wd
  have ⟨hop, f1, f2, f3, f4, f5, top⟩ : (bits wd 26 6).toNat = 23 ∧ bits wd 4 6 = 0x0 ∧ hitchAt wd 22 = h ∧ bits wd 16 6 = d ∧ bits wd 10 6 = a ∧ bits wd 0 4 = pn ∧ (bits wd 28 4).toNat = 5 := by
    rw [← hw]; refine ⟨bits_word (by decide) ?_, bits_is (by decide) ?_, hitch_is (by decide) ?_ ?_, bits_is (by decide) ?_, bits_is (by decide) ?_, bits_is (by decide) ?_, bits_word (by decide) ?_⟩
    all_goals repeat' first | exact rfl | apply put_get | apply put_low (by decide) | apply put_high (by decide)
  exact decode_x (decodeStep_own (by omega) (decodeX_hitch (by omega) ((decodeXHitch_op17 hop).trans ((if_pos f1).trans (congrArg Except.ok (by rw [f2, f3, f4, f5])))))) wf

theorem vneg (h : Hitch) (d : BitVec 6) (a : BitVec 6) (pn : BitVec 4) : Statement (.vneg h d a pn) := by
  rintro t ⟨⟩ wf
  generalize hw : encode (.vneg h d a pn) = wd
  have ⟨hop, f1, f2, f3, f4, f5, f6, top⟩ : (bits wd 26 6).toNat = 23 ∧ ¬(bits wd 4 6 = 0x0) ∧ bits wd 4 6 = 0x1 ∧ hitchAt wd 22 = h ∧ bits wd 16 6 = d ∧ bits wd 10 6 = a ∧ bits wd 0 4 = pn ∧ (bits wd 28 4).toNat = 5 := by
    rw [← hw]; refine ⟨bits_word (by decide) ?_, bits_isNot (p := 4) (k := 6) (x := 1) (by decide) ?_ (by decide) (by decide) (by decide), bits_is (by decide) ?_, hitch_is (by decide) ?_ ?_, bits_is (by decide) ?_, bits_is (by decide) ?_, bits_is (by decide) ?_, bits_word (by decide) ?_⟩
    all_goals repeat' first | exact rfl | apply put_get | apply put_low (by decide) | apply put_high (by decide)
  exact decode_x (decodeStep_own (by omega) (decodeX_hitch (by omega) ((decodeXHitch_op17 hop).trans ((if_neg f1).trans ((if_pos f2).trans (congrArg Except.ok (by rw [f3, f4, f5, f6]))))))) wf

theorem vnot (h : Hitch) (d : BitVec 6) (a : BitVec 6) (pn : BitVec 4) : Statement (.vnot h d a pn) := by
  rintro t ⟨⟩ wf
  generalize hw : encode (.vnot h d a pn) = wd
  have ⟨hop, f1, f2, f3, f4, f5, f6, f7, top⟩ : (bits wd 26 6).toNat = 23 ∧ ¬(bits wd 4 6 = 0x0) ∧ ¬(bits wd 4 6 = 0x1) ∧ bits wd 4 6 = 0x2 ∧ hitchAt wd 22 = h ∧ bits wd 16 6 = d ∧ bits wd 10 6 = a ∧ bits wd 0 4 = pn ∧ (bits wd 28 4).toNat = 5 := by
    rw [← hw]; refine ⟨bits_word (by decide) ?_, bits_isNot (p := 4) (k := 6) (x := 2) (by decide) ?_ (by decide) (by decide) (by decide), bits_isNot (p := 4) (k := 6) (x := 2) (by decide) ?_ (by decide) (by decide) (by decide), bits_is (by decide) ?_, hitch_is (by decide) ?_ ?_, bits_is (by decide) ?_, bits_is (by decide) ?_, bits_is (by decide) ?_, bits_word (by decide) ?_⟩
    all_goals repeat' first | exact rfl | apply put_get | apply put_low (by decide) | apply put_high (by decide)
  exact decode_x (decodeStep_own (by omega) (decodeX_hitch (by omega) ((decodeXHitch_op17 hop).trans ((if_neg f1).trans ((if_neg f2).trans ((if_pos f3).trans (congrArg Except.ok (by rw [f4, f5, f6, f7])))))))) wf

theorem vmov (h : Hitch) (d : BitVec 6) (a : BitVec 6) (pn : BitVec 4) : Statement (.vmov h d a pn) := by
  rintro t ⟨⟩ wf
  generalize hw : encode (.vmov h d a pn) = wd
  have ⟨hop, f1, f2, f3, f4, f5, f6, f7, f8, top⟩ : (bits wd 26 6).toNat = 23 ∧ ¬(bits wd 4 6 = 0x0) ∧ ¬(bits wd 4 6 = 0x1) ∧ ¬(bits wd 4 6 = 0x2) ∧ bits wd 4 6 = 0x3 ∧ hitchAt wd 22 = h ∧ bits wd 16 6 = d ∧ bits wd 10 6 = a ∧ bits wd 0 4 = pn ∧ (bits wd 28 4).toNat = 5 := by
    rw [← hw]; refine ⟨bits_word (by decide) ?_, bits_isNot (p := 4) (k := 6) (x := 3) (by decide) ?_ (by decide) (by decide) (by decide), bits_isNot (p := 4) (k := 6) (x := 3) (by decide) ?_ (by decide) (by decide) (by decide), bits_isNot (p := 4) (k := 6) (x := 3) (by decide) ?_ (by decide) (by decide) (by decide), bits_is (by decide) ?_, hitch_is (by decide) ?_ ?_, bits_is (by decide) ?_, bits_is (by decide) ?_, bits_is (by decide) ?_, bits_word (by decide) ?_⟩
    all_goals repeat' first | exact rfl | apply put_get | apply put_low (by decide) | apply put_high (by decide)
  exact decode_x (decodeStep_own (by omega) (decodeX_hitch (by omega) ((decodeXHitch_op17 hop).trans ((if_neg f1).trans ((if_neg f2).trans ((if_neg f3).trans ((if_pos f4).trans (congrArg Except.ok (by rw [f5, f6, f7, f8]))))))))) wf

theorem vrcp (h : Hitch) (d : BitVec 6) (a : BitVec 6) (pn : BitVec 4) : Statement (.vrcp h d a pn) := by
  rintro t ⟨⟩ wf
  generalize hw : encode (.vrcp h d a pn) = wd
  have ⟨hop, f1, f2, f3, f4, f5, f6, f7, f8, f9, top⟩ : (bits wd 26 6).toNat = 23 ∧ ¬(bits wd 4 6 = 0x0) ∧ ¬(bits wd 4 6 = 0x1) ∧ ¬(bits wd 4 6 = 0x2) ∧ ¬(bits wd 4 6 = 0x3) ∧ bits wd 4 6 = 0x4 ∧ hitchAt wd 22 = h ∧ bits wd 16 6 = d ∧ bits wd 10 6 = a ∧ bits wd 0 4 = pn ∧ (bits wd 28 4).toNat = 5 := by
    rw [← hw]; refine ⟨bits_word (by decide) ?_, bits_isNot (p := 4) (k := 6) (x := 4) (by decide) ?_ (by decide) (by decide) (by decide), bits_isNot (p := 4) (k := 6) (x := 4) (by decide) ?_ (by decide) (by decide) (by decide), bits_isNot (p := 4) (k := 6) (x := 4) (by decide) ?_ (by decide) (by decide) (by decide), bits_isNot (p := 4) (k := 6) (x := 4) (by decide) ?_ (by decide) (by decide) (by decide), bits_is (by decide) ?_, hitch_is (by decide) ?_ ?_, bits_is (by decide) ?_, bits_is (by decide) ?_, bits_is (by decide) ?_, bits_word (by decide) ?_⟩
    all_goals repeat' first | exact rfl | apply put_get | apply put_low (by decide) | apply put_high (by decide)
  exact decode_x (decodeStep_own (by omega) (decodeX_hitch (by omega) ((decodeXHitch_op17 hop).trans ((if_neg f1).trans ((if_neg f2).trans ((if_neg f3).trans ((if_neg f4).trans ((if_pos f5).trans (congrArg Except.ok (by rw [f6, f7, f8, f9])))))))))) wf

theorem vrsqrt (h : Hitch) (d : BitVec 6) (a : BitVec 6) (pn : BitVec 4) : Statement (.vrsqrt h d a pn) := by
  rintro t ⟨⟩ wf
  generalize hw : encode (.vrsqrt h d a pn) = wd
  have ⟨hop, f1, f2, f3, f4, f5, f6, f7, f8, f9, f10, top⟩ : (bits wd 26 6).toNat = 23 ∧ ¬(bits wd 4 6 = 0x0) ∧ ¬(bits wd 4 6 = 0x1) ∧ ¬(bits wd 4 6 = 0x2) ∧ ¬(bits wd 4 6 = 0x3) ∧ ¬(bits wd 4 6 = 0x4) ∧ bits wd 4 6 = 0x5 ∧ hitchAt wd 22 = h ∧ bits wd 16 6 = d ∧ bits wd 10 6 = a ∧ bits wd 0 4 = pn ∧ (bits wd 28 4).toNat = 5 := by
    rw [← hw]; refine ⟨bits_word (by decide) ?_, bits_isNot (p := 4) (k := 6) (x := 5) (by decide) ?_ (by decide) (by decide) (by decide), bits_isNot (p := 4) (k := 6) (x := 5) (by decide) ?_ (by decide) (by decide) (by decide), bits_isNot (p := 4) (k := 6) (x := 5) (by decide) ?_ (by decide) (by decide) (by decide), bits_isNot (p := 4) (k := 6) (x := 5) (by decide) ?_ (by decide) (by decide) (by decide), bits_isNot (p := 4) (k := 6) (x := 5) (by decide) ?_ (by decide) (by decide) (by decide), bits_is (by decide) ?_, hitch_is (by decide) ?_ ?_, bits_is (by decide) ?_, bits_is (by decide) ?_, bits_is (by decide) ?_, bits_word (by decide) ?_⟩
    all_goals repeat' first | exact rfl | apply put_get | apply put_low (by decide) | apply put_high (by decide)
  exact decode_x (decodeStep_own (by omega) (decodeX_hitch (by omega) ((decodeXHitch_op17 hop).trans ((if_neg f1).trans ((if_neg f2).trans ((if_neg f3).trans ((if_neg f4).trans ((if_neg f5).trans ((if_pos f6).trans (congrArg Except.ok (by rw [f7, f8, f9, f10]))))))))))) wf

theorem vsqrt (h : Hitch) (d : BitVec 6) (a : BitVec 6) (pn : BitVec 4) : Statement (.vsqrt h d a pn) := by
  rintro t ⟨⟩ wf
  generalize hw : encode (.vsqrt h d a pn) = wd
  have ⟨hop, f1, f2, f3, f4, f5, f6, f7, f8, f9, f10, f11, top⟩ : (bits wd 26 6).toNat = 23 ∧ ¬(bits wd 4 6 = 0x0) ∧ ¬(bits wd 4 6 = 0x1) ∧ ¬(bits wd 4 6 = 0x2) ∧ ¬(bits wd 4 6 = 0x3) ∧ ¬(bits wd 4 6 = 0x4) ∧ ¬(bits wd 4 6 = 0x5) ∧ bits wd 4 6 = 0x6 ∧ hitchAt wd 22 = h ∧ bits wd 16 6 = d ∧ bits wd 10 6 = a ∧ bits wd 0 4 = pn ∧ (bits wd 28 4).toNat = 5 := by
    rw [← hw]; refine ⟨bits_word (by decide) ?_, bits_isNot (p := 4) (k := 6) (x := 6) (by decide) ?_ (by decide) (by decide) (by decide), bits_isNot (p := 4) (k := 6) (x := 6) (by decide) ?_ (by decide) (by decide) (by decide), bits_isNot (p := 4) (k := 6) (x := 6) (by decide) ?_ (by decide) (by decide) (by decide), bits_isNot (p := 4) (k := 6) (x := 6) (by decide) ?_ (by decide) (by decide) (by decide), bits_isNot (p := 4) (k := 6) (x := 6) (by decide) ?_ (by decide) (by decide) (by decide), bits_isNot (p := 4) (k := 6) (x := 6) (by decide) ?_ (by decide) (by decide) (by decide), bits_is (by decide) ?_, hitch_is (by decide) ?_ ?_, bits_is (by decide) ?_, bits_is (by decide) ?_, bits_is (by decide) ?_, bits_word (by decide) ?_⟩
    all_goals repeat' first | exact rfl | apply put_get | apply put_low (by decide) | apply put_high (by decide)
  exact decode_x (decodeStep_own (by omega) (decodeX_hitch (by omega) ((decodeXHitch_op17 hop).trans ((if_neg f1).trans ((if_neg f2).trans ((if_neg f3).trans ((if_neg f4).trans ((if_neg f5).trans ((if_neg f6).trans ((if_pos f7).trans (congrArg Except.ok (by rw [f8, f9, f10, f11])))))))))))) wf

theorem vexp2 (h : Hitch) (d : BitVec 6) (a : BitVec 6) (pn : BitVec 4) : Statement (.vexp2 h d a pn) := by
  rintro t ⟨⟩ wf
  generalize hw : encode (.vexp2 h d a pn) = wd
  have ⟨hop, f1, f2, f3, f4, f5, f6, f7, f8, f9, f10, f11, f12, top⟩ : (bits wd 26 6).toNat = 23 ∧ ¬(bits wd 4 6 = 0x0) ∧ ¬(bits wd 4 6 = 0x1) ∧ ¬(bits wd 4 6 = 0x2) ∧ ¬(bits wd 4 6 = 0x3) ∧ ¬(bits wd 4 6 = 0x4) ∧ ¬(bits wd 4 6 = 0x5) ∧ ¬(bits wd 4 6 = 0x6) ∧ bits wd 4 6 = 0x7 ∧ hitchAt wd 22 = h ∧ bits wd 16 6 = d ∧ bits wd 10 6 = a ∧ bits wd 0 4 = pn ∧ (bits wd 28 4).toNat = 5 := by
    rw [← hw]; refine ⟨bits_word (by decide) ?_, bits_isNot (p := 4) (k := 6) (x := 7) (by decide) ?_ (by decide) (by decide) (by decide), bits_isNot (p := 4) (k := 6) (x := 7) (by decide) ?_ (by decide) (by decide) (by decide), bits_isNot (p := 4) (k := 6) (x := 7) (by decide) ?_ (by decide) (by decide) (by decide), bits_isNot (p := 4) (k := 6) (x := 7) (by decide) ?_ (by decide) (by decide) (by decide), bits_isNot (p := 4) (k := 6) (x := 7) (by decide) ?_ (by decide) (by decide) (by decide), bits_isNot (p := 4) (k := 6) (x := 7) (by decide) ?_ (by decide) (by decide) (by decide), bits_isNot (p := 4) (k := 6) (x := 7) (by decide) ?_ (by decide) (by decide) (by decide), bits_is (by decide) ?_, hitch_is (by decide) ?_ ?_, bits_is (by decide) ?_, bits_is (by decide) ?_, bits_is (by decide) ?_, bits_word (by decide) ?_⟩
    all_goals repeat' first | exact rfl | apply put_get | apply put_low (by decide) | apply put_high (by decide)
  exact decode_x (decodeStep_own (by omega) (decodeX_hitch (by omega) ((decodeXHitch_op17 hop).trans ((if_neg f1).trans ((if_neg f2).trans ((if_neg f3).trans ((if_neg f4).trans ((if_neg f5).trans ((if_neg f6).trans ((if_neg f7).trans ((if_pos f8).trans (congrArg Except.ok (by rw [f9, f10, f11, f12]))))))))))))) wf

theorem vlog2 (h : Hitch) (d : BitVec 6) (a : BitVec 6) (pn : BitVec 4) : Statement (.vlog2 h d a pn) := by
  rintro t ⟨⟩ wf
  generalize hw : encode (.vlog2 h d a pn) = wd
  have ⟨hop, f1, f2, f3, f4, f5, f6, f7, f8, f9, f10, f11, f12, f13, top⟩ : (bits wd 26 6).toNat = 23 ∧ ¬(bits wd 4 6 = 0x0) ∧ ¬(bits wd 4 6 = 0x1) ∧ ¬(bits wd 4 6 = 0x2) ∧ ¬(bits wd 4 6 = 0x3) ∧ ¬(bits wd 4 6 = 0x4) ∧ ¬(bits wd 4 6 = 0x5) ∧ ¬(bits wd 4 6 = 0x6) ∧ ¬(bits wd 4 6 = 0x7) ∧ bits wd 4 6 = 0x8 ∧ hitchAt wd 22 = h ∧ bits wd 16 6 = d ∧ bits wd 10 6 = a ∧ bits wd 0 4 = pn ∧ (bits wd 28 4).toNat = 5 := by
    rw [← hw]; refine ⟨bits_word (by decide) ?_, bits_isNot (p := 4) (k := 6) (x := 8) (by decide) ?_ (by decide) (by decide) (by decide), bits_isNot (p := 4) (k := 6) (x := 8) (by decide) ?_ (by decide) (by decide) (by decide), bits_isNot (p := 4) (k := 6) (x := 8) (by decide) ?_ (by decide) (by decide) (by decide), bits_isNot (p := 4) (k := 6) (x := 8) (by decide) ?_ (by decide) (by decide) (by decide), bits_isNot (p := 4) (k := 6) (x := 8) (by decide) ?_ (by decide) (by decide) (by decide), bits_isNot (p := 4) (k := 6) (x := 8) (by decide) ?_ (by decide) (by decide) (by decide), bits_isNot (p := 4) (k := 6) (x := 8) (by decide) ?_ (by decide) (by decide) (by decide), bits_isNot (p := 4) (k := 6) (x := 8) (by decide) ?_ (by decide) (by decide) (by decide), bits_is (by decide) ?_, hitch_is (by decide) ?_ ?_, bits_is (by decide) ?_, bits_is (by decide) ?_, bits_is (by decide) ?_, bits_word (by decide) ?_⟩
    all_goals repeat' first | exact rfl | apply put_get | apply put_low (by decide) | apply put_high (by decide)
  exact decode_x (decodeStep_own (by omega) (decodeX_hitch (by omega) ((decodeXHitch_op17 hop).trans ((if_neg f1).trans ((if_neg f2).trans ((if_neg f3).trans ((if_neg f4).trans ((if_neg f5).trans ((if_neg f6).trans ((if_neg f7).trans ((if_neg f8).trans ((if_pos f9).trans (congrArg Except.ok (by rw [f10, f11, f12, f13])))))))))))))) wf

theorem vred (h : Hitch) (d : BitVec 6) (a : BitVec 6) (o : BitVec 3) (pn : BitVec 4) : Statement (.vred h d a o pn) := by
  rintro t ⟨⟩ wf
  generalize hw : encode (.vred h d a o pn) = wd
  have ⟨hop, f1, f2, f3, f4, f5, f6, top⟩ : (bits wd 26 6).toNat = 24 ∧ bits wd 7 3 = 0x0 ∧ hitchAt wd 22 = h ∧ bits wd 16 6 = d ∧ bits wd 10 6 = a ∧ bits wd 4 3 = o ∧ bits wd 0 4 = pn ∧ (bits wd 28 4).toNat = 6 := by
    rw [← hw]; refine ⟨bits_word (by decide) ?_, bits_is (by decide) ?_, hitch_is (by decide) ?_ ?_, bits_is (by decide) ?_, bits_is (by decide) ?_, bits_is (by decide) ?_, bits_is (by decide) ?_, bits_word (by decide) ?_⟩
    all_goals repeat' first | exact rfl | apply put_get | apply put_low (by decide) | apply put_high (by decide)
  exact decode_x (decodeStep_own (by omega) (decodeX_hitch (by omega) (by unfold decodeXHitch; simp only [hop]; exact (if_pos f1).trans (congrArg Except.ok (by rw [f2, f3, f4, f5, f6]))))) wf

theorem vsel (h : Hitch) (d : BitVec 6) (a : BitVec 6) (b : BitVec 6) (pn : BitVec 4) : Statement (.vsel h d a b pn) := by
  rintro t ⟨⟩ wf
  generalize hw : encode (.vsel h d a b pn) = wd
  have ⟨hop, f1, f2, f3, f4, f5, top⟩ : (bits wd 26 6).toNat = 25 ∧ hitchAt wd 22 = h ∧ bits wd 16 6 = d ∧ bits wd 10 6 = a ∧ bits wd 4 6 = b ∧ bits wd 0 4 = pn ∧ (bits wd 28 4).toNat = 6 := by
    rw [← hw]; refine ⟨bits_word (by decide) ?_, hitch_is (by decide) ?_ ?_, bits_is (by decide) ?_, bits_is (by decide) ?_, bits_is (by decide) ?_, bits_is (by decide) ?_, bits_word (by decide) ?_⟩
    all_goals repeat' first | exact rfl | apply put_get | apply put_low (by decide) | apply put_high (by decide)
  exact decode_x (decodeStep_own (by omega) (decodeX_hitch (by omega) (by unfold decodeXHitch; rw [hop]; exact congrArg Except.ok (by rw [f1, f2, f3, f4, f5])))) wf

theorem vperm (h : Hitch) (d : BitVec 6) (a : BitVec 6) (b : BitVec 6) : Statement (.vperm h d a b) := by
  rintro t ⟨⟩ wf
  generalize hw : encode (.vperm h d a b) = wd
  have ⟨hop, f1, f2, f3, f4, f5, top⟩ : (bits wd 26 6).toNat = 26 ∧ bits wd 0 4 = 0x0 ∧ hitchAt wd 22 = h ∧ bits wd 16 6 = d ∧ bits wd 10 6 = a ∧ bits wd 4 6 = b ∧ (bits wd 28 4).toNat = 6 := by
    rw [← hw]; refine ⟨bits_word (by decide) ?_, bits_is (by decide) ?_, hitch_is (by decide) ?_ ?_, bits_is (by decide) ?_, bits_is (by decide) ?_, bits_is (by decide) ?_, bits_word (by decide) ?_⟩
    all_goals repeat' first | exact rfl | apply put_get | apply put_low (by decide) | apply put_high (by decide)
  exact decode_x (decodeStep_own (by omega) (decodeX_hitch (by omega) ((decodeXHitch_op1A hop).trans ((if_pos f1).trans (congrArg Except.ok (by rw [f2, f3, f4, f5])))))) wf

theorem vzip (h : Hitch) (d : BitVec 6) (a : BitVec 6) (b : BitVec 6) : Statement (.vzip h d a b) := by
  rintro t ⟨⟩ wf
  generalize hw : encode (.vzip h d a b) = wd
  have ⟨hop, f1, f2, f3, f4, f5, f6, top⟩ : (bits wd 26 6).toNat = 26 ∧ ¬(bits wd 0 4 = 0x0) ∧ bits wd 0 4 = 0x1 ∧ hitchAt wd 22 = h ∧ bits wd 16 6 = d ∧ bits wd 10 6 = a ∧ bits wd 4 6 = b ∧ (bits wd 28 4).toNat = 6 := by
    rw [← hw]; refine ⟨bits_word (by decide) ?_, bits_isNot (p := 0) (k := 4) (x := 1) (by decide) ?_ (by decide) (by decide) (by decide), bits_is (by decide) ?_, hitch_is (by decide) ?_ ?_, bits_is (by decide) ?_, bits_is (by decide) ?_, bits_is (by decide) ?_, bits_word (by decide) ?_⟩
    all_goals repeat' first | exact rfl | apply put_get | apply put_low (by decide) | apply put_high (by decide)
  exact decode_x (decodeStep_own (by omega) (decodeX_hitch (by omega) ((decodeXHitch_op1A hop).trans ((if_neg f1).trans ((if_pos f2).trans (congrArg Except.ok (by rw [f3, f4, f5, f6]))))))) wf

theorem vunzip (h : Hitch) (d : BitVec 6) (a : BitVec 6) (b : BitVec 6) : Statement (.vunzip h d a b) := by
  rintro t ⟨⟩ wf
  generalize hw : encode (.vunzip h d a b) = wd
  have ⟨hop, f1, f2, f3, f4, f5, f6, f7, top⟩ : (bits wd 26 6).toNat = 26 ∧ ¬(bits wd 0 4 = 0x0) ∧ ¬(bits wd 0 4 = 0x1) ∧ bits wd 0 4 = 0x2 ∧ hitchAt wd 22 = h ∧ bits wd 16 6 = d ∧ bits wd 10 6 = a ∧ bits wd 4 6 = b ∧ (bits wd 28 4).toNat = 6 := by
    rw [← hw]; refine ⟨bits_word (by decide) ?_, bits_isNot (p := 0) (k := 4) (x := 2) (by decide) ?_ (by decide) (by decide) (by decide), bits_isNot (p := 0) (k := 4) (x := 2) (by decide) ?_ (by decide) (by decide) (by decide), bits_is (by decide) ?_, hitch_is (by decide) ?_ ?_, bits_is (by decide) ?_, bits_is (by decide) ?_, bits_is (by decide) ?_, bits_word (by decide) ?_⟩
    all_goals repeat' first | exact rfl | apply put_get | apply put_low (by decide) | apply put_high (by decide)
  exact decode_x (decodeStep_own (by omega) (decodeX_hitch (by omega) ((decodeXHitch_op1A hop).trans ((if_neg f1).trans ((if_neg f2).trans ((if_pos f3).trans (congrArg Except.ok (by rw [f4, f5, f6, f7])))))))) wf

theorem vslide (h : Hitch) (d : BitVec 6) (a : BitVec 6) (g : BitVec 4) : Statement (.vslide h d a g) := by
  rintro t ⟨⟩ wf
  generalize hw : encode (.vslide h d a g) = wd
  have ⟨hop, f1, f2, f3, f4, f5, top⟩ : (bits wd 26 6).toNat = 27 ∧ bits wd 0 6 = 0x0 ∧ hitchAt wd 22 = h ∧ bits wd 16 6 = d ∧ bits wd 10 6 = a ∧ bits wd 6 4 = g ∧ (bits wd 28 4).toNat = 6 := by
    rw [← hw]; refine ⟨bits_word (by decide) ?_, bits_is (by decide) ?_, hitch_is (by decide) ?_ ?_, bits_is (by decide) ?_, bits_is (by decide) ?_, bits_is (by decide) ?_, bits_word (by decide) ?_⟩
    all_goals repeat' first | exact rfl | apply put_get | apply put_low (by decide) | apply put_high (by decide)
  exact decode_x (decodeStep_own (by omega) (decodeX_hitch (by omega) (by unfold decodeXHitch; simp only [hop]; exact (if_pos f1).trans (congrArg Except.ok (by rw [f2, f3, f4, f5]))))) wf

theorem vsplat (h : Hitch) (d : BitVec 6) (g : BitVec 4) : Statement (.vsplat h d g) := by
  rintro t ⟨⟩ wf
  generalize hw : encode (.vsplat h d g) = wd
  have ⟨hop, f1, f2, f3, f4, f5, top⟩ : (bits wd 26 6).toNat = 28 ∧ bits wd 10 6 = 0x0 ∧ bits wd 0 6 = 0x0 ∧ hitchAt wd 22 = h ∧ bits wd 16 6 = d ∧ bits wd 6 4 = g ∧ (bits wd 28 4).toNat = 7 := by
    rw [← hw]; refine ⟨bits_word (by decide) ?_, bits_is (by decide) ?_, bits_is (by decide) ?_, hitch_is (by decide) ?_ ?_, bits_is (by decide) ?_, bits_is (by decide) ?_, bits_word (by decide) ?_⟩
    all_goals repeat' first | exact rfl | apply put_get | apply put_low (by decide) | apply put_high (by decide)
  exact decode_x (decodeStep_own (by omega) (decodeX_hitch (by omega) (by unfold decodeXHitch; simp only [hop]; exact (if_pos ⟨f1, f2⟩).trans (congrArg Except.ok (by rw [f3, f4, f5]))))) wf

theorem vbcast (h : Hitch) (d : BitVec 6) (k : BitVec 4) (g : BitVec 4) : Statement (.vbcast h d k g) := by
  rintro t ⟨⟩ wf
  generalize hw : encode (.vbcast h d k g) = wd
  have ⟨hop, f1, f2, f3, f4, f5, f6, top⟩ : (bits wd 26 6).toNat = 29 ∧ bits wd 14 2 = 0x0 ∧ bits wd 0 6 = 0x0 ∧ hitchAt wd 22 = h ∧ bits wd 16 6 = d ∧ bits wd 10 4 = k ∧ bits wd 6 4 = g ∧ (bits wd 28 4).toNat = 7 := by
    rw [← hw]; refine ⟨bits_word (by decide) ?_, bits_is (by decide) ?_, bits_is (by decide) ?_, hitch_is (by decide) ?_ ?_, bits_is (by decide) ?_, bits_is (by decide) ?_, bits_is (by decide) ?_, bits_word (by decide) ?_⟩
    all_goals repeat' first | exact rfl | apply put_get | apply put_low (by decide) | apply put_high (by decide)
  exact decode_x (decodeStep_own (by omega) (decodeX_hitch (by omega) (by unfold decodeXHitch; simp only [hop]; exact (if_pos ⟨f1, f2⟩).trans (congrArg Except.ok (by rw [f3, f4, f5, f6]))))) wf

theorem pcnt (h : Hitch) (d : BitVec 4) (g : BitVec 4) : Statement (.pcnt h d g) := by
  rintro t ⟨⟩ wf
  generalize hw : encode (.pcnt h d g) = wd
  have ⟨hop, f1, f2, f3, f4, f5, top⟩ : (bits wd 26 6).toNat = 30 ∧ bits wd 10 8 = 0x0 ∧ bits wd 0 6 = 0x0 ∧ hitchAt wd 22 = h ∧ bits wd 18 4 = d ∧ bits wd 6 4 = g ∧ (bits wd 28 4).toNat = 7 := by
    rw [← hw]; refine ⟨bits_word (by decide) ?_, bits_is (by decide) ?_, bits_is (by decide) ?_, hitch_is (by decide) ?_ ?_, bits_is (by decide) ?_, bits_is (by decide) ?_, bits_word (by decide) ?_⟩
    all_goals repeat' first | exact rfl | apply put_get | apply put_low (by decide) | apply put_high (by decide)
  exact decode_x (decodeStep_own (by omega) (decodeX_hitch (by omega) (by unfold decodeXHitch; simp only [hop]; exact (if_pos ⟨f1, f2⟩).trans (congrArg Except.ok (by rw [f3, f4, f5]))))) wf

theorem plogic (h : Hitch) (d : BitVec 4) (a : BitVec 4) (b : BitVec 4) (f : BitVec 3) : Statement (.plogic h d a b f) := by
  rintro t ⟨⟩ wf
  generalize hw : encode (.plogic h d a b f) = wd
  have ⟨hop, f1, f2, f3, f4, f5, f6, top⟩ : (bits wd 26 6).toNat = 31 ∧ bits wd 3 7 = 0x0 ∧ hitchAt wd 22 = h ∧ bits wd 18 4 = d ∧ bits wd 14 4 = a ∧ bits wd 10 4 = b ∧ bits wd 0 3 = f ∧ (bits wd 28 4).toNat = 7 := by
    rw [← hw]; refine ⟨bits_word (by decide) ?_, bits_is (by decide) ?_, hitch_is (by decide) ?_ ?_, bits_is (by decide) ?_, bits_is (by decide) ?_, bits_is (by decide) ?_, bits_is (by decide) ?_, bits_word (by decide) ?_⟩
    all_goals repeat' first | exact rfl | apply put_get | apply put_low (by decide) | apply put_high (by decide)
  exact decode_x (decodeStep_own (by omega) (decodeX_hitch (by omega) (by unfold decodeXHitch; simp only [hop]; exact (if_pos f1).trans (congrArg Except.ok (by rw [f2, f3, f4, f5, f6]))))) wf

theorem ppop (h : Hitch) (a : BitVec 4) (g : BitVec 4) : Statement (.ppop h a g) := by
  rintro t ⟨⟩ wf
  generalize hw : encode (.ppop h a g) = wd
  have ⟨hop, f1, f2, f3, f4, f5, f6, top⟩ : (bits wd 26 6).toNat = 32 ∧ bits wd 18 4 = 0x0 ∧ bits wd 10 4 = 0x0 ∧ bits wd 0 6 = 0x0 ∧ hitchAt wd 22 = h ∧ bits wd 14 4 = a ∧ bits wd 6 4 = g ∧ (bits wd 28 4).toNat = 8 := by
    rw [← hw]; refine ⟨bits_word (by decide) ?_, bits_is (by decide) ?_, bits_is (by decide) ?_, bits_is (by decide) ?_, hitch_is (by decide) ?_ ?_, bits_is (by decide) ?_, bits_is (by decide) ?_, bits_word (by decide) ?_⟩
    all_goals repeat' first | exact rfl | apply put_get | apply put_low (by decide) | apply put_high (by decide)
  exact decode_x (decodeStep_own (by omega) (decodeX_hitch (by omega) (by unfold decodeXHitch; simp only [hop]; exact (if_pos ⟨f1, f2, f3⟩).trans (congrArg Except.ok (by rw [f4, f5, f6]))))) wf

theorem vcvt (h : Hitch) (d : BitVec 6) (a : BitVec 6) (dt : BitVec 4) (st : BitVec 4) : Statement (.vcvt h d a dt st) := by
  rintro t ⟨⟩ wf
  generalize hw : encode (.vcvt h d a dt st) = wd
  have ⟨hop, f1, f2, f3, f4, f5, f6, top⟩ : (bits wd 26 6).toNat = 33 ∧ bits wd 0 2 = 0x0 ∧ hitchAt wd 22 = h ∧ bits wd 16 6 = d ∧ bits wd 10 6 = a ∧ bits wd 6 4 = dt ∧ bits wd 2 4 = st ∧ (bits wd 28 4).toNat = 8 := by
    rw [← hw]; refine ⟨bits_word (by decide) ?_, bits_is (by decide) ?_, hitch_is (by decide) ?_ ?_, bits_is (by decide) ?_, bits_is (by decide) ?_, bits_is (by decide) ?_, bits_is (by decide) ?_, bits_word (by decide) ?_⟩
    all_goals repeat' first | exact rfl | apply put_get | apply put_low (by decide) | apply put_high (by decide)
  exact decode_x (decodeStep_own (by omega) (decodeX_hitch (by omega) (by unfold decodeXHitch; simp only [hop]; exact (if_pos f1).trans (congrArg Except.ok (by rw [f2, f3, f4, f5, f6]))))) wf

theorem vhad (h : Hitch) (d : BitVec 6) (a : BitVec 6) (k : BitVec 4) (seed : BitVec 3) : Statement (.vhad h d a k seed) := by
  rintro t ⟨⟩ wf
  generalize hw : encode (.vhad h d a k seed) = wd
  have ⟨hop, f1, f2, f3, f4, f5, f6, top⟩ : (bits wd 26 6).toNat = 34 ∧ bits wd 0 3 = 0x0 ∧ hitchAt wd 22 = h ∧ bits wd 16 6 = d ∧ bits wd 10 6 = a ∧ bits wd 6 4 = k ∧ bits wd 3 3 = seed ∧ (bits wd 28 4).toNat = 8 := by
    rw [← hw]; refine ⟨bits_word (by decide) ?_, bits_is (by decide) ?_, hitch_is (by decide) ?_ ?_, bits_is (by decide) ?_, bits_is (by decide) ?_, bits_is (by decide) ?_, bits_is (by decide) ?_, bits_word (by decide) ?_⟩
    all_goals repeat' first | exact rfl | apply put_get | apply put_low (by decide) | apply put_high (by decide)
  exact decode_x (decodeStep_own (by omega) (decodeX_hitch (by omega) (by unfold decodeXHitch; simp only [hop]; exact (if_pos f1).trans (congrArg Except.ok (by rw [f2, f3, f4, f5, f6]))))) wf

theorem vmaxe (h : Hitch) (a : BitVec 6) (k : BitVec 4) : Statement (.vmaxe h a k) := by
  rintro t ⟨⟩ wf
  generalize hw : encode (.vmaxe h a k) = wd
  have ⟨hop, f1, f2, f3, f4, f5, top⟩ : (bits wd 26 6).toNat = 35 ∧ bits wd 16 6 = 0x0 ∧ bits wd 0 6 = 0x0 ∧ hitchAt wd 22 = h ∧ bits wd 10 6 = a ∧ bits wd 6 4 = k ∧ (bits wd 28 4).toNat = 8 := by
    rw [← hw]; refine ⟨bits_word (by decide) ?_, bits_is (by decide) ?_, bits_is (by decide) ?_, hitch_is (by decide) ?_ ?_, bits_is (by decide) ?_, bits_is (by decide) ?_, bits_word (by decide) ?_⟩
    all_goals repeat' first | exact rfl | apply put_get | apply put_low (by decide) | apply put_high (by decide)
  exact decode_x (decodeStep_own (by omega) (decodeX_hitch (by omega) (by unfold decodeXHitch; simp only [hop]; exact (if_pos ⟨f1, f2⟩).trans (congrArg Except.ok (by rw [f3, f4, f5]))))) wf

theorem vq (h : Hitch) (d : BitVec 6) (a : BitVec 6) (k : BitVec 4) (m : BitVec 2) : Statement (.vq h d a k m) := by
  rintro t ⟨⟩ wf
  generalize hw : encode (.vq h d a k m) = wd
  have ⟨hop, f1, f2, f3, f4, f5, f6, top⟩ : (bits wd 26 6).toNat = 36 ∧ bits wd 2 4 = 0x0 ∧ hitchAt wd 22 = h ∧ bits wd 16 6 = d ∧ bits wd 10 6 = a ∧ bits wd 6 4 = k ∧ bits wd 0 2 = m ∧ (bits wd 28 4).toNat = 9 := by
    rw [← hw]; refine ⟨bits_word (by decide) ?_, bits_is (by decide) ?_, hitch_is (by decide) ?_ ?_, bits_is (by decide) ?_, bits_is (by decide) ?_, bits_is (by decide) ?_, bits_is (by decide) ?_, bits_word (by decide) ?_⟩
    all_goals repeat' first | exact rfl | apply put_get | apply put_low (by decide) | apply put_high (by decide)
  exact decode_x (decodeStep_own (by omega) (decodeX_hitch (by omega) (by unfold decodeXHitch; simp only [hop]; exact (if_pos f1).trans (congrArg Except.ok (by rw [f2, f3, f4, f5, f6]))))) wf

theorem vdq (h : Hitch) (d : BitVec 6) (a : BitVec 6) (k : BitVec 4) (m : BitVec 2) : Statement (.vdq h d a k m) := by
  rintro t ⟨⟩ wf
  generalize hw : encode (.vdq h d a k m) = wd
  have ⟨hop, f1, f2, f3, f4, f5, f6, top⟩ : (bits wd 26 6).toNat = 37 ∧ bits wd 2 4 = 0x0 ∧ hitchAt wd 22 = h ∧ bits wd 16 6 = d ∧ bits wd 10 6 = a ∧ bits wd 6 4 = k ∧ bits wd 0 2 = m ∧ (bits wd 28 4).toNat = 9 := by
    rw [← hw]; refine ⟨bits_word (by decide) ?_, bits_is (by decide) ?_, hitch_is (by decide) ?_ ?_, bits_is (by decide) ?_, bits_is (by decide) ?_, bits_is (by decide) ?_, bits_is (by decide) ?_, bits_word (by decide) ?_⟩
    all_goals repeat' first | exact rfl | apply put_get | apply put_low (by decide) | apply put_high (by decide)
  exact decode_x (decodeStep_own (by omega) (decodeX_hitch (by omega) ((decodeXHitch_op25 hop).trans ((if_pos f1).trans (congrArg Except.ok (by rw [f2, f3, f4, f5, f6])))))) wf

theorem vdqInv (h : Hitch) (d : BitVec 6) (a : BitVec 6) (k : BitVec 4) (seed : BitVec 3) (m : BitVec 2) : Statement (.vdqInv h d a k seed m) := by
  rintro t ⟨⟩ wf
  generalize hw : encode (.vdqInv h d a k seed m) = wd
  have ⟨hop, f1, f2, f3, f4, f5, f6, f7, f8, top⟩ : (bits wd 26 6).toNat = 37 ∧ ¬(bits wd 2 4 = 0x0) ∧ bits wd 2 1 = 0x1 ∧ hitchAt wd 22 = h ∧ bits wd 16 6 = d ∧ bits wd 10 6 = a ∧ bits wd 6 4 = k ∧ bits wd 3 3 = seed ∧ bits wd 0 2 = m ∧ (bits wd 28 4).toNat = 9 := by
    rw [← hw]; refine ⟨bits_word (by decide) ?_, bits_isNot (p := 2) (k := 1) (x := 1) (by decide) ?_ (by decide) (by decide) (by decide), bits_is (by decide) ?_, hitch_is (by decide) ?_ ?_, bits_is (by decide) ?_, bits_is (by decide) ?_, bits_is (by decide) ?_, bits_is (by decide) ?_, bits_is (by decide) ?_, bits_word (by decide) ?_⟩
    all_goals repeat' first | exact rfl | apply put_get | apply put_low (by decide) | apply put_high (by decide)
  exact decode_x (decodeStep_own (by omega) (decodeX_hitch (by omega) ((decodeXHitch_op25 hop).trans ((if_neg f1).trans ((if_pos f2).trans (congrArg Except.ok (by rw [f3, f4, f5, f6, f7, f8]))))))) wf

theorem vld (h : Hitch) (v : BitVec 6) (g : BitVec 4) (o : BitVec 8) (pn : BitVec 4) : Statement (.vld h v g o pn) := by
  rintro t ⟨⟩ wf
  generalize hw : encode (.vld h v g o pn) = wd
  have ⟨hop, f1, f2, f3, f4, f5, top⟩ : (bits wd 26 6).toNat = 38 ∧ hitchAt wd 22 = h ∧ bits wd 16 6 = v ∧ bits wd 12 4 = g ∧ bits wd 4 8 = o ∧ bits wd 0 4 = pn ∧ (bits wd 28 4).toNat = 9 := by
    rw [← hw]; refine ⟨bits_word (by decide) ?_, hitch_is (by decide) ?_ ?_, bits_is (by decide) ?_, bits_is (by decide) ?_, bits_is (by decide) ?_, bits_is (by decide) ?_, bits_word (by decide) ?_⟩
    all_goals repeat' first | exact rfl | apply put_get | apply put_low (by decide) | apply put_high (by decide)
  exact decode_x (decodeStep_own (by omega) (decodeX_hitch (by omega) (by unfold decodeXHitch; rw [hop]; exact congrArg Except.ok (by rw [f1, f2, f3, f4, f5])))) wf

theorem vst (h : Hitch) (v : BitVec 6) (g : BitVec 4) (o : BitVec 8) (pn : BitVec 4) : Statement (.vst h v g o pn) := by
  rintro t ⟨⟩ wf
  generalize hw : encode (.vst h v g o pn) = wd
  have ⟨hop, f1, f2, f3, f4, f5, top⟩ : (bits wd 26 6).toNat = 39 ∧ hitchAt wd 22 = h ∧ bits wd 16 6 = v ∧ bits wd 12 4 = g ∧ bits wd 4 8 = o ∧ bits wd 0 4 = pn ∧ (bits wd 28 4).toNat = 9 := by
    rw [← hw]; refine ⟨bits_word (by decide) ?_, hitch_is (by decide) ?_ ?_, bits_is (by decide) ?_, bits_is (by decide) ?_, bits_is (by decide) ?_, bits_is (by decide) ?_, bits_word (by decide) ?_⟩
    all_goals repeat' first | exact rfl | apply put_get | apply put_low (by decide) | apply put_high (by decide)
  exact decode_x (decodeStep_own (by omega) (decodeX_hitch (by omega) (by unfold decodeXHitch; rw [hop]; exact congrArg Except.ok (by rw [f1, f2, f3, f4, f5])))) wf

theorem vldFf (h : Hitch) (v : BitVec 6) (g : BitVec 4) (o : BitVec 8) (pn : BitVec 4) : Statement (.vldFf h v g o pn) := by
  rintro t ⟨⟩ wf
  generalize hw : encode (.vldFf h v g o pn) = wd
  have ⟨hop, f1, f2, f3, f4, f5, top⟩ : (bits wd 26 6).toNat = 40 ∧ hitchAt wd 22 = h ∧ bits wd 16 6 = v ∧ bits wd 12 4 = g ∧ bits wd 4 8 = o ∧ bits wd 0 4 = pn ∧ (bits wd 28 4).toNat = 10 := by
    rw [← hw]; refine ⟨bits_word (by decide) ?_, hitch_is (by decide) ?_ ?_, bits_is (by decide) ?_, bits_is (by decide) ?_, bits_is (by decide) ?_, bits_is (by decide) ?_, bits_word (by decide) ?_⟩
    all_goals repeat' first | exact rfl | apply put_get | apply put_low (by decide) | apply put_high (by decide)
  exact decode_x (decodeStep_own (by omega) (decodeX_hitch (by omega) (by unfold decodeXHitch; rw [hop]; exact congrArg Except.ok (by rw [f1, f2, f3, f4, f5])))) wf

theorem vldx (h : Hitch) (v : BitVec 6) (g : BitVec 4) (vi : BitVec 6) (pn : BitVec 4) : Statement (.vldx h v g vi pn) := by
  rintro t ⟨⟩ wf
  generalize hw : encode (.vldx h v g vi pn) = wd
  have ⟨hop, f1, f2, f3, f4, f5, f6, top⟩ : (bits wd 26 6).toNat = 41 ∧ bits wd 4 2 = 0x0 ∧ hitchAt wd 22 = h ∧ bits wd 16 6 = v ∧ bits wd 12 4 = g ∧ bits wd 6 6 = vi ∧ bits wd 0 4 = pn ∧ (bits wd 28 4).toNat = 10 := by
    rw [← hw]; refine ⟨bits_word (by decide) ?_, bits_is (by decide) ?_, hitch_is (by decide) ?_ ?_, bits_is (by decide) ?_, bits_is (by decide) ?_, bits_is (by decide) ?_, bits_is (by decide) ?_, bits_word (by decide) ?_⟩
    all_goals repeat' first | exact rfl | apply put_get | apply put_low (by decide) | apply put_high (by decide)
  exact decode_x (decodeStep_own (by omega) (decodeX_hitch (by omega) (by unfold decodeXHitch; simp only [hop]; exact (if_pos f1).trans (congrArg Except.ok (by rw [f2, f3, f4, f5, f6]))))) wf

theorem vstx (h : Hitch) (v : BitVec 6) (g : BitVec 4) (vi : BitVec 6) (pn : BitVec 4) : Statement (.vstx h v g vi pn) := by
  rintro t ⟨⟩ wf
  generalize hw : encode (.vstx h v g vi pn) = wd
  have ⟨hop, f1, f2, f3, f4, f5, f6, top⟩ : (bits wd 26 6).toNat = 42 ∧ bits wd 4 2 = 0x0 ∧ hitchAt wd 22 = h ∧ bits wd 16 6 = v ∧ bits wd 12 4 = g ∧ bits wd 6 6 = vi ∧ bits wd 0 4 = pn ∧ (bits wd 28 4).toNat = 10 := by
    rw [← hw]; refine ⟨bits_word (by decide) ?_, bits_is (by decide) ?_, hitch_is (by decide) ?_ ?_, bits_is (by decide) ?_, bits_is (by decide) ?_, bits_is (by decide) ?_, bits_is (by decide) ?_, bits_word (by decide) ?_⟩
    all_goals repeat' first | exact rfl | apply put_get | apply put_low (by decide) | apply put_high (by decide)
  exact decode_x (decodeStep_own (by omega) (decodeX_hitch (by omega) (by unfold decodeXHitch; simp only [hop]; exact (if_pos f1).trans (congrArg Except.ok (by rw [f2, f3, f4, f5, f6]))))) wf

theorem vshape (h : Hitch) (z : BitVec 4) : Statement (.vshape h z) := by
  rintro t ⟨⟩ wf
  generalize hw : encode (.vshape h z) = wd
  have ⟨hop, f1, f2, f3, top⟩ : (bits wd 26 6).toNat = 43 ∧ bits wd 0 18 = 0x0 ∧ hitchAt wd 22 = h ∧ bits wd 18 4 = z ∧ (bits wd 28 4).toNat = 10 := by
    rw [← hw]; refine ⟨bits_word (by decide) ?_, bits_is (by decide) ?_, hitch_is (by decide) ?_ ?_, bits_is (by decide) ?_, bits_word (by decide) ?_⟩
    all_goals repeat' first | exact rfl | apply put_get | apply put_low (by decide) | apply put_high (by decide)
  exact decode_x (decodeStep_own (by omega) (decodeX_hitch (by omega) (by unfold decodeXHitch; simp only [hop]; exact (if_pos f1).trans (congrArg Except.ok (by rw [f2, f3]))))) wf

theorem vrot (h : Hitch) : Statement (.vrot h) := by
  rintro t ⟨⟩ wf
  generalize hw : encode (.vrot h) = wd
  have ⟨hop, f1, f2, top⟩ : (bits wd 26 6).toNat = 44 ∧ bits wd 0 22 = 0x0 ∧ hitchAt wd 22 = h ∧ (bits wd 28 4).toNat = 11 := by
    rw [← hw]; refine ⟨bits_word (by decide) ?_, bits_is (by decide) ?_, hitch_is (by decide) ?_ ?_, bits_word (by decide) ?_⟩
    all_goals repeat' first | exact rfl | apply put_get | apply put_low (by decide) | apply put_high (by decide)
  exact decode_x (decodeStep_own (by omega) (decodeX_hitch (by omega) (by unfold decodeXHitch; simp only [hop]; exact (if_pos f1).trans (congrArg Except.ok (by rw [f2]))))) wf

theorem vwin (h : Hitch) (g : BitVec 4) : Statement (.vwin h g) := by
  rintro t ⟨⟩ wf
  generalize hw : encode (.vwin h g) = wd
  have ⟨hop, f1, f2, f3, top⟩ : (bits wd 26 6).toNat = 45 ∧ bits wd 0 18 = 0x0 ∧ hitchAt wd 22 = h ∧ bits wd 18 4 = g ∧ (bits wd 28 4).toNat = 11 := by
    rw [← hw]; refine ⟨bits_word (by decide) ?_, bits_is (by decide) ?_, hitch_is (by decide) ?_ ?_, bits_is (by decide) ?_, bits_word (by decide) ?_⟩
    all_goals repeat' first | exact rfl | apply put_get | apply put_low (by decide) | apply put_high (by decide)
  exact decode_x (decodeStep_own (by omega) (decodeX_hitch (by omega) (by unfold decodeXHitch; simp only [hop]; exact (if_pos f1).trans (congrArg Except.ok (by rw [f2, f3]))))) wf

theorem vfma (h : Hitch) (d : BitVec 6) (a : BitVec 6) (b : BitVec 6) (c : BitVec 6) : Statement (.vfma h d a b c) := by
  rintro t ⟨⟩ wf
  generalize hw : encode (.vfma h d a b c) = wd
  have ⟨hop, f1, f2, f3, f4, f5⟩ : (bits wd 28 4).toNat = 12 ∧ hitchAt wd 24 = h ∧ bits wd 18 6 = d ∧ bits wd 12 6 = a ∧ bits wd 6 6 = b ∧ bits wd 0 6 = c := by
    rw [← hw]; refine ⟨bits_word (by decide) ?_, hitch_is (by decide) ?_ ?_, bits_is (by decide) ?_, bits_is (by decide) ?_, bits_is (by decide) ?_, bits_is (by decide) ?_⟩
    all_goals repeat' first | exact rfl | apply put_get | apply put_low (by decide) | apply put_high (by decide)
  exact decode_x (decodeStep_own (top_own hop (by decide)) (by unfold decodeX; rw [hop]; exact congrArg Except.ok (by rw [f1, f2, f3, f4, f5]))) wf

theorem vfms (h : Hitch) (d : BitVec 6) (a : BitVec 6) (b : BitVec 6) (c : BitVec 6) : Statement (.vfms h d a b c) := by
  rintro t ⟨⟩ wf
  generalize hw : encode (.vfms h d a b c) = wd
  have ⟨hop, f1, f2, f3, f4, f5⟩ : (bits wd 28 4).toNat = 13 ∧ hitchAt wd 24 = h ∧ bits wd 18 6 = d ∧ bits wd 12 6 = a ∧ bits wd 6 6 = b ∧ bits wd 0 6 = c := by
    rw [← hw]; refine ⟨bits_word (by decide) ?_, hitch_is (by decide) ?_ ?_, bits_is (by decide) ?_, bits_is (by decide) ?_, bits_is (by decide) ?_, bits_is (by decide) ?_⟩
    all_goals repeat' first | exact rfl | apply put_get | apply put_low (by decide) | apply put_high (by decide)
  exact decode_x (decodeStep_own (top_own hop (by decide)) (by unfold decodeX; rw [hop]; exact congrArg Except.ok (by rw [f1, f2, f3, f4, f5]))) wf

theorem vfnma (h : Hitch) (d : BitVec 6) (a : BitVec 6) (b : BitVec 6) (c : BitVec 6) : Statement (.vfnma h d a b c) := by
  rintro t ⟨⟩ wf
  generalize hw : encode (.vfnma h d a b c) = wd
  have ⟨hop, f1, f2, f3, f4, f5⟩ : (bits wd 28 4).toNat = 14 ∧ hitchAt wd 24 = h ∧ bits wd 18 6 = d ∧ bits wd 12 6 = a ∧ bits wd 6 6 = b ∧ bits wd 0 6 = c := by
    rw [← hw]; refine ⟨bits_word (by decide) ?_, hitch_is (by decide) ?_ ?_, bits_is (by decide) ?_, bits_is (by decide) ?_, bits_is (by decide) ?_, bits_is (by decide) ?_⟩
    all_goals repeat' first | exact rfl | apply put_get | apply put_low (by decide) | apply put_high (by decide)
  exact decode_x (decodeStep_own (top_own hop (by decide)) (by unfold decodeX; rw [hop]; exact congrArg Except.ok (by rw [f1, f2, f3, f4, f5]))) wf

theorem vectorModifier (pn : BitVec 4) (inv : BitVec 1) (zero : BitVec 1) (rm : BitVec 2) : Statement (.vectorModifier pn inv zero rm) := by
  rintro t ⟨⟩ wf
  generalize hw : encode (.vectorModifier pn inv zero rm) = wd
  have ⟨hop, f1, f2, f3, f4, f5⟩ : (bits wd 28 4).toNat = 15 ∧ bits wd 0 20 = 0x0 ∧ bits wd 24 4 = pn ∧ bits wd 23 1 = inv ∧ bits wd 22 1 = zero ∧ bits wd 20 2 = rm := by
    rw [← hw]; refine ⟨bits_word (by decide) ?_, bits_is (by decide) ?_, bits_is (by decide) ?_, bits_is (by decide) ?_, bits_is (by decide) ?_, bits_is (by decide) ?_⟩
    all_goals repeat' first | exact rfl | apply put_get | apply put_low (by decide) | apply put_high (by decide)
  exact decode_x (decodeStep_own (top_own hop (by decide)) (by unfold decodeX; simp only [hop]; exact (if_pos f1).trans (congrArg Except.ok (by rw [f2, f3, f4, f5])))) wf

theorem mldb (h : Hitch) (hd : BitVec 10) : Statement (.mldb h hd) := by
  rintro t ⟨⟩ wf
  generalize hw : encode (.mldb h hd) = wd
  have ⟨hop, f1, f2, f3, f4, top⟩ : (bits wd 26 6).toNat = 10 ∧ bits wd 18 4 = 0x0 ∧ bits wd 0 8 = 0x0 ∧ hitchAt wd 22 = h ∧ bits wd 8 10 = hd ∧ (bits wd 28 4).toNat = 2 := by
    rw [← hw]; refine ⟨bits_word (by decide) ?_, bits_is (by decide) ?_, bits_is (by decide) ?_, hitch_is (by decide) ?_ ?_, bits_is (by decide) ?_, bits_word (by decide) ?_⟩
    all_goals repeat' first | exact rfl | apply put_get | apply put_low (by decide) | apply put_high (by decide)
  exact decode_x (decodeStep_own (by omega) (decodeX_hitch (by omega) ((decodeXHitch_op0A hop).trans ((if_pos ⟨f1, f2⟩).trans (congrArg Except.ok (by rw [f3, f4])))))) wf

theorem mmab (h : Hitch) (hd : BitVec 10) (t : BitVec 4) : Statement (.mmab h hd t) := by
  rintro t ⟨⟩ wf
  generalize hw : encode (.mmab h hd t) = wd
  have ⟨hop, f1, f2, f3, f4, f5, f6, top⟩ : (bits wd 26 6).toNat = 10 ∧ ¬(bits wd 18 4 = 0x0) ∧ bits wd 18 4 = 0x1 ∧ bits wd 0 4 = 0x0 ∧ hitchAt wd 22 = h ∧ bits wd 8 10 = hd ∧ bits wd 4 4 = t ∧ (bits wd 28 4).toNat = 2 := by
    rw [← hw]; refine ⟨bits_word (by decide) ?_, bits_isNot (p := 18) (k := 4) (x := 1) (by decide) ?_ (by decide) (by decide) (by decide), bits_is (by decide) ?_, bits_is (by decide) ?_, hitch_is (by decide) ?_ ?_, bits_is (by decide) ?_, bits_is (by decide) ?_, bits_word (by decide) ?_⟩
    all_goals repeat' first | exact rfl | apply put_get | apply put_low (by decide) | apply put_high (by decide)
  exact decode_x (decodeStep_own (by omega) (decodeX_hitch (by omega) ((decodeXHitch_op0A hop).trans ((if_neg (fun h => f1 h.1)).trans ((if_pos ⟨f2, f3⟩).trans (congrArg Except.ok (by rw [f4, f5, f6]))))))) wf

theorem mmas (h : Hitch) (hd : BitVec 10) (t : BitVec 4) : Statement (.mmas h hd t) := by
  rintro t ⟨⟩ wf
  generalize hw : encode (.mmas h hd t) = wd
  have ⟨hop, f1, f2, f3, f4, f5, f6, f7, top⟩ : (bits wd 26 6).toNat = 10 ∧ ¬(bits wd 18 4 = 0x0) ∧ ¬(bits wd 18 4 = 0x1) ∧ bits wd 18 4 = 0x2 ∧ bits wd 0 4 = 0x0 ∧ hitchAt wd 22 = h ∧ bits wd 8 10 = hd ∧ bits wd 4 4 = t ∧ (bits wd 28 4).toNat = 2 := by
    rw [← hw]; refine ⟨bits_word (by decide) ?_, bits_isNot (p := 18) (k := 4) (x := 2) (by decide) ?_ (by decide) (by decide) (by decide), bits_isNot (p := 18) (k := 4) (x := 2) (by decide) ?_ (by decide) (by decide) (by decide), bits_is (by decide) ?_, bits_is (by decide) ?_, hitch_is (by decide) ?_ ?_, bits_is (by decide) ?_, bits_is (by decide) ?_, bits_word (by decide) ?_⟩
    all_goals repeat' first | exact rfl | apply put_get | apply put_low (by decide) | apply put_high (by decide)
  exact decode_x (decodeStep_own (by omega) (decodeX_hitch (by omega) ((decodeXHitch_op0A hop).trans ((if_neg (fun h => f1 h.1)).trans ((if_neg (fun h => f2 h.1)).trans ((if_pos ⟨f3, f4⟩).trans (congrArg Except.ok (by rw [f5, f6, f7])))))))) wf

theorem mdrain (h : Hitch) (hd : BitVec 10) (t : BitVec 4) : Statement (.mdrain h hd t) := by
  rintro t ⟨⟩ wf
  generalize hw : encode (.mdrain h hd t) = wd
  have ⟨hop, f1, f2, f3, f4, f5, f6, f7, f8, top⟩ : (bits wd 26 6).toNat = 10 ∧ ¬(bits wd 18 4 = 0x0) ∧ ¬(bits wd 18 4 = 0x1) ∧ ¬(bits wd 18 4 = 0x2) ∧ bits wd 18 4 = 0x3 ∧ bits wd 0 4 = 0x0 ∧ hitchAt wd 22 = h ∧ bits wd 8 10 = hd ∧ bits wd 4 4 = t ∧ (bits wd 28 4).toNat = 2 := by
    rw [← hw]; refine ⟨bits_word (by decide) ?_, bits_isNot (p := 18) (k := 4) (x := 3) (by decide) ?_ (by decide) (by decide) (by decide), bits_isNot (p := 18) (k := 4) (x := 3) (by decide) ?_ (by decide) (by decide) (by decide), bits_isNot (p := 18) (k := 4) (x := 3) (by decide) ?_ (by decide) (by decide) (by decide), bits_is (by decide) ?_, bits_is (by decide) ?_, hitch_is (by decide) ?_ ?_, bits_is (by decide) ?_, bits_is (by decide) ?_, bits_word (by decide) ?_⟩
    all_goals repeat' first | exact rfl | apply put_get | apply put_low (by decide) | apply put_high (by decide)
  exact decode_x (decodeStep_own (by omega) (decodeX_hitch (by omega) ((decodeXHitch_op0A hop).trans ((if_neg (fun h => f1 h.1)).trans ((if_neg (fun h => f2 h.1)).trans ((if_neg (fun h => f3 h.1)).trans ((if_pos ⟨f4, f5⟩).trans (congrArg Except.ok (by rw [f6, f7, f8]))))))))) wf

theorem mzero (h : Hitch) (t : BitVec 4) : Statement (.mzero h t) := by
  rintro t ⟨⟩ wf
  generalize hw : encode (.mzero h t) = wd
  have ⟨hop, f1, f2, f3, f4, f5, f6, f7, f8, top⟩ : (bits wd 26 6).toNat = 10 ∧ ¬(bits wd 18 4 = 0x0) ∧ ¬(bits wd 18 4 = 0x1) ∧ ¬(bits wd 18 4 = 0x2) ∧ ¬(bits wd 18 4 = 0x3) ∧ bits wd 8 14 = 0x1000 ∧ bits wd 0 4 = 0x0 ∧ hitchAt wd 22 = h ∧ bits wd 4 4 = t ∧ (bits wd 28 4).toNat = 2 := by
    rw [← hw]; refine ⟨bits_word (by decide) ?_, bits_isNot (p := 18) (k := 4) (x := 4) (by decide) ?_ (by decide) (by decide) (by decide), bits_isNot (p := 18) (k := 4) (x := 4) (by decide) ?_ (by decide) (by decide) (by decide), bits_isNot (p := 18) (k := 4) (x := 4) (by decide) ?_ (by decide) (by decide) (by decide), bits_isNot (p := 18) (k := 4) (x := 4) (by decide) ?_ (by decide) (by decide) (by decide), bits_is (by decide) ?_, bits_is (by decide) ?_, hitch_is (by decide) ?_ ?_, bits_is (by decide) ?_, bits_word (by decide) ?_⟩
    all_goals repeat' first | exact rfl | apply put_get | apply put_low (by decide) | apply put_high (by decide)
  exact decode_x (decodeStep_own (by omega) (decodeX_hitch (by omega) ((decodeXHitch_op0A hop).trans ((if_neg (fun h => f1 h.1)).trans ((if_neg (fun h => f2 h.1)).trans ((if_neg (fun h => f3 h.1)).trans ((if_neg (fun h => f4 h.1)).trans ((if_pos ⟨f5, f6⟩).trans (congrArg Except.ok (by rw [f7, f8])))))))))) wf

theorem mnest (h : Hitch) : Statement (.mnest h) := by
  rintro t ⟨⟩ wf
  generalize hw : encode (.mnest h) = wd
  have ⟨hop, f1, f2, f3, f4, f5, f6, f7, top⟩ : (bits wd 26 6).toNat = 10 ∧ ¬(bits wd 18 4 = 0x0) ∧ ¬(bits wd 18 4 = 0x1) ∧ ¬(bits wd 18 4 = 0x2) ∧ ¬(bits wd 18 4 = 0x3) ∧ ¬(bits wd 8 14 = 0x1000) ∧ bits wd 0 22 = 0x140000 ∧ hitchAt wd 22 = h ∧ (bits wd 28 4).toNat = 2 := by
    rw [← hw]; refine ⟨bits_word (by decide) ?_, bits_isNot (p := 18) (k := 4) (x := 5) (by decide) ?_ (by decide) (by decide) (by decide), bits_isNot (p := 18) (k := 4) (x := 5) (by decide) ?_ (by decide) (by decide) (by decide), bits_isNot (p := 18) (k := 4) (x := 5) (by decide) ?_ (by decide) (by decide) (by decide), bits_isNot (p := 18) (k := 4) (x := 5) (by decide) ?_ (by decide) (by decide) (by decide), bits_isNot (p := 8) (k := 14) (x := 5120) (by decide) ?_ (by decide) (by decide) (by decide), bits_is (by decide) ?_, hitch_is (by decide) ?_ ?_, bits_word (by decide) ?_⟩
    all_goals repeat' first | exact rfl | apply put_get | apply put_low (by decide) | apply put_high (by decide)
  exact decode_x (decodeStep_own (by omega) (decodeX_hitch (by omega) ((decodeXHitch_op0A hop).trans ((if_neg (fun h => f1 h.1)).trans ((if_neg (fun h => f2 h.1)).trans ((if_neg (fun h => f3 h.1)).trans ((if_neg (fun h => f4 h.1)).trans ((if_neg (fun h => f5 h.1)).trans ((if_pos f6).trans (congrArg Except.ok (by rw [f7]))))))))))) wf

theorem mtest (h : Hitch) : Statement (.mtest h) := by
  rintro t ⟨⟩ wf
  generalize hw : encode (.mtest h) = wd
  have ⟨hop, f1, f2, f3, f4, f5, f6, f7, f8, top⟩ : (bits wd 26 6).toNat = 10 ∧ ¬(bits wd 18 4 = 0x0) ∧ ¬(bits wd 18 4 = 0x1) ∧ ¬(bits wd 18 4 = 0x2) ∧ ¬(bits wd 18 4 = 0x3) ∧ ¬(bits wd 8 14 = 0x1000) ∧ ¬(bits wd 0 22 = 0x140000) ∧ bits wd 0 22 = 0x180000 ∧ hitchAt wd 22 = h ∧ (bits wd 28 4).toNat = 2 := by
    rw [← hw]; refine ⟨bits_word (by decide) ?_, bits_isNot (p := 18) (k := 4) (x := 6) (by decide) ?_ (by decide) (by decide) (by decide), bits_isNot (p := 18) (k := 4) (x := 6) (by decide) ?_ (by decide) (by decide) (by decide), bits_isNot (p := 18) (k := 4) (x := 6) (by decide) ?_ (by decide) (by decide) (by decide), bits_isNot (p := 18) (k := 4) (x := 6) (by decide) ?_ (by decide) (by decide) (by decide), bits_isNot (p := 8) (k := 14) (x := 6144) (by decide) ?_ (by decide) (by decide) (by decide), bits_isNot (p := 0) (k := 22) (x := 1572864) (by decide) ?_ (by decide) (by decide) (by decide), bits_is (by decide) ?_, hitch_is (by decide) ?_ ?_, bits_word (by decide) ?_⟩
    all_goals repeat' first | exact rfl | apply put_get | apply put_low (by decide) | apply put_high (by decide)
  exact decode_x (decodeStep_own (by omega) (decodeX_hitch (by omega) ((decodeXHitch_op0A hop).trans ((if_neg (fun h => f1 h.1)).trans ((if_neg (fun h => f2 h.1)).trans ((if_neg (fun h => f3 h.1)).trans ((if_neg (fun h => f4 h.1)).trans ((if_neg (fun h => f5 h.1)).trans ((if_neg f6).trans ((if_pos f7).trans (congrArg Except.ok (by rw [f8])))))))))))) wf

theorem mtrsmLo (h : Hitch) (s : BitVec 7) (hd : BitVec 10) : Statement (.mtrsmLo h s hd) := by
  rintro t ⟨⟩ wf
  generalize hw : encode (.mtrsmLo h s hd) = wd
  have ⟨hop, f1, f2, f3, f4, f5, top⟩ : (bits wd 26 6).toNat = 11 ∧ bits wd 18 4 = 0x0 ∧ bits wd 0 1 = 0x0 ∧ hitchAt wd 22 = h ∧ bits wd 11 7 = s ∧ bits wd 1 10 = hd ∧ (bits wd 28 4).toNat = 2 := by
    rw [← hw]; refine ⟨bits_word (by decide) ?_, bits_is (by decide) ?_, bits_is (by decide) ?_, hitch_is (by decide) ?_ ?_, bits_is (by decide) ?_, bits_is (by decide) ?_, bits_word (by decide) ?_⟩
    all_goals repeat' first | exact rfl | apply put_get | apply put_low (by decide) | apply put_high (by decide)
  exact decode_x (decodeStep_own (by omega) (decodeX_hitch (by omega) ((decodeXHitch_op0B hop).trans ((if_pos ⟨f1, f2⟩).trans (congrArg Except.ok (by rw [f3, f4, f5])))))) wf

theorem mtrsmUp (h : Hitch) (s : BitVec 7) (hd : BitVec 10) : Statement (.mtrsmUp h s hd) := by
  rintro t ⟨⟩ wf
  generalize hw : encode (.mtrsmUp h s hd) = wd
  have ⟨hop, f1, f2, f3, f4, f5, f6, top⟩ : (bits wd 26 6).toNat = 11 ∧ bits wd 18 4 = 0x0 ∧ ¬(bits wd 0 1 = 0x0) ∧ bits wd 0 1 = 0x1 ∧ hitchAt wd 22 = h ∧ bits wd 11 7 = s ∧ bits wd 1 10 = hd ∧ (bits wd 28 4).toNat = 2 := by
    rw [← hw]; refine ⟨bits_word (by decide) ?_, bits_is (by decide) ?_, bits_isNot (p := 0) (k := 1) (x := 1) (by decide) ?_ (by decide) (by decide) (by decide), bits_is (by decide) ?_, hitch_is (by decide) ?_ ?_, bits_is (by decide) ?_, bits_is (by decide) ?_, bits_word (by decide) ?_⟩
    all_goals repeat' first | exact rfl | apply put_get | apply put_low (by decide) | apply put_high (by decide)
  exact decode_x (decodeStep_own (by omega) (decodeX_hitch (by omega) ((decodeXHitch_op0B hop).trans ((if_neg (fun h => f2 h.2)).trans ((if_pos ⟨f1, f3⟩).trans (congrArg Except.ok (by rw [f4, f5, f6]))))))) wf

theorem mlu (h : Hitch) (s : BitVec 7) : Statement (.mlu h s) := by
  rintro t ⟨⟩ wf
  generalize hw : encode (.mlu h s) = wd
  have ⟨hop, f1, f2, f3, f4, f5, top⟩ : (bits wd 26 6).toNat = 11 ∧ ¬(bits wd 18 4 = 0x0) ∧ bits wd 18 4 = 0x1 ∧ bits wd 0 11 = 0x0 ∧ hitchAt wd 22 = h ∧ bits wd 11 7 = s ∧ (bits wd 28 4).toNat = 2 := by
    rw [← hw]; refine ⟨bits_word (by decide) ?_, bits_isNot (p := 18) (k := 4) (x := 1) (by decide) ?_ (by decide) (by decide) (by decide), bits_is (by decide) ?_, bits_is (by decide) ?_, hitch_is (by decide) ?_ ?_, bits_is (by decide) ?_, bits_word (by decide) ?_⟩
    all_goals repeat' first | exact rfl | apply put_get | apply put_low (by decide) | apply put_high (by decide)
  exact decode_x (decodeStep_own (by omega) (decodeX_hitch (by omega) ((decodeXHitch_op0B hop).trans ((if_neg (fun h => f1 h.1)).trans ((if_neg (fun h => f1 h.1)).trans ((if_pos ⟨f2, f3⟩).trans (congrArg Except.ok (by rw [f4, f5])))))))) wf

theorem mchol (h : Hitch) (s : BitVec 7) : Statement (.mchol h s) := by
  rintro t ⟨⟩ wf
  generalize hw : encode (.mchol h s) = wd
  have ⟨hop, f1, f2, f3, f4, f5, f6, top⟩ : (bits wd 26 6).toNat = 11 ∧ ¬(bits wd 18 4 = 0x0) ∧ ¬(bits wd 18 4 = 0x1) ∧ bits wd 18 4 = 0x2 ∧ bits wd 0 11 = 0x0 ∧ hitchAt wd 22 = h ∧ bits wd 11 7 = s ∧ (bits wd 28 4).toNat = 2 := by
    rw [← hw]; refine ⟨bits_word (by decide) ?_, bits_isNot (p := 18) (k := 4) (x := 2) (by decide) ?_ (by decide) (by decide) (by decide), bits_isNot (p := 18) (k := 4) (x := 2) (by decide) ?_ (by decide) (by decide) (by decide), bits_is (by decide) ?_, bits_is (by decide) ?_, hitch_is (by decide) ?_ ?_, bits_is (by decide) ?_, bits_word (by decide) ?_⟩
    all_goals repeat' first | exact rfl | apply put_get | apply put_low (by decide) | apply put_high (by decide)
  exact decode_x (decodeStep_own (by omega) (decodeX_hitch (by omega) ((decodeXHitch_op0B hop).trans ((if_neg (fun h => f1 h.1)).trans ((if_neg (fun h => f1 h.1)).trans ((if_neg (fun h => f2 h.1)).trans ((if_pos ⟨f3, f4⟩).trans (congrArg Except.ok (by rw [f5, f6]))))))))) wf

theorem mgiv (h : Hitch) (s : BitVec 7) : Statement (.mgiv h s) := by
  rintro t ⟨⟩ wf
  generalize hw : encode (.mgiv h s) = wd
  have ⟨hop, f1, f2, f3, f4, f5, f6, f7, top⟩ : (bits wd 26 6).toNat = 11 ∧ ¬(bits wd 18 4 = 0x0) ∧ ¬(bits wd 18 4 = 0x1) ∧ ¬(bits wd 18 4 = 0x2) ∧ bits wd 18 4 = 0x3 ∧ bits wd 0 11 = 0x0 ∧ hitchAt wd 22 = h ∧ bits wd 11 7 = s ∧ (bits wd 28 4).toNat = 2 := by
    rw [← hw]; refine ⟨bits_word (by decide) ?_, bits_isNot (p := 18) (k := 4) (x := 3) (by decide) ?_ (by decide) (by decide) (by decide), bits_isNot (p := 18) (k := 4) (x := 3) (by decide) ?_ (by decide) (by decide) (by decide), bits_isNot (p := 18) (k := 4) (x := 3) (by decide) ?_ (by decide) (by decide) (by decide), bits_is (by decide) ?_, bits_is (by decide) ?_, hitch_is (by decide) ?_ ?_, bits_is (by decide) ?_, bits_word (by decide) ?_⟩
    all_goals repeat' first | exact rfl | apply put_get | apply put_low (by decide) | apply put_high (by decide)
  exact decode_x (decodeStep_own (by omega) (decodeX_hitch (by omega) ((decodeXHitch_op0B hop).trans ((if_neg (fun h => f1 h.1)).trans ((if_neg (fun h => f1 h.1)).trans ((if_neg (fun h => f2 h.1)).trans ((if_neg (fun h => f3 h.1)).trans ((if_pos ⟨f4, f5⟩).trans (congrArg Except.ok (by rw [f6, f7])))))))))) wf

theorem mpiv (h : Hitch) (hd : BitVec 10) : Statement (.mpiv h hd) := by
  rintro t ⟨⟩ wf
  generalize hw : encode (.mpiv h hd) = wd
  have ⟨hop, f1, f2, f3, f4, f5, f6, f7, f8, top⟩ : (bits wd 26 6).toNat = 11 ∧ ¬(bits wd 18 4 = 0x0) ∧ ¬(bits wd 18 4 = 0x1) ∧ ¬(bits wd 18 4 = 0x2) ∧ ¬(bits wd 18 4 = 0x3) ∧ bits wd 11 11 = 0x200 ∧ bits wd 0 1 = 0x0 ∧ hitchAt wd 22 = h ∧ bits wd 1 10 = hd ∧ (bits wd 28 4).toNat = 2 := by
    rw [← hw]; refine ⟨bits_word (by decide) ?_, bits_isNot (p := 18) (k := 4) (x := 4) (by decide) ?_ (by decide) (by decide) (by decide), bits_isNot (p := 18) (k := 4) (x := 4) (by decide) ?_ (by decide) (by decide) (by decide), bits_isNot (p := 18) (k := 4) (x := 4) (by decide) ?_ (by decide) (by decide) (by decide), bits_isNot (p := 18) (k := 4) (x := 4) (by decide) ?_ (by decide) (by decide) (by decide), bits_is (by decide) ?_, bits_is (by decide) ?_, hitch_is (by decide) ?_ ?_, bits_is (by decide) ?_, bits_word (by decide) ?_⟩
    all_goals repeat' first | exact rfl | apply put_get | apply put_low (by decide) | apply put_high (by decide)
  exact decode_x (decodeStep_own (by omega) (decodeX_hitch (by omega) ((decodeXHitch_op0B hop).trans ((if_neg (fun h => f1 h.1)).trans ((if_neg (fun h => f1 h.1)).trans ((if_neg (fun h => f2 h.1)).trans ((if_neg (fun h => f3 h.1)).trans ((if_neg (fun h => f4 h.1)).trans ((if_pos ⟨f5, f6⟩).trans (congrArg Except.ok (by rw [f7, f8]))))))))))) wf

theorem mfst (h : Hitch) : Statement (.mfst h) := by
  rintro t ⟨⟩ wf
  generalize hw : encode (.mfst h) = wd
  have ⟨hop, f1, f2, f3, f4, f5, f6, f7, top⟩ : (bits wd 26 6).toNat = 11 ∧ ¬(bits wd 18 4 = 0x0) ∧ ¬(bits wd 18 4 = 0x1) ∧ ¬(bits wd 18 4 = 0x2) ∧ ¬(bits wd 18 4 = 0x3) ∧ ¬(bits wd 11 11 = 0x200) ∧ bits wd 0 22 = 0x140000 ∧ hitchAt wd 22 = h ∧ (bits wd 28 4).toNat = 2 := by
    rw [← hw]; refine ⟨bits_word (by decide) ?_, bits_isNot (p := 18) (k := 4) (x := 5) (by decide) ?_ (by decide) (by decide) (by decide), bits_isNot (p := 18) (k := 4) (x := 5) (by decide) ?_ (by decide) (by decide) (by decide), bits_isNot (p := 18) (k := 4) (x := 5) (by decide) ?_ (by decide) (by decide) (by decide), bits_isNot (p := 18) (k := 4) (x := 5) (by decide) ?_ (by decide) (by decide) (by decide), bits_isNot (p := 11) (k := 11) (x := 640) (by decide) ?_ (by decide) (by decide) (by decide), bits_is (by decide) ?_, hitch_is (by decide) ?_ ?_, bits_word (by decide) ?_⟩
    all_goals repeat' first | exact rfl | apply put_get | apply put_low (by decide) | apply put_high (by decide)
  exact decode_x (decodeStep_own (by omega) (decodeX_hitch (by omega) ((decodeXHitch_op0B hop).trans ((if_neg (fun h => f1 h.1)).trans ((if_neg (fun h => f1 h.1)).trans ((if_neg (fun h => f2 h.1)).trans ((if_neg (fun h => f3 h.1)).trans ((if_neg (fun h => f4 h.1)).trans ((if_neg (fun h => f5 h.1)).trans ((if_pos f6).trans (congrArg Except.ok (by rw [f7])))))))))))) wf

theorem tld (h : Hitch) (hd : BitVec 10) (a : BitVec 4) (b : BitVec 4) : Statement (.tld h hd a b) := by
  rintro t ⟨⟩ wf
  generalize hw : encode (.tld h hd a b) = wd
  have ⟨hop, f1, f2, f3, f4, f5⟩ : (bits wd 26 6).toNat = 16 ∧ bits wd 0 4 = 0x0 ∧ hitchAt wd 22 = h ∧ bits wd 12 10 = hd ∧ bits wd 8 4 = a ∧ bits wd 4 4 = b := by
    rw [← hw]; refine ⟨bits_word (by decide) ?_, bits_is (by decide) ?_, hitch_is (by decide) ?_ ?_, bits_is (by decide) ?_, bits_is (by decide) ?_, bits_is (by decide) ?_⟩
    all_goals repeat' first | exact rfl | apply put_get | apply put_low (by decide) | apply put_high (by decide)
  exact decode_l (decodeStep_own (by omega) ((decodeL_op10 hop).trans ((if_pos f1).trans (congrArg Except.ok (by rw [f2, f3, f4, f5]))))) wf

theorem tldT (h : Hitch) (hd : BitVec 10) (a : BitVec 4) (b : BitVec 4) : Statement (.tldT h hd a b) := by
  rintro t ⟨⟩ wf
  generalize hw : encode (.tldT h hd a b) = wd
  have ⟨hop, f1, f2, f3, f4, f5, f6⟩ : (bits wd 26 6).toNat = 16 ∧ ¬(bits wd 0 4 = 0x0) ∧ bits wd 0 4 = 0x1 ∧ hitchAt wd 22 = h ∧ bits wd 12 10 = hd ∧ bits wd 8 4 = a ∧ bits wd 4 4 = b := by
    rw [← hw]; refine ⟨bits_word (by decide) ?_, bits_isNot (p := 0) (k := 4) (x := 1) (by decide) ?_ (by decide) (by decide) (by decide), bits_is (by decide) ?_, hitch_is (by decide) ?_ ?_, bits_is (by decide) ?_, bits_is (by decide) ?_, bits_is (by decide) ?_⟩
    all_goals repeat' first | exact rfl | apply put_get | apply put_low (by decide) | apply put_high (by decide)
  exact decode_l (decodeStep_own (by omega) ((decodeL_op10 hop).trans ((if_neg f1).trans ((if_pos f2).trans (congrArg Except.ok (by rw [f3, f4, f5, f6])))))) wf

theorem tst (h : Hitch) (hd : BitVec 10) (a : BitVec 4) (b : BitVec 4) : Statement (.tst h hd a b) := by
  rintro t ⟨⟩ wf
  generalize hw : encode (.tst h hd a b) = wd
  have ⟨hop, f1, f2, f3, f4, f5⟩ : (bits wd 26 6).toNat = 16 ∧ bits wd 0 4 = 0x0 ∧ hitchAt wd 22 = h ∧ bits wd 12 10 = hd ∧ bits wd 8 4 = a ∧ bits wd 4 4 = b := by
    rw [← hw]; refine ⟨bits_word (by decide) ?_, bits_is (by decide) ?_, hitch_is (by decide) ?_ ?_, bits_is (by decide) ?_, bits_is (by decide) ?_, bits_is (by decide) ?_⟩
    all_goals repeat' first | exact rfl | apply put_get | apply put_low (by decide) | apply put_high (by decide)
  exact decode_s (decodeStep_own (by omega) (by unfold decodeS; simp only [hop]; exact (if_pos f1).trans (congrArg Except.ok (by rw [f2, f3, f4, f5])))) wf

theorem wopen (h : Hitch) (hd : BitVec 10) (a : BitVec 4) (b : BitVec 4) (r : BitVec 2) : Statement (.wopen h hd a b r) := by
  rintro t ⟨⟩ wf
  generalize hw : encode (.wopen h hd a b r) = wd
  have ⟨hop, f1, f2, f3, f4, f5, f6⟩ : (bits wd 26 6).toNat = 17 ∧ bits wd 2 2 = 0x0 ∧ hitchAt wd 22 = h ∧ bits wd 12 10 = hd ∧ bits wd 8 4 = a ∧ bits wd 4 4 = b ∧ bits wd 0 2 = r := by
    rw [← hw]; refine ⟨bits_word (by decide) ?_, bits_is (by decide) ?_, hitch_is (by decide) ?_ ?_, bits_is (by decide) ?_, bits_is (by decide) ?_, bits_is (by decide) ?_, bits_is (by decide) ?_⟩
    all_goals repeat' first | exact rfl | apply put_get | apply put_low (by decide) | apply put_high (by decide)
  exact decode_l (decodeStep_own (by omega) ((decodeL_op11 hop).trans ((if_pos f1).trans (congrArg Except.ok (by rw [f2, f3, f4, f5, f6]))))) wf

theorem wopenW (h : Hitch) (hd : BitVec 10) (a : BitVec 4) (b : BitVec 4) (r : BitVec 2) : Statement (.wopenW h hd a b r) := by
  rintro t ⟨⟩ wf
  generalize hw : encode (.wopenW h hd a b r) = wd
  have ⟨hop, f1, f2, f3, f4, f5, f6, f7⟩ : (bits wd 26 6).toNat = 17 ∧ ¬(bits wd 2 2 = 0x0) ∧ bits wd 2 2 = 0x1 ∧ hitchAt wd 22 = h ∧ bits wd 12 10 = hd ∧ bits wd 8 4 = a ∧ bits wd 4 4 = b ∧ bits wd 0 2 = r := by
    rw [← hw]; refine ⟨bits_word (by decide) ?_, bits_isNot (p := 2) (k := 2) (x := 1) (by decide) ?_ (by decide) (by decide) (by decide), bits_is (by decide) ?_, hitch_is (by decide) ?_ ?_, bits_is (by decide) ?_, bits_is (by decide) ?_, bits_is (by decide) ?_, bits_is (by decide) ?_⟩
    all_goals repeat' first | exact rfl | apply put_get | apply put_low (by decide) | apply put_high (by decide)
  exact decode_l (decodeStep_own (by omega) ((decodeL_op11 hop).trans ((if_neg f1).trans ((if_pos f2).trans (congrArg Except.ok (by rw [f3, f4, f5, f6, f7])))))) wf

theorem tfar (h : Hitch) (hd : BitVec 10) (a : BitVec 4) (b : BitVec 4) : Statement (.tfar h hd a b) := by
  rintro t ⟨⟩ wf
  generalize hw : encode (.tfar h hd a b) = wd
  have ⟨hop, f1, f2, f3, f4, f5⟩ : (bits wd 26 6).toNat = 17 ∧ bits wd 0 4 = 0x0 ∧ hitchAt wd 22 = h ∧ bits wd 12 10 = hd ∧ bits wd 8 4 = a ∧ bits wd 4 4 = b := by
    rw [← hw]; refine ⟨bits_word (by decide) ?_, bits_is (by decide) ?_, hitch_is (by decide) ?_ ?_, bits_is (by decide) ?_, bits_is (by decide) ?_, bits_is (by decide) ?_⟩
    all_goals repeat' first | exact rfl | apply put_get | apply put_low (by decide) | apply put_high (by decide)
  exact decode_s (decodeStep_own (by omega) (by unfold decodeS; simp only [hop]; exact (if_pos f1).trans (congrArg Except.ok (by rw [f2, f3, f4, f5])))) wf

theorem wadv (h : Hitch) (a : BitVec 4) (r : BitVec 2) : Statement (.wadv h a r) := by
  rintro t ⟨⟩ wf
  generalize hw : encode (.wadv h a r) = wd
  have ⟨hop, f1, f2, f3, f4, f5⟩ : (bits wd 26 6).toNat = 18 ∧ bits wd 12 10 = 0x0 ∧ bits wd 2 6 = 0x0 ∧ hitchAt wd 22 = h ∧ bits wd 8 4 = a ∧ bits wd 0 2 = r := by
    rw [← hw]; refine ⟨bits_word (by decide) ?_, bits_is (by decide) ?_, bits_is (by decide) ?_, hitch_is (by decide) ?_ ?_, bits_is (by decide) ?_, bits_is (by decide) ?_⟩
    all_goals repeat' first | exact rfl | apply put_get | apply put_low (by decide) | apply put_high (by decide)
  exact decode_l (decodeStep_own (by omega) (by unfold decodeL; simp only [hop]; exact (if_pos ⟨f1, f2⟩).trans (congrArg Except.ok (by rw [f3, f4, f5])))) wf

theorem supd (h : Hitch) (hd : BitVec 10) (a : BitVec 4) (b : BitVec 4) (u : BitVec 4) : Statement (.supd h hd a b u) := by
  rintro t ⟨⟩ wf
  generalize hw : encode (.supd h hd a b u) = wd
  have ⟨hop, f1, f2, f3, f4, f5⟩ : (bits wd 26 6).toNat = 18 ∧ hitchAt wd 22 = h ∧ bits wd 12 10 = hd ∧ bits wd 8 4 = a ∧ bits wd 4 4 = b ∧ bits wd 0 4 = u := by
    rw [← hw]; refine ⟨bits_word (by decide) ?_, hitch_is (by decide) ?_ ?_, bits_is (by decide) ?_, bits_is (by decide) ?_, bits_is (by decide) ?_, bits_is (by decide) ?_⟩
    all_goals repeat' first | exact rfl | apply put_get | apply put_low (by decide) | apply put_high (by decide)
  exact decode_s (decodeStep_own (by omega) (by unfold decodeS; rw [hop]; exact congrArg Except.ok (by rw [f1, f2, f3, f4, f5]))) wf

theorem wdrop (h : Hitch) (a : BitVec 4) (r : BitVec 2) : Statement (.wdrop h a r) := by
  rintro t ⟨⟩ wf
  generalize hw : encode (.wdrop h a r) = wd
  have ⟨hop, f1, f2, f3, f4, f5⟩ : (bits wd 26 6).toNat = 19 ∧ bits wd 12 10 = 0x0 ∧ bits wd 2 6 = 0x0 ∧ hitchAt wd 22 = h ∧ bits wd 8 4 = a ∧ bits wd 0 2 = r := by
    rw [← hw]; refine ⟨bits_word (by decide) ?_, bits_is (by decide) ?_, bits_is (by decide) ?_, hitch_is (by decide) ?_ ?_, bits_is (by decide) ?_, bits_is (by decide) ?_⟩
    all_goals repeat' first | exact rfl | apply put_get | apply put_low (by decide) | apply put_high (by decide)
  exact decode_l (decodeStep_own (by omega) (by unfold decodeL; simp only [hop]; exact (if_pos ⟨f1, f2⟩).trans (congrArg Except.ok (by rw [f3, f4, f5])))) wf

theorem tsum (h : Hitch) (hd : BitVec 10) (a : BitVec 4) (b : BitVec 4) (bfl : BitVec 1) (com : BitVec 1) : Statement (.tsum h hd a b bfl com) := by
  rintro t ⟨⟩ wf
  generalize hw : encode (.tsum h hd a b bfl com) = wd
  have ⟨hop, f1, f2, f3, f4, f5, f6, f7⟩ : (bits wd 26 6).toNat = 19 ∧ bits wd 2 2 = 0x0 ∧ hitchAt wd 22 = h ∧ bits wd 12 10 = hd ∧ bits wd 8 4 = a ∧ bits wd 4 4 = b ∧ bits wd 1 1 = bfl ∧ bits wd 0 1 = com := by
    rw [← hw]; refine ⟨bits_word (by decide) ?_, bits_is (by decide) ?_, hitch_is (by decide) ?_ ?_, bits_is (by decide) ?_, bits_is (by decide) ?_, bits_is (by decide) ?_, bits_is (by decide) ?_, bits_is (by decide) ?_⟩
    all_goals repeat' first | exact rfl | apply put_get | apply put_low (by decide) | apply put_high (by decide)
  exact decode_s (decodeStep_own (by omega) (by unfold decodeS; simp only [hop]; exact (if_pos f1).trans (congrArg Except.ok (by rw [f2, f3, f4, f5, f6, f7])))) wf

theorem tfetch (h : Hitch) (hd : BitVec 10) (a : BitVec 4) (b : BitVec 4) : Statement (.tfetch h hd a b) := by
  rintro t ⟨⟩ wf
  generalize hw : encode (.tfetch h hd a b) = wd
  have ⟨hop, f1, f2, f3, f4, f5⟩ : (bits wd 26 6).toNat = 20 ∧ bits wd 0 4 = 0x0 ∧ hitchAt wd 22 = h ∧ bits wd 12 10 = hd ∧ bits wd 8 4 = a ∧ bits wd 4 4 = b := by
    rw [← hw]; refine ⟨bits_word (by decide) ?_, bits_is (by decide) ?_, hitch_is (by decide) ?_ ?_, bits_is (by decide) ?_, bits_is (by decide) ?_, bits_is (by decide) ?_⟩
    all_goals repeat' first | exact rfl | apply put_get | apply put_low (by decide) | apply put_high (by decide)
  exact decode_l (decodeStep_own (by omega) (by unfold decodeL; simp only [hop]; exact (if_pos f1).trans (congrArg Except.ok (by rw [f2, f3, f4, f5])))) wf

theorem tcopy (h : Hitch) (hd : BitVec 10) (a : BitVec 4) (b : BitVec 4) : Statement (.tcopy h hd a b) := by
  rintro t ⟨⟩ wf
  generalize hw : encode (.tcopy h hd a b) = wd
  have ⟨hop, f1, f2, f3, f4, f5⟩ : (bits wd 26 6).toNat = 20 ∧ bits wd 0 4 = 0x0 ∧ hitchAt wd 22 = h ∧ bits wd 12 10 = hd ∧ bits wd 8 4 = a ∧ bits wd 4 4 = b := by
    rw [← hw]; refine ⟨bits_word (by decide) ?_, bits_is (by decide) ?_, hitch_is (by decide) ?_ ?_, bits_is (by decide) ?_, bits_is (by decide) ?_, bits_is (by decide) ?_⟩
    all_goals repeat' first | exact rfl | apply put_get | apply put_low (by decide) | apply put_high (by decide)
  exact decode_s (decodeStep_own (by omega) (by unfold decodeS; simp only [hop]; exact (if_pos f1).trans (congrArg Except.ok (by rw [f2, f3, f4, f5])))) wf

theorem tpref (h : Hitch) (hd : BitVec 10) (b : BitVec 4) : Statement (.tpref h hd b) := by
  rintro t ⟨⟩ wf
  generalize hw : encode (.tpref h hd b) = wd
  have ⟨hop, f1, f2, f3, f4, f5⟩ : (bits wd 26 6).toNat = 21 ∧ bits wd 8 4 = 0x0 ∧ bits wd 0 4 = 0x0 ∧ hitchAt wd 22 = h ∧ bits wd 12 10 = hd ∧ bits wd 4 4 = b := by
    rw [← hw]; refine ⟨bits_word (by decide) ?_, bits_is (by decide) ?_, bits_is (by decide) ?_, hitch_is (by decide) ?_ ?_, bits_is (by decide) ?_, bits_is (by decide) ?_⟩
    all_goals repeat' first | exact rfl | apply put_get | apply put_low (by decide) | apply put_high (by decide)
  exact decode_l (decodeStep_own (by omega) (by unfold decodeL; simp only [hop]; exact (if_pos ⟨f1, f2⟩).trans (congrArg Except.ok (by rw [f3, f4, f5])))) wf

theorem reservedOpcode (t : Strand) (w : Word32) : Statement (.reservedOpcode t w) := fun _ h => nomatch h

theorem vectorResultArrival : Statement .vectorResultArrival := fun _ h => nomatch h

theorem globalLoadArrival : Statement .globalLoadArrival := fun _ h => nomatch h

theorem cLoadArrival : Statement .cLoadArrival := fun _ h => nomatch h

theorem hitchPostDelivery : Statement .hitchPostDelivery := fun _ h => nomatch h

theorem transferComplete (u : XUnit) : Statement (.transferComplete u) := fun _ h => nomatch h

theorem tfarLanding : Statement .tfarLanding := fun _ h => nomatch h

theorem remoteReadRequest : Statement .remoteReadRequest := fun _ h => nomatch h

theorem matrixEntryStart : Statement .matrixEntryStart := fun _ h => nomatch h

theorem matrixOccupancyEnd : Statement .matrixOccupancyEnd := fun _ h => nomatch h

theorem matrixResultVisible : Statement .matrixResultVisible := fun _ h => nomatch h

theorem nestPoint : Statement .nestPoint := fun _ h => nomatch h

theorem operandFetchArrival : Statement .operandFetchArrival := fun _ h => nomatch h

theorem factorColumnBoundary : Statement .factorColumnBoundary := fun _ h => nomatch h

theorem factorisationBreakdown : Statement .factorisationBreakdown := fun _ h => nomatch h

theorem selfTestInject : Statement .selfTestInject := fun _ h => nomatch h

theorem selfTestFailure : Statement .selfTestFailure := fun _ h => nomatch h

theorem queueDeadlock : Statement .queueDeadlock := fun _ h => nomatch h

theorem frameTick : Statement .frameTick := fun _ h => nomatch h

theorem taskRelease (kid : BitVec 16) (vdie : BitVec 8) (vcore : BitVec 8) : Statement (.taskRelease kid vdie vcore) := fun _ h => nomatch h

theorem spliceComplete : Statement .spliceComplete := fun _ h => nomatch h

theorem cleatComplete (kid : BitVec 16) : Statement (.cleatComplete kid) := fun _ h => nomatch h

theorem kwaitRelease : Statement .kwaitRelease := fun _ h => nomatch h

theorem translationWalkComplete : Statement .translationWalkComplete := fun _ h => nomatch h

theorem pgdoneWrite (v : Word64) : Statement (.pgdoneWrite v) := fun _ h => nomatch h

theorem versionPublication : Statement .versionPublication := fun _ h => nomatch h

theorem predictionReady : Statement .predictionReady := fun _ h => nomatch h

theorem verdictArrival : Statement .verdictArrival := fun _ h => nomatch h

theorem orphanForecast (kid : BitVec 16) : Statement (.orphanForecast kid) := fun _ h => nomatch h

theorem trapEntry (cause : BitVec 8) (src : BitVec 4) (tval : Word64) : Statement (.trapEntry cause src tval) := fun _ h => nomatch h

theorem externalInterrupt (source : BitVec 16) : Statement (.externalInterrupt source) := fun _ h => nomatch h

theorem timerCompareMatch : Statement .timerCompareMatch := fun _ h => nomatch h

theorem pendingEntryTaken : Statement .pendingEntryTaken := fun _ h => nomatch h

theorem frequencyTransition : Statement .frequencyTransition := fun _ h => nomatch h

theorem boostBoundary : Statement .boostBoundary := fun _ h => nomatch h

theorem fallStep (kid : BitVec 16) : Statement (.fallStep kid) := fun _ h => nomatch h

theorem timerDisciplineStep (add : Bool) : Statement (.timerDisciplineStep add) := fun _ h => nomatch h

theorem ptpEventMessage (port : BitVec 5) (offset : BitVec 64) (grandmaster : Bool) : Statement (.ptpEventMessage port offset grandmaster) := fun _ h => nomatch h

theorem supervisorReadyTimeout : Statement .supervisorReadyTimeout := fun _ h => nomatch h

theorem commandRingPoll : Statement .commandRingPoll := fun _ h => nomatch h

theorem load (c : Cmd) : Statement (.load c) := fun _ h => nomatch h

theorem cmdLaunch (c : Cmd) : Statement (.cmdLaunch c) := fun _ h => nomatch h

theorem cmdStream (c : Cmd) : Statement (.cmdStream c) := fun _ h => nomatch h

theorem record (c : Cmd) : Statement (.record c) := fun _ h => nomatch h

theorem recend (c : Cmd) : Statement (.recend c) := fun _ h => nomatch h

theorem drop (c : Cmd) : Statement (.drop c) := fun _ h => nomatch h

theorem abort (c : Cmd) : Statement (.abort c) := fun _ h => nomatch h

theorem unload (c : Cmd) : Statement (.unload c) := fun _ h => nomatch h

theorem reservedCommand (c : Cmd) : Statement (.reservedCommand c) := fun _ h => nomatch h

theorem streamResident (kid : BitVec 16) : Statement (.streamResident kid) := fun _ h => nomatch h

theorem kernelIssue (kid : BitVec 16) : Statement (.kernelIssue kid) := fun _ h => nomatch h

theorem apbaseWrite (v : Word64) : Statement (.apbaseWrite v) := fun _ h => nomatch h

theorem faultWordClear (v : Word64) : Statement (.faultWordClear v) := fun _ h => nomatch h

theorem bar0RegisterWrite (off : BitVec 20) (a : HostAccess) : Statement (.bar0RegisterWrite off a) := fun _ h => nomatch h

theorem bar2Access (off : BitVec 36) (a : HostAccess) : Statement (.bar2Access off a) := fun _ h => nomatch h

theorem flitReceive (port : BitVec 5) (f : Flit) : Statement (.flitReceive port f) := fun _ h => nomatch h

theorem nakReceived (port : BitVec 5) (seq : BitVec 12) : Statement (.nakReceived port seq) := fun _ h => nomatch h

theorem portTrainingComplete (port : BitVec 5) (lanes : BitVec 4) (peer : BitVec 16) : Statement (.portTrainingComplete port lanes peer) := fun _ h => nomatch h

theorem linkLoss (port : BitVec 5) : Statement (.linkLoss port) := fun _ h => nomatch h

theorem heldRemoteWriteRelease : Statement .heldRemoteWriteRelease := fun _ h => nomatch h

theorem collectiveContribution (id : BitVec 16) (gen : BitVec 32) (rank : BitVec 6) (to_ : BitVec 6) (chunk : BitVec 6) (data : List Byte) : Statement (.collectiveContribution id gen rank to_ chunk data) := fun _ h => nomatch h

theorem collectiveNotice (id : BitVec 16) (gen : BitVec 32) (rank : BitVec 6) (chunk : BitVec 6) : Statement (.collectiveNotice id gen rank chunk) := fun _ h => nomatch h

theorem collectiveTimeout (id : BitVec 16) : Statement (.collectiveTimeout id) := fun _ h => nomatch h

theorem collectiveDropNotice (id : BitVec 16) (gen : BitVec 32) (from_ : BitVec 6) (dropped : BitVec 6) (bitmap : Word64) : Statement (.collectiveDropNotice id gen from_ dropped bitmap) := fun _ h => nomatch h

theorem powerGood : Statement .powerGood := fun _ h => nomatch h

theorem unitReady (u : ReadyUnit) : Statement (.unitReady u) := fun _ h => nomatch h

theorem stackTrainingComplete (stack : BitVec 5) (replayed : Bool) (ok : Bool) : Statement (.stackTrainingComplete stack replayed ok) := fun _ h => nomatch h

theorem lifeCounterFlush : Statement .lifeCounterFlush := fun _ h => nomatch h

theorem thermalSample (isStack : Bool) (n : BitVec 5) (t : BitVec 16) : Statement (.thermalSample isStack n t) := fun _ h => nomatch h

theorem ratePointSwitch (stack : BitVec 5) (t : BitVec 16) : Statement (.ratePointSwitch stack t) := fun _ h => nomatch h

theorem patrolScrub (pa : BitVec 52) (uncorrectable : Bool) : Statement (.patrolScrub pa uncorrectable) := fun _ h => nomatch h

theorem rowRemap (stack : BitVec 5) (row : BitVec 32) : Statement (.rowRemap stack row) := fun _ h => nomatch h

theorem channelFence (stack : BitVec 5) (ch : BitVec 5) : Statement (.channelFence stack ch) := fun _ h => nomatch h

theorem activationAlert (stack : BitVec 5) (bank : BitVec 16) : Statement (.activationAlert stack bank) := fun _ h => nomatch h

theorem refresh (stack : BitVec 5) (bank : BitVec 16) : Statement (.refresh stack bank) := fun _ h => nomatch h

theorem signedReport : Statement .signedReport := fun _ h => nomatch h

theorem unitFailure (u : FailUnit) : Statement (.unitFailure u) := fun _ h => nomatch h

theorem orderlyStop : Statement .orderlyStop := fun _ h => nomatch h

theorem correctableRetryResolved : Statement .correctableRetryResolved := fun _ h => nomatch h

theorem transferAtomArrival (u : XUnit) (pa : BitVec 52) : Statement (.transferAtomArrival u pa) := fun _ h => nomatch h

theorem cxlMemAccess (off : BitVec 20) (a : HostAccess) : Statement (.cxlMemAccess off a) := fun _ h => nomatch h

end Sys2Proof.Laws.RoundTrip
end

