-- ==== Sys2Proof/Laws/Shared.lean ====
section
/-!
SUPPORT. One lemma for each shared operation that says once what it can do: branches, loops, atomics, control registers, the return
from an exception, words of L, X and S, and the order of turns.
-/
namespace Sys2Proof.Machine

/-! ### Branches and loops of C (06 R114 to R117) -/

/-- A chain alone changed. -/
theorem CStrand.rest_chain (c : CStrand) (k : Chain) : SameRest c { c with chain := k } := by
  refine ⟨rfl, rfl, ?_, rfl, rfl, rfl, rfl⟩
  split <;> rfl

/-- A cycle of C ended touches C alone. -/
theorem State.cTick_core (s : State) (p : Option WaitPlace) : OnlyC s (s.cTick p) := by rw [OnlyC]; rfl

/-- What the end of a cycle of C keeps. -/
theorem State.cTick_c (s : State) : SameRest s.core.c (s.cTick none).core.c ∧ (∀ r, (s.cTick none).core.c.read r = s.core.c.read r) ∧
    (s.cTick none).core.c.chain = s.core.c.chain ∧ (s.cTick none).core.c.stack = s.core.c.stack := by
  refine ⟨⟨rfl, rfl, ?_, rfl, rfl, rfl, rfl⟩, fun r => CStrand.read_congr rfl rfl rfl r, rfl, rfl⟩
  split <;> rfl

/-- A branch: its two faults, or the redirection (06 R114, R115). -/
theorem State.branch_spec (s : State) (t : Int) (link : State → State) :
    s.branch t link = if t % 4 ≠ 0 then s.cTrap 0x03 (BitVec.ofInt 64 t)
      else if ¬(0 ≤ t ∧ t < 0x10000) then s.cTrap 0x05 (BitVec.ofInt 64 t)
      else ((link s).updC fun c => c.redirect t).cTick none := by
  unfold State.branch targetOk
  congr 1
  by_cases h : 0 ≤ t ∧ t < 0x10000
  · rw [if_neg (by simp [h]), if_neg (by simp [h])]
  · rw [if_pos (by simp only [Bool.not_eq_true', decide_eq_false_iff_not, Bool.and_eq_false_iff]; omega), if_pos h]

/-- A loop stack and a chain replaced. -/
theorem CStrand.setStack_spec (c : CStrand) (l : List LoopEntry) (k : Chain) :
    SameRest c { c.setStack l with chain := k } ∧ (∀ r, ({ c.setStack l with chain := k } : CStrand).read r = c.read r) ∧
      ({ c.setStack l with chain := k } : CStrand).stack = l := by
  have a : c.setStack l = { c with loops := (c.setStack l).loops, shLoops := (c.setStack l).shLoops } := by
    unfold CStrand.setStack; split <;> rfl
  refine ⟨?_, fun r => ?_, ?_⟩
  · rw [a]
    refine ⟨rfl, rfl, ?_, rfl, rfl, rfl, rfl⟩
    split <;> rfl
  · rw [a]; exact CStrand.read_congr rfl rfl rfl r
  · unfold CStrand.setStack CStrand.stack
    cases h : c.handler <;> simp

open Classical in
/-- A loop word: its faults, the body skipped, or the entry pushed (06 R117). -/
theorem State.loopIssue_spec (s : State) (count : Nat) (o : BitVec 15) :
    let pc := s.core.c.chain.pc
    let last := (pc.toNat + 4 * o.toInt).toNat
    let st := s.core.c.stack
    s.loopIssue count o = if 0x10000 ≤ last then s.cTrap 0x05 (BitVec.ofNat 64 last)
      else if (∃ l ∈ st, l.last = pc.toNat) ∨ 4 ≤ st.length ∨ (∃ l, st.head? = some l ∧ l.last < last) then s.cTrap 0x13 0
      else if count = 0 then
        (s.updC fun c => { c.setStack (afterWord last st).2 with chain := ⟨w64 (afterWord last st).1, 0, 0, 0⟩ }).cTick none
      else (s.updC fun c => { c.setStack (⟨pc.toNat + 4, last, count⟩ :: st) with chain := ⟨pc + 4, 0, 0, 0⟩ }).cTick none := by
  intro pc last st
  unfold State.loopIssue
  dsimp only
  rw [show (target15 s.core.c.chain.pc o).toNat = last from rfl]
  split
  · rfl
  by_cases h1 : ∃ l ∈ st, l.last = pc.toNat
  · rw [if_pos (Or.inl h1 : _ ∨ _), if_pos (by simpa [List.any_eq_true] using h1)]
  rw [if_neg (by simpa [List.any_eq_true] using h1)]
  by_cases h2 : 4 ≤ st.length
  · rw [if_pos h2, if_pos (Or.inr (.inl h2) : _ ∨ _)]
  rw [if_neg h2]
  by_cases h3 : ∃ l, st.head? = some l ∧ l.last < last
  · rw [if_pos (Or.inr (.inr h3) : _ ∨ _), if_pos (by simpa [Option.any_eq_true] using h3)]
  · rw [if_neg (not_or.mpr ⟨h1, not_or.mpr ⟨h2, h3⟩⟩), if_neg (by simpa [Option.any_eq_true] using h3)]
    rfl

/-- A word of C that changed nothing of C before it completed. -/
theorem State.cDone_from {s s1 : State} (h : s1.core.c = s.core.c) : CNext s.core.c s1.cDone.core.c := by
  have := s1.cDone_spec.2
  rwa [h] at this

/-- Two results of one word of C. -/
theorem State.setS_result (s : State) (v e : BitVec 5) (w z : Word64) :
    OnlyC s ((s.setS v w 1).result e z 1) ∧ (e ≠ 0 → ((s.setS v w 1).result e z 1).core.c.read e = z) ∧
    (v ≠ 0 → v ≠ e → ((s.setS v w 1).result e z 1).core.c.read v = w) ∧
    (∀ r, r ≠ e → r ≠ v → ((s.setS v w 1).result e z 1).core.c.read r = s.core.c.read r) := by
  obtain ⟨a, b, c, d, -⟩ := State.result_spec (s.setS v w 1) e z 1
  have rd : ∀ r, (s.setS v w 1).core.c.read r = ((s.core.c.remember v).write v w).read r := by
    intro r
    simp only [State.setS, State.updC_core_c]
    rw [CStrand.newResult_only]
    exact CStrand.read_congr rfl rfl rfl r
  refine ⟨?_, c, fun h1 h2 => ?_, fun r h1 h2 => ?_⟩
  · rw [OnlyC] at *; rw [a]; rfl
  · rw [d v h2, rd, CStrand.read_write _ _ _ h1]
  · rw [d r h1, rd, CStrand.read_write_ne _ _ h2, CStrand.remember_read]

/-! ### Atomics of C (06 R112, R113) -/

/-- An atomic past its checks, with what it comes after performed: buffered, or performed after the early drain. -/
theorem cAtomic_start {i : Instr} {srcs : List (BitVec 5)} {d a : BitVec 5} {use : BitVec 2} {eff : Nat → Nat → State → EffKind} {s : State}
    {pa : Nat} (f : s.cFree i srcs = true) (h : s.reaches (s.core.c.read a).toNat pa 8 true)
    (g : (s.core.c.read a).toNat < 0x8000000000000 ∨ 0xC000000000000 ≤ (s.core.c.read a).toNat) (w : windowOf pa = none)
    (o : (if use = 2 then s.fenceDone else s.cOrdered) = true) :
    cAtomic i srcs d a use eff s = .next (
      if d = 0 ∧ s.core.task.isSome ∧ s.pinnedTask = false then
        match s.put 0 (eff (s.core.c.read a).toNat pa s) with
        | .done s' => s'.cDone
        | .stall => s.cWait .verdict
      else if d ≠ 0 ∧ s.forecasting.isSome then s.overflow
      else match s.poisonIn (s.core.c.read a).toNat pa 8 with
        | some p => s.cTrap 0x0C (w64 p)
        | none =>
          match s.pin.poisonIn (s.core.c.read a).toNat pa 8 with
          | some p => s.pin.cTrap 0x0C (w64 p)
          | none =>
            match s.pin.put 0 (eff (s.core.c.read a).toNat pa s) with
            | .done s2 => if d = 0 then s2.cDone else s2.resultLate d (s.pin.mem64 pa) none (s.core.c.read a).toNat pa
            | .stall => s.cWait .verdict) := by
  obtain ⟨al, pg, -⟩ := h
  rw [cAtomic, cWord_free _ f]
  dsimp only
  rw [if_neg (by simpa using al), if_neg (by simp only [windowSpace]; omega), State.cPage_ok _ pg, w]
  exact congrArg Host.Outcome.next ((if_neg (by simp)).trans (ite_congr (by simp) (fun _ => rfl) fun _ =>
    ite_congr rfl (fun _ => rfl) fun _ => (if_neg (by rw [o]; decide)).trans rfl))

/-- An effect of a pinned or absent task is performed. -/
theorem State.put_pinned {s : State} (e : EffKind) (h : ∀ t, s.core.task = some t → t.pinned = true) :
    ∃ s1 : State, s.put 0 e = .done (s1.perform e) ∧ (s1 = s ∨ ∃ f, s1 = s.updTask f) := by
  unfold State.put
  cases k : s.core.task with
  | none => exact ⟨s, rfl, .inl rfl⟩
  | some t =>
    dsimp only
    rw [if_pos (h t k)]
    exact ⟨_, rfl, .inr ⟨_, rfl⟩⟩

/-- Pinning pins. -/
theorem State.pin_pinned (s : State) : ∀ t, s.pin.core.task = some t → t.pinned = true := by
  intro t h
  simp only [State.pin, State.updTask, Option.map_eq_some_iff] at h
  obtain ⟨u, -, rfl⟩ := h
  rfl

/-- Pinning a pinned task with an empty buffer changes nothing that an access reads. -/
theorem State.pin_nothing {s : State} (h : ∀ t, s.core.task = some t → t.pinned = true ∧ t.buf = []) :
    s.pin.mem = s.mem ∧ s.pin.core.c = s.core.c ∧ s.pin.deadByte = s.deadByte := by
  unfold State.pin State.splice
  cases k : s.core.task with
  | none => exact ⟨rfl, rfl, rfl⟩
  | some t =>
    dsimp only
    rw [(h t k).2]
    exact ⟨rfl, rfl, rfl⟩

/-! ### Control registers (06 R131, R132) -/

/-- An access that its context may make. -/
theorem State.csrAccess_ok {s : State} {i : Instr} {csr : BitVec 12} {w : Bool} {k : Word64 → State → State} {v : Word64}
    (h : s.csrRead csr.toNat = some v) (f : 0x100 ≤ csr.toNat ∧ csr.toNat ≤ 0x105 → s.core.c.handler = true ∨ s.core.sup = true)
    (g : w = true → (csr.toNat = 0x050 ∨ csr.toNat = 0x0A0) → s.core.sup = true) : s.csrAccess i csr w k = k v s := by
  unfold State.csrAccess
  rw [h]
  dsimp only
  rw [if_neg]
  simp only [isFrameCsr, Bool.or_eq_true, Bool.and_eq_true, decide_eq_true_eq, Bool.not_eq_true', beq_iff_eq, not_or]
  constructor
  · rintro ⟨⟨h1, h2⟩, h3⟩
    rcases f h1 with f | f <;> simp_all
  · rintro ⟨⟨h1, h2⟩, h3⟩
    rw [g h1 h2] at h3; cases h3

/-! ### Return from an exception (20 R340) -/

/-- What dropping or repeating the faulting entry keeps. -/
theorem Core.dropEntry_frame (c : Core) : c.dropEntry.c = c.c ∧ c.dropEntry.frame = c.frame ∧ c.dropEntry.l = c.l ∧
    c.dropEntry.s = c.s ∧ c.dropEntry.x.pc = c.x.pc ∧ c.dropEntry.x.g = c.x.g := by
  unfold Core.dropEntry
  have mat : ∀ e : Core, (if c.frame.src = 4 then { c with m := c.m.retry c.frame.drop } else c) = e →
      e.c = c.c ∧ e.frame = c.frame ∧ e.l = c.l ∧ e.s = c.s ∧ e.x = c.x := by
    rintro e rfl; split <;> exact ⟨rfl, rfl, rfl, rfl, rfl⟩
  generalize he : (if c.frame.src = 4 then { c with m := c.m.retry c.frame.drop } else c) = e
  obtain ⟨h1, h2, h3, h4, h5⟩ := mat e he
  rw [← h1, ← h2, ← h3, ← h4, ← h5]
  cases hg : e.frame.gload <;> cases hd : e.frame.drop <;> cases hq : e.frame.entry <;>
    simp only [hg, hq, hd, Bool.false_eq_true, if_true, if_false, and_self]
  all_goals (rename_i q; obtain ⟨u, n⟩ := q; cases u <;> exact ⟨rfl, rfl, rfl, rfl, rfl, rfl⟩)

/-- What moving the moments of a core keeps. -/
theorem Core.shift_frame (c : Core) (n : Nat) (t : Bool) : ∃ k, (c.shift n t).c = { c.c with next := k } ∧ (c.shift n t).l.pc = c.l.pc ∧ (c.shift n t).x.pc = c.x.pc ∧
   (c.shift n t).s.pc = c.s.pc ∧ (c.shift n t).l.g = c.l.g ∧ (c.shift n t).x.g = c.x.g ∧ (c.shift n t).s.g = c.s.g := by
  unfold Core.shift
  dsimp only
  split <;> exact ⟨_, rfl, rfl, rfl, rfl, rfl, rfl, rfl⟩

/-! ### L, X and S (02 R37; 07; 08) -/

/-- Tokens are taken from the hitch queues named, and the strand comes after the words they come after; nothing else changes (11 R267). -/
theorem State.takeTokens_frame (t : StepStrand) (wants : List (BitVec 2)) (e : State) :
    ∃ hq a, e.takeTokens t wants = ({ e with core := { e.core with hq := hq } } : State).updStep t (fun p => { p with after := a }) ∧
    ∀ n, n ∉ wants.map (inQ t.strand) → hq[n] = e.core.hq[n] := by
  unfold State.takeTokens
  induction wants generalizing e with
  | nil => exact ⟨e.core.hq, (e.core.strand t).after, by cases t <;> rfl, fun _ _ => rfl⟩
  | cons p l ih =>
    rw [List.foldl_cons]
    obtain ⟨hq, a, h1, h2⟩ := ih ((e.updCore fun c => c.updHq (inQ t.strand p) fun q => q.pop e.now (e.now + c.divOf t.strand)).comeAfter t.strand
      (e.core.hq[inQ t.strand p]).headAfter)
    refine ⟨hq, a, h1.trans ?_, fun n hn => ?_⟩
    · cases t <;> rfl
    · simp only [List.map_cons, List.mem_cons, not_or] at hn
      rw [h2 n hn.2]
      have : (inQ t.strand p).val ≠ n.val := fun h => hn.1 (Fin.ext h.symm)
      cases t <;> simp [State.comeAfter, StepStrand.strand, State.updStep, State.updCore, Core.setStrand, Core.strand, Core.updHq] <;>
        (simp only [StepStrand.strand] at this; simp [this])

/-- A vector word past its scoreboard: its fault, or its issue. -/
theorem vecWord_go {h : Hitch} {i : Instr} {fault : State → Option (BitVec 8 × Word64)} {names : State → List Nat} {lat : State → Nat}
    {k : State → List LatchTarget × Flags} {s : State} (f : s.stepFree .x h i false [] [] = true) 
    (b : s.scoreboarded (names s) = false) : vecWord h i fault names lat k s = .next (match fault s with 
      | some f => s.stepTrap .x f.1 f.2 s.core.x.pc.toNat
      | none => s.issuesVec h i (lat s) (k s)) := by
  rw [vecWord, stepWord_free _ f]
  simp only [b, Bool.false_eq_true, if_false]
  cases hf : fault s <;> rfl

/-- The same where the one fault is an unsupported combination. -/
theorem vecWord_un {h : Hitch} {i : Instr} {bad : Bool} {names : State → List Nat} {lat : State → Nat}
    {k : State → List LatchTarget × Flags} {s : State} {fault : State → Option (BitVec 8 × Word64)} (f : s.stepFree .x h i false [] [] = true) 
    (b : s.scoreboarded (names s) = false) (e : fault s = unsupportedIf bad i): vecWord h i fault names lat k s = .next (if bad = true then
       s.stepTrap .x 0x07 ((encode i).zeroExtend 64) s.core.x.pc.toNat else s.issuesVec h i (lat s) (k s)) := by
  rw [vecWord_go f b, e]
  cases bad <;> rfl

/-- A vector word that meets no fault issues. -/
theorem vecWord_ok {h : Hitch} {i : Instr} {bad : Bool} {names : State → List Nat} {lat : State → Nat}
    {k : State → List LatchTarget × Flags} {s : State} {fault : State → Option (BitVec 8 × Word64)} (f : s.stepFree .x h i false [] [] = true) 
    (b : s.scoreboarded (names s) = false) (e : fault s = unsupportedIf bad i) (hb : bad = false) : vecWord h i fault names lat k s = .next (s.issuesVec h i (lat s) (k s)) := by
  rw [vecWord_un f b e, hb]; rfl

/-- A matrix word: what it waits for, the order of its faults, or its entry (08 R184; 11 R267). -/
theorem matWord_go {h : Hitch} {i : Instr} {op : MOp} {s : State} (hf : s.stepFree .x h i true [] [] = true) :
    matWord h i op s = .next (
      let m := s.core.m
      let fmt : Word64 := if op.pops then s.core.fq.head else 0
      let word : Word64 := (encode i).zeroExtend 64
      let taken := if op.pops then s.popFormat m.next else s
      let pc := s.core.x.pc.toNat
      if 8 ≤ (m.entered m.count).length then
        (if s.heldDrain m.count = true then s.stepTick .x (some .matrixQueue) else s.stepTrap .x 0x13 0 pc)
      else if (op.pops && !s.core.fq.visible m.next) = true then s.stepTrap .x 0x06 0x3000C pc
      else if (op.pops && !s.comboOk (s.ahead m.count) op fmt) = true then s.stepTrap .x 0x07 word pc
      else match s.entryFault (s.ahead m.count) op fmt 0 0 word with
        | some f => if f.1 = 0x08 then (if s.core.c.handler = true then s else taken).stepTrap .x f.1 f.2 pc else s.stepTrap .x f.1 f.2 pc
        | none => s.issues (taken.addEntry ⟨op, fmt, 0, 0, some (s.core.x.seq + 1), s.core.x.pc.zeroExtend 64, word.setWidth 32, m.count, none,
            s.occupancy (s.ahead m.count) op fmt 0 0, false, false, s.beforeFcast, 0, s.core.x.after⟩) .x h i true [] [] .waiting .on) := by
  rw [matWord, stepWord_free _ hf]
  dsimp only
  congr 1
  by_cases h1 : 8 ≤ (s.core.m.entered s.core.m.count).length
  · rw [if_pos h1, if_pos h1]
    by_cases h2 : s.heldDrain s.core.m.count = true
    · rw [if_pos h2, if_pos h2]
    · rw [if_neg h2, if_neg h2]; rfl
  rw [if_neg h1, if_neg h1]
  by_cases h2 : (op.pops && !s.core.fq.visible s.core.m.next) = true
  · rw [if_pos h2, if_pos h2]; rfl
  rw [if_neg h2, if_neg h2]
  by_cases h3 : (op.pops && !s.comboOk (s.ahead s.core.m.count) op (if op.pops = true then s.core.fq.head else 0)) = true
  · rw [if_pos h3, if_pos h3]; rfl
  rw [if_neg h3, if_neg h3, show wordTval i = (encode i).zeroExtend 64 from rfl]
  cases s.entryFault (s.ahead s.core.m.count) op _ 0 0 _ with
  | none => rfl
  | some f =>
    dsimp only
    by_cases h4 : f.1 = 0x08
    · simp only [h4, if_true]
    · simp only [h4, if_false]; rfl

/-! ### The order of turns (17 R292) -/

/-- The soonest of a list of cycles. -/
theorem foldl_sooner (l : List (Nat × Strand × Nat)) (a : Option (Nat × Strand × Nat)) :
    (l.foldl sooner a = none ↔ a = none ∧ l = []) ∧
    ∀ r, l.foldl sooner a = some r → (some r = a ∨ r ∈ l) ∧ (∀ b, a = some b → r.2.2 ≤ b.2.2) ∧ ∀ b ∈ l, r.2.2 ≤ b.2.2 := by
  induction l generalizing a with
  | nil => exact ⟨by simp, fun r h => ⟨.inl h.symm, fun b hb => by simp_all, by simp⟩⟩
  | cons x l ih =>
    rw [List.foldl_cons]
    obtain ⟨i1, i2⟩ := ih (sooner a x)
    have sn : sooner a x ≠ none := by unfold sooner; split <;> (try split) <;> simp
    refine ⟨⟨fun h => absurd (i1.mp h).1 sn, fun h => by simp at h⟩, fun r h => ?_⟩
    obtain ⟨j1, j2, j3⟩ := i2 r h
    unfold sooner at j1 j2
    cases a with
    | none =>
      simp only at j1 j2
      refine ⟨.inr ?_, by simp, ?_⟩
      · rcases j1 with j1 | j1
        · simp at j1; simp [j1]
        · simp [j1]
      · intro b hb
        rcases List.mem_cons.mp hb with rfl | hb
        · exact j2 _ rfl
        · exact j3 b hb
    | some a =>
      simp only at j1 j2
      split at j1
      · next hlt =>
        rw [if_pos hlt] at j2
        have := j2 x rfl
        refine ⟨.inr ?_, ?_, ?_⟩
        · rcases j1 with j1 | j1
          · simp at j1; simp [j1]
          · simp [j1]
        · intro b hb; simp at hb; subst hb; omega
        · intro b hb
          rcases List.mem_cons.mp hb with rfl | hb
          · exact this
          · exact j3 b hb
      · next hlt =>
        rw [if_neg hlt] at j2
        have := j2 a rfl
        refine ⟨?_, ?_, ?_⟩
        · rcases j1 with j1 | j1
          · exact .inl j1
          · simp [j1]
        · intro b hb; simp at hb; subst hb; exact this
        · intro b hb
          rcases List.mem_cons.mp hb with rfl | hb
          · omega
          · exact j3 b hb

/-- The running strands of a core. -/
theorem State.mem_running (s : State) (n : Nat) (c : Core) (r : Nat × Strand × Nat) : r ∈ s.running n c ↔ ∃ t, c.runs t = true ∧ r = (n, t, c.nextOf t) := by
  have all : ∀ t, t ∈ s.strandOrder c := by
    intro t; unfold State.strandOrder; repeat' split
    all_goals cases t <;> decide
  unfold State.running
  rw [List.mem_filterMap]
  constructor
  · rintro ⟨t, -, h⟩
    split at h
    · next hr => exact ⟨t, hr, by simpa using h.symm⟩
    · cases h
  · rintro ⟨t, hr, rfl⟩
    exact ⟨t, all t, by simp [hr]⟩

/-! ### The canonical form of memory: each place where the machine writes memory keeps it -/

theorem State.pokeLine_wf {s : State} (h : Memory.wf s.mem = true) (own : Bool) (stamp pa : Nat) (bs : List (Byte × Byte)) :
    Memory.wf (s.pokeLine own stamp pa bs).mem = true := by
  rw [State.pokeLine_mem]
  split
  · exact h
  · exact Memory.wf_writeMasked h pa bs

theorem State.pokeLines_wf {s : State} (h : Memory.wf s.mem = true) (own : Bool) (stamp : Nat) (l : List (Nat × List (Byte × Byte))) :
    Memory.wf (s.pokeLines own stamp l).mem = true := by
  induction l generalizing s with
  | nil => exact h
  | cons p l ih =>
    rw [State.pokeLines_cons]
    exact ih (State.pokeLine_wf h own stamp p.1 p.2)

theorem State.poke_wf {s : State} (h : Memory.wf s.mem = true) (own : Bool) (pa : Nat) (bs : List (Byte × Byte)) (stamp : Nat := 0) :
    Memory.wf (s.poke own pa bs stamp).mem = true := by
  unfold State.poke
  cases windowOf pa with
  | some w => exact Memory.wf_writeMasked h pa bs
  | none => exact State.pokeLines_wf h own _ _

theorem State.pokeBytes_wf {s : State} (h : Memory.wf s.mem = true) (own : Bool) (pa : Nat) (bs : List Byte) (stamp : Nat := 0) :
    Memory.wf (s.pokeBytes own pa bs stamp).mem = true := State.poke_wf h own pa _ stamp

/-- Cells taken out (23 R366). -/
theorem Memory.wf_filter {m : List Host.Cell} (h : Memory.wf m = true) (p : Host.Cell → Bool) : Memory.wf (m.filter p) = true := by
  obtain ⟨a, b⟩ := (Memory.wf_iff m).mp h
  exact (Memory.wf_iff _).mpr ⟨a.filter p, fun c hc => b c (List.mem_filter.mp hc).1⟩

/-- Bytes written one place after another (02 R27). -/
theorem Memory.wf_foldl {α : Type} {m : List Host.Cell} (h : Memory.wf m = true) (l : List α) (a : α → Nat) (b : α → List Byte) :
    Memory.wf (l.foldl (fun m u => Memory.writeBytes m (a u) (b u)) m) = true := by
  induction l generalizing m with
  | nil => exact h
  | cons x l ih => exact ih (Memory.wf_writeBytes h (a x) (b x))

/-- Ranges of a window put back (20 R345). -/
theorem putCells_wf {m : List Host.Cell} (h : Memory.wf m = true) (base : Nat) (ranges : List (Nat × Nat)) (cells : List Host.Cell) :
    Memory.wf (putCells m base ranges cells) = true := by
  unfold putCells
  dsimp only
  generalize hb : m.filter _ = bare
  have hw : Memory.wf bare = true := hb ▸ Memory.wf_filter h _
  clear hb
  induction cells generalizing bare with
  | nil => exact hw
  | cons c l ih => exact ih _ (Memory.wf_write hw (base + c.1) c.2)

end Sys2Proof.Machine
end

