-- ==== Sys2Proof/Tests/Slice0.lean ====
section
/-!
SUPPORT. Tests: well-formedness, the decoding of one word of every form, a witness for the premises of every statement of
Certificates/Slice0/Obligations.lean that has premises, and single steps whose results are the spec's own.
-/
open Sys2Proof Sys2Proof.Machine

set_option Elab.async false

namespace Sys2Proof.Tests

/-! ### Well-formedness -/

/-- One ill-formed term for each check of WellFormed: a reserved value of a word field, or a unit that the module does not have. -/
theorem test_ill_formed :
    ∀ i ∈ ([.extS 1 2 3, .extZ 1 2 0, .amo 1 2 3 3 0, .amo 1 2 3 0 9, .amo 1 2 3 1 0, .loop 1 0, .loopi 1 0x4000, .qpush 1 0, .qpop 1 0, .qtry 1 2 0,
        .tpost 0, .twait 0, .nestW 1 14, .pace 1 3, .fcast 1 0 3 0, .fverd 1 0 3, .stepLoopImm .l ⟨0, 0⟩ 0 1 0, .stepLoopReg .s ⟨0, 0⟩ 0 1 0,
        .brq .x ⟨0, 0⟩ 0 0 1, .brq .x ⟨0, 0⟩ 1 4 1, .stepTpost .l ⟨0, 0⟩ 0, .stepTwait .l ⟨0, 0⟩ 0, .stepQpush .l ⟨0, 0⟩ 0 1,
        .stepQpop .l ⟨0, 0⟩ 0 1, .vcmp ⟨0, 0⟩ 0 0 1 2 0, .pcnt ⟨0, 0⟩ 0 1, .plogic ⟨0, 0⟩ 0 1 2 0, .vred ⟨0, 0⟩ 1 2 6 0, .vcvt ⟨0, 0⟩ 1 2 13 0,
        .vcvt ⟨0, 0⟩ 1 2 0 13, .vshape ⟨0, 0⟩ 13, .vq ⟨0, 0⟩ 1 2 0 3, .vdq ⟨0, 0⟩ 1 2 0 3, .vdqInv ⟨0, 0⟩ 1 2 0 0 3, .supd ⟨0, 0⟩ 0 1 2 4] :
        List Instr), i.wf = false := by decide

theorem test_ill_formed_units :
    ∀ i ∈ ([.ptpEventMessage 18 0 true, .flitReceive 18 ⟨0, true, 0, 0, none⟩, .nakReceived 18 0, .portTrainingComplete 18 8 0, .linkLoss 31,
        .unitReady (.die 24), .unitReady (.cluster 24 0), .unitReady (.port 18), .stackTrainingComplete 24 true true, .thermalSample true 24 0,
        .ratePointSwitch 24 0, .rowRemap 24 0, .channelFence 24 0, .activationAlert 24 0, .refresh 24 0, .unitFailure (.die 24),
        .unitFailure (.stack 24)] : List Instr), i.wf = false := by decide

theorem test_well_formed :
    ∀ i ∈ ([.extS 1 2 1, .amo 1 2 3 1 8, .loop 1 0x3FFF, .nestW 1 13, .vred ⟨0, 0⟩ 1 2 5 0, .vcvt ⟨0, 0⟩ 1 2 12 0, .linkLoss 17, .unitFailure (.stack 23)] :
        List Instr), i.wf = true := by decide

/-- The words of such terms decode to nothing (05 R82): a reserved width, operation, partner, type and opcode. -/
theorem test_reserved_words :
    decode .c 0x00110C16 = .error .reservedValue ∧ decode .c 0x60100000 = .error .reservedValue ∧ decode .c 0x18000000 = .error .reservedOpcode
    ∧ decode .x 0xAC340000 = .error .reservedValue ∧ decode .x 0x30000000 = .error .reservedOpcode ∧ decode .s 0x54000000 = .error .reservedOpcode
    ∧ decode .l 0x00000001 = .error .reservedField := by decide

/-- A step on an ill-formed input of the outside world stops by name. -/
theorem test_no_such_unit :
    (match step { State.reset with agenda := [.linkLoss 18] } with | .fault .noSuchUnit => true | _ => false) = true := by decide +kernel

/-! ### Decoding: words written out from the encoding tables of 05 -/

/-- Words of C, 05 R85 to R88, R101. -/
theorem test_decode_c1 : ∀ e ∈ ([(0x00BF5400, .add 0xB 0x1E 0x15), (0x00BF5401, .sub 0xB 0x1E 0x15), (0x00BF5402, .and 0xB 0x1E 0x15),
    (0x00BF5403, .or 0xB 0x1E 0x15), (0x00BF5404, .xor 0xB 0x1E 0x15), (0x00BF5405, .shl 0xB 0x1E 0x15),
    (0x00BF5406, .shr 0xB 0x1E 0x15), (0x00BF5407, .sra 0xB 0x1E 0x15), (0x00BF5408, .slt 0xB 0x1E 0x15),
    (0x00BF5409, .sltu 0xB 0x1E 0x15), (0x00BF540A, .seq 0xB 0x1E 0x15), (0x00BF540B, .min 0xB 0x1E 0x15),
    (0x00BF540C, .max 0xB 0x1E 0x15), (0x00BF540D, .minu 0xB 0x1E 0x15), (0x00BF540E, .maxu 0xB 0x1E 0x15),
    (0x00BF540F, .mul 0xB 0x1E 0x15)] : List (Word32 × Instr)),
    decode .c e.1 = .ok e.2 := by decide

/-- Words of C, 05 R85 to R88, R101. -/
theorem test_decode_c2 : ∀ e ∈ ([(0x00BF5410, .mulh 0xB 0x1E 0x15), (0x00BF5411, .mulhu 0xB 0x1E 0x15),
    (0x00BF5412, .divu 0xB 0x1E 0x15), (0x00BF5413, .remu 0xB 0x1E 0x15), (0x00BF0014, .clz 0xB 0x1E), (0x00BF0015, .popc 0xB 0x1E),
    (0x00BF0816, .extS 0xB 0x1E 2), (0x00BF1017, .extZ 0xB 0x1E 4), (0x02BF5B6D, .addi 0xB 0x1E 0x5B6D),
    (0x04BF5B6D, .andi 0xB 0x1E 0x5B6D), (0x06BF5B6D, .ori 0xB 0x1E 0x5B6D), (0x08BF5B6D, .xori 0xB 0x1E 0x5B6D),
    (0x0ABF002D, .shli 0xB 0x1E 0x2D), (0x0CBF002D, .shri 0xB 0x1E 0x2D), (0x0EBF002D, .srai 0xB 0x1E 0x2D),
    (0x10BF5B6D, .slti 0xB 0x1E 0x5B6D)] : List (Word32 × Instr)),
    decode .c e.1 = .ok e.2 := by decide

/-- Words of C, 05 R85 to R88, R101. -/
theorem test_decode_c3 : ∀ e ∈ ([(0x12BF5B6D, .sltui 0xB 0x1E 0x5B6D), (0x14BB6DB7, .lui 0xB 0xB6DB7), (0x16BB6DB7, .apc 0xB 0xB6DB7),
    (0x20BF5B6D, .ldB 0xB 0x1E 0x5B6D), (0x22BF5B6D, .ldH 0xB 0x1E 0x5B6D), (0x24BF5B6D, .ldW 0xB 0x1E 0x5B6D),
    (0x26BF5B6D, .ldD 0xB 0x1E 0x5B6D), (0x28BF5B6D, .lduB 0xB 0x1E 0x5B6D), (0x2ABF5B6D, .lduH 0xB 0x1E 0x5B6D),
    (0x2CBF5B6D, .lduW 0xB 0x1E 0x5B6D), (0x2EBF5B6D, .ldLast 0xB 0x1E 0x5B6D), (0x30BF5B6D, .stB 0xB 0x1E 0x5B6D),
    (0x32BF5B6D, .stH 0xB 0x1E 0x5B6D), (0x34BF5B6D, .stW 0xB 0x1E 0x5B6D), (0x36BF5B6D, .stD 0xB 0x1E 0x5B6D),
    (0x38BF5680, .amo 0xB 0x1E 0x15 2 8)] : List (Word32 × Instr)),
    decode .c e.1 = .ok e.2 := by decide

/-- Words of C, 05 R85 to R88, R101. -/
theorem test_decode_c4 : ∀ e ∈ ([(0x3ABF5400, .cas 0xB 0x1E 0x15), (0x40BF5B6D, .beq 0xB 0x1E 0x5B6D),
    (0x42BF5B6D, .bne 0xB 0x1E 0x5B6D), (0x44BF5B6D, .blt 0xB 0x1E 0x5B6D), (0x46BF5B6D, .bge 0xB 0x1E 0x5B6D),
    (0x48BF5B6D, .bltu 0xB 0x1E 0x5B6D), (0x4ABF5B6D, .bgeu 0xB 0x1E 0x5B6D), (0x4CBB6DB7, .jal 0xB 0xB6DB7),
    (0x4EBF5B6D, .jalr 0xB 0x1E 0x5B6D), (0x50B01234, .loop 0xB 0x1234), (0x536D9234, .loopi 0x2DB 0x1234), (0x60B06000, .qpush 0xB 3),
    (0x62B06000, .qpop 0xB 3), (0x64BF4000, .qtry 0xB 0x1E 2), (0x66002000, .tpost 1), (0x68002000, .twait 1)] : List (Word32 × Instr)),
    decode .c e.1 = .ok e.2 := by decide

/-- Words of C, 05 R85 to R88, R101. -/
theorem test_decode_c5 : ∀ e ∈ ([(0x6A058000, .fmt 0xB), (0x6C05800D, .nestW 0xB 0xD), (0x6E000000, .nestGo),
    (0x80BF0000, .launch 0xB 0x1E), (0x82058000, .stream 0xB), (0x84000000, .ktrig), (0x86000000, .kwait), (0x88000000, .texit),
    (0x8ABF0000, .coll 0xB 0x1E), (0x8C000000, .cleatArrive), (0x8E058000, .cleatExpect 0xB), (0x90058000, .cleatWait 0xB),
    (0x92000001, .fence 1), (0xA0B05B68, .csrr 0xB 0xB6D), (0xA205DB68, .csrw 0xB 0xB6D), (0xA4BF5B68, .csrx 0xB 0x1E 0xB6D)] : List (Word32 × Instr)),
    decode .c e.1 = .ok e.2 := by decide

/-- Words of C, 05 R85 to R88, R101. -/
theorem test_decode_c6 : ∀ e ∈ ([(0xA60000B7, .trap 0xB7), (0xA8000000, .rett), (0xAA000000, .ecall), (0xAC058003, .clkdiv 0xB 3),
    (0xAE058002, .pace 0xB 2), (0xB0000000, .idle), (0xB2058001, .tlbinv 0xB 1), (0xB405DB75, .fcast 0xB 0x2DB 2 5),
    (0xB6B05B62, .fverd 0xB 0x2DB 2)] : List (Word32 × Instr)),
    decode .c e.1 = .ok e.2 := by decide

/-- Words of L, 05 R91 to R93. -/
theorem test_decode_l1 : ∀ e ∈ ([(0x03400000, .endStrand .l ⟨3, 1⟩), (0x075AF400, .gadd .l ⟨3, 1⟩ 6 0xB 0xD),
    (0x0B5AEDB7, .gaddi .l ⟨3, 1⟩ 6 0xB 0x2DB7), (0x0F5ADB6D, .gli .l ⟨3, 1⟩ 6 0x2DB6D),
    (0x135DB6DB, .stepLoopImm .l ⟨3, 1⟩ 1 0x16D 0x2DB), (0x13502EDB, .stepLoopReg .l ⟨3, 1⟩ 1 0xB 0x2DB),
    (0x17576DB7, .brq .l ⟨3, 1⟩ 1 3 0x16DB7), (0x1B500000, .stepTpost .l ⟨3, 1⟩ 1), (0x1F500000, .stepTwait .l ⟨3, 1⟩ 1),
    (0x235B0000, .stepQpush .l ⟨3, 1⟩ 1 0xB), (0x275B0000, .stepQpop .l ⟨3, 1⟩ 1 0xB), (0x42EDBBD0, .tld ⟨2, 3⟩ 0x2DB 0xB 0xD),
    (0x42EDBBD1, .tldT ⟨2, 3⟩ 0x2DB 0xB 0xD), (0x46EDBBD1, .wopen ⟨2, 3⟩ 0x2DB 0xB 0xD 1),
    (0x46EDBBD5, .wopenW ⟨2, 3⟩ 0x2DB 0xB 0xD 1), (0x4AC00603, .wadv ⟨2, 3⟩ 6 3)] : List (Word32 × Instr)),
    decode .l e.1 = .ok e.2 := by decide

/-- Words of L, 05 R91 to R93. -/
theorem test_decode_l2 : ∀ e ∈ ([(0x4EC00603, .wdrop ⟨2, 3⟩ 6 3), (0x52EDBBD0, .tfetch ⟨2, 3⟩ 0x2DB 0xB 0xD),
    (0x56EDB0B0, .tpref ⟨2, 3⟩ 0x2DB 0xB)] : List (Word32 × Instr)),
    decode .l e.1 = .ok e.2 := by decide

/-- Words of X, 05 R91, R92, R94 to R97. -/
theorem test_decode_x1 : ∀ e ∈ ([(0x01C00000, .endStrand .x ⟨1, 3⟩), (0x05DAF400, .gadd .x ⟨1, 3⟩ 6 0xB 0xD),
    (0x09DAEDB7, .gaddi .x ⟨1, 3⟩ 6 0xB 0x2DB7), (0x0DDADB6D, .gli .x ⟨1, 3⟩ 6 0x2DB6D),
    (0x11DDB6DB, .stepLoopImm .x ⟨1, 3⟩ 1 0x16D 0x2DB), (0x11D02EDB, .stepLoopReg .x ⟨1, 3⟩ 1 0xB 0x2DB),
    (0x15D76DB7, .brq .x ⟨1, 3⟩ 1 3 0x16DB7), (0x19D00000, .stepTpost .x ⟨1, 3⟩ 1), (0x1DD00000, .stepTwait .x ⟨1, 3⟩ 1),
    (0x21DB0000, .stepQpush .x ⟨1, 3⟩ 1 0xB), (0x25DB0000, .stepQpop .x ⟨1, 3⟩ 1 0xB), (0x42DACED6, .vadd ⟨2, 3⟩ 0x1A 0x33 0x2D 6),
    (0x46DACED6, .vsub ⟨2, 3⟩ 0x1A 0x33 0x2D 6), (0x4ADACED6, .vmul ⟨2, 3⟩ 0x1A 0x33 0x2D 6),
    (0x4EDACED6, .vmin ⟨2, 3⟩ 0x1A 0x33 0x2D 6), (0x52DACED6, .vmax ⟨2, 3⟩ 0x1A 0x33 0x2D 6)] : List (Word32 × Instr)),
    decode .x e.1 = .ok e.2 := by decide

/-- Words of X, 05 R91, R92, R94 to R97. -/
theorem test_decode_x2 : ∀ e ∈ ([(0x56DACED0, .vand ⟨2, 3⟩ 0x1A 0x33 0x2D), (0x56DACED1, .vor ⟨2, 3⟩ 0x1A 0x33 0x2D),
    (0x56DACED2, .vxor ⟨2, 3⟩ 0x1A 0x33 0x2D), (0x56DACED3, .vshl ⟨2, 3⟩ 0x1A 0x33 0x2D), (0x56DACED4, .vshr ⟨2, 3⟩ 0x1A 0x33 0x2D),
    (0x56DACED5, .vsra ⟨2, 3⟩ 0x1A 0x33 0x2D), (0x56DACED6, .vaddsat ⟨2, 3⟩ 0x1A 0x33 0x2D),
    (0x56DACED7, .vsubsat ⟨2, 3⟩ 0x1A 0x33 0x2D), (0x5ADBB5AB, .vcmp ⟨2, 3⟩ 6 3 0x2D 0x1A 0xB),
    (0x5EDACC0D, .vabs ⟨2, 3⟩ 0x1A 0x33 0xD), (0x5EDACC1D, .vneg ⟨2, 3⟩ 0x1A 0x33 0xD), (0x5EDACC2D, .vnot ⟨2, 3⟩ 0x1A 0x33 0xD),
    (0x5EDACC3D, .vmov ⟨2, 3⟩ 0x1A 0x33 0xD), (0x5EDACC4D, .vrcp ⟨2, 3⟩ 0x1A 0x33 0xD), (0x5EDACC5D, .vrsqrt ⟨2, 3⟩ 0x1A 0x33 0xD),
    (0x5EDACC6D, .vsqrt ⟨2, 3⟩ 0x1A 0x33 0xD)] : List (Word32 × Instr)),
    decode .x e.1 = .ok e.2 := by decide

/-- Words of X, 05 R91, R92, R94 to R97. -/
theorem test_decode_x3 : ∀ e ∈ ([(0x5EDACC7D, .vexp2 ⟨2, 3⟩ 0x1A 0x33 0xD), (0x5EDACC8D, .vlog2 ⟨2, 3⟩ 0x1A 0x33 0xD),
    (0x62DACC5D, .vred ⟨2, 3⟩ 0x1A 0x33 5 0xD), (0x66DACED6, .vsel ⟨2, 3⟩ 0x1A 0x33 0x2D 6),
    (0x6ADACED0, .vperm ⟨2, 3⟩ 0x1A 0x33 0x2D), (0x6ADACED1, .vzip ⟨2, 3⟩ 0x1A 0x33 0x2D), (0x6ADACED2, .vunzip ⟨2, 3⟩ 0x1A 0x33 0x2D),
    (0x6EDACF40, .vslide ⟨2, 3⟩ 0x1A 0x33 0xD), (0x72DA02C0, .vsplat ⟨2, 3⟩ 0x1A 0xB), (0x76DA2F40, .vbcast ⟨2, 3⟩ 0x1A 0xB 0xD),
    (0x7AD802C0, .pcnt ⟨2, 3⟩ 6 0xB), (0x7EDAF406, .plogic ⟨2, 3⟩ 6 0xB 0xD 6), (0x82C182C0, .ppop ⟨2, 3⟩ 6 0xB),
    (0x86DACF24, .vcvt ⟨2, 3⟩ 0x1A 0x33 0xC 9), (0x8ADACF70, .vhad ⟨2, 3⟩ 0x1A 0x33 0xD 6), (0x8EC06AC0, .vmaxe ⟨2, 3⟩ 0x1A 0xB)] : List (Word32 × Instr)),
    decode .x e.1 = .ok e.2 := by decide

/-- Words of X, 05 R91, R92, R94 to R97. -/
theorem test_decode_x4 : ∀ e ∈ ([(0x92DACF42, .vq ⟨2, 3⟩ 0x1A 0x33 0xD 2), (0x96DACF41, .vdq ⟨2, 3⟩ 0x1A 0x33 0xD 1),
    (0x96DACF76, .vdqInv ⟨2, 3⟩ 0x1A 0x33 0xD 6 2), (0x9ADABB76, .vld ⟨2, 3⟩ 0x1A 0xB 0xB7 6),
    (0x9EDABB76, .vst ⟨2, 3⟩ 0x1A 0xB 0xB7 6), (0xA2DABB76, .vldFf ⟨2, 3⟩ 0x1A 0xB 0xB7 6), (0xA6DABB46, .vldx ⟨2, 3⟩ 0x1A 0xB 0x2D 6),
    (0xAADABB46, .vstx ⟨2, 3⟩ 0x1A 0xB 0x2D 6), (0xAEE00000, .vshape ⟨2, 3⟩ 8), (0xB2C00000, .vrot ⟨2, 3⟩),
    (0xB6D80000, .vwin ⟨2, 3⟩ 6), (0xCB6B3B5A, .vfma ⟨2, 3⟩ 0x1A 0x33 0x2D 0x1A), (0xDB6B3B5A, .vfms ⟨2, 3⟩ 0x1A 0x33 0x2D 0x1A),
    (0xEB6B3B5A, .vfnma ⟨2, 3⟩ 0x1A 0x33 0x2D 0x1A), (0xF6D00000, .vectorModifier 6 1 1 1), (0x2AC2DB00, .mldb ⟨2, 3⟩ 0x2DB)] : List (Word32 × Instr)),
    decode .x e.1 = .ok e.2 := by decide

/-- Words of X, 05 R91, R92, R94 to R97. -/
theorem test_decode_x5 : ∀ e ∈ ([(0x2AC6DBB0, .mmab ⟨2, 3⟩ 0x2DB 0xB), (0x2ACADBB0, .mmas ⟨2, 3⟩ 0x2DB 0xB),
    (0x2ACEDBB0, .mdrain ⟨2, 3⟩ 0x2DB 0xB), (0x2AD00060, .mzero ⟨2, 3⟩ 6), (0x2AD40000, .mnest ⟨2, 3⟩), (0x2AD80000, .mtest ⟨2, 3⟩),
    (0x2EC2DDB6, .mtrsmLo ⟨2, 3⟩ 0x5B 0x2DB), (0x2EC2DDB7, .mtrsmUp ⟨2, 3⟩ 0x5B 0x2DB), (0x2EC6D800, .mlu ⟨2, 3⟩ 0x5B),
    (0x2ECAD800, .mchol ⟨2, 3⟩ 0x5B), (0x2ECED800, .mgiv ⟨2, 3⟩ 0x5B), (0x2ED005B6, .mpiv ⟨2, 3⟩ 0x2DB), (0x2ED40000, .mfst ⟨2, 3⟩)] : List (Word32 × Instr)),
    decode .x e.1 = .ok e.2 := by decide

/-- Words of S, 05 R91 to R93. -/
theorem test_decode_s1 : ∀ e ∈ ([(0x02000000, .endStrand .s ⟨2, 0⟩), (0x061AF400, .gadd .s ⟨2, 0⟩ 6 0xB 0xD),
    (0x0A1AEDB7, .gaddi .s ⟨2, 0⟩ 6 0xB 0x2DB7), (0x0E1ADB6D, .gli .s ⟨2, 0⟩ 6 0x2DB6D),
    (0x121DB6DB, .stepLoopImm .s ⟨2, 0⟩ 1 0x16D 0x2DB), (0x12102EDB, .stepLoopReg .s ⟨2, 0⟩ 1 0xB 0x2DB),
    (0x16176DB7, .brq .s ⟨2, 0⟩ 1 3 0x16DB7), (0x1A100000, .stepTpost .s ⟨2, 0⟩ 1), (0x1E100000, .stepTwait .s ⟨2, 0⟩ 1),
    (0x221B0000, .stepQpush .s ⟨2, 0⟩ 1 0xB), (0x261B0000, .stepQpop .s ⟨2, 0⟩ 1 0xB), (0x42EDBBD0, .tst ⟨2, 3⟩ 0x2DB 0xB 0xD),
    (0x46EDBBD0, .tfar ⟨2, 3⟩ 0x2DB 0xB 0xD), (0x4AEDBBD3, .supd ⟨2, 3⟩ 0x2DB 0xB 0xD 3), (0x4EEDBBD3, .tsum ⟨2, 3⟩ 0x2DB 0xB 0xD 1 1),
    (0x52EDBBD0, .tcopy ⟨2, 3⟩ 0x2DB 0xB 0xD)] : List (Word32 × Instr)),
    decode .s e.1 = .ok e.2 := by decide

/-! ### Premises of the statements -/

/-- The answer of a step is a next state with a property. -/
def nextHas (o : Host.Outcome State Fault Refusal) (p : State → Bool) : Bool :=
  match o with
  | .next t => p t
  | _ => false

/-- A core with a bare task, whose C is about to issue at address 0. -/
def s0 : State := State.reset.withFetchWord 32 0x02000000

/-- The same with values in s1 to s3. -/
def s1 : State := s0.updC fun c => { c with prim := ((c.prim.set 1 0x4000000000020).set 2 0xFFFFFFFFFFFFFFFF).set 3 8 }

/-- In the supervisor's context. -/
def sSup : State := s0.updCore fun c => { c with sup := true, task := none }

/-- In a handler. -/
def sTrap : State := s0.cTrap 0x10 0

theorem test_hyps_RegisterFormsGiveTheirResults :
    (∀ i ∈ ([.add 0 31 31, .sub 31 0 0, .and 1 2 3, .or 1 2 3, .xor 1 2 3, .shl 1 2 3, .shr 1 2 3, .sra 1 2 3, .slt 1 2 3, .sltu 1 2 3, .seq 1 2 3,
        .min 1 2 3, .max 1 2 3, .minu 1 2 3, .maxu 1 2 3, .mul 1 2 3, .mulh 1 2 3, .mulhu 1 2 3, .divu 1 2 3, .remu 1 2 3] : List Instr),
      s1.cFree i [2, 3] = true) ∧ s1.core.c.handler = false ∧ s1.core.c.divFree ≤ s1.core.c.cycles
    ∧ sTrap.core.c.handler = true ∧ sTrap.core.c.shDivFree ≤ sTrap.core.c.cycles ∧ sTrap.cFree (.divu 1 2 3) [2, 3] = true := by decide

theorem test_hyps_ImmediateFormsGiveTheirResults :
    ∀ i ∈ ([.clz 0 31, .popc 1 2, .extS 1 2 1, .extS 1 2 2, .extS 1 2 4, .extZ 1 2 1, .extZ 1 2 2, .extZ 1 2 4, .addi 1 2 0x7FFF, .andi 1 2 0x4000,
        .ori 1 2 0, .xori 1 2 1, .shli 1 2 63, .shri 1 2 0, .srai 1 2 1, .slti 1 2 0, .sltui 1 2 0] : List Instr), s1.cFree i [2] = true := by
  decide

theorem test_hyps_UpperImmediates :
    s0.cFree (.lui 31 0x80000) [] = true ∧ s0.cFree (.apc 0 0x7FFFF) [] = true
    ∧ (let x : Int := 2 ^ 34 - 2 ^ 15 + 0x3FFF
       let l : Int := 0x3FFF
       l = (BitVec.ofInt 15 x).toInt ∧ -(2 ^ 34) ≤ x - l ∧ x - l ≤ 2 ^ 34 - 2 ^ 15
         ∧ nextHas (exec (.lui 5 (BitVec.ofInt 20 ((x - l) / 2 ^ 15))) s0)
             (fun t => t.cFree (.addi 5 5 (BitVec.ofInt 15 x)) [5] && (t.core.c.read 5 == BitVec.ofInt 64 (x - l))) = true) := by decide

/-- A kernel of one virtual core on core 0 of die 0, in context 0. -/
def vc0 : VCore :=
  { vdie := 0, vcore := 0, die := 0, q := 0, pos := 0, state := .running, run := 0, parked := none, forecast := none, rerun := none,
    awaits := none, trig := none, arrived := none, idents := [], expects := [], expectSum := 0, landed := [], landedCount := 0,
    heard := 0, site := 0, image := none }

def kern0 : Kernel :=
  { kid := 0, image := 1, ctx := 0, cls := 0, accepted := 0, since := 0, curCopy := 6, curFall := 0, args := 0, status := none, evring := 0, evsize := 0, evseq := 0, state := 2, tasks := 1, kframe := 0,
    begun := true, hold := none, slipCount := 0, slipTicks := 0, phase := 0, vcs := [vc0], handles := [], slots := [], after := [], streams := [],
    resident := true, holds := true, handle := none, reqs := [], eff := .nominal, div := .nominal, claims := [], boosted := false, fall := 0,
    change := false }

/-- That kernel runs; its tables map the first 16 GiB one to one, that page is held, and every stack is ready; s1 names the own
scratchpad's last doubleword, s2 a doubleword of global memory, s3 is 8. -/
def w0 : State :=
  let s := s0.updC fun c => { c with prim := ((c.prim.set 1 0x80000013FFFF8).set 2 0xFFF8).set 3 8 }
  { s with mem := Memory.writeBytes (Memory.writeBytes [] 0x20000000 (leBytes 8 0x20001001)) 0x20001000 [0xF],
           disp := { s.disp with kernels := [kern0] },
           xlat := { s.xlat with roots := [(0, 0x20000000)], held := [(0, ⟨0, 0, 2 ^ 34, 0, true, true⟩)] },
           host := { s.host with ready := s.host.ready.set 1 0xFFFFFF } }

/-- The page without the right to read. -/
def wDenied (s : State) : State := { s with xlat := { s.xlat with held := [(0, ⟨0, 0, 2 ^ 34, 0, false, true⟩)] } }

/-- Its task pinned. -/
def wPin : State := w0.updTask fun t => { t with pinned := true }

/-- Its task with one store in the splice buffer, at the page's first doubleword. -/
def eff0 : Effect := ⟨.store 0 0 (whole [1, 2, 3, 4, 5, 6, 7, 8]), 0, 0, none, 0⟩
def wBuf : State := w0.updTask fun t => { t with buf := [eff0] }

/-- Its splice buffer full. -/
def wFull : State := w0.updM fun m => { m with results := [⟨1000, [], 0, none, 524289, false, none, 0⟩] }

/-- Its task forecasting. -/
def fore0 : Forecast := ⟨0, 0, 1, 0, 0, 0, 0, none, none, .pending, 0⟩
def wFore : State := w0.updTask fun t => { t with forecast := some fore0, declared := some 0 }

/-- The supervisor's core, over the same page. -/
def wSup : State := w0.updCore fun c => { c with sup := true, task := none }

def isDone (r : Put) : Bool :=
  match r with
  | .done _ => true
  | .stall => false

theorem test_hyps_LoadsReadTheirBytes :
    (∀ e ∈ ([(.ldB 0 1 7, 1), (.ldH 31 1 6, 2), (.ldW 5 1 4, 4), (.ldD 5 1 0, 8), (.lduB 5 1 0, 1), (.lduH 5 1 0, 2), (.lduW 5 1 0, 4),
        (.ldLast 5 1 0, 8)] : List (Instr × Nat)), w0.cFree e.1 [1] = true ∧ w0.reaches 0x80000013FFFF8 0x80000013FFFF8 e.2 false)
    ∧ w0.isLocal 0x80000013FFFF8 = true ∧ w0.core.c.handler = false
    ∧ w0.reaches 0xFFF8 0xFFF8 8 false := by unfold State.reaches; decide +kernel

theorem test_hyps_LoadsReadTheirBytes_seen :
    snapOf 0 = none ∧ w0.predictedIndex 0 = none ∧ w0.core.task.map (·.buf) = some []
    ∧ wBuf.core.task.map (·.buf) = some ([] ++ [eff0]) ∧ wBuf.predictedIndex 7 = none ∧ (0 : Nat) ≤ 7 ∧ 7 < 0 + 8
    ∧ (eff0.kind.bitsAt 8).2 = 0 := by decide +kernel

theorem test_hyps_StoresWriteTheirBytes :
    Memory.wf w0.mem = true ∧ (∀ n ∈ [1, 2, 4, 8], w0.performsAt 0x80000013FFFF8 n ∧ wPin.performsAt 0xFFF8 n)
    ∧ (∀ e ∈ ([(.stB 1 1 7, 1), (.stH 0 1 6, 2), (.stW 2 1 4, 4), (.stD 3 1 0, 8)] : List (Instr × Nat)),
        w0.cFree e.1 [1, 3] = true ∧ w0.reaches 0x80000013FFFF8 0x80000013FFFF8 e.2 true ∧ wPin.reaches 0xFFF8 0xFFF8 e.2 true
          ∧ w0.reaches 0xFFF8 0xFFF8 e.2 true)
    ∧ w0.core.task.map (fun k => (k.pinned, decide (k.used + w0.core.m.reserved + 8 ≤ 524288))) = some (false, true)
    ∧ snapOf 0xFFF8 = none ∧ windowOf 0xFFF8 = none := by
  refine ⟨by decide +kernel, fun n h => ⟨⟨by decide +kernel, .inl (by decide +kernel)⟩, by decide +kernel, .inr (.inr ⟨by decide, ?_, ?_⟩)⟩, ?_⟩
  · fin_cases h <;> decide +kernel
  · intro t h; cases h; rfl
  · unfold State.reaches; decide +kernel

theorem test_hyps_AtomicsActOnce :
    w0.cFree (.amo 0 2 3 0 1) [2, 3] = true ∧ w0.cFree (.cas 0 2 3) [2, 3, 0] = true ∧ w0.cFree (.cas 5 2 3) [2, 3, 5] = true
    ∧ w0.reaches 0xFFF8 0xFFF8 8 true ∧ (0xFFF8 < 0x8000000000000 ∨ 0xC000000000000 ≤ 0xFFF8) ∧ windowOf 0xFFF8 = none
    ∧ w0.pin.deadByte 0xFFF8 = false ∧ wPin.pin.deadByte 0xFFF8 = false ∧ wPin.reaches 0xFFF8 0xFFF8 8 true
    ∧ w0.forecasting = none ∧ w0.poisonIn 0xFFF8 0xFFF8 8 = none ∧ w0.pin.poisonIn 0xFFF8 0xFFF8 8 = none ∧ w0.cOrdered = true ∧ w0.fenceDone = true ∧ 0xFFF8 % 8 = 0
    ∧ wPin.poisonIn 0xFFF8 0xFFF8 8 = none ∧ wPin.pin.poisonIn 0xFFF8 0xFFF8 8 = none ∧ wPin.cOrdered = true ∧ wPin.fenceDone = true ∧ wPin.pinnedTask = true
    ∧ w0.core.task.map (fun k => (k.pinned, decide (k.used + w0.core.m.reserved + 8 ≤ 524288))) = some (false, true) := by unfold State.reaches; decide +kernel

theorem test_hyps_AtomicsActOnce_supervisor :
    wSup.core.task = none ∧wSup.reaches 0xFFF8 0xFFF8 8 true ∧ wSup.poisonIn 0xFFF8 0xFFF8 8 = none ∧ wSup.pin.poisonIn 0xFFF8 0xFFF8 8 = none
    ∧ wSup.pin.deadByte 0xFFF8 = false ∧ wSup.cFree (.amo 0 2 3 0 1) [2, 3] = true ∧ wSup.cOrdered = true ∧ wSup.fenceDone = true := by unfold State.reaches; decide +kernel

theorem test_hyps_ConditionalBranches :
    ∀ e ∈ ([.beq 1 1 0x7FFF, .bne 1 2 0x3FFF, .blt 2 1 0, .bge 1 2 1, .bltu 2 1 2, .bgeu 1 2 0x4000] : List Instr),
      w0.cFree e [1, 2] = true := by decide

theorem test_hyps_Jumps :
    w0.cFree (.jal 31 0xFFFFF) [] = true ∧ w0.cFree (.jalr 1 1 0x7FFF) [1] = true ∧ w0.cFree (.jalr 31 2 2) [2] = true := by decide

theorem test_hyps_TheChainAdvances :
    (⟨4, 2, 8, 0x100⟩ : Chain) = ⟨(0 : Word64) + 4, 2, 0 + 8, 0x100⟩ ∧ (⟨8, 12, 2⟩ : LoopEntry).last = 12 ∧ 1 < (⟨8, 12, 2⟩ : LoopEntry).count
    ∧ (⟨8, 12, 1⟩ : LoopEntry).count ≤ 1 := by decide

/-- A stack of four loops. -/
def wLoops : State := w0.updC fun c => { c with loops := List.replicate 4 ⟨0, 64, 3⟩ }

theorem test_hyps_LoopsPushTheirBody :
    (∀ i ∈ ([.loop 3 1, .loopi 1023 1, .loopi 0 0x3FFF] : List Instr), w0.cFree i [3] = true ∧ wLoops.cFree i [3] = true)
    ∧ 0x10000 ≤ ((0xFFFC : Int) + 4 * (1 : BitVec 15).toInt).toNat ∧ 4 ≤ wLoops.core.c.stack.length
    ∧ (∃ l ∈ (w0.updC fun c => { c with loops := [⟨0, 0, 1⟩] }).core.c.stack, l.last = 0)
    ∧ (∃ l, wLoops.core.c.stack.head? = some l ∧ l.last < 68) := by decide

/-- Every queue full, and every queue with one visible item. -/
def wQFull : State :=
  w0.updCore fun c => { c with dq := Vector.replicate 12 ⟨List.replicate 16 ⟨7, 0, .none_⟩, []⟩, hq := Vector.replicate 12 ⟨List.replicate 32 ⟨1, 0, .none_⟩, []⟩ }
def wQOne : State :=
  w0.updCore fun c => { c with dq := Vector.replicate 12 ⟨[⟨7, 0, .none_⟩], []⟩, hq := Vector.replicate 12 ⟨[⟨1, 0, .none_⟩], []⟩, fq := ⟨[⟨0, 0, .none_⟩], []⟩ }

theorem test_hyps_QueueWordsOfC :
    (∀ p ∈ ([1, 2, 3] : List (BitVec 2)),
      w0.cFree (.qpush 1 p) [1] = true ∧ (w0.core.dq[outQ .c p]).room 16 w0.now = true
      ∧ w0.cFree (.tpost p) [] = true ∧ (w0.core.hq[outQ .c p]).room 32 w0.now = true
      ∧ wQFull.cFree (.qpush 1 p) [1] = true ∧ (wQFull.core.dq[outQ .c p]).room 16 wQFull.now = false
      ∧ wQFull.cFree (.tpost p) [] = true ∧ (wQFull.core.hq[outQ .c p]).room 32 wQFull.now = false
      ∧ wQOne.cFree (.qpop 1 p) [] = true ∧ (wQOne.core.dq[inQ .c p]).visible wQOne.now = true
      ∧ wQOne.cFree (.qtry 1 2 p) [] = true ∧ wQOne.cFree (.qtry 1 1 p) [] = true ∧ wQOne.cFree (.twait p) [] = true
      ∧ (wQOne.core.hq[inQ .c p]).visible wQOne.now = true
      ∧ w0.cFree (.qtry 1 2 p) [] = true ∧ (w0.core.dq[inQ .c p]).visible w0.now = false
      ∧ w0.cFree (.twait p) [] = true ∧ (w0.core.hq[inQ .c p]).visible w0.now = false)
    ∧ w0.core.c.handler = false ∧ wQFull.core.c.handler = false := by decide +kernel

theorem test_hyps_EffectsAreBufferedOrPerformed :
    wPin.core.task.map (·.pinned) = some true
    ∧ w0.core.task.map (fun k => (k.pinned, decide (k.used + w0.core.m.reserved + eff0.kind.size ≤ 524288))) = some (false, true)
    ∧ wFull.core.task.map (fun k => (k.pinned, decide (524288 < k.used + wFull.core.m.reserved + eff0.kind.size), k.forecast)) = some (false, true, none)
    ∧ (wFull.updTask fun t => { t with forecast := some fore0 }).core.task.map (fun k => k.forecast.isSome) = some true := by decide +kernel

/-- Its task forecasting, without room in its splice buffer. -/
def wForeFull : State := wFull.updTask fun t => { t with forecast := some fore0, declared := some 0 }

/-- A collective of one participant described at 0x1000. -/
def wColl : State :=
  let b : List Byte := leBytes 4 0x00000001 ++ [1, 0, 0, 0] ++ leBytes 4 7 ++ leBytes 4 1 ++ leBytes 8 0x2000 ++ leBytes 8 0x3000 ++ leBytes 4 256
    ++ leBytes 4 256 ++ leBytes 8 0x4000 ++ leBytes 8 0x5000 ++ leBytes 8 0
  let b := b.set 3 9
  let s := w0.updC fun c => { c with prim := c.prim.set 1 0x1000 }
  { s with mem := Memory.writeBytes s.mem 0x1000 b }

/-- The task has arrived in its phase. -/
def wArrived : State :=
  w0.updKernel 0 fun k => { k with vcs := [{ vc0 with arrived := some ⟨0, 0, 0, 0⟩, idents := [⟨0, 0, 0, 0⟩] }] }

/-- The kernel waits for one that has not triggered. -/
def wAfter : State :=
  { w0 with disp := { w0.disp with kernels := [{ kern0 with after := [1] }, { kern0 with kid := 1 }] } }

/-- An entry of a transfer unit. -/
def x0 (op : XOp) (a b : Word64) (st : XState) : Xfer := ⟨op, a, b, [], 0, st, 1, 0, 0, 0, 0, 0, none, 0, none, .none_, 0, false, false⟩
/-- An f32 tile handle of 64 by 64 elements, and a bf16 one. -/
def hdl : Handle := { base := 0x8000, rows := 64, cols := 64, stride := 256, type_ := 9, tag := 0, fslot := some 0, vers := 0, scale := 0 }
def hdlB : Handle := { hdl with type_ := 8, fslot := none }

/-- A load of L comes before what C does next, by a token, and is still in its unit. -/
def wOrder : State :=
  let s := (w0.updKernel 0 fun k => { k with handles := [hdl] }).updC fun c => { c with after := ⟨1, 0, 0, 0⟩, prim := c.prim.set 1 0x1000 }
  s.updCore fun c => { c with inb := ⟨[x0 (.tld 0 false) 0 0 .queued], 0⟩ }

/-- A pinned task's C has passed a fence behind which a remote write of S is in its unit, one of L is, or one is on its way to another window. -/
def wFenced : List State :=
  let s := wPin.updC fun c => { c with fence := ⟨1, 0, 1, 0⟩ }
  [s.updCore fun c => { c with outb := ⟨[x0 (.tfar 0) 0 0 .queued], 0⟩ }, s.updCore fun c => { c with inb := ⟨[x0 (.tfar 0) 0 0 .queued], 0⟩ },
    { wPin with links := { wPin.links with flying := [⟨0, 0, 1, 0, [], 9, none, (0, 0), 0, true⟩] } }]

theorem test_hyps_KernelWords :
    w0.core.task.isSome = true ∧ w0.cFree (.launch 31 2) [2] = true ∧ isDone (w0.put 0 (.launch 0 0xFFF8)) = true
    ∧ w0.cFree (.stream 0) [0] = true ∧ w0.cFree (.fence 3) [] = true ∧ w0.cFree .ktrig [] = true ∧ isDone (w0.put 0 .ktrig) = true
    ∧ w0.cOrdered = true ∧ wOrder.cFree (.fence 3) [] = true
    ∧ w0.cFree .kwait [] = true ∧ w0.producersDone = true ∧ wAfter.producersDone = false ∧ wAfter.cFree .kwait [] = true
    ∧ wAfter.core.c.handler = false
    ∧ (∀ e ∈ ([(.launch 31 2, [2], .launch 0 0xFFF8), (.ktrig, [], .ktrig)] : List (Instr × List (BitVec 5) × EffKind)),
      wForeFull.cFree e.1 e.2.1 = true ∧ wForeFull.core.c.handler = false ∧ (wForeFull.core.task.map fun k =>
        (k.pinned, k.forecast.isSome, decide (k.used + wForeFull.core.m.reserved + e.2.2.size ≤ 524288))) = some (false, true, false)) := by decide +kernel

theorem test_hyps_KernelWords_fence :
    (∀ s ∈ wFenced, s.core.task.isSome = true ∧ s.core.c.handler = false ∧ s.isLocal 0xFFF8 = false ∧ snapOf 0xFFF8 = none ∧ s.pinnedTask = true
      ∧ (∀ i ∈ ([.ldB 5 2 0, .ldH 5 2 0, .ldW 5 2 0, .ldD 5 2 0, .lduB 5 2 0, .lduH 5 2 0, .lduW 5 2 0, .ldLast 5 2 0] : List Instr), s.cFree i [2] = true)
      ∧ (∀ i ∈ ([.stB 3 2 0, .stH 3 2 0, .stW 3 2 0, .stD 3 2 0] : List Instr), s.cFree i [2, 3] = true)
      ∧ s.page 0xFFF8 false = .ok 0xFFF8 ∧ s.page 0xFFF8 true = .ok 0xFFF8
      ∧ ((∃ e ∈ s.core.inb.queue, e.seq ≤ s.core.c.fence.l ∧ (s.xferAccess e.op = true ∨ s.xferRemote e.op = true))
          ∨ (∃ e ∈ s.core.outb.queue, e.seq ≤ s.core.c.fence.s ∧ (s.xferAccess e.op = true ∨ s.xferRemote e.op = true))
          ∨ (∃ f ∈ s.links.flying, f.fenced = true ∧ f.sender = (s.core.die, s.core.q)))) := by decide +kernel

theorem test_hyps_KernelWords_coll :
    wColl.myKernel.isSome = true ∧ wColl.cFree (.coll 5 1) [1] = true ∧ wColl.cOrdered = true ∧ wOrder.cOrdered = false
    ∧ wOrder.cFree (.coll 5 1) [1] = true ∧ wColl.collCheck 0x1000 = none ∧ wColl.collAccess 0x1000 = .ok
    ∧ wColl.forecasting = none ∧ w0.collAccess 0x80000013FFFF8 = .ok ∧ w0.collAccess 0x400000000 = .walk 0x400000000 false
    ∧ (wDenied wColl).collAccess 0x1000 = .bad 0x05 0x1000
    ∧ (w0.updC fun c => { c with prim := c.prim.set 1 0x400000000 }).cFree (.coll 5 1) [1] = true
    ∧ w0.collCheck 0x80000013FFFF8 = some 0x03
    ∧ (wColl.updTask fun t => { t with forecast := some fore0 }).collCheck 0x1000 = none
    ∧ (wColl.updTask fun t => { t with forecast := some fore0 }).collAccess 0x1000 = .ok
    ∧ (wColl.updTask fun t => { t with forecast := some fore0 }).forecasting ≠ none
    ∧ isDone ((wColl.updTask fun t => { t with forecast := some fore0 }).put 0 (.coll 0x1000)) = true := by decide +kernel

theorem test_hyps_KernelWords_cleat :
    w0.core.task.isSome = true ∧ w0.myKernel.isSome = true ∧ w0.myVc.isSome = true ∧ w0.cFree .cleatArrive [] = true ∧ w0.forecasting = none
    ∧ w0.otherArrival ⟨0, 0, 0, 0⟩ = false
    ∧ (wArrived.updC fun c => { c with nArrive := 1 }).otherArrival ⟨0, 0, 0, 1⟩ = true
    ∧ w0.cFree (.cleatExpect 31) [31] = true ∧ (w0.updC fun c => { c with prim := c.prim.set 1 0x100000000 }).cFree (.cleatExpect 1) [1] = true
    ∧ w0.cFree (.cleatWait 0) [0] = true ∧ 0 < ({ kern0 with phase := 1 } : Kernel).phase ∧ kern0.phase < 8
    ∧ wArrived.myVc.map (·.arrived) ≠ some none ∧ wArrived.core.c.handler = false ∧ w0.myVc.map (·.arrived) = some none := by decide +kernel

theorem test_hyps_ControlRegisterWords :
    (∀ n ∈ [0x000, 0x003, 0x010, 0x020, 0x027, 0x030, 0x032, 0x038, 0x040, 0x042, 0x050, 0x080, 0x083, 0x090, 0x091, 0x0A0],
      (w0.csrRead n).isSome = true) ∧ (∀ n ∈ [0x100, 0x105], (sTrap.csrRead n).isSome = true) ∧ sTrap.core.c.handler = true
    ∧ sSup.core.sup = true ∧ (∀ n ∈ [0x004, 0x028, 0x033, 0x106, 0xFFF], w0.csrRead n = none)
    ∧ w0.core.c.handler = false ∧ w0.core.sup = false
    ∧ w0.cFree (.csrr 31 0x105) [] = true ∧ w0.cFree (.csrw 1 0xFFF) [1] = true ∧ w0.cFree (.csrx 5 1 0) [1] = true := by decide +kernel

theorem test_hyps_PaceAndDivisorWords :
    w0.cFree (.pace 1 0) [1] = true ∧ (2 : BitVec 2) ≠ 3 ∧ w0.core.task.isSome = true ∧ w0.cFree (.clkdiv 3 3) [3] = true
    ∧ (w0.core.c.read 3).toNat ∈ [5, 6, 7, 8, 10, 12] ∧ (w0.core.c.read 0).toNat ∉ [5, 6, 7, 8, 10, 12] := by decide +kernel

theorem test_hyps_SoftwareTraps :
    w0.cFree (.trap 0) [] = true ∧ w0.cFree (.trap 255) [] = true ∧ w0.cFree .ecall [] = true ∧ w0.core.c.handler = false
    ∧ sTrap.cFree .ecall [] = true ∧ sTrap.core.c.handler = true := by decide +kernel

theorem test_hyps_ServiceWords :
    sTrap.cFree .rett [] = true ∧ sTrap.core.c.handler = true ∧ sSup.cFree .idle [] = true ∧ sSup.core.sup = true ∧ sSup.core.c.handler = false
    ∧ sSup.cFree (.tlbinv 1 1) [1] = true ∧ w0.core.c.handler = false ∧ w0.core.sup = false ∧ sTrap.core.taskContext = false
    ∧ (∀ e ∈ ([(.rett, []), (.idle, []), (.tlbinv 1 0, [1])] : List (Instr × List (BitVec 5))), w0.cFree e.1 e.2 = true)
    ∧ (∀ e ∈ ([(.texit, []), (.fcast 1 1023 2 7, [1]), (.fverd 1 0 2, [])] : List (Instr × List (BitVec 5))), sTrap.cFree e.1 e.2 = true) := by
  decide +kernel

theorem test_hyps_TrapEntryWritesTheFrame_and_TrapReturnRestores :
    w0.core.c.handler = false ∧ w0.core.c.chain.pc.toNat < 2 ^ 17 ∧ w0.core.c.chain.rd ≠ 3 ∧ w0.core.c.chain.rd = 0
    ∧ (let c := w0.core.c.redirect 0xFFFC
       c.handler = false ∧ c.chain.rd ≠ 0 ∧ c.chain.rd ≠ 3 ∧ c.chain.npc.toNat < 2 ^ 17 ∧ c.chain.nnpc.toNat < 2 ^ 17)
    ∧ sTrap.core.frame.strand = none ∧ (w0.stepTrap .x 0x07 0 64).core.frame.strand = some .x := by decide +kernel

theorem test_hyps_FaultsAtTheWord :
    (∀ p ∈ ([(4, 4), (8, 8)] : List (Nat × Nat)), (w0.updC fun c => { c with chain := { c.chain with pc := BitVec.ofNat 64 p.1 } }).core.c.chain.pc.toNat = p.1
        ∧ p.2 ≤ p.1 ∧ ∀ e ∈ ([(0x4CBB6DB7, .jal 0xB 0xB6DB7), (0x40BF5B6D, .beq 0xB 0x1E 0x5B6D)] : List (Nat × Instr)),
          decode .c (word (Memory.readNat (w0.updCore fun c => { c with imC := Memory.writeBytes [] 0 (leBytes 4 e.1) }).core.imC (p.1 - p.2) 4)) = .ok e.2)
    ∧ (let s := (w0.updC fun c => { c with loops := [⟨4, 4, 2⟩], chain := { c.chain with pc := 4 } }).updCore fun c =>
        { c with imC := Memory.writeBytes [] 0 (leBytes 4 0x4CBB6DB7) }
       (∃ l ∈ s.core.c.stack, l.last = s.core.c.chain.pc.toNat) ∧ s.core.inSlot = true)
    ∧ (∀ e ∈ ([(.ldH 5 3 1, 2, [3]), (.ldW 5 3 2, 4, [3]), (.ldD 5 3 4, 8, [3]), (.lduH 5 3 1, 2, [3]), (.lduW 5 3 1, 4, [3]), (.ldLast 5 3 1, 8, [3]),
          (.stH 1 3 1, 2, [3, 1]), (.stW 1 3 2, 4, [3, 1]), (.stD 1 3 4, 8, [3, 1])] : List (Instr × Nat × List (BitVec 5))),
        w0.cFree e.1 e.2.2 = true)
    ∧ (w0.core.c.read 3 + (1 : BitVec 15).signExtend 64).toNat % 2 ≠ 0 ∧ (w0.core.c.read 3 + (2 : BitVec 15).signExtend 64).toNat % 4 ≠ 0
    ∧ (w0.core.c.read 3 + (4 : BitVec 15).signExtend 64).toNat % 8 ≠ 0
    ∧ w0.cFree (.amo 5 1 3 0 1) [1, 3] = true ∧ w0.cFree (.cas 5 1 3) [1, 3, 5] = true
    ∧ (w0.core.c.read 1).toNat % 8 = 0 ∧ 0x8000000000000 ≤ (w0.core.c.read 1).toNat ∧ (w0.core.c.read 1).toNat < 0xC000000000000
    ∧ ((w0.updC fun c => { c with prim := c.prim.set 1 1 }).core.c.read 1).toNat % 8 ≠ 0
    ∧ sTrap.core.c.handler = true ∧ (sSup.cTrap 0x10 0).core.c.handler = true ∧ (sSup.cTrap 0x10 0).core.sup = true := by decide +kernel

/-- Hitch codes without a token. -/
def h0 : Hitch := ⟨0, 0⟩

theorem test_hyps_GRegisterWords :
    (∀ t ∈ [StepStrand.l, .x, .s], ∀ i ∈ ([.gadd t h0 15 1 2, .gaddi t h0 0 15 0x3FFF, .gli t h0 1 0x20000] : List Instr),
      w0.stepFree t h0 i false [] [] = true)
    ∧ (let s := w0.updStep .l fun p => { p with latches := [⟨0, 5, 9, 0, 0⟩] }
       (s.core.strand .l).latches = [⟨0, 5, 9, 0, 0⟩] ∧ 0 ≤ (s.core.strand .l).count)
    ∧ (w0.core.strand .l).count < 1 := by decide +kernel

theorem test_hyps_StepLoops :
    (∀ t ∈ [StepStrand.l, .x, .s], ∀ i ∈ ([.stepLoopImm t h0 3 511 1023, .stepLoopReg t h0 0 15 1, .stepLoopImm t h0 0 0 1] : List Instr),
      w0.stepFree t h0 i false [] [] = true)
    ∧ 0x10000 ≤ 0xFFFC + 4 * (1 : BitVec 10).toNat
    ∧ (let p := (w0.updStep .x fun p => { p with lc := p.lc.set 0 ⟨3, 0, 8, true, 0⟩ }).core.strand .x
       p.lc[0].active = true ∧ (∃ l ∈ p.lc.toList, l.active = true ∧ ¬(l.start ≤ 0 ∧ 12 ≤ l.last))) := by decide +kernel

/-- A word of the given value in every data queue. -/
def wData (v : Word64) : State := w0.updCore fun c => { c with dq := Vector.replicate 12 ⟨[⟨v, 0, .none_⟩], []⟩ }

theorem test_hyps_BranchOnQueue :
    (∀ t ∈ [StepStrand.l, .x, .s], ∀ q ∈ ([1, 2, 3] : List (BitVec 2)),
      w0.stepFree t h0 (.brq t h0 q 3 0x1FFFF) false [] [] = true ∧ (w0.core.dq[inQ t.strand q]).visible w0.now = false
      ∧ (wData 0).stepFree t h0 (.brq t h0 q 0 1) false [] [] = true ∧ ((wData 0).core.dq[inQ t.strand q]).visible (wData 0).now = true
      ∧ ((wData 0).core.dq[inQ t.strand q]).head = 0 ∧ ((wData (-1)).core.dq[inQ t.strand q]).head = -1)
    ∧ (3 : BitVec 3).toNat < 4 ∧ (-1 : Word64).toInt < 0 ∧ 0 ≤ ((0 : Int) + 4 * (0x3FFF : BitVec 17).toInt)
    ∧ ((0 : Int) + 4 * (0x3FFF : BitVec 17).toInt) < 0x10000 ∧ ¬(0 ≤ ((0 : Int) + 4 * (0x1FFFF : BitVec 17).toInt)) := by decide +kernel

theorem test_hyps_StepQueueWords :
    (∀ t ∈ [StepStrand.l, .x, .s], ∀ q ∈ ([1, 2, 3] : List (BitVec 2)),
      w0.stepFree t h0 (.stepTpost t h0 q) false [] [q] = true ∧ wQOne.stepFree t h0 (.stepTwait t h0 q) false [q] [] = true
      ∧ w0.stepFree t h0 (.stepQpush t h0 q 15) false [] [] = true ∧ wQOne.stepFree t h0 (.stepQpop t h0 q 15) false [] [] = true
      ∧ tokensSeen w0 t (codes h0.wait ++ [q]) = some (inQ t.strand q) ∧ tokensSeen w0 t (codes h0.wait ++ []) = none)
    ∧ (let s := (wQFull.updStep .l fun p => { p with flights := [⟨0, .done 0, [1]⟩] })
       tokensSeen s .l (codes (⟨0, 1⟩ : Hitch).wait ++ []) = none ∧ (codes (⟨0, 1⟩ : Hitch).post ++ []).find? (s.core.heldPost .l s.now) = some 1) := by decide +kernel

/-- Every other strand has ended. -/
def wLast : State := ((w0.updStep .l fun p => { p with cond := .ended }).updStep .x fun p => { p with cond := .ended }).updStep .s fun p => { p with cond := .ended }

theorem test_hyps_StrandsEnd :
    w0.core.task.isSome = true ∧ w0.core.taskContext = true ∧ w0.cFree .texit [] = true ∧ w0.core.l.cond ≠ .ended
    ∧ wLast.core.taskContext = true ∧ wLast.cFree .texit [] = true ∧ wLast.core.firstFull = none ∧ wLast.twice = none
    ∧ (∀ t ∈ [StepStrand.l, .x, .s], w0.stepFree t h0 (.endStrand t h0) false [] [] = true
        ∧ ((w0.core.strand t).flights.all fun f => f.isDone (w0.core.strand t).count) = true)
    ∧ ((w0.updStep .l fun p => { p with flights := [⟨0, .waiting, []⟩] }).core.l.flights.all fun f => f.isDone 0) = false
    ∧ ((w0.updCore fun c => { c with rings := c.rings.set 3 { Ring.closed with open_ := true } }).core.rings.any (·.open_)) = true
    ∧ w0.core.c.cond ≠ .ended := by decide +kernel

theorem test_hyps_VectorWordsOfTwoOperands_VectorWordsOfOneAndThreeOperands_PredicatesMovesAndPermutes :
    (∀ i ∈ ([.vadd h0 63 0 1 0, .vsub h0 0 63 1 15, .vmul h0 1 2 3 1, .vmin h0 1 2 3 0, .vmax h0 1 2 3 0, .vand h0 1 2 3, .vor h0 1 2 3, .vxor h0 1 2 3,
        .vshl h0 1 2 3, .vshr h0 1 2 3, .vsra h0 1 2 3, .vaddsat h0 1 2 3, .vsubsat h0 1 2 3, .vabs h0 1 2 0, .vneg h0 1 2 0, .vnot h0 1 2 0,
        .vmov h0 1 2 0, .vrcp h0 1 2 0, .vrsqrt h0 1 2 0, .vsqrt h0 1 2 0, .vexp2 h0 1 2 0, .vlog2 h0 1 2 0, .vfma h0 1 2 3 4, .vfms h0 1 2 3 4,
        .vfnma h0 1 2 3 4, .vcmp h0 15 3 2 3 0, .pcnt h0 1 15, .plogic h0 1 2 3 7, .ppop h0 15 1, .vred h0 1 2 5 0, .vsel h0 1 2 3 0,
        .vperm h0 1 2 3, .vzip h0 1 2 3, .vunzip h0 1 2 3, .vslide h0 1 2 3, .vsplat h0 1 0, .vbcast h0 1 15 0] : List Instr),
      w0.stepFree .x h0 i false [] [] = true)
    ∧ w0.scoreboarded [63, 0, 1, 2, 3, 4] = false ∧ isMx w0.vtype = false ∧ (w0.core.x.readG 0).toNat ≤ 32
    ∧ isMx (w0.updV fun v => { v with type_ := 12 }).vtype = true := by decide +kernel

theorem test_hyps_ConversionWords :
    (∀ i ∈ ([.vcvt h0 62 63 9 8, .vcvt h0 63 62 8 9, .vhad h0 63 0 15 7, .vmaxe h0 56 0, .vq h0 62 56 0 0, .vq h0 63 56 0 2, .vdq h0 56 62 0 0,
        .vdqInv h0 56 62 15 7 0] : List Instr), w0.stepFree .x h0 i false [] [] = true)
    ∧ cvtBad 9 8 = false ∧ cvtBad 8 9 = false ∧ 62 + ratio (laneWidth 9) (laneWidth 8) ≤ 64 ∧ 62 + ratio (laneWidth 9) (laneWidth 8) ≤ 64
    ∧ isFp w0.vtype = true ∧ 62 + codeRegs 10 ≤ 64 ∧ 63 + codeRegs 12 ≤ 64 ∧ 56 + 8 ≤ 64
    ∧ w0.scoreboarded (List.range 64) = false := by decide +kernel

/-- g1 names the own scratchpad, p1 holds in every bit. -/
def wVec : State :=
  (w0.updStep .x fun p => { p with g := p.g.set 1 0x8000001000000 }).updV fun v => { v with p := v.p.set 1 (List.replicate 1024 true) }

/-- The pages of the elements of a load or store there. -/
def pages0 (pn : BitVec 4) (write : Bool) : List (Elem × Nat) :=
  match wVec.pages write (elemsAt (wVec.active (wVec.gov pn) 128) 32 0x8000001000000) with
  | .ok l => l
  | _ => []

/-- The elements of an indexed one, whose indices are all 0. -/
def elems0 (i : Instr) (pn : BitVec 4) : List Elem :=
  match wVec.indexed i 8 1 pn with
  | .ok l => l
  | .error _ => []
def ipages0 (i : Instr) (pn : BitVec 4) (write : Bool) : List (Elem × Nat) :=
  match wVec.pages write (elems0 i pn) with
  | .ok l => l
  | _ => []

theorem test_hyps_VectorLoads :
    ((pages0 0 false).all fun p => wVec.isLocal p.2) = true ∧ wVec.poisonElems 32 (pages0 0 false) = none
    ∧ wVec.stepFree .x h0 (.vld h0 5 1 0 0) false [] [] = true ∧ 0x8000001000000 % 64 = 0 ∧ wVec.scoreboarded [5] = false
    ∧ wVec.pages false (elemsAt (wVec.active (wVec.gov 0) 128) 32 0x8000001000000) = .ok (pages0 0 false) ∧ pages0 0 false ≠ [] := by
  decide +kernel

theorem test_hyps_VectorLoads_indexed :
    (let i : Instr := .vldx h0 5 1 8 0
     wVec.stepFree .x h0 i false [] [] = true ∧ wVec.scoreboarded (5 :: wVec.indexRegs 8) = false
     ∧ (match wVec.indexed i 8 1 0 with | .ok l => decide (l = elems0 i 0) | .error _ => false) = true
     ∧ wVec.pages false (elems0 i 0) = .ok (ipages0 i 0 false) ∧ ((ipages0 i 0 false).all fun p => wVec.isLocal p.2) = true
     ∧ wVec.poisonElems 32 (ipages0 i 0 false) = none ∧ ipages0 i 0 false ≠ []) := by decide +kernel

theorem test_hyps_VectorLoads_firstFault :
    (let l := pages0 1 false
     let direct := elemsAt (wVec.active (wVec.gov 1) 128) 32 0x8000001000000
     wVec.stepFree .x h0 (.vldFf h0 5 1 0 1) false [] [] = true ∧ (wVec.gov 1).pn ≠ 0 ∧ (wVec.gov 1).inv = false
     ∧ wVec.pages false direct = .ok l
     ∧ wVec.beforeFault 32 direct = l ∧ l ≠ [] ∧ (l.all fun p => wVec.isLocal p.2) = true ∧ wVec.poisonElems 32 l = none)
    ∧ wVec.stepFree .x h0 (.vldFf h0 5 1 0 0) false [] [] = true ∧ (wVec.gov 0).pn = 0
    ∧ (let s := wVec.updV fun v => { v with modif := some ⟨1, 1, 0, 0, 0⟩ }
       s.stepFree .x h0 (.vldFf h0 5 1 0 0) false [] [] = true ∧ (s.gov 0).inv = true ∧ s.scoreboarded [5] = false) := by decide +kernel

theorem test_hyps_VectorStores :
    (let l := pages0 0 true
     let runs := joinRuns (l.map fun p => elemRun 32 ((wVec.lanes 5 9).getD p.1.i 0) p.1 p.2)
     wVec.stepFree .x h0 (.vst h0 5 1 0 0) false [] [] = true ∧ wVec.scoreboarded [5] = false ∧ (0x8000001000000 : Nat) % 64 = 0
     ∧ wVec.pages true (elemsAt (wVec.active (wVec.gov 0) 128) 32 0x8000001000000) = .ok l ∧ isDone (wVec.storeRuns (some 1) runs) = true
     ∧ isDone (wVec.storeRuns none runs) = true
     ∧ Memory.wf wVec.mem = true ∧ (∀ r ∈ runs, wVec.isLocal r.pa = true) ∧ runs.length = 1)
    ∧ (0x8000001000001 : Nat) % 64 ≠ 0
    ∧ (let i : Instr := .vstx h0 5 1 8 0
       wVec.stepFree .x h0 i false [] [] = true ∧ wVec.scoreboarded (5 :: wVec.indexRegs 8) = false
       ∧ (match wVec.indexed i 8 1 0 with | .ok l => decide (l = elems0 i 0) | .error _ => false) = true
       ∧ wVec.pages true (elems0 i 0) = .ok (ipages0 i 0 true)
       ∧ isDone (wVec.storeRuns (some 1) ((ipages0 i 0 true).map fun p => elemRun 32 ((wVec.lanes 5 9).getD p.1.i 0) p.1 p.2)) = true) := by decide +kernel

/-- The same where g1 names global memory, and of a pinned task behind a load of L. -/
def wFar : State := wVec.updStep .x fun p => { p with g := p.g.set 1 0x8000 }
def wFarHeld : State :=
  let s := ((wFar.updTask fun t => { t with pinned := true }).updKernel 0 fun k => { k with handles := [hdl] }).updStep .x fun p => { p with after := ⟨1, 0, 0, 0⟩ }
  s.updCore fun c => { c with inb := ⟨[x0 (.tld 0 false) 0 0 .queued], 0⟩ }

theorem test_hyps_VectorStores_far :
    ∀ e ∈ [(wFar, true), (wFarHeld, false)],
      let s := e.1
      (match s.pages true (elemsAt (s.active (s.gov 0) 128) 32 0x8000) with
        | .ok l =>
          let runs := joinRuns (l.map fun p => elemRun 32 ((s.lanes 5 9).getD p.1.i 0) p.1 p.2)
          !l.isEmpty && s.xOrdered (s.core.x.seq + 1) s.core.x.after true == e.2 && runs.all (fun r => !s.isLocal r.pa)
            && isDone (s.storeRuns (some 1) runs) && isDone (s.storeRuns none [])
        | _ => false) = true
      ∧ s.stepFree .x h0 (.vst h0 5 1 0 0) false [] [] = true ∧ s.scoreboarded [5] = false := by decide +kernel

theorem test_hyps_ShapeAndWindowWords :
    ∀ i ∈ ([.vectorModifier 15 1 1 3, .vshape h0 12, .vrot h0, .vwin h0 15] : List Instr), w0.stepFree .x h0 i false [] [] = true := by decide +kernel

/-- Those handles, the format word of f32 operands in the queue, and a resident B. -/
def wMat : State :=
  let s := w0.updKernel 0 fun k => { k with handles := [hdl, hdlB], slots := [Slot.empty] }
  let s := s.updM fun m => { m with resB := ⟨true, 9, 64, 64, 0, 0, 1, 0, 0, 0⟩ }
  s.updCore fun c => { c with fq := ⟨[⟨0x9990000000000000, 0, .none_⟩], []⟩ }
def wMas : State :=
  (wMat.updM fun m => { m with resB := ⟨true, 8, 64, 64, 1, 0, 1, 0, 0, 0⟩ }).updCore fun c => { c with fq := ⟨[⟨0x8880000000040000, 0, .none_⟩], []⟩ }

theorem test_hyps_MatrixWordsEnterTheQueue :
    (∀ e ∈ ([(.mldb h0 0, .mldb 0), (.mmab h0 0 15, .mmab 0 15), (.mdrain h0 0 15, .mdrain 0 15), (.mzero h0 15, .mzero 15), (.mtest h0, .mtest),
        (.mtrsmLo h0 63 0, .mtrsm false 63 0), (.mtrsmUp h0 0 0, .mtrsm true 0 0), (.mlu h0 0, .mlu 0), (.mchol h0 0, .mchol 0), (.mgiv h0 0, .mgiv 0),
        (.mpiv h0 0, .mpiv 0), (.mfst h0, .mfst)] : List (Instr × MOp)),
      wMat.stepFree .x h0 e.1 true [] [] = true ∧ (wMat.core.fq).visible wMat.core.m.next = true
        ∧ wMat.comboOk (wMat.ahead 0) e.2 0x9990000000000000 = true ∧ wMat.entryFault (wMat.ahead 0) e.2 0x9990000000000000 0 0 0 = none)
    ∧ wMat.core.fq.head = 0x9990000000000000 ∧ wMat.core.m.count = 0 ∧ (wMat.core.m.entered 0).length < 8 ∧ wMas.core.m.count = 0
    ∧ wMas.comboOk (wMas.ahead 0) (.mmas 1 15) wMas.core.fq.head = true ∧ wMas.stepFree .x h0 (.mmas h0 1 15) true [] [] = true
    ∧ wMas.entryFault (wMas.ahead 0) (.mmas 1 15) wMas.core.fq.head 0 0 0 = none
    ∧ (let s := wMat.updM fun m => { m with queue := List.replicate 8 ⟨.mtest, 0, 0, 0, none, 0, 0, 0, none, 16, false, false, false, 0, .none_⟩ }
       8 ≤ (s.core.m.entered 0).length ∧ s.stepFree .x h0 (.mmab h0 0 0) true [] [] = true)
    ∧ w0.stepFree .x h0 (.mldb h0 0) true [] [] = true
    ∧ (w0.core.fq).visible w0.core.m.next = false ∧ wMat.comboOk (wMat.ahead 0) (.mmab 1 0) wMat.core.fq.head = false := by decide +kernel

/-- A nest of one point of an mmab of handle 0. -/
def wNest : State :=
  wMat.updM fun m => { m with shadow := (m.shadow.set 0 (BitVec.ofNat 64 (2 ^ 42))).set 1 (BitVec.ofNat 64 (2 ^ 40)) }

theorem test_hyps_FormatWordsAndNests :
    w0.cFree (.fmt 0) [0] = true ∧ fmtOk 0 = true ∧ fmtOk 1 = false ∧ (w0.core.fq).room 16 w0.now = true ∧ w0.cFree (.fmt 1) [1] = true
    ∧ fmtOk 0x80000013FFFF8 = false
    ∧ w0.cFree (.nestW 0 13) [0] = true ∧ nestOk 13 0 = true ∧ nestOk 0 1 = false
    ∧ wNest.cFree .nestGo [] = true ∧ wNest.stepFree .x h0 (.mnest h0) true [] [] = true
    ∧ (let p := wNest.updM fun m => m.promote m.count
       p.nestGo ((encode .nestGo).zeroExtend 64) 0 p.now (p.matCount (p.now + p.core.div.ctl)) = .go (p.core.m.shadowNest p.core.fq.head)
       ∧ p.nestGo ((encode (.mnest h0)).zeroExtend 64) 7 p.core.m.next p.core.m.count = .go (p.core.m.shadowNest p.core.fq.head)) := by decide +kernel

theorem test_hyps_MzeroClearsAndMfstReturns :
    (15 : Nat) < 16 ∧ Memory.wf w0.mem = true ∧ (match w0.startZero 15 none 2 with | .ok _ => true | _ => false) = true
    ∧ (match w0.startZero 15 none 2 with
        | .ok u => (u.core.m.results.all fun r => isDone (w0.writeAll r.ofX r.writes))
        | _ => false) = true := by decide +kernel

/-- g1 of L and S names the scratchpad's offset, g2 one element, g3 the own core's scratchpad as a remote address, g4 two rows of eight, g5
a ring's base and slots; ring 2 is open. -/
def wX : State :=
  let f := fun (p : Step) => { p with g := ((((p.g.set 1 0x1000000).set 2 0).set 3 0x1000000).set 4 0x0000000000010007).set 5 0x100000000 }
  ((wMat.updStep .l f).updStep .s f).updCore fun c => { c with rings := c.rings.set 2 { Ring.closed with open_ := true } }

/-- A tld of one element into the scratchpad. -/
def ld0 : Xfer := x0 (.tld 0 false) 0x1000000 0 .queued

theorem test_hyps_TransferWordsEnterTheirUnit :
    (∀ e ∈ ([(.inb, .tld h0 0 1 2, .tld 0 false, 1, 2), (.inb, .tldT h0 0 1 2, .tld 0 true, 1, 2), (.outb, .tst h0 0 1 2, .tst 0, 1, 2),
        (.outb, .tfar h0 0 1 3, .tfar 0, 1, 3), (.inb, .tfetch h0 0 1 3, .tfetch 0, 1, 3), (.outb, .tsum h0 0 1 2 0 0, .tsum 0 false false, 1, 2),
        (.outb, .tsum h0 1 1 2 1 0, .tsum 1 true false, 1, 2), (.inb, .tpref h0 0 2, .tpref 0, 0, 2),
        (.inb, .wopen h0 0 5 4 0, .wopen 0 0 false, 5, 4), (.inb, .wopenW h0 0 5 4 3, .wopen 0 3 true, 5, 4), (.outb, .supd h0 0 1 2 3, .supd 0 3, 1, 2),
        (.outb, .tcopy h0 0 2 2, .tcopy 0, 2, 2), (.inb, .wadv h0 2 2, .wadv 2 false false, 2, 0), (.inb, .wdrop h0 2 2, .wadv 2 true false, 2, 0)] :
        List (XUnit × Instr × XOp × BitVec 4 × BitVec 4)),
      wX.stepFree (unitStrand e.1) h0 e.2.1 true [] [] = true ∧ (wX.core.unit e.1).queue.length < 16
        ∧ firstFault (wX.issueChecks e.2.2.1 ((wX.core.strand (unitStrand e.1)).readG e.2.2.2.1) ((wX.core.strand (unitStrand e.1)).readG e.2.2.2.2) 0)
          = none)
    ∧ (firstFault (wX.issueChecks (.tld 2 false) 0 0 7)).isSome = true ∧ (wX.core.unit .inb).queue = []
    ∧ 16 ≤ ((wX.updCore fun c => { c with inb := ⟨List.replicate 16 ld0, 0⟩ }).core.unit .inb).queue.length := by decide +kernel

/-- A vector result, a global load, a load of C and a post, all due. -/
def vl0 : VLatch := ⟨0, 0, 0, 0, [.vreg 5 32 [some 1]], 0, none⟩
def gl0 (p : Option Nat) : GLoad := ⟨1, 0, 0, 0, 0, [.vreg 5 32 [some 1]], [5], p, [(0, 0)], none, false, false, false, false, none⟩
def wDue (p : Option Nat) : State :=
  let s := w0.updV fun v => { v with latches := [vl0], gloads := [gl0 p] }
  let s := s.updC fun c => { c with loads := [⟨5, 0, some ⟨3, [], 0, 0⟩, false, 0⟩] }
  s.updStep .l fun q => { q with flights := [⟨1, .done 0, [2]⟩] }

/-- Every strand waits for a token. -/
def wStuck : State :=
  let s := w0.updC fun c => { c with cond := .running (some (.hitch 0 false)) }
  let f := fun (p : Step) => { p with cond := .running (some (.hitch 0 false)) }
  ((s.updStep .l f).updStep .x f).updStep .s f

theorem test_hyps_ResultsArrive :
    (wDue none).dueLatches = [vl0] ∧ (wDue none).core.stopped = false ∧ (wDue none).dueLoad = some (gl0 none) ∧ (gl0 none).again = false ∧ (gl0 none).poison = none
    ∧ (wDue (some 64)).dueLoad = some (gl0 (some 64)) ∧ (wDue (some 64)).core.pend.length < 16
    ∧ (wDue none).core.c.dueLoad = some ⟨5, 0, some ⟨3, [], 0, 0⟩, false, 0⟩ ∧ (wDue none).firstPost.isSome = true
    ∧ wStuck.core.deadlock.isSome = true ∧ wStuck.core.c.handler = false := by decide +kernel

def wHead (e : Xfer) : State := wX.updCore fun c => { c with inb := { c.inb with queue := [e] } }

theorem test_hyps_TransfersComplete :
    (let s := wHead ld0
     let n := { s with now := Nat.max s.now (s.unitTick .inb (s.leavesAt ld0)) }
     (s.core.unit .inb).queue = [ld0] ∧ ld0.st = .queued ∧ ld0.departed = false ∧ ld0.unserved = false ∧ (n.planOf ld0).mapped = .ok
       ∧ (n.planOf ld0).late = false ∧ n.cutOff ld0 = false ∧ ((wDenied n).planOf ld0).mapped = .bad 0x05 0x8000
       ∧ (({ n with xlat := { n.xlat with held := [] } }).planOf ld0).mapped = .walk 0x8000 false)
    ∧ (let e := { x0 (.tfar 0) 0 0 .queued with todo := some [] }
       e.st = .queued ∧ e.departed = true)
    ∧ (x0 (.tld 0 false) 0 0 .faulted).st = .faulted ∧ (x0 (.tld 0 false) 0 0 .dropped).st = .dropped ∧ (x0 (.tst 0) 0 0 .moving).st = .moving
    ∧ (let e := x0 (.tfetch 0) 0x1000000 0x1000000 .queued
       (wHead e).core.inb.queue = [e] ∧ e.extra = [] ∧ (wHead e).handle? 0 = some hdl ∧ (wHead e).myKernel.isSome = true ∧ farNode e.b = 0
         ∧ ((wHead e).myKernel.bind fun k => k.vc? (farDie e.b) (farCore e.b)) = some vc0)
    ∧ farNode (x0 (.tfetch 0) 0x1000000 0xFF00000001000000 .queued).b ≠ 0
    ∧ (let s := { wHead ld0 with poison := [0x400] }
       (0x400 : Nat) ∈ s.poison ∧ (∃ p ∈ s.sources ld0, (0x8000, 4) ∈ atomsOf p.1 p.2) ∧ s.probe 0x8000 false = .ok (0x400 * 32))
    ∧ (let f : Flying := ⟨0, 0, 0, 0x1000000, [(7, 0xFF)], 0, some ⟨0, 0, 0, 0⟩, (0, 1), 0, false⟩
       ({ w0.links with flying := [f] }).first = some (f, []) ∧ f.off < 2 ^ 32)
    ∧ (w0.kernel? 0).isSome = true ∧ kern0.vc? 0 0 = some vc0 ∧ vc0.die < 24 ∧ vc0.q < 32 := by decide +kernel

/-- An entry at the head of the command queue. -/
def m0 (op : MOp) (start : Option Nat) (rest : Bool) : MEntry := ⟨op, 0x9990000000000000, 0, 0, none, 0, 0, 0, start, 16, rest, false, false, 0, .none_⟩
def wEntry (e : MEntry) : State := wMat.updM fun m => { m with queue := [e] }
def wPoint (t : Nat) : State :=
  (wEntry (m0 .nest (some 0) true)).updM fun m => { m with running := some ⟨wNest.core.m.shadow.set 1 (BitVec.ofNat 64 t), 0x9990000000000000, 0, none⟩ }
/-- A nest at the head of the queue that waits for its start. -/
def wArmed : State :=
  (wEntry (m0 .nest none true)).updM fun m => { m with armed := some ⟨wNest.core.m.shadow, 0x9990000000000000, 0, none⟩ }
def res0 : MResult := ⟨0, [.acc 0 0 [1]], 0, none, 0, false, none, 0⟩

theorem test_hyps_MatrixUnitAdvances :
    (let s := wEntry (m0 .mtest none false)
     (s.startCount).isSome = true ∧ s.core.m.about = some (m0 .mtest none false, .mtest, 0, 0))
    ∧ (let s := wArmed
       (s.startCount).isSome = true ∧ s.core.m.about = some (m0 .nest none true, .nest, 0, 0)
         ∧ ((s.startCount.bind fun c => ((s.matTo c).updM fun m => m.promote (m.count + 1)).core.m.running).map fun n => decide (n.total = 0))
           = some false)
    ∧ (let s := wEntry (m0 .mtest (some 0) false)
       (s.core.m.queue.head?.map fun e => (e.start.isSome, e.rest)) = some (true, false) ∧ s.core.m.factor = none)
    ∧ firstResult [res0] = some (res0, []) ∧ res0.last = false ∧ ({ res0 with last := true } : MResult).last = true
    ∧ (let s := wMat.updM fun m => { m with results := [res0] }
       isDone (((s.matTo (Nat.max s.core.m.count res0.due)).updM fun m => { m with results := [] }).writeAll res0.ofX res0.writes) = true)
    ∧ (let s := wPoint (2 ^ 40)
       (s.startCount).isSome = true ∧ s.core.m.running.isSome = true ∧ (s.core.m.about.map fun a => (a.1.rest, a.1.start.isSome)) = some (true, true)
         ∧ s.entryFault s.core.m.present (.mmab 0 0) 0x9990000000000000 0 0 0 = none
         ∧ (s.updM fun m => { m with resB := { m.resB with loaded := false } }).entryFault
             { s.core.m.present with resB := { s.core.m.resB with loaded := false } } (.mmab 0 0) 0x9990000000000000 0 0 0 ≠ none) := by decide +kernel

theorem test_hyps_MatrixUnitAdvances_point :
    ((match (wPoint (2 ^ 40)).startCount, (wPoint (2 ^ 40)).core.m.about, (wPoint (2 ^ 40)).core.m.running with
      | some c, some (e, op, row, col), some n =>
        let r := (wPoint (2 ^ 40)).matTo c
        let word : Word64 := BitVec.ofNat 64 (imWord r.core.imC 0)
        let occ := r.occupancy r.core.m.present op n.fmt row col
        let v := (e.inView r fun s => s.startOp op n.fmt row col none word occ).settle r occ op.counted
          fun e => { e with occ := e.occ + occ, rest := !decide (n.total ≤ 1) }
        decide (r.entryFault r.core.m.present op n.fmt row col word = none ∧ v.core.m.free_ = r.core.m.count + occ
          ∧ (v.core.m.queue.head?.any fun e => !e.bad) = true ∧ v.core.freeze = none)
      | _, _, _ => false) = true)
    ∧ w0.core.m.failing = false ∧ (w0.updCore fun c => { c with freeze := some .operands }).core.freeze = some .operands := by decide +kernel

/-- A factorisation that runs. -/
def fac0 (broke : Option Nat) : Factor := ⟨0, 0, broke, [], false, false, false⟩

theorem test_hyps_FactorisationAndSelfTest :
    (let s := (wEntry (m0 (.mlu 0) (some 0) false)).updM fun m => { m with factor := some (fac0 none) }
     s.core.m.factor = some (fac0 none) ∧ s.core.m.queue = [m0 (.mlu 0) (some 0) false] ∧ s.core.c.handler = false ∧ s.core.m.tail = false
       ∧ s.core.pend.length < 16)
    ∧ (fac0 none).broke = none ∧ (fac0 none).early = false ∧ (fac0 (some 9)).broke = some 9 ∧ (fac0 (some 9)).pended = false
    ∧ ({ fac0 (some 9) with pended := true } : Factor).pended = true
    ∧ (let s := w0.updM fun m => { m with testDue := some 16, ops := 1 }
       s.core.m.testDue = some 16 ∧ s.now < s.matTick 16 ∧ 16 ≥ s.matCount s.now ∧ s.core.m.failing = false)
    ∧ (let s := (sSup.updM fun m => { m with testDue := some 0, failing := true })
       s.matTick 0 ≤ s.now ∧ s.core.m.failing = true ∧ s.core.task = none) := by decide +kernel

theorem test_hyps_CausesReachTheCore :
    w0.core.v.modif = none ∧ (w0.updV fun v => { v with modif := some ⟨1, 0, 0, 0, 4⟩ }).core.v.modif = some ⟨1, 0, 0, 0, 4⟩ ∧ w0.core.c.handler = false ∧ sTrap.core.c.handler = true
    ∧ (0x05 : BitVec 8) ≠ 0x0D ∧ (0x05 : BitVec 8) ≠ 0x0F ∧ (0x05 : BitVec 8) ≠ 0x10 ∧ 4 ≤ (4 : BitVec 4).toNat ∧ sSup.core.task = none
    ∧ (let s := w0.updCore fun c => { c with pend := [⟨0x09, 4, 3, 0, 0, 0, 1, false⟩] }
       s.core.duePend = some ⟨0x09, 4, 3, 0, 0, 0, 1, false⟩) := by decide +kernel

theorem test_hyps_InterruptsAndPages :
    w0.core.task.isSome = true ∧ sSup.core.sup = true ∧ w0.core.irqPending = false ∧ w0.core.irq = []
    ∧ (let s := w0.updCore fun c => { c with irq := List.replicate 63 1 }
       s.core.irq ≠ [] ∧ s.core.irq.length < 64)
    ∧ (let s := { sSup with xlat := { sSup.xlat with tcmp := 1 } }
       s.xlat.tcmp ≠ 0 ∧ (s.core.pend.any fun e => e.cause == 0x12) = false ∧ s.core.pend.length < 16)
    ∧ (∀ f ∈ ([.walk 0 false, .pager 65536 true, .retry] : List Freeze), (w0.updCore fun c => { c with freeze := some f }).core.freeze = some f)
    ∧ w0.core.freeze = none ∧ (w0.updCore fun c => { c with irq := [1] }).core.irqPending = false
    ∧ w0.core.csr.ctxid = (0x0000000000000001 : Word64).extractLsb' 48 16 ∧ 65536 / 65536 = (1 : Word64).toNat % 2 ^ 36 := by decide +kernel

/-- An image of one task, and the machine with it before that task's release. -/
def img0 : Image :=
  { id := 1, ctx := 0, name := [], code := [[], [], [], []], dataBase := 0, dataSize := 0, handles := [hdl], levels := [⟨1, 0, false, false⟩],
    ticks := [0], carry := [], ragged := [], after := [], seeds := Vector.replicate 8 0, place := [(0, 0)] }
def wImg : State := { wMat with disp := { wMat.disp with images := [img0] } }
def wPend : State :=
  (wImg.updCore fun c => { c with task := none }).updKernel 0 fun k => { k with vcs := [{ vc0 with state := .pending }] }

theorem test_hyps_ReleaseStartsATask :
    (wPend.kernel? 0).isSome = true ∧ wPend.image? 1 = some img0
    ∧ (wPend.kernel? 0).map (fun k => (k.state, k.holds, k.image)) = some (2, true, 1)
    ∧ ((wPend.kernel? 0).bind fun k => (k.vc? 0 0).map fun v => wPend.releasable k img0 v && v.die == wPend.core.die && v.q == wPend.core.q)
      = some true := by decide +kernel

theorem test_hyps_TasksGoOn :
    (let s := w0.updTask fun t => { t with state := .splicing }
     s.core.spliced = true ∧ s.twice = none)
    ∧ (let s := (wMat.updTask fun t => { t with state := .splicing, wrote := [0] }).updKernel 0 fun k => { k with slots := [{ Slot.empty with owed := true }] }
       s.core.spliced = true ∧ s.twice = some 0)
    ∧ (let s := wImg.updKernel 0 fun k => { k with vcs := [{ vc0 with arrived := some ⟨0, 0, 0, 0⟩ }] }
       ((s.kernel? 0).map fun k => (s.cleatReady k, decide ((s.at_ (s.cleatTick k)).taker k = none))) = some (true, true))
    ∧ (let s := wImg.updKernel 0 fun k => { k with vcs := [{ vc0 with arrived := some ⟨0, 0, 0, 0⟩, heard := 100 }] }
       let w : Kernel := { kern0 with kid := 1, state := 1, holds := false, accepted := 1 }
       let s := { s with disp := { s.disp with kernels := s.disp.kernels ++ [w], order := [0, 1] } }
       s.image? 1 = some img0 ∧ ((s.kernel? 0).map fun k => (s.cleatReady k, (s.at_ (s.cleatTick k)).taker k)) = some (true, some w))
    ∧ kern0.hold = none ∧ kern0.late img0 1 = []
    ∧ (w0.updC fun c => { c with cond := .running (some .kwait) }).core.c.cond = .running (some .kwait) ∧ w0.producersDone = true := by
  decide +kernel

/-- The machine whose task may forecast handle 0, its damping a half, and tolerances of 0 in s1 and of a NaN in s2. -/
def wCast : State :=
  (wMat.updC fun c => { c with prim := (c.prim.set 1 0).set 2 0x7FC00000 }).updCore fun c => { c with csr := { c.csr with fdamp := 0x3F000000 } }
def wJudged (v : Verdict) : State := wMat.updTask fun t => { t with forecast := some { fore0 with judged := some (v, 5) }, declared := some 0 }

theorem test_hyps_ForecastsGoOn_fcast :
    wCast.core.taskContext = true ∧ wCast.core.task.isSome = true ∧ wCast.myVc = some vc0
    ∧ wCast.cFree (.fcast 1 0 2 7) [1] = true ∧ wCast.cFree (.fcast 2 1023 0 0) [2] = true ∧ wCast.cFree (.fverd 31 0 2) [] = true
    ∧ ((wCast.myKernel.map fun k => ((k.handle? 0).bind (·.fslot), (k.handle? 1023).bind (·.fslot)))) = some (some 0, none)
    ∧ tolOk 0 = true ∧ tolOk 0x7FC00000 = false ∧ deltaOk wCast.core.csr.fdamp.toNat = true
    ∧ wCast.core.task.map (fun t => (t.declared, t.pinned)) = some (none, false) ∧ wFore.core.task.map (·.declared) = some (some 0)
    ∧ (wCast.updTask fun t => { t with pinned := true }).core.task.map (fun t => (t.declared, t.pinned)) = some (none, true)
    ∧ deltaOk 0x7FC00000 = false ∧ wCast.handle? 0 = some hdl ∧ wCast.handle? 1023 = none ∧ wCast.cFree (.fverd 31 1023 2) [] = true
    ∧ ({ vc0 with forecast := some { fore0 with verdict := .passed 0 0 } } : VCore).forecast.map (fun f => (f.slot, f.verdict)) = some (0, .passed 0 0)
    ∧ vc0.rerun = none ∧ vc0.forecast = none ∧ ({ vc0 with rerun := some (0, 0, 1) } : VCore).rerun ≠ none := by decide +kernel

/-- A kernel that owes the publication of its slot. -/
def hdl1 : Handle := { hdl with rows := 1, cols := 8, stride := 32 }
def wOwed : State := w0.updKernel 0 fun k => { k with handles := [hdl1], slots := [{ Slot.empty with owed := true }] }

theorem test_hyps_ForecastsGoOn :
    wFore.forecasting = some fore0 ∧ wFore.myKernel.isSome = true ∧ fore0.built = none
    ∧ (wOwed.nextOwed.map fun p => (p.1.kid, p.2)) = some (0, 0, hdl1, none)
    ∧ ((wOwed.updKernel 0 fun k => { k with ctx := 0, handles := [{ hdl1 with base := 0x400000000 }] }).nextOwed.map fun p => (p.1.kid, p.2))
      = some (0, 0, { hdl1 with base := 0x400000000 }, some 0x400000000)
    ∧ ((wJudged (.passed 0 0)).firstVerdict.map fun p => p.2.2.2) = some (.passed 0 0, 5)
    ∧ ((wJudged (.failed 0 1 63)).firstVerdict.map fun p => p.2.2.2) = some (.failed 0 1 63, 5)
    ∧ (w0.kernel? (0 : BitVec 16).toNat).isSome = true := by decide +kernel

/-- A command ring of 16 entries at 0x200000 with n entries written. -/
def wRing (n : Nat) : State :=
  { w0 with mem := Memory.writeBytes (Memory.writeBytes w0.mem 0x200000 (leBytes 8 n)) 0x200010 (leBytes 4 16),
            host := { w0.host with cmdbase := 0x200000 } }

theorem test_hyps_CommandsAreTakenAndCompleted :
    (wRing 16).cmdRing = true ∧ (wRing 16).cmdPending ≤ (wRing 16).cmdSize ∧ (wRing 16).cmdPending ≠ 0
    ∧ (wRing 17).cmdSize < (wRing 17).cmdPending ∧ (wRing 17).disp.ringStop = false ∧ Memory.wf (wRing 16).mem = true
    ∧ (let s := wRing 16
       let a := s.cmdEntry s.cmdCons
       windowOf (a + 32) = none ∧ (∀ k, k < 32 → s.deadByte (a + 32 + k) = false) ∧ windowOf (s.host.cmdbase.toNat + 8) = none
         ∧ (∀ k, k < 8 → s.deadByte (s.host.cmdbase.toNat + 8 + k) = false) ∧ s.host.cmdbase.toNat + 16 ≤ a + 32) := by decide +kernel

/-- A command with three operands. -/
def cmd (a0 a1 a2 : Word64) : Cmd := ⟨0, 9, a0, a1, a2⟩

/-- An object with four one-word code sections and a loop table of one task at 0x10000, in the one page that is mapped, on a module whose units are all ready. -/
def wObj : State :=
  let sect := fun (k size off : Nat) => leBytes 4 k ++ leBytes 4 size ++ leBytes 8 off
  let b := leBytes 4 0x314F4558 ++ leBytes 2 1 ++ leBytes 2 5 ++ leBytes 4 1 ++ List.replicate 52 0 ++ sect 0 4 144 ++ sect 1 4 152 ++ sect 2 4 160
    ++ sect 3 4 168 ++ sect 6 8 176 ++ List.replicate 40 0
  let t := fun (m : List Host.Cell) (e : Nat × Nat) => Memory.writeBytes m e.1 (leBytes 8 e.2)
  { w0 with mem := Memory.writeBytes (([(0x20000000, 0x20001001), (0x20001000, 0x20002001), (0x20002000, 0x20003001), (0x20003008, 0x1000F)] :
              List (Nat × Nat)).foldl t []) 0x10000 b, host := { w0.host with ready := Vector.replicate 8 (BitVec.allOnes 64) } }

def wNoRoot : State := { wObj with xlat := { wObj.xlat with roots := [] } }

theorem test_hyps_CommandsOfTheHost_load :
    wObj.xlat.roots.find? (fun r => r.1 == 0) = some (0, 0x20000000) ∧ (cmd 0x10000 0 0x20000000).a2.toNat = 0x20000000
    ∧ (match wObj.loadObject 0 0x11000 0x20000000 with | .ok _ => false | .error b => b == (0x100, 0)) = true
    ∧ wNoRoot.xlat.roots.find? (fun r => r.1 == 0) = none
    ∧ { wNoRoot with xlat := { wNoRoot.xlat with roots := wNoRoot.xlat.roots ++ [(0, 0x20000000)] } } = wObj
    ∧ (match wObj.loadObject 0 0x10000 0x20000000 with | .ok _ => true | .error _ => false) = true :=
  ⟨by decide +kernel, by decide +kernel, by decide +kernel, by decide +kernel, rfl, by decide +kernel⟩

/-- A context with an open segment, and one with a closed segment of one launch. -/
def seg0 (isOpen : Bool) : Segment := ⟨3, 0, isOpen, [⟨List.replicate 64 0, 1, 1, 0⟩]⟩
def wSeg (isOpen : Bool) : State := { wImg with disp := { wImg.disp with segments := [seg0 isOpen] } }

theorem test_hyps_CommandsOfTheHost :
    w0.knownCtx 0 = true ∧ w0.openSegment 0 = none ∧ w0.disp.segments = [] ∧ w0.knownCtx 1 = false
    ∧ (w0.acceptLaunch 0 (w0.agentLoad 0 0x1000 64) 0 true none none).1.replayPump.openSegment 0 = none
    ∧ (wSeg true).openSegment 0 = some (seg0 true) ∧ (wSeg true).knownCtx 0 = true
    ∧ (wSeg false).disp.segments.find? (fun g => g.id == (cmd 0 0x30000 64).a1.toNat / 2 ^ 16 % 2 ^ 8 && g.ctx == 0) = some (seg0 false)
    ∧ (∀ r ∈ (seg0 false).items, ((wSeg false).image? r.image).isSome = true) ∧ (wSeg false).disp.marks.length < 256
    ∧ wImg.image? (cmd 1 0 0).a0.toNat = some img0
    ∧ (∀ k ∈ (wImg.updKernel 0 fun k => { k with state := 3 }).disp.kernels, k.image = 1 → 3 ≤ k.state) ∧ wImg.disp.marks = [] := by
  decide +kernel

/-- A launch of image 1 recorded in an open segment: its descriptor at 0x1000, core 0 of die 0 ready. -/
def wLaunch : State :=
  let s := (wSeg true).updKernel 0 fun k => { k with state := 3 }
  { s with mem := Memory.writeBytes (Memory.writeBytes s.mem 0x1000 (leBytes 8 1)) 0x1030 (leBytes 4 16),
           host := { s.host with ready := Vector.replicate 8 (BitVec.allOnes 64) } }

theorem test_hyps_CommandsOfTheHost_launch :
    (let r := wLaunch.acceptLaunch 0 (wLaunch.agentLoad 0 0x1000 64) 0 true none none
     r.2 ≠ 0 ∧ r.1.replayPump.openSegment 0 = some (seg0 true)) := by decide +kernel

/-- A context image of the kernel's place, with a layout version. -/
def img1 (version : Nat) : CtxImage := ⟨version, 0, 0, 0, 0, none, []⟩

theorem test_hyps_CommandsOfTheHost_issue :
    (img1 snapVersion).foreign vc0 = false ∧ (img1 (snapVersion + 1)).foreign vc0 = true ∧
    (let s := wPend.updKernel 0 fun k => { k with resident := false, state := 0 }
     (s.kernel? 0).map (fun k => s.mayPin k) = some true)
    ∧ (∀ st ∈ [1, 2], (let s := wPend.updKernel 0 fun k => { k with holds := false, state := st }
       (s.kernel? 0).map (fun k => (s.mayIssue k, k.image, k.state)) = some (true, 1, st))) := by decide +kernel

/-- The kernel that waits for its cores, with an image of its virtual core or none, and with every core out of service. -/
def wWaiting (image : Option CtxImage) (out : Bool) : State :=
  let s := wPend.updKernel 0 fun k => { k with holds := false, state := 1, vcs := k.vcs.map fun v => { v with image := image } }
  { s with serv := { s.serv with fencedCores := if out then (List.range 24).flatMap fun d => (List.range 32).map (d, ·) else [] } }

theorem test_hyps_CommandsOfTheHost_reassigned :
    ∀ e ∈ ([(none, false), (some (img1 (snapVersion + 1)), false), (none, true)] : List (Option CtxImage × Bool)),
      let s := wWaiting e.1 e.2
      ((s.kernel? 0).bind fun k => (s.image? k.image).map fun i =>
        let r := (s.at_ (copyTick0 s.now)).reassignAll k i
        (s.mayIssue k, r.kernelEnded 0, e.2 || (r.kernel? 0).map (fun n => n.vcs.map fun v => (v.image, v.image.map (·.foreign v)))
          == some [(e.1, e.1.map fun _ => true)])) = some (true, e.2, true) := by decide +kernel

theorem test_hyps_ClocksAndTime :
    (let s := wPend.updKernel 0 fun k => { k with change := true }
     s.dueChange.isSome = true ∧ s.coresOf 0 = [])
    ∧ (let s := w0.updKernel 0 fun k => { k with change := true, fall := 7 }
       s.dueChange.isSome = true ∧ s.coresOf 0 = [(0, 0)] ∧ s.core.die = 0 ∧ s.core.q = 0 ∧ s.core.freeze = none ∧ s.core.c.handler = false
         ∧ (s.kernel? 0).map (fun k => decide (k.fall ≠ 0)) = some true)
    ∧ (let s := { w0 with now := 75000 }
       s.time.boundary ≤ s.timer.toNat)
    ∧ (let s := w0.updCore fun c => { c with freeze := some (.transition 60) }
       s.dueChange = none ∧ s.core.freeze = some (.transition 60))
    ∧ w0.time.lastAdj = 0 ∧ (4096 : Nat) + 4096 ≤ 8191 + 1 ∧ (4096 : Nat) ≠ 0 ∧ (8190 : Nat) + 1 < 4096 + 4096
    ∧ (17 : BitVec 5).toNat < 18 ∧ 2 ≤ (((Vector.replicate 18 { Port.down with state := 2 }).toList.map (·.state)).getD 17 0)
    ∧ w0.time.toward true = true ∧ w0.time.toward false = true
    ∧ (let t : TimeSt := { w0.time with slave := 3, freeRun := true, offset := 5 }
       t.toward true = false ∧ t.toward false = true ∧ t.slave ≠ 0x1F ∧ t.slave ≠ (17 : BitVec 5).zeroExtend 8 ∧ t.slave = (3 : BitVec 5).zeroExtend 8)
    ∧ w0.time.slave = 0x1F ∧ ({ w0.time with supReady := true } : TimeSt).supReady = true
    ∧ w0.time.lock = false ∧ w0.time.supReady = false ∧ ({ w0.time with lock := true } : TimeSt).lock = true
    ∧ ({ w0.serv with powered := true } : Service).powered = true ∧ w0.serv.booted = true := by decide +kernel

theorem test_hyps_HostAccesses :
    (1 : BitVec 20).toNat % 8 ≠ 0 ∧ w0.bar0Read 0x18 = none ∧ accessLen (.read 4) ≠ 8 ∧ (w0.bar0Read 0x1000).isSome = true
    ∧ accessLen (.write (leBytes 8 7)) = 8 ∧ (leBytes 8 7).length = 8 ∧ leNat (leBytes 8 7) = 7
    ∧ (0x1000 : BitVec 20).toNat % 8 = 0 ∧ inTables 0x1000 = true ∧ inTables 0x17F8 = true
    ∧ (w0.bar0Read 0).isSome = true ∧ inTables 0 = false ∧ (0xFFFFFFFF8 : BitVec 36).toNat + 8 ≤ 2 ^ 36
    ∧ w0.host.apbase.toNat < w0.hbmTop ∧ bitOf w0.host.ready[1].toNat (stackOf 0xFFFFFFFF8) = true ∧ w0.paExists 0xFFFFFFFF8 = true
    ∧ windowOf 0xFFFFFFFF8 = none ∧ w0.deadByte 0xFFFFFFFF8 = false
    ∧ (∀ k, k < 8 → (0xFFFFFFFF8 + k) / 32 ∉ w0.poison ∧ w0.deadByte (0xFFFFFFFF8 + k) = false)
    ∧ w0.hbmTop ≤ (0xFFFF000000000 : Nat) ∧ 2 ^ 36 < (0xFFFFFFFFF : BitVec 36).toNat + accessLen (.read 8)
    ∧ bitOf State.reset.host.ready[1].toNat (stackOf 0) = false ∧ (State.reset.stack (stackOf 0)).failed = false
    ∧ ({ w0.host with cxl := true } : HostPort).cxl = true ∧ w0.host.cxl = false ∧ (0xFFFF8 : BitVec 20).toNat + 8 ≤ 2 ^ 20
    ∧ (let near := 0x200000 / 2 ^ 20 * 2 ^ 20 + 0xFFFF8
       windowOf near = none ∧ w0.deadByte near = false ∧ ∀ k, k < 8 → (near + k) / 32 ∉ w0.poison ∧ w0.deadByte (near + k) = false) := by
  decide +kernel

/-- Port 17 is up; a remote write is held at it for image 1. -/
def pw0 : PortWrite := ⟨1, 0, 0, 0x1000000, 1, 0, 0, 0, 0, 0, [7], true⟩
def wPort : State :=
  { wImg with links := { wImg.links with ports := wImg.links.ports.set 17 { Port.down with state := 2, lanes := 8, peer := 1 }, held := [⟨17, 1, pw0⟩] } }

theorem test_hyps_LinksAndCollectives :
    (17 : Fin 18).val = (17 : BitVec 5).toNat ∧ (⟨0, true, 0, 1, none⟩ : Flit).write = none ∧ 2 ≤ (wPort.links.ports[17]).state ∧ (wPort.links.ports[17]).rxNext = 0
    ∧ (let f : Flit := ⟨0, true, 0, 1, some pw0⟩
       let heard := fun (s : State) => (s.updPort 17 fun q => q.acked f.ack).pump 17
       ((heard wPort).takeWrite 17 pw0).isSome = true ∧ f.seq = 0 ∧ f.crcOk = true)
    ∧ 128 < ((0 : BitVec 12) - 5).toNat ∧ ((wPort.links.ports[17]).acked (0 - 1)).inRow + 1 < 16
    ∧ (let s := wPort.updPort 17 fun q => { q with rxNext := 5 }
       (s.links.ports[17]).rxNext ≠ 0 ∧ ((s.links.ports[17]).rxNext - 0).toNat ≤ 128)
    ∧ (let s := wPort.updPort 17 fun q => { q with inRow := 15 }
       2 ≤ (s.links.ports[17]).state ∧ 16 ≤ ((s.links.ports[17]).acked (0 - 1)).inRow + 1)
    ∧ ((wPort.updPort 17 fun q => { q with state := 1 }).links.ports[17]).state = 1 ∧ (8 : BitVec 4) ∈ ([2, 4, 8] : List (BitVec 4))
    ∧ (0 : BitVec 4) ∉ ([2, 4, 8] : List (BitVec 4))
    ∧ (wPort.releasableWrite.map fun p => (p.1, p.2.kid)) = some (⟨17, 1, pw0⟩, 0) ∧ wPort.serv.booted = true
    ∧ ({ wPort.serv with booted := false } : Service).booted = false := by decide +kernel

/-- A port that holds bytes of the same sender. -/
def wHeldPort (l : List Byte) : State := { wPort with links := { wPort.links with held := [⟨17, 1, { pw0 with bytes := l }⟩] } }

theorem test_hyps_LinksAndCollectives_full (l : List Byte) (h : portBuffer ≤ l.length) :
    (wHeldPort l).links.ports = wPort.links.ports ∧ (((wHeldPort l).updPort 17 fun q => q.acked 0).pump 17).takeWrite 17 pw0 = none := by
  have full (r : State) (hp : r.peerOf 17#5 = 1) (h' : r.links.held = [⟨17, 1, { pw0 with bytes := l }⟩]) : r.takeWrite 17 pw0 = none := by
    simp [State.takeWrite, h', hp, Links.heldBytes, sameWay, pw0]
    have : portBuffer = 1048576 := rfl
    omega
  exact ⟨rfl, full _ rfl rfl⟩

theorem test_hyps_LinksAndCollectives_full_length : ∃ l : List Byte, portBuffer ≤ l.length := ⟨List.replicate portBuffer 0, by simp⟩

/-- A collective of two participants in this module's rank 0, of which rank 1 has sent nothing. -/
def coll0 : Coll :=
  { id := 5, gen := 7, op := 0, red := 9, npart := 2, rank := 0, root := 0, timeout := 1, inp := 0, out := 0, bytes := 256, chunk := 256, status := 0,
    ctx := 0, image := 1, kid := 0, nodes := [], core := (0, 0), started := 0, contrib := [(0, 0, [])], notices := [(0, 0)], done := 0, live := 3, maps := [],
    state := 0 }
def wColl2 : State := { w0 with colls := [coll0] }

theorem test_hyps_LinksAndCollectives_collectives :
    (∀ c ∈ w0.colls, c.id = 5 → c.rank = 0 → c.gen ≠ 7 ∧ c.state ≠ 0)
    ∧ (∀ c ∈ ({ w0 with colls := [{ coll0 with state := 1 }] } : State).colls, c.id = 5 → c.rank = 0 → c.gen ≠ 8 ∧ c.state ≠ 0)
    ∧ (∃ c ∈ wColl2.colls, c.id = 5 ∧ c.rank = 0 ∧ c.gen = 7) ∧ (∃ c ∈ wColl2.colls, c.id = 5 ∧ c.rank = 0 ∧ c.state = 0)
    ∧ (∀ c ∈ wColl2.colls, c.id = 5 → c.rank = 0 → c.gen ≠ 8) ∧ (∀ c ∈ wColl2.colls, c.id = 5 → c.gen ≠ 8) ∧ (wColl2.colls.filter fun c => c.id == 5 && c.overdue) = [coll0] := by decide +kernel

theorem test_hyps_UnitsPowerAndService :
    State.reset.serv.booted = true ∧ (23 : BitVec 5).toNat ∉ State.reset.serv.failedDies ∧ dieDisabled State.reset.full 23 = false ∧ (23 : Nat) < 24
    ∧ (State.reset.serv.hbmStacks[23]).failed = false ∧ 95 ≤ (95 : BitVec 16).toInt
    ∧ (0 : BitVec 52).toNat < State.reset.hbmTop ∧ (0 : BitVec 52).toNat / 32 ∉ State.reset.poison
    ∧ (State.reset.serv.hbmStacks[23]).owed 0 < 8 ∧ 8 ≤ ({ Stack.reset with postponed := [(0, 8)] } : Stack).owed 0
    ∧ Stack.reset.errorsOf 0 0 < 16 ∧ 16 ≤ ({ Stack.reset with errors := List.replicate 16 (0, 0) } : Stack).errorsOf 0 0
    ∧ 23 < State.reset.stackCount ∧ 19 < ({ State.reset with full := false } : State).stackCount ∧ State.reset.clusterServes 23 7 = true
    ∧ stackOf (0 : BitVec 52).toNat = 0 ∧ ¬(State.reset.core.die = 23 ∧ State.reset.core.task.isSome = true)
    ∧ ({ State.reset.serv with booted := false } : Service).booted = false
    ∧ (∀ o ∈ State.reset.others, ¬(o.die = 23 ∧ o.task.isSome = true)) ∧ (85 : BitVec 16).toInt ≤ 85
    ∧ (let s := { Stack.reset with rate := 1, cool := 1 }
       s.cool ≠ 0 ∧ s.boot < s.rate ∧ s.cool + 450000000000 ≤ 450000000000 + 1) := by decide +kernel

/-- A record that holds, of a port or a stack. -/
def record0 (serial : Nat) : TrainRecord :=
  let v := Config.trainVersion (State.reset.host.modid.toNat / 2 ^ 32)
  ⟨v, serial, [], Config.recordCrc v serial []⟩

theorem test_hyps_records (serial : Nat) : State.reset.recordValid serial (some (record0 serial)) = true ∧ State.reset.recordValid serial none = false := by
  simp [State.recordValid, record0]

/-- The strands of w0 with the supervisor's core, which does not run. -/
theorem test_hyps_StepRunsTheDecodedInstruction :
    w0.agenda = [] ∧ w0.eventFirst = none ∧ w0.begin_.pause = none ∧ w0.begin_.core.pcOf w0.turn ≤ 0xFFFC
    ∧ decode w0.turn (BitVec.ofNat 32 (Memory.readNat (w0.begin_.core.im w0.turn) (w0.begin_.core.pcOf w0.turn) 4)) = .ok (.addi 0 0 0)
    ∧ (let s := State.reset.withFetchWord 32 0xFFFFFFFF
       s.agenda = [])
    ∧ (let s := w0.updC fun c => { c with chain := { c.chain with pc := 0x10000 } }
       s.agenda = [] ∧ s.eventFirst = none ∧ s.begin_.pause = none ∧ 0xFFFC < s.begin_.core.pcOf s.turn) := by decide +kernel

/-- A reserved C opcode, 0x0C, in memory: the second half of the same statement. -/
theorem test_hyps_StepRunsTheDecodedInstruction_reserved :
    (let s := w0.updCore fun c => { c with imC := Memory.writeBytes c.imC 0 (leBytes 4 0x18000000) }
     s.agenda = [] ∧ s.eventFirst = none ∧ s.begin_.pause = none
       ∧ (match decode s.turn (BitVec.ofNat 32 (Memory.readNat (s.begin_.core.im s.turn) (s.begin_.core.pcOf s.turn) 4)) with
          | .ok _ => false
          | .error _ => true) = true) := by decide +kernel

theorem test_hyps_DecodeOfEncode : (Instr.vadd ⟨3, 3⟩ 63 63 63 15).home = some .x ∧ (Instr.vadd ⟨3, 3⟩ 63 63 63 15).wf = true := by decide

/-- An event step and a word step, from states that meet the premises of the invariants. -/
theorem test_hyps_MemoryStaysCanonical_and_TheNextCycleHasTheTurn :
    Memory.wf w0.mem = true ∧ nextHas (step w0) (fun t => Memory.wf t.mem && t.core.runs t.turn) = true
    ∧ nextHas (step { State.reset with agenda := [.frameTick] }) (fun t => Memory.wf t.mem) = true := by decide +kernel

/-! ### Single steps, with results from the spec's rules and worked examples -/

/-- s1 = 7, s2 = -8, s3 = 2^63. -/
def sAlu : State := s0.updC fun c => { c with prim := ((c.prim.set 1 7).set 2 (-8)).set 3 0x8000000000000000 }

/-- The value of a register of C after one instruction. -/
def after (i : Instr) (s : State) (r : BitVec 5) : Option Word64 :=
  match exec i s with
  | .next t => some (t.core.c.read r)
  | _ => none

/-- 06 R105, R106, R107: results by hand. -/
theorem test_alu : ∀ e ∈ ([(.add 5 1 2, 0xFFFFFFFFFFFFFFFF), (.sub 5 2 1, 0xFFFFFFFFFFFFFFF1), (.and 5 1 2, 0), (.or 5 1 2, 0xFFFFFFFFFFFFFFFF),
    (.xor 5 1 1, 0), (.shl 5 1 1, 0x380), (.shr 5 3 1, 0x0100000000000000), (.sra 5 2 1, 0xFFFFFFFFFFFFFFFF), (.slt 5 2 1, 1), (.sltu 5 2 1, 0),
    (.seq 5 1 1, 1), (.min 5 1 2, 0xFFFFFFFFFFFFFFF8), (.max 5 1 2, 7), (.minu 5 1 2, 7), (.maxu 5 1 2, 0xFFFFFFFFFFFFFFF8),
    (.mul 5 1 2, 0xFFFFFFFFFFFFFFC8), (.mulh 5 3 3, 0x4000000000000000), (.mulhu 5 3 2, 0x7FFFFFFFFFFFFFFC), (.divu 5 3 1, 0x1249249249249249),
    (.divu 5 1 0, 0xFFFFFFFFFFFFFFFF), (.remu 5 3 1, 1), (.remu 5 1 0, 7), (.clz 5 1, 61), (.clz 5 0, 64), (.popc 5 2, 61)] : List (Instr × Word64)),
    after e.1 sAlu 5 = some e.2 := by decide +kernel

theorem test_alu_immediate : ∀ e ∈ ([(.extS 5 2 1, 0xFFFFFFFFFFFFFFF8), (.extZ 5 2 2, 0xFFF8), (.addi 5 1 0x7FFF, 6), (.andi 5 2 0x7FF0, 0xFFFFFFFFFFFFFFF0),
    (.ori 5 1 8, 15), (.xori 5 1 0x7FFF, 0xFFFFFFFFFFFFFFF8), (.shli 5 1 63, 0x8000000000000000), (.shri 5 2 60, 15), (.srai 5 3 63, 0xFFFFFFFFFFFFFFFF),
    (.slti 5 1 0x7FFF, 0), (.sltui 5 1 0x7FFF, 1), (.lui 5 0x80000, 0xFFFFFFFC00000000), (.apc 5 1, 0x8000)] : List (Instr × Word64)),
    after e.1 sAlu 5 = some e.2 := by decide +kernel

/-- 06 R101: s0 reads as zero whatever is written. -/
theorem test_s0 : after (.addi 0 1 1) sAlu 0 = some 0 := by decide

/-- 06 R116: the worked call: jal at 0x0100 with offset 5 writes 0x010C and goes to 0x0114 after its two slots. -/
theorem test_jal :
    nextHas (exec (.jal 31 5) (s0.updC fun c => { c with chain := { c.chain with pc := 0x100 } })) (fun t =>
      t.core.c.read 31 == 0x10C && t.core.c.chain == ⟨0x104, 2, 0x108, 0x114⟩) = true := by decide +kernel

/-- 05 R90: bne with offset -2 that is taken. -/
theorem test_bne :
    nextHas (exec (.bne 1 0 0x7FFE) (sAlu.updC fun c => { c with chain := { c.chain with pc := 8 } })) (fun t =>
      t.core.c.chain == ⟨12, 2, 16, 0⟩) = true := by decide +kernel

/-- 06 R108, R110: a store to the own scratchpad and a load of its highest byte, extended. -/
theorem test_store_load :
    nextHas (exec (.stH 2 1 0) (w0.updC fun c => { c with prim := c.prim.set 2 0x1280FF })) (fun t =>
      t.mem.length == w0.mem.length + 2 && nextHas (exec (.ldB 5 1 1) { t with mem := t.mem }) (fun u => u.core.c.read 5 == 0xFFFFFFFFFFFFFF80)) = true := by
  decide +kernel

/-- 06 R112: amo.add on a pinned task gives the old value and adds; swap through the largest address. -/
theorem test_amo :
    nextHas (exec (.amo 5 2 3 0 1) (wPin.updC fun c => { c with prim := c.prim.set 3 300 })) (fun t =>
      t.core.c.read 5 == 0 && Memory.readNat t.mem 0xFFF8 8 == 300) = true := by decide +kernel

/-- 06 R118: qtry on an empty queue sets its status to 0, on a full one takes the word. -/
theorem test_qtry :
    after (.qtry 6 5 2) w0 5 = some 0 ∧ after (.qtry 6 5 2) wQOne 5 = some 1 ∧ after (.qtry 6 5 2) wQOne 6 = some 7 := by decide +kernel

/-- 06 R131, R136: csrr of CLKST at reset: 64 permits above four divisors of 6. -/
theorem test_csrr : after (.csrr 5 0x083) s0 5 = some 0x4000006666 := by decide +kernel

/-- 06 R139; 20 R331 to R333: ecall. -/
theorem test_ecall :
    nextHas (exec .ecall s0) (fun t => t.core.frame.cause == 0x10 && t.core.frame.tval == 0x100 && t.core.frame.fpc == 4 && t.core.c.chain.pc == 0x10
      && t.core.c.handler) = true := by decide +kernel

/-- 06 R140: rett goes back to the word after an ecall. -/
theorem test_rett : nextHas (exec .rett sTrap) (fun t => !t.core.c.handler && t.core.c.chain.pc == 0) = true := by decide +kernel

/-- 07 R174: gaddi's value arrives two cycles later. -/
theorem test_gaddi :
    nextHas (exec (.gaddi .l h0 3 0 0x3FFF) w0) (fun t => (t.core.l.readG 3 == 0) && t.core.l.latches == [⟨2, 3, 0xFFFFFFFFFFFFFFFF, 0, 0⟩] && t.core.l.pc == 4)
      = true := by decide +kernel

/-- 04, the worked example: rotation of 1.5 and -0.75 with seed 2. -/
theorem test_vhad :
    let r := vhadBlock 8 (0x3FC0 :: 0xBF40 :: List.replicate 30 0) 2
    r.1.take 4 = [0x2400000, 0xC00000, 0x2400000, 0xC00000] ∧ r.2.1 = -24 ∧ r.2.2 = 0 := by decide +kernel

/-- 04, the worked example: its scale and its mx8 codes; and the saturation of 3.99. -/
theorem test_scale_quant :
    blockScale [([0x2400000, 0xC00000], -24)] = 128 ∧ (quant 10 0x2400000 (-24) 128).1 = 0x48 ∧ (quant 10 0xC00000 (-24) 128).1 = 0x18
    ∧ (quant 10 (399 * 2 ^ 24 / 100) (-24) 128).1 = 127 := by decide +kernel

/-- 04, the worked example: the inverse rotation recovers the input. -/
theorem test_vdq :
    let r := (vdqRow 8 10 0 ((List.replicate 16 [0x48, 0x18]).flatten) 128 (some 2)).map (·.1)
    r.take 3 = [0x3FC0, 0xBF40, 0] := by decide +kernel

/-- 09 R234, the worked examples: sgd and mom in f32; a bf16 weight that stays with NX. -/
theorem test_supd :
    supdElem 0 9 ⟨0x3E000000, 0, 0, 0, true⟩ 0x3F800000 0x3F000000 0 = (0x3F700000, 0, 0)
    ∧ supdElem 1 9 ⟨0x3E000000, 0x3F000000, 0, 0, true⟩ 0x3F800000 0x3F000000 0x3E800000 = (0x3F6C0000, 0x3F200000, 0)
    ∧ (supdElem 0 8 ⟨0x3A800000, 0, 0, 0, true⟩ 0x3F80 0x3F800000 0).1 = 0x3F80
    ∧ (supdElem 0 8 ⟨0x3A800000, 0, 0, 0, true⟩ 0x3F80 0x3F800000 0).2.2 = fNX := by decide +kernel

/-- 04 R65, R66: f32 1.0 + 1.0; 1.0 / 0 sets DZ; infinity less infinity is the canonical NaN with NV. -/
theorem test_fp :
    addE 9 0 0x3F800000 0x3F800000 = (0x40000000, 0) ∧ fpRcp 9 0 (fpOf 9 0) = (0x7F800000, fDZ) ∧ subE 9 0 0x7F800000 0x7F800000 = (0x7FC00000, fNV) := by
  decide +kernel

/-- 05 R82; 20 R334: a reserved word raises cause 0x01 with the word as TVAL. -/
theorem test_reserved :
    nextHas (exec (.reservedOpcode .c 0x18000000) s0) (fun t => t.core.frame.cause == 1 && t.core.frame.tval == 0x18000000) = true := by decide +kernel

/-- 19 R318: an ABORT of a kernel that does not run completes with code 4; CSTAT holds the tag over the code, CONS counts. -/
theorem test_abort :
    nextHas (exec (.abort (cmd 7 0 0)) (wRing 1)) (fun t =>
      Memory.readNat t.mem 0x200068 8 == 9 * 2 ^ 32 + 4 && Memory.readNat t.mem 0x200008 8 == 1) = true := by decide +kernel

/-- 21 R348: a 1 written to the fault word clears its bit. -/
theorem test_fault_word :
    nextHas (exec (.faultWordClear 2) { w0 with host := { w0.host with fault := 3 } }) (fun t => t.host.fault == 1) = true := by decide +kernel

/-- 02 R29: a frame tick every 75 reference ticks. -/
theorem test_frame_tick : nextHas (exec .frameTick State.reset) (fun t => t.disp.frame == 1 && t.now == 75) = true := by decide +kernel

/-- 23 R375: of two slots that verify the higher version boots; one below the fused version does not; FWVER is 0 with none. -/
theorem test_firmware :
    let v := State.reset.serv
    ({ v with slots := #v[⟨3, true⟩, ⟨5, true⟩] } : Service).firmware = some 5 ∧ ({ v with slots := #v[⟨3, true⟩, ⟨5, false⟩] } : Service).firmware = some 3
    ∧ ({ v with slots := #v[⟨3, true⟩, ⟨5, false⟩], fused := 4 } : Service).firmware = none := by decide +kernel

/-- 23 R375; FIPS 180-4: the published SHA-384 digest of the message abc. -/
theorem test_sha384 :
    leNat (sha384 [0x61, 0x62, 0x63]).toList.reverse
      = 0xCB00753F45A35E8BB5A03D699AC65007272C32AB0EDED1631A8B605A43FF5BED8086072BA1E7CC2358BAECA134C825A7 := by decide +kernel

end Sys2Proof.Tests
end

section
/-!
SUPPORT. O52: what the operations of bring-up, reliability and service change and what they leave: saturating counts, READY (21 R348), the
record of a stack (23 R367 to R374), and the units' own events.
-/
open Sys2Proof Sys2Proof.Machine

namespace Sys2Proof.Machine

/-! ### Counts and lists -/

theorem sat_eq_min (n v : Nat) : sat n v = Nat.min n v := by
  unfold sat
  split
  · next h => exact (Nat.min_eq_right h).symm
  · next h => exact (Nat.min_eq_left (Nat.le_of_not_le h)).symm

theorem count64_eq_min (n : Nat) : count64 n = Nat.min (2 ^ 64 - 1) (n + 1) := sat_eq_min _ _

@[simp] theorem mem_dedup {α : Type} [BEq α] [LawfulBEq α] (l : List α) (x : α) : x ∈ dedup l ↔ x ∈ l := by
  induction l with
  | nil => rfl
  | cons a l ih =>
    by_cases h : x = a
    · simp [dedup, h]
    · simp [dedup, h, ih]

/-- The entry of a key in a list of which that key's entries were taken out is the entry put behind it. -/
theorem find?_filter_ne_append {α β : Type} [BEq α] [LawfulBEq α] (l r : List (α × β)) (a : α) :
    (l.filter (fun p => p.1 != a) ++ r).find? (fun p => p.1 == a) = r.find? fun p => p.1 == a := by
  have gone : (l.filter fun p => p.1 != a).find? (fun p => p.1 == a) = none := by simp
  rw [List.find?_append, gone, Option.none_or]

/-! ### READY (21 R348) -/

/-- A change of the map touches the host port alone. -/
theorem State.setReady_eq (s : State) (dw bit : Nat) (v : Bool) : ∃ h : HostPort, s.setReady dw bit v = { s with host := h } := by
  unfold State.setReady
  dsimp only
  split_ifs <;> exact ⟨_, rfl⟩

@[simp] theorem State.setReady_mem (s : State) (dw bit : Nat) (v : Bool) : (s.setReady dw bit v).mem = s.mem := by
  obtain ⟨h, e⟩ := s.setReady_eq dw bit v; rw [e]
@[simp] theorem State.setReady_core (s : State) (dw bit : Nat) (v : Bool) : (s.setReady dw bit v).core = s.core := by
  obtain ⟨h, e⟩ := s.setReady_eq dw bit v; rw [e]
@[simp] theorem State.setReady_others (s : State) (dw bit : Nat) (v : Bool) : (s.setReady dw bit v).others = s.others := by
  obtain ⟨h, e⟩ := s.setReady_eq dw bit v; rw [e]
@[simp] theorem State.setReady_serv (s : State) (dw bit : Nat) (v : Bool) : (s.setReady dw bit v).serv = s.serv := by
  obtain ⟨h, e⟩ := s.setReady_eq dw bit v; rw [e]

theorem getLsbD_xor_two_pow (x : Word64) {bit : Nat} (h : bit < 64) : (x ^^^ w64 (2 ^ bit)).getLsbD bit = !x.getLsbD bit := by
  rw [BitVec.getLsbD_xor, w64, BitVec.getLsbD_ofNat, Nat.testBit_two_pow_self]
  simp [h]

/-- The bit set or cleared reads so; word 7 is the generation count. -/
theorem State.setReady_bit (s : State) {dw bit : Nat} (v : Bool) (hd : dw < 7) (hb : bit < 64) :
    ((s.setReady dw bit v).host.ready[dw]).getLsbD bit = v := by
  unfold State.setReady
  rw [dif_pos (by omega)]
  dsimp only
  split_ifs with same
  · exact same
  · rw [Vector.getElem_set_ne (h := by omega), Vector.getElem_set_self, getLsbD_xor_two_pow _ hb, Bool.eq_not.mpr same, Bool.not_not]

/-- A word of the map that is neither the bit's own nor the generation count stays. -/
theorem State.setReady_word (s : State) {dw bit : Nat} (v : Bool) {i : Nat} (hi : i < 7) (ne : dw ≠ i) :
    (s.setReady dw bit v).host.ready[i] = s.host.ready[i] := by
  unfold State.setReady
  dsimp only
  split_ifs
  · rfl
  · rw [Vector.getElem_set_ne (h := by omega), Vector.getElem_set_ne (h := ne)]
  · rfl

/-! ### A stack of the grade -/

@[simp] theorem State.updStack_mem (s : State) (n : BitVec 5) (f : Stack → Stack) : (s.updStack n f).mem = s.mem := by
  unfold State.updStack; split <;> rfl
@[simp] theorem State.updStack_poison (s : State) (n : BitVec 5) (f : Stack → Stack) : (s.updStack n f).poison = s.poison := by
  unfold State.updStack; split <;> rfl
@[simp] theorem State.updStack_host (s : State) (n : BitVec 5) (f : Stack → Stack) : (s.updStack n f).host = s.host := by
  unfold State.updStack; split <;> rfl

/-- A stack of the grade after its change. -/
theorem State.updStack_stack (s : State) {n : BitVec 5} (f : Stack → Stack) {k : Nat} (hn : n.toNat = k) (h : k < 24) (g : k < s.stackCount) :
    (s.updStack n f).serv.hbmStacks[k] = f s.serv.hbmStacks[k] := by
  subst hn
  unfold State.updStack
  rw [dif_pos ⟨h, g⟩]
  exact Vector.getElem_set_self _

theorem State.stack_eq_getElem (s : State) {k : Nat} (h : k < 24) : s.stack k = s.serv.hbmStacks[k] := by
  simp [State.stack, h]

/-! ### Bank stalls and postponed refreshes (23 R372) -/

@[simp] theorem Stack.stall_setStall (k : Stack) (bank : BitVec 16) (t : Nat) : (k.setStall bank t).stall bank = t := by
  simp only [Stack.setStall, Stack.stall, find?_filter_ne_append]
  simp

@[simp] theorem Stack.owed_setStall (k : Stack) (bank b : BitVec 16) (t : Nat) : (k.setStall bank t).owed b = k.owed b := rfl

@[simp] theorem Stack.owed_setOwed (k : Stack) (bank : BitVec 16) (n : Nat) : (k.setOwed bank n).owed bank = n := by
  simp only [Stack.setOwed, Stack.owed, find?_filter_ne_append]
  by_cases h : n = 0 <;> simp [h]

/-! ### Training records (23 R367) -/

/-- The record that full training writes is valid for its unit. -/
theorem State.newRecord_valid (s : State) (serial points : Nat) :
    ∃ x, s.newRecord serial points = (some x, s.fresh.2) ∧ s.recordValid serial (some x) = true :=
  ⟨_, rfl, by simp [State.recordValid]⟩

/-! ### Power good (23 R366, R375) -/

/-- MODID holds FWVER above its low half. -/
theorem modid_fwver (v : BitVec 32) (m : Word64) : (v.zeroExtend 64 <<< 32 ||| m &&& 0xFFFFFFFF) >>> 32 = v.zeroExtend 64 := by
  have low : (0xFFFFFFFF : Word64) >>> 32 = 0#64 := by decide
  have high : (v.zeroExtend 64 <<< 32) >>> 32 = v.zeroExtend 64 := by
    apply BitVec.eq_of_toNat_eq
    have := v.isLt
    simp
    omega
  rw [BitVec.ushiftRight_or_distrib, BitVec.ushiftRight_and_distrib, low, BitVec.and_zero, BitVec.or_zero, high]

theorem count64_eq_min_left (n : Nat) : count64 n = Nat.min (n + 1) (2 ^ 64 - 1) := (count64_eq_min n).trans (Nat.min_comm _ _)

/-- The state that power good leaves; the core that the boot tests leave to the supervisor stands among those not in focus (23 R374). -/
theorem execPowerGood_spec (s : State) :
    ∃ t, exec .powerGood s = .next t ∧ t.now = 0 ∧ t.agenda = s.agenda ∧ t.disp.kernels = [] ∧ t.core.task = none ∧ t.serv.powered = true
      ∧ t.serv.cycles = Nat.min (s.serv.cycles + 1) (2 ^ 64 - 1) ∧ t.host.cxl = s.host.flashCxl
      ∧ t.serv.booted = s.serv.firmware.isSome ∧ t.host.modid >>> 32 = (s.serv.firmware.getD 0).zeroExtend 64
      ∧ (∃ c ∈ t.others, c.sup = true ∧ c.q = s.serv.tested.pickSup)
      ∧ (∀ c ∈ bootFenced (s.serv.cycles + 1), c ∈ t.serv.fencedCores) ∧ ∀ c ∈ t.mem, 0xC000000000000 ≤ c.1 := by
  refine ⟨_, rfl, rfl, rfl, rfl, ?_, rfl, count64_eq_min_left _, rfl, rfl, modid_fwver _ _, ⟨_, List.mem_singleton_self _, rfl, rfl⟩, ?_, ?_⟩
  · dsimp only
    split <;> rfl
  · exact fun c hc => (mem_dedup _ c).mpr (List.mem_append_right _ hc)
  · exact fun c hc => of_decide_eq_true (List.mem_filter.mp hc).2

/-! ### Units that become ready or fail (23 R366, R367, R374) -/

/-- A die position of the grade that has not failed is ready once it passes its checks. -/
theorem execUnitReady_die {s : State} {n : BitVec 5} (runs : s.serv.booted = true) (works : n.toNat ∉ s.serv.failedDies)
    (there : dieDisabled s.full n.toNat = false) : execUnitReady (.die n) s = .next (s.setReady 0 n.toNat true) := by
  simp [execUnitReady, runs, works, there]

/-- A cluster with a core in service is ready once its switch passes its check. -/
theorem execUnitReady_cluster {s : State} {n : BitVec 5} {c : BitVec 3} (runs : s.serv.booted = true)
    (serves : s.clusterServes n.toNat c.toNat = true) : execUnitReady (.cluster n c) s =
      .next (s.setReady (clusterBit n.toNat c.toNat).1 (clusterBit n.toNat c.toNat).2 true) := by
  simp [execUnitReady, runs, serves]

theorem portIndex_of_val {n : BitVec 5} {p : Fin 18} (h : p.val = n.toNat) : portIndex n = some p := by
  simp [portIndex, ← h]

/-- A port is ready as its STATE says. -/
theorem execUnitReady_port {s : State} {n : BitVec 5} {p : Fin 18} (runs : s.serv.booted = true) (h : p.val = n.toNat) :
    execUnitReady (.port n) s = .next (s.portReady p) := by
  simp [execUnitReady, runs, portIndex_of_val h]

/-- The host port comes up with and without firmware (23 R375). -/
theorem execUnitReady_hostPort (s : State) : execUnitReady .hostPort s = .next (s.setReady 2 32 true) := by
  simp [execUnitReady]

/-- A stack's training ended where firmware runs: the record it is left with, and READY where all went well. -/
def State.trained (s : State) (n : BitVec 5) (good : Bool) (record : Option TrainRecord) : State :=
  if good then (s.updStack n fun k => { k with record := record }).setReady 1 n.toNat true else s.updStack n fun k => { k with record := record }

theorem State.trained_record (s : State) {n : BitVec 5} (good : Bool) (r : Option TrainRecord) {k : Nat} (hn : n.toNat = k) (h : k < 24)
    (g : k < s.stackCount) : ((s.trained n good r).serv.hbmStacks[k]).record = r := by
  have stack := s.updStack_stack (fun k => { k with record := r }) hn h g
  cases good <;> simp [State.trained, stack]

@[simp] theorem State.trained_mem (s : State) (n : BitVec 5) (good : Bool) (r : Option TrainRecord) : (s.trained n good r).mem = s.mem := by
  cases good <;> simp [State.trained]

theorem State.trained_ready (s : State) (n : BitVec 5) (r : Option TrainRecord) :
    ((s.trained n true r).host.ready[1]).getLsbD n.toNat = true := by
  rw [State.trained, if_pos rfl]
  exact State.setReady_bit _ true (by decide) (by omega)

@[simp] theorem State.trained_host_of_bad (s : State) (n : BitVec 5) (r : Option TrainRecord) : (s.trained n false r).host = s.host := by
  simp [State.trained]

/-- A record that replays and verifies is kept, and the stack is ready unless it failed. -/
theorem execStackTrainingComplete_replayed {s : State} {n : BitVec 5} (runs : s.serv.booted = true) (g : n.toNat < s.stackCount)
    (valid : s.recordValid (Config.stackSerial n.toNat) (s.stack n.toNat).record = true) (works : (s.stack n.toNat).failed = false) :
    execStackTrainingComplete n true true s = .next (s.trained n true (s.stack n.toNat).record) := by
  simp [execStackTrainingComplete, State.trained, runs, valid, works, g]

/-- Full training that succeeds writes a new record, and the stack is ready unless it failed. -/
theorem execStackTrainingComplete_trained {s : State} {n : BitVec 5} (runs : s.serv.booted = true) (g : n.toNat < s.stackCount)
    (works : (s.stack n.toNat).failed = false) : execStackTrainingComplete n false true s =
      .next ((s.newRecord (Config.stackSerial n.toNat) 3).2.trained n true (s.newRecord (Config.stackSerial n.toNat) 3).1) := by
  simp [execStackTrainingComplete, State.trained, runs, works, g]

/-- Training that fails, or a replay of a record that is not valid, leaves no record. -/
theorem execStackTrainingComplete_failed {s : State} {n : BitVec 5} {replayed ok : Bool} (runs : s.serv.booted = true)
    (bad : ok = false ∨ replayed = true ∧ s.recordValid (Config.stackSerial n.toNat) (s.stack n.toNat).record = false) :
    execStackTrainingComplete n replayed ok s = .next (s.trained n false none) := by
  rcases bad with rfl | ⟨rfl, bad⟩
  · simp [execStackTrainingComplete, State.trained, runs]
  · simp [execStackTrainingComplete, State.trained, runs, bad]

/-- A stack's training where firmware runs: on its valid record, with a new one, or failed (23 R367). -/
theorem execStackTrainingComplete_spec {s : State} {n : BitVec 5} (h : n.toNat < 24) (runs : s.serv.booted = true) (g : n.toNat < s.stackCount) :
    let record := (s.serv.hbmStacks[n.toNat]).record
    let valid := s.recordValid (Config.stackSerial n.toNat) record
    (valid = true → (s.serv.hbmStacks[n.toNat]).failed = false → ∃ t, execStackTrainingComplete n true true s = .next t
      ∧ t.host.ready[1].getLsbD n.toNat = true ∧ (t.serv.hbmStacks[n.toNat]).record = record ∧ t.mem = s.mem)
    ∧ ((s.serv.hbmStacks[n.toNat]).failed = false → ∃ t x, execStackTrainingComplete n false true s = .next t
      ∧ t.host.ready[1].getLsbD n.toNat = true ∧ (t.serv.hbmStacks[n.toNat]).record = some x
      ∧ s.recordValid (Config.stackSerial n.toNat) (some x) = true ∧ t.mem = s.mem)
    ∧ ∀ replayed ok, ok = false ∨ (replayed = true ∧ valid = false) → ∃ t, execStackTrainingComplete n replayed ok s = .next t
      ∧ t.host.ready = s.host.ready ∧ (t.serv.hbmStacks[n.toNat]).record = none ∧ t.mem = s.mem := by
  rw [← s.stack_eq_getElem h]
  refine ⟨?_, ?_, ?_⟩
  · intro valid works
    exact ⟨_, execStackTrainingComplete_replayed runs g valid works, s.trained_ready .., s.trained_record _ _ rfl h g, s.trained_mem ..⟩
  · intro works
    obtain ⟨x, new, valid⟩ := s.newRecord_valid (Config.stackSerial n.toNat) 3
    refine ⟨_, x, execStackTrainingComplete_trained runs g works, State.trained_ready .., ?_, valid, ?_⟩
    · rw [new]
      exact s.fresh.2.trained_record _ _ rfl h g
    · rw [new, State.trained_mem]
      rfl
  · intro replayed ok bad
    exact ⟨_, execStackTrainingComplete_failed runs bad, congrArg HostPort.ready (s.trained_host_of_bad ..), s.trained_record _ _ rfl h g,
      s.trained_mem ..⟩

/-- A die's clusters stand in words 3 to 5 of READY. -/
theorem clusterBit_word {d c : Nat} : 3 ≤ (clusterBit d c).1 := Nat.le_add_right _ _

/-- The clusters of a die taken out of READY leave its words 0 to 2, and what is not the host port's. -/
theorem State.clearClusters_spec (s : State) (d : Nat) (l : List Nat) :
    let t := l.foldl (fun s c => s.setReady (clusterBit d c).1 (clusterBit d c).2 false) s
    t.host.ready[0] = s.host.ready[0] ∧ ∃ h : HostPort, t = { s with host := h } := by
  induction l generalizing s with
  | nil => exact ⟨rfl, s.host, rfl⟩
  | cons c l ih =>
    obtain ⟨word, h, rest⟩ := ih (s.setReady (clusterBit d c).1 (clusterBit d c).2 false)
    obtain ⟨g, one⟩ := s.setReady_eq (clusterBit d c).1 (clusterBit d c).2 false
    have away : (clusterBit d c).1 ≠ 0 := Nat.ne_of_gt (Nat.lt_of_lt_of_le (by decide) clusterBit_word)
    refine ⟨word.trans (s.setReady_word false (by decide) away), h, ?_⟩
    rw [List.foldl_cons, rest, one]

/-- A die that runs no task fails: its READY bit is clear, and it is among the failed ones; no core is touched (23 R366, R374). -/
theorem execUnitFailure_idle_die {s : State} {n : BitVec 5} (h : n.toNat < 24)
    (idle : ¬(s.core.die = n.toNat ∧ s.core.task.isSome = true ∨ ∃ o ∈ s.others, o.die = n.toNat ∧ o.task.isSome = true)) :
    ∃ t, execUnitFailure (.die n) s = .next t ∧ t.host.ready[0].getLsbD n.toNat = false ∧ n.toNat ∈ t.serv.failedDies ∧ t.mem = s.mem
      ∧ t.core = s.core := by
  let s0 : State := { s with serv := { s.serv with failedDies := dedup (s.serv.failedDies ++ [n.toNat]) } }
  let s1 := s0.setReady 0 n.toNat false
  let s2 := (List.range 8).foldl (fun s c => s.setReady (clusterBit n.toNat c).1 (clusterBit n.toNat c).2 false) s1
  obtain ⟨word, g, e⟩ := s1.clearClusters_spec n.toNat (List.range 8)
  have core : s2.core = s.core := by simp [s2, e, s1, s0]
  have others : s2.others = s.others := by simp [s2, e, s1, s0]
  have noTask : (s2.core :: s2.others).filter (fun c => c.die == n.toNat && c.task.isSome) = [] := by
    rw [core, others, List.filter_eq_nil_iff]
    simpa using idle
  refine ⟨s2, congrArg Host.Outcome.next ?_, ?_, ?_, ?_, core⟩
  · change ((s2.core :: s2.others).filter _).foldl _ s2 = s2
    rw [noTask, List.foldl_nil]
  · exact (congrArg (·.getLsbD n.toNat) word).trans (s0.setReady_bit false (by decide) (by omega))
  · simp [s2, e, s1, s0]
  · simp [s2, e, s1, s0]

/-! ### Temperatures and data rates (23 R369, R373) -/

theorem execThermalSample_die {s : State} {n : BitVec 5} (temp : BitVec 16) {k : Nat} (hk : k = n.toNat) (h : k < 24) :
    ∃ t, execThermalSample false n temp s = .next t ∧ t.serv.dieTemp[k] = temp.toInt ∧ t.mem = s.mem
      ∧ t.serv.dieTherm[k] = (s.serv.dieTherm[k]).sample temp.toInt := by
  subst hk
  refine ⟨_, dif_pos ⟨h, .inl rfl⟩, ?_, rfl, ?_⟩
  · exact Vector.getElem_set_self _
  · exact Vector.getElem_set_self _

theorem execThermalSample_stack {s : State} {n : BitVec 5} (temp : BitVec 16) {k : Nat} (hk : k = n.toNat) (h : k < 24) (g : k < s.stackCount) :
    ∃ t, execThermalSample true n temp s = .next t ∧ t.mem = s.mem
      ∧ t.serv.stkTherm[k] = (s.serv.stkTherm[k]).sample temp.toInt := by
  subst hk
  refine ⟨_, dif_pos ⟨h, .inr g⟩, rfl, ?_⟩
  exact Vector.getElem_set_self _

/-- From 95 degrees the point goes one down in data rate, to the lowest at most. -/
theorem Stack.atTemp_hot (k : Stack) {t : Int} (now : Nat) (hot : 95 ≤ t) : (k.atTemp t now).rate = Nat.min 2 (k.rate + 1) := by
  rw [Stack.atTemp, if_pos hot]

/-- After 60 seconds at 85 degrees at most the point goes back up by one, to the boot point at most. -/
theorem Stack.atTemp_cool {k : Stack} {t : Int} {now : Nat} (cool : t ≤ 85) (since : k.cool ≠ 0) (slow : k.boot < k.rate)
    (long : k.cool + coolTicks ≤ now + 1) : (k.atTemp t now).rate = k.rate - 1 := by
  rw [Stack.atTemp, if_neg (by omega), if_pos cool, if_neg since, if_pos ⟨slow, long⟩]

theorem execRatePointSwitch_spec {s : State} {n : BitVec 5} (temp : BitVec 16) {k : Nat} (hk : k = n.toNat) (h : k < 24) (g : k < s.stackCount) :
    ∃ t, execRatePointSwitch n temp s = .next t ∧ t.mem = s.mem
      ∧ (95 ≤ temp.toInt → (t.serv.hbmStacks[k]).rate = Nat.min 2 ((s.serv.hbmStacks[k]).rate + 1))
      ∧ (temp.toInt ≤ 85 → (s.serv.hbmStacks[k]).cool ≠ 0 → (s.serv.hbmStacks[k]).boot < (s.serv.hbmStacks[k]).rate →
          (s.serv.hbmStacks[k]).cool + coolTicks ≤ s.now + 1 → (t.serv.hbmStacks[k]).rate = (s.serv.hbmStacks[k]).rate - 1) := by
  have stack := s.updStack_stack (fun k => k.atTemp temp.toInt s.now) hk.symm h g
  refine ⟨_, rfl, s.updStack_mem .., ?_, ?_⟩
  · exact fun hot => stack ▸ Stack.atTemp_hot _ _ hot
  · exact fun cool since slow long => stack ▸ Stack.atTemp_cool cool since slow long

/-! ### HBM protection (23 R370 to R372) -/

/-- An atom of HBM is found uncorrectable that is not yet poison. -/
theorem execPatrolScrub_uncorrectable {s : State} {pa : BitVec 52} (inside : pa.toNat < s.hbmTop) (fresh : pa.toNat / 32 ∉ s.poison) :
    execPatrolScrub pa true s = .next (({ s with poison := pa.toNat / 32 :: s.poison } : State).updStack (BitVec.ofNat 5 (stackOf pa.toNat))
      fun k => { k with uncorr := count64 k.uncorr }) := by
  rw [execPatrolScrub, if_neg (Nat.not_le.mpr inside)]
  simp [fresh]

/-- An atom of HBM is found corrected. -/
theorem execPatrolScrub_corrected {s : State} {pa : BitVec 52} (inside : pa.toNat < s.hbmTop) :
    execPatrolScrub pa false s = .next (s.updStack (BitVec.ofNat 5 (stackOf pa.toNat))
      fun k => { k with corr := count64 k.corr, errors := k.errors ++ [(Config.rowOf pa.toNat, s.now)] }) := by
  rw [execPatrolScrub, if_neg (Nat.not_le.mpr inside)]
  rfl

/-- A stack after the remap of a row was asked for at a tick: see `execRowRemap_eq`. -/
def Stack.remapRow (k : Stack) (row : BitVec 32) (now : Nat) : Stack :=
  if k.errorsOf row now < 16 then k
  else { k with remaps := sat (2 ^ 32 - 1) (k.remaps + 1), remapped := k.remapped ++ [row], errors := k.errors.filter fun e => e.1 != row }

theorem execRowRemap_eq (n : BitVec 5) (row : BitVec 32) (s : State) :
    execRowRemap n row s = .next (s.updStack n fun k => k.remapRow row s.now) := rfl

theorem Stack.remapRow_few {k : Stack} {row : BitVec 32} {now : Nat} (few : k.errorsOf row now < 16) : k.remapRow row now = k := if_pos few

/-- A row with 16 errors in a day is remapped, counted, and begins anew (23 R371). -/
theorem Stack.remapRow_many {k : Stack} {row : BitVec 32} {now : Nat} (many : 16 ≤ k.errorsOf row now) :
    (k.remapRow row now).remaps = Nat.min (k.remaps + 1) (2 ^ 32 - 1) ∧ (k.remapRow row now).remapped = k.remapped ++ [row]
      ∧ (k.remapRow row now).errorsOf row now = 0 := by
  rw [Stack.remapRow, if_neg (Nat.not_lt.mpr many)]
  refine ⟨(sat_eq_min _ _).trans (Nat.min_comm _ _), rfl, ?_⟩
  simp +contextual [Stack.errorsOf]

/-- A stack after an alert of a bank at a tick: see `execActivationAlert_eq`. -/
def Stack.alerted (k : Stack) (bank : BitVec 16) (now : Nat) : Stack :=
  if k.owed bank < 8 then k.setStall bank (Nat.max now (k.stall bank) + alertTicks)
  else (k.setOwed bank 0).setStall bank (Nat.max now (k.stall bank) + 9 * refreshTicks + alertTicks)

theorem execActivationAlert_eq (n : BitVec 5) (bank : BitVec 16) (s : State) :
    execActivationAlert n bank s = .next (s.updStack n fun k => k.alerted bank s.now) := rfl

/-- An alert with fewer than eight refreshes postponed is serviced at the end of a stall or at once (23 R372). -/
theorem Stack.alerted_few {k : Stack} {bank : BitVec 16} (now : Nat) (few : k.owed bank < 8) :
    (k.alerted bank now).stall bank = Nat.max now (k.stall bank) + 2250 := by
  rw [Stack.alerted, if_pos few, Stack.stall_setStall]

/-- One with eight postponed comes after them and one more (23 R372). -/
theorem Stack.alerted_all {k : Stack} {bank : BitVec 16} (now : Nat) (all : 8 ≤ k.owed bank) :
    (k.alerted bank now).owed bank = 0 ∧ (k.alerted bank now).stall bank = Nat.max now (k.stall bank) + 9 * 1500 + 2250 := by
  rw [Stack.alerted, if_neg (Nat.not_lt.mpr all), Stack.stall_setStall, Stack.owed_setStall, Stack.owed_setOwed]
  exact ⟨rfl, rfl⟩

/-- A stack for which a refresh of a bank fell due, at a tick, with a free value's number: see `execRefresh_eq`. -/
def Stack.afterRefresh (k : Stack) (bank : BitVec 16) (now free : Nat) : Stack :=
  let left := Nat.min (Config.postponed free) (Nat.min 8 (k.owed bank + 1))
  if k.owed bank < left then k.setOwed bank left
  else (k.setOwed bank left).setStall bank (Nat.max now (k.stall bank) + (k.owed bank + 1 - left) * refreshTicks)

theorem execRefresh_eq (n : BitVec 5) (bank : BitVec 16) (s : State) :
    execRefresh n bank s = .next (s.fresh.2.updStack n fun k => k.afterRefresh bank s.now s.free) := rfl

/-- What a stack then owes the bank: a free number, 8 at most, and one more than before at most. -/
theorem Stack.owed_afterRefresh (k : Stack) (bank : BitVec 16) (now free : Nat) :
    (k.afterRefresh bank now free).owed bank = Nat.min (Config.postponed free) (Nat.min 8 (k.owed bank + 1)) := by
  unfold Stack.afterRefresh
  dsimp only
  split
  · exact Stack.owed_setOwed ..
  · exact (Stack.owed_setStall ..).trans (Stack.owed_setOwed ..)

theorem Stack.owed_afterRefresh_le (k : Stack) (bank : BitVec 16) (now free : Nat) :
    (k.afterRefresh bank now free).owed bank ≤ 8 ∧ (k.afterRefresh bank now free).owed bank ≤ k.owed bank + 1 := by
  rw [Stack.owed_afterRefresh]
  exact ⟨(Nat.min_le_right ..).trans (Nat.min_le_left ..), (Nat.min_le_right ..).trans (Nat.min_le_right ..)⟩

theorem toNat_ofNat_stack {k : Nat} (h : k < 24) : (BitVec.ofNat 5 k).toNat = k := by
  rw [BitVec.toNat_ofNat]
  omega

end Sys2Proof.Machine

/-- Settles O52: each event's state is named by its lemma above, and its clauses are read off that state. -/
theorem unitsPowerAndService : Obligations.UnitsPowerAndService := by
  unfold Obligations.UnitsPowerAndService
  constructor
  · intro s n c temp k hk here
    subst hk
    refine ⟨execPowerGood_spec s, execUnitReady_die, execUnitReady_cluster, ?_, execUnitReady_hostPort s, ?_, ?_, ?_, ?_, ?_, ?_, ?_⟩
    · exact fun p runs hp => (execUnitReady_port runs hp).trans (by rw [State.portReady, hp])
    · intro replayed ok off
      exact congrArg Host.Outcome.next (if_pos (by simp [off]))
    · exact execStackTrainingComplete_spec
    · intro h g
      have stack := s.updStack_stack (fun k => { k with failed := true }) rfl h g
      exact ⟨_, rfl, State.setReady_bit _ false (by decide) (by omega), by simp [stack], by simp⟩
    · exact execUnitFailure_idle_die
    · exact execThermalSample_die temp rfl
    · exact execThermalSample_stack temp rfl
    · exact execRatePointSwitch_spec temp rfl
  · intro s n ch bank row pa k h hk g st
    have scrubbed := fun (r : State) (f : Stack → Stack) => r.updStack_stack f (toNat_ofNat_stack h) h
    have after := fun (f : Stack → Stack) => s.updStack_stack f hk.symm h g
    refine ⟨?_, ?_, ?_, ?_, ?_, ?_, ?_, ?_, ?_, ?_, ?_⟩
    · rintro inside rfl fresh
      refine ⟨_, execPatrolScrub_uncorrectable inside fresh, State.updStack_poison .., State.updStack_mem .., ?_⟩
      have found := scrubbed { s with poison := pa.toNat / 32 :: s.poison } (fun k => { k with uncorr := count64 k.uncorr }) g
      exact (congrArg Stack.uncorr found).trans (count64_eq_min _)
    · rintro inside rfl
      refine ⟨_, execPatrolScrub_corrected inside, State.updStack_poison .., State.updStack_mem .., ?_, ?_⟩
      · exact (congrArg Stack.corr (scrubbed _ _ g)).trans (count64_eq_min _)
      · exact congrArg Stack.errors (scrubbed _ _ g)
    · intro many
      obtain ⟨count, rows, clean⟩ := Stack.remapRow_many many
      have remapped := after fun k => k.remapRow row s.now
      exact ⟨_, execRowRemap_eq n row s, remapped ▸ count, remapped ▸ rows, remapped ▸ clean, s.updStack_mem ..⟩
    · intro few
      exact ⟨_, execRowRemap_eq n row s, (after _).trans (Stack.remapRow_few few), s.updStack_mem ..⟩
    · exact ⟨_, rfl, congrArg Stack.fenced (after _), s.updStack_mem ..⟩
    · intro few
      have served := after fun k => k.alerted bank s.now
      exact ⟨_, execActivationAlert_eq n bank s, served ▸ Stack.alerted_few s.now few, s.updStack_mem ..⟩
    · intro all
      obtain ⟨owed, stall⟩ := Stack.alerted_all s.now all
      have served := after fun k => k.alerted bank s.now
      exact ⟨_, execActivationAlert_eq n bank s, served ▸ owed, served ▸ stall, s.updStack_mem ..⟩
    · have due := s.fresh.2.updStack_stack (fun k => k.afterRefresh bank s.now s.free) hk.symm h g
      obtain ⟨most, more⟩ := Stack.owed_afterRefresh_le st bank s.now s.free
      exact ⟨_, execRefresh_eq n bank s, due ▸ most, due ▸ more, State.updStack_mem ..⟩
    · exact ⟨_, rfl, rfl, rfl⟩
    · exact ⟨_, rfl, rfl, rfl, rfl⟩
    · exact ⟨_, rfl, rfl, rfl, rfl⟩
end

section
/-!
SUPPORT. O55: what a step is where no input and no event comes first and nothing holds the strand, and what the strand fetches.
-/
open Sys2Proof Sys2Proof.Machine

namespace Sys2Proof.Machine

/-- A word of the memory that decodes is the instruction fetched (00 R3; 05 R82). -/
theorem Core.fetched_of_decode_ok {c : Core} {t : Strand} {i : Instr} (inside : c.pcOf t ≤ 0xFFFC) (d : decode t (c.fetchWord t) = .ok i) :
    c.fetched t = i := by
  rw [Core.fetched, if_neg (Nat.not_lt.mpr inside), d]

/-- A fetch past the memory is the trap of cause 0x05 at its address (06 R116). -/
theorem Core.fetched_past_memory {c : Core} {t : Strand} (past : 0xFFFC < c.pcOf t) :
    c.fetched t = .trapEntry 0x05 (strandSrc t) (w64 (c.pcOf t)) := by
  rw [Core.fetched, if_pos past]

/-- A word of the memory that decodes to nothing is a reserved opcode (05 R82). -/
theorem Core.fetched_of_decode_none {c : Core} {t : Strand} (inside : ¬ 0xFFFC < c.pcOf t) (undefined : ∀ j, decode t (c.fetchWord t) ≠ .ok j) :
    c.fetched t = .reservedOpcode t (c.fetchWord t) := by
  rw [Core.fetched, if_neg inside]
  cases d : decode t (c.fetchWord t) with
  | ok j => exact absurd d (undefined j)
  | error e => rfl

/-- With no input, no event before it and nothing that holds the strand, a step is the cycle of the turn's strand (02 R20). -/
theorem step_eq_settle_fetched {s : State} (input : s.agenda = []) (event : s.eventFirst = none) (free : s.begin_.pause = none) :
    step s = settle (exec (s.begin_.core.fetched s.turn) s.begin_) := by
  simp only [step, input, event, State.cycle, free]

end Sys2Proof.Machine

/-- Settles O55: the step is the cycle of the turn's strand, which runs what the strand fetches. -/
theorem stepRunsTheDecodedInstruction : Obligations.StepRunsTheDecodedInstruction := by
  unfold Obligations.StepRunsTheDecodedInstruction
  constructor
  · intro s i input event free inside d
    rw [step_eq_settle_fetched input event free, Core.fetched_of_decode_ok inside d]
    rfl
  · intro s input event free pc w i stops
    have runs : s.begin_.core.fetched s.turn = i := by
      by_cases past : 0xFFFC < pc
      · exact (Core.fetched_past_memory past).trans (if_pos past).symm
      · exact (Core.fetched_of_decode_none past (stops.resolve_left past)).trans (if_neg past).symm
    rw [step_eq_settle_fetched input event free, runs]
    rfl
end

section
/-!
SUPPORT. O53: what C's control registers read (06 R132 to R136; 20 R333), and what stands in them and in the queues at reset.
-/
open Sys2Proof Sys2Proof.Machine

namespace Sys2Proof.Machine

/-! ### What a control register reads -/

/-- SEED0 to SEED7 (06 R132). -/
theorem State.csrRead_seed (s : State) {n : Nat} (h : 0x020 ≤ n ∧ n ≤ 0x027) :
    s.csrRead n = some ((s.core.csr.seed[n - 0x20]'(by omega)).zeroExtend 64) := by
  obtain ⟨lo, hi⟩ := h
  have other : n ≠ 0x000 ∧ n ≠ 0x001 ∧ n ≠ 0x002 ∧ n ≠ 0x003 ∧ n ≠ 0x010 := by omega
  simp [State.csrRead, other, lo, hi]

/-- The pace registers of L, X and S (06 R134). -/
theorem State.csrRead_pace (s : State) {n : Nat} (h : 0x030 ≤ n ∧ n ≤ 0x032) :
    s.csrRead n = some ((s.core.csr.pace[n - 0x30]'(by omega)).zeroExtend 64) := by
  obtain ⟨lo, hi⟩ := h
  have other : n ≠ 0x000 ∧ n ≠ 0x001 ∧ n ≠ 0x002 ∧ n ≠ 0x003 ∧ n ≠ 0x010 ∧ ¬ n ≤ 0x027 := by omega
  simp [State.csrRead, other, lo, hi]

theorem State.csrRead_fdamp (s : State) :
    s.csrRead 0x038 = some (if s.core.csr.fdamp = 0x80000000 then 0 else s.core.csr.fdamp.zeroExtend 64) := rfl

theorem State.csrRead_mtesti (s : State) : s.csrRead 0x050 = some (s.core.csr.mtesti.zeroExtend 64) := rfl

theorem State.csrRead_clkst (s : State) : s.csrRead 0x083 = some s.clkst := rfl

theorem State.csrRead_lodc (s : State) :
    s.csrRead 0x091 = some (w64 (s.core.csr.lodcEvents * 2 ^ 32 + s.core.csr.lodcCycles)) := rfl

/-- The six frame registers in the order of their numbers (20 R333). -/
theorem State.csrRead_frame (s : State) :
    s.csrRead 0x100 = some (s.core.frame.fpc.zeroExtend 64) ∧ s.csrRead 0x101 = some (s.core.frame.fnpc.zeroExtend 64)
      ∧ s.csrRead 0x102 = some (s.core.frame.fnnpc.zeroExtend 64) ∧ s.csrRead 0x103 = some (s.core.frame.cause.zeroExtend 64)
      ∧ s.csrRead 0x104 = some s.core.frame.tval ∧ s.csrRead 0x105 = some s.core.tstat := ⟨rfl, rfl, rfl, rfl, rfl, rfl⟩

/-! ### Reset -/

/-- The hitch queue and the data queue of each ordered pair are empty (02 R35). -/
theorem Core.reset_queues (die q : Nat) (n : Fin 12) :
    ((Core.reset die q).hq[n]).items = [] ∧ ((Core.reset die q).dq[n]).items = [] := by
  simp [Core.reset, Queue.empty]

@[simp] theorem Csr.reset_seed {k : Nat} (h : k < 8) : Csr.reset.seed[k] = 0 := Vector.getElem_replicate h

@[simp] theorem Csr.reset_pace {k : Nat} (h : k < 3) : Csr.reset.pace[k] = 0 := Vector.getElem_replicate h

theorem State.reset_csr : State.reset.core.csr = Csr.reset := rfl

/-- Each die holds the 64 boost permits of 22 R360. -/
theorem State.reset_permits (d : Fin 24) : (State.reset.power[d]).permits = 64 := by
  simp [State.reset]

/-- Every domain at divisor 6 and 64 permits (06 R136; 22 R360). -/
theorem State.reset_clkst : State.reset.clkst = 0x4000006666 := by
  decide

theorem State.reset_tstat : State.reset.core.tstat = 0 := by
  decide

theorem State.reset_csrRead_seed {n : Nat} (h : 0x020 ≤ n ∧ n ≤ 0x027) : State.reset.csrRead n = some 0 := by
  rw [State.csrRead_seed _ h]
  simp [State.reset_csr]

theorem State.reset_csrRead_pace {n : Nat} (h : 0x030 ≤ n ∧ n ≤ 0x032) : State.reset.csrRead n = some 0 := by
  rw [State.csrRead_pace _ h]
  simp [State.reset_csr]

theorem State.reset_csrRead_fdamp : State.reset.csrRead 0x038 = some 0 := State.csrRead_fdamp _

theorem State.reset_csrRead_lodc : State.reset.csrRead 0x091 = some 0 := State.csrRead_lodc _

/-- Every frame register is 0 (20 R333). -/
theorem State.reset_csrRead_frame {n : Nat} (h : 0x100 ≤ n ∧ n ≤ 0x105) : State.reset.csrRead n = some 0 := by
  obtain ⟨fpc, fnpc, fnnpc, cause, tval, tstat⟩ := State.reset.csrRead_frame
  obtain ⟨lo, hi⟩ := h
  interval_cases n
  · exact fpc
  · exact fnpc
  · exact fnnpc
  · exact cause
  · exact tval
  · exact tstat.trans (congrArg some State.reset_tstat)

end Sys2Proof.Machine

/-- Settles O53: the fields stand in the reset state itself, and each register reads as its lemma above says. -/
theorem resetValues : Obligations.ResetValues := by
  unfold Obligations.ResetValues
  refine ⟨rfl, rfl, rfl, rfl, rfl, Core.reset_queues 0 0, rfl, State.csrRead_mtesti _, ?clkst, ?zeros, rfl, rfl, State.reset_permits, rfl⟩
  case clkst => exact (State.csrRead_clkst _).trans (congrArg some State.reset_clkst)
  case zeros =>
    intro n listed
    have group : (0x020 ≤ n ∧ n ≤ 0x027) ∨ (0x030 ≤ n ∧ n ≤ 0x032) ∨ n = 0x038 ∨ n = 0x091 ∨ (0x100 ≤ n ∧ n ≤ 0x105) := by
      simp only [List.mem_cons, List.not_mem_nil, or_false] at listed
      omega
    obtain seed | pace | rfl | rfl | frame := group
    · exact State.reset_csrRead_seed seed
    · exact State.reset_csrRead_pace pace
    · exact State.reset_csrRead_fdamp
    · exact State.reset_csrRead_lodc
    · exact State.reset_csrRead_frame frame
end

section
/-!
SUPPORT. O59: the strands that run and the first among them, the core brought into focus, and that every step ends by giving the turn
(02 R20; 11 R266).
-/
open Sys2Proof Sys2Proof.Machine

namespace Sys2Proof.Machine

/-- The running strands of all cores, each with its core's place in the list. -/
theorem State.mem_allRunning (s : State) (n : Nat) (t : Strand) (k : Nat) :
    (n, t, k) ∈ (s.cores.zipIdx.flatMap fun p => s.running p.2 p.1) ↔ ∃ c, s.cores[n]? = some c ∧ c.runs t = true ∧ k = c.nextOf t := by
  simp only [List.mem_flatMap, State.mem_running, Prod.exists, List.mem_zipIdx_iff_getElem?, Prod.mk.injEq]
  constructor
  · rintro ⟨c, i, at_i, u, runs, rfl, rfl, rfl⟩
    exact ⟨c, at_i, runs, rfl⟩
  · rintro ⟨c, at_n, runs, rfl⟩
    exact ⟨c, n, at_n, t, runs, rfl, rfl, rfl⟩

/-- Where there is no first strand, none runs. -/
theorem State.firstStrand_none {s : State} (h : s.firstStrand = none) : ∀ c ∈ s.cores, ∀ t, c.runs t = false := by
  intro c hc t
  have empty := ((foldl_sooner _ _).1.mp h).2
  obtain ⟨n, at_n⟩ := List.getElem?_of_mem hc
  by_contra runs
  have listed := (s.mem_allRunning n t (c.nextOf t)).mpr ⟨c, at_n, by simpa using runs, rfl⟩
  rw [State.cores, empty] at listed
  exact absurd listed List.not_mem_nil

/-- The first strand runs, and no running strand has its next cycle before it. -/
theorem State.firstStrand_some {s : State} {n : Nat} {t : Strand} {k : Nat} (h : s.firstStrand = some (n, t, k)) :
    ∃ c, s.cores[n]? = some c ∧ c.runs t = true ∧ ∀ d ∈ s.cores, ∀ u, d.runs u = true → c.nextOf t ≤ d.nextOf u := by
  obtain ⟨listed, -, soonest⟩ := (foldl_sooner _ _).2 _ h
  obtain ⟨c, at_n, runs, rfl⟩ := (s.mem_allRunning n t k).mp (listed.resolve_left (by simp))
  refine ⟨c, at_n, runs, fun d hd u later => ?_⟩
  obtain ⟨m, at_m⟩ := List.getElem?_of_mem hd
  exact soonest _ ((s.mem_allRunning m u (d.nextOf u)).mpr ⟨d, at_m, later, rfl⟩)

/-- The core of a place is in focus once it is brought there, and no core is new. -/
theorem State.bring_spec {s : State} {n : Nat} {c : Core} (h : s.cores[n]? = some c) :
    (s.bring n).core = c ∧ ∀ d ∈ (s.bring n).cores, d ∈ s.cores := by
  cases n with
  | zero => exact ⟨by simpa [State.cores, State.bring] using h, fun d hd => hd⟩
  | succ n =>
    have other : s.others[n]? = some c := by simpa [State.cores] using h
    simp only [State.bring, other, State.cores, List.mem_cons, List.mem_append, true_and, List.not_mem_nil, or_false]
    rintro d (rfl | stays | rfl)
    · exact .inr (List.mem_of_getElem? other)
    · exact .inr (List.mem_of_mem_eraseIdx stays)
    · exact .inl rfl

/-- Once the strand whose cycle comes next is in focus, it runs, and no running strand comes before it. -/
theorem State.rotate_turnFirst (s : State) : s.rotate.TurnFirst := by
  unfold State.rotate
  cases first : s.firstStrand with
  | none =>
    rintro ⟨c, hc, t, runs⟩
    exact absurd runs (by simp [State.firstStrand_none first c hc t])
  | some r =>
    obtain ⟨n, t, k⟩ := r
    obtain ⟨c, at_n, runs, soonest⟩ := State.firstStrand_some first
    obtain ⟨focus, old⟩ := State.bring_spec at_n
    subst focus
    exact fun _ => ⟨runs, fun d hd u later => soonest d (old d hd) u later⟩

theorem settle_next {o : Host.Outcome State Fault Refusal} {t : State} (h : settle o = .next t) : ∃ u : State, t = u.rotate := by
  cases o with
  | next u => exact ⟨u, by simpa [settle] using h.symm⟩
  | fault f => cases h
  | refused r => cases h

/-- Each kind of step, of an input, of an event and of a cycle, ends by giving the turn. -/
theorem step_next {s t : State} (h : step s = .next t) : ∃ u : State, t = u.rotate := by
  unfold step at h
  split at h
  · split at h
    · exact settle_next h
    · cases h
  · split at h
    · exact settle_next h
    · exact settle_next h

end Sys2Proof.Machine

/-- Settles O59: every step gives the turn to the strand that the soonest of all running cycles belongs to. -/
theorem theNextCycleHasTheTurn : Obligations.TheNextCycleHasTheTurn := by
  unfold Obligations.TheNextCycleHasTheTurn
  intro s t h
  obtain ⟨u, rfl⟩ := step_next h
  exact u.rotate_turnFirst
end

section
/-! SUPPORT. O60: no strand of the reset machine runs (02 R20). -/
open Sys2Proof Sys2Proof.Machine

namespace Sys2Proof.Machine

/-- A core as reset leaves it runs no strand: none has begun, whether it is the supervisor's or not. -/
theorem Core.reset_runs (die q : Nat) (sup : Bool) (t : Strand) : ({ Core.reset die q with sup := sup } : Core).runs t = false := by
  cases t <;> simp [Core.runs, CStrand.runs, Step.runs, Core.reset, CStrand.reset, Step.reset]

theorem State.reset_runs : ∀ c ∈ State.reset.cores, ∀ t, c.runs t = false := by
  intro c hc t
  simp only [State.cores, State.reset, List.mem_cons, List.not_mem_nil, or_false] at hc
  obtain rfl | rfl := hc
  · exact Core.reset_runs 0 0 false t
  · exact Core.reset_runs 0 31 true t

end Sys2Proof.Machine

/-- Settles O60: reset memory lists no cell, and no strand runs. -/
theorem resetMeetsTheInvariants : Obligations.ResetMeetsTheInvariants := by
  unfold Obligations.ResetMeetsTheInvariants
  refine ⟨rfl, ?_⟩
  rintro ⟨c, hc, t, runs⟩
  exact absurd runs (by simp [State.reset_runs c hc t])
end

section
/-! SUPPORT. O12: an effect of a running task in the order of the checks (02 R26; 10 R247). -/
open Sys2Proof Sys2Proof.Machine

namespace Sys2Proof.Machine

/-- The slots that an effect hits kept with the running task (10 R239): see `State.put_of_task`. -/
def State.noteSlots (s : State) (e : EffKind) : State :=
  s.updTask fun t => { t with wrote := t.wrote ++ (s.slotsHit e).filter fun f => !t.wrote.contains f }

/-- What becomes of an effect of the task that runs. -/
theorem State.put_of_task {s : State} {k : Task} (h : s.core.task = some k) (rank : Nat) (e : EffKind) :
    s.put rank e =
      if k.pinned then .done ((s.noteSlots e).perform e)
      else if k.used + s.core.m.reserved + e.size ≤ 524288 then
        .done ((s.noteSlots e).updTask fun t => { t with buf := insertEff ⟨e, s.copyCycle, rank, none, s.issuePhase rank⟩ t.buf })
      else if k.forecast.isSome then .stall
      else .done ((s.noteSlots e).pin.perform e) := by
  rw [State.put, h]
  rfl

end Sys2Proof.Machine

/-- Settles O12: each clause is one branch of `State.put_of_task`. -/
theorem effectsAreBufferedOrPerformed : Obligations.EffectsAreBufferedOrPerformed := by
  unfold Obligations.EffectsAreBufferedOrPerformed
  intro s k rank e runs noted
  rw [State.put_of_task runs]
  refine ⟨?pinned, ?buffered, ?drained, ?held⟩
  case pinned => exact fun pinned => if_pos pinned
  case buffered =>
    intro free room
    rw [if_neg (by simp [free]), if_pos room]
    rfl
  case drained =>
    intro free full plain
    rw [if_neg (by simp [free]), if_neg (Nat.not_le.mpr full), if_neg (by simp [plain])]
    rfl
  case held =>
    intro free full forecasts
    rw [if_neg (by simp [free]), if_neg (Nat.not_le.mpr full), if_pos (by simpa [Option.isSome_iff_ne_none] using forecasts)]
end

section
/-! SUPPORT. O5: a store of C that performs at once, and one that goes into the splice buffer (06 R108, R110; 02 R26). -/
open Sys2Proof Sys2Proof.Machine

namespace Sys2Proof.Machine

/-- The low n bytes of a value stand at an address, lowest first, and every other byte is as before: see `cStore_performs`. -/
def Wrote (m m' : List Host.Cell) (pa n : Nat) (v : Word64) : Prop :=
  (∀ k, k < n → Memory.read m' (pa + k) = BitVec.ofNat 8 (v.toNat / 256 ^ k)) ∧
    ∀ x, x < pa ∨ pa + n ≤ x → Memory.read m' x = Memory.read m x

/-- Bytes that read as the low n bytes of a value, the rest of memory as before. -/
theorem Wrote.of_read {m m' : List Host.Cell} {pa n : Nat} {v : Word64}
    (h : ∀ x, Memory.read m' x = if pa ≤ x ∧ x < pa + n then (leBytes n v.toNat).getD (x - pa) 0 else Memory.read m x) :
    Wrote m m' pa n v := by
  refine ⟨fun k hk => ?_, fun x out => ?_⟩
  · rw [h, if_pos (by omega), Nat.add_sub_cancel_left, leBytes_get n _ k hk]
  · rw [h, if_neg (by omega)]

/-- No register of the machine but C's own, and of those none that is read, differs: what a store leaves (06 R110). -/
def SameRegisters (s t : State) : Prop :=
  CNext s.core.c t.core.c ∧ t.core.l = s.core.l ∧ t.core.x = s.core.x ∧ t.core.s = s.core.s ∧ t.core.v = s.core.v
    ∧ t.core.m = s.core.m ∧ t.core.csr = s.core.csr ∧ t.core.frame = s.core.frame

/-- A word of C completes after an effect that leaves the core as it was but for its task, rings and cache. -/
theorem SameButTask.sameRegisters {s s1 : State} (h : SameButTask s.core s1.core) : SameRegisters s s1.cDone := by
  refine ⟨State.cDone_next h, ?_⟩
  rw [State.cDone_core, h]
  exact ⟨rfl, rfl, rfl, rfl, rfl, rfl, rfl⟩

/-- A store that performs at once. -/
theorem cStore_performs {i : Instr} {b a : BitVec 5} {imm : BitVec 15} {n pa : Nat} {s : State} (wf : s.MemCanonical) (now : s.performsAt pa n)
    (f : s.cFree i [a, b] = true) (h : s.reaches (s.core.c.read a + imm.signExtend 64).toNat pa n true) :
    ∃ t, cStore i b a imm n s = .next t ∧ Wrote s.mem t.mem pa n (s.core.c.read b) ∧ SameRegisters s t := by
  have len := leBytes_length n (s.core.c.read b).toNat
  obtain ⟨s1, done, same, bytes⟩ := State.storeAt_performs (va := (s.core.c.read a + imm.signExtend 64).toNat) wf (len.symm ▸ now)
  rw [len] at bytes
  exact ⟨s1.cDone, (cStore_free f h).trans (congrArg _ done), .of_read bytes, same.sameRegisters⟩

/-- The four stores are one word for 1, 2, 4 and 8 bytes (06 R108). -/
theorem exec_store (s : State) (b a : BitVec 5) (i : BitVec 15) :
    ∀ e ∈ ([(.stB b a i, 1), (.stH b a i, 2), (.stW b a i, 4), (.stD b a i, 8)] : List (Instr × Nat)), exec e.1 s = cStore e.1 b a i e.2 s := by
  intro e width
  simp only [List.mem_cons, List.not_mem_nil, or_false] at width
  obtain rfl | rfl | rfl | rfl := width <;> rfl

/-- Whole bytes take their number of bytes in the splice buffer. -/
theorem size_store_whole (va pa : Nat) (bs : List Byte) : (EffKind.store va pa (whole bs)).size = bs.length := by
  have all : (whole bs).filter (fun b => b.2 != 0) = whole bs := by
    rw [List.filter_eq_self]
    simp [whole]
  rw [EffKind.size, all]
  simp [whole]

/-- A store of a task that is not pinned to global memory, with room for it. -/
theorem cStore_buffers {i : Instr} {b a : BitVec 5} {imm : BitVec 15} {n pa : Nat} {s : State} {k : Task} (runs : s.core.task = some k)
    (free : k.pinned = false) (snap : snapOf pa = none) (window : windowOf pa = none) (f : s.cFree i [a, b] = true)
    (h : s.reaches (s.core.c.read a + imm.signExtend 64).toNat pa n true) (room : k.used + s.core.m.reserved + n ≤ 524288) :
    ∃ t, cStore i b a imm n s = .next t ∧ t.mem = s.mem ∧ CNext s.core.c t.core.c
      ∧ t.core.task.map (·.buf) = some (insertEff
          ⟨.store (s.core.c.read a + imm.signExtend 64).toNat pa (whole (leBytes n (s.core.c.read b).toNat)), s.copyCycle, 0, none, s.issuePhase 0⟩
          k.buf) := by
  have away : s.isLocal pa = false := by simp [State.isLocal, window]
  obtain ⟨s1, put, mem, same, buf⟩ := State.put_buffers 0 runs free
    (e := .store (s.core.c.read a + imm.signExtend 64).toNat pa (whole (leBytes n (s.core.c.read b).toNat)))
    (by rwa [size_store_whole, leBytes_length])
  refine ⟨s1.cDone, (cStore_free f h).trans (congrArg _ ?_), mem, State.cDone_next same, buf⟩
  simp only [State.storeAt, snap, away, window, Option.isSome_none, Bool.false_and, Bool.false_eq_true, if_false, put]

end Sys2Proof.Machine

/-- Settles O5: a store performs its bytes or buffers them, by the lemma of each. -/
theorem storesWriteTheirBytes : Obligations.StoresWriteTheirBytes := by
  unfold Obligations.StoresWriteTheirBytes
  constructor
  · intro s b a i pa wf va e width now free there
    rw [exec_store s b a i e width]
    obtain ⟨t, done, ⟨bytes, others⟩, registers⟩ := cStore_performs wf now free there
    exact ⟨t, done, bytes, others, registers⟩
  · intro s k b a i pa runs notPinned snap window va e width free there room
    rw [exec_store s b a i e width]
    exact cStore_buffers runs notPinned snap window free there room
end

section
/-!
SUPPORT. O21: the tokens a word takes, the strand it leaves, and that the end of its cycle keeps its flight (02 R37; 05 R97; 07 R175).
-/
open Sys2Proof Sys2Proof.Machine

namespace Sys2Proof.Machine

/-! ### Tokens -/

theorem State.comeAfter_step (s : State) (t : StepStrand) (a : After) :
    s.comeAfter t.strand a = s.updStep t fun p => { p with after := p.after.join a } := by cases t <;> rfl

/-- A hitch queue after its change, and another as it was. -/
theorem Core.updHq_get (c : Core) (m n : Fin 12) (f : Queue → Queue) : (c.updHq m f).hq[n] = if m = n then f c.hq[n] else c.hq[n] := by
  by_cases same : m = n
  · subst same
    simp [Core.updHq]
  · have apart : m.val ≠ n.val := fun e => same (Fin.ext e)
    simp [Core.updHq, same, Vector.getElem_set_ne (h := apart)]

/-- Each queue gives as many tokens as the word names it. -/
theorem State.takeTokens_hq (t : StepStrand) (wants : List (BitVec 2)) (e : State) (n : Fin 12) :
    (e.takeTokens t wants).core.hq[n] =
      ((wants.map (inQ t.strand)).filter (· = n)).foldl (fun q _ => q.pop e.now (e.now + e.core.divOf t.strand)) e.core.hq[n] := by
  unfold State.takeTokens
  induction wants generalizing e with
  | nil => rfl
  | cons p l ih =>
    rw [List.foldl_cons, ih, State.comeAfter_step]
    simp only [Core.divOf_updStep, State.updStep_core_hq, State.updStep_now, State.updCore_now, State.updCore_core, Core.updHq_get,
      List.map_cons, List.filter_cons, decide_eq_true_eq]
    have div : (e.core.updHq (inQ t.strand p) fun q => q.pop e.now (e.now + e.core.divOf t.strand)).divOf t.strand = e.core.divOf t.strand := by
      cases t <;> rfl
    rw [div]
    split <;> rfl

/-! ### The strand -/

/-- A strand after a word that found it as `p` issued, once its tokens are taken: see `State.issueWord_eq`. -/
def Step.issued (q p : Step) (paced : Bool) (done : Done) (posts : List (BitVec 2)) (go : Go) : Step :=
  let r := match go with
    | .on => q.afterLoops p.pc.toNat
    | .taken a => (q.leaveLoops a, a)
    | .past a => (q, a)
  { r.1 with pc := BitVec.ofNat 32 r.2, seq := p.seq + 1, lastPace := if paced then some p.clock else p.lastPace,
             flights := q.flights ++ [⟨p.seq + 1, done, posts⟩] }

/-- A strand whose cycle ended: see `State.stepTick_eq`. -/
def Step.ticked (p : Step) (next : Nat) (w : Option WaitPlace) : Step :=
  ({ p with count := p.count + 1, clock := p.clock + 1, next := next, cond := .running w }).settle

@[simp] theorem Step.issued_g (q p : Step) (paced : Bool) (done : Done) (posts : List (BitVec 2)) (go : Go) :
    (q.issued p paced done posts go).g = q.g := by cases go <;> rfl
@[simp] theorem Step.issued_fflags (q p : Step) (paced : Bool) (done : Done) (posts : List (BitVec 2)) (go : Go) :
    (q.issued p paced done posts go).fflags = q.fflags := by cases go <;> rfl
@[simp] theorem Step.issued_latches (q p : Step) (paced : Bool) (done : Done) (posts : List (BitVec 2)) (go : Go) :
    (q.issued p paced done posts go).latches = q.latches := by cases go <;> rfl
@[simp] theorem Step.issued_count (q p : Step) (paced : Bool) (done : Done) (posts : List (BitVec 2)) (go : Go) :
    (q.issued p paced done posts go).count = q.count := by cases go <;> rfl
@[simp] theorem Step.issued_seq (q p : Step) (paced : Bool) (done : Done) (posts : List (BitVec 2)) (go : Go) :
    (q.issued p paced done posts go).seq = p.seq + 1 := by cases go <;> rfl
@[simp] theorem Step.issued_flights (q p : Step) (paced : Bool) (done : Done) (posts : List (BitVec 2)) (go : Go) :
    (q.issued p paced done posts go).flights = q.flights ++ [⟨p.seq + 1, done, posts⟩] := by cases go <;> rfl

/-- Where the strand goes on (07 R175, R176). -/
theorem Step.issued_pc (q p : Step) (paced : Bool) (done : Done) (posts : List (BitVec 2)) (go : Go) :
    (q.issued p paced done posts go).pc = match go with
      | .on => BitVec.ofNat 32 (q.afterLoops p.pc.toNat).2
      | .taken a => BitVec.ofNat 32 a
      | .past a => BitVec.ofNat 32 a := by cases go <;> rfl

@[simp] theorem Step.ticked_g (p : Step) (next : Nat) (w : Option WaitPlace) : (p.ticked next w).g = p.g := rfl
@[simp] theorem Step.ticked_fflags (p : Step) (next : Nat) (w : Option WaitPlace) : (p.ticked next w).fflags = p.fflags := rfl
@[simp] theorem Step.ticked_latches (p : Step) (next : Nat) (w : Option WaitPlace) : (p.ticked next w).latches = p.latches := rfl
@[simp] theorem Step.ticked_count (p : Step) (next : Nat) (w : Option WaitPlace) : (p.ticked next w).count = p.count + 1 := rfl
@[simp] theorem Step.ticked_seq (p : Step) (next : Nat) (w : Option WaitPlace) : (p.ticked next w).seq = p.seq := rfl
@[simp] theorem Step.ticked_cond (p : Step) (next : Nat) (w : Option WaitPlace) : (p.ticked next w).cond = .running w := rfl
@[simp] theorem Step.ticked_pc (p : Step) (next : Nat) (w : Option WaitPlace) : (p.ticked next w).pc = p.pc := rfl

/-- A word that has not completed, or that still has to post, stays among those in flight. -/
theorem mem_dropDone {count : Nat} {f : Flight} (stays : ¬(f.posts.isEmpty && f.isDone count) = true) (l : List Flight) (m : Nat) (h : f ∈ l) :
    f ∈ (dropDone count l m).1 := by
  induction l generalizing m with
  | nil => exact h
  | cons g l ih =>
    unfold dropDone
    split
    · next drops =>
      obtain rfl | later := List.mem_cons.mp h
      · exact absurd drops stays
      · exact ih _ later
    · exact h

theorem Step.mem_ticked {p : Step} {f : Flight} (h : f ∈ p.flights) (stays : f.done = .waiting ∨ f.posts ≠ []) (next : Nat)
    (w : Option WaitPlace) : f ∈ (p.ticked next w).flights := by
  refine mem_dropDone ?_ p.flights _ h
  obtain waits | posts := stays
  · simp [Flight.isDone, waits]
  · simp [posts]

/-! ### The word -/

/-- The clock of a strand's transfer unit one cycle on: see `State.stepTick_eq`. -/
def Core.clocked (c : Core) : StepStrand → Core
  | .l => { c with inb := { c.inb with clock := c.inb.clock + 1 } }
  | .x => c
  | .s => { c with outb := { c.outb with clock := c.outb.clock + 1 } }

@[simp] theorem Core.clocked_c (c : Core) (t : StepStrand) : (c.clocked t).c = c.c := by cases t <;> rfl
@[simp] theorem Core.clocked_v (c : Core) (t : StepStrand) : (c.clocked t).v = c.v := by cases t <;> rfl
@[simp] theorem Core.clocked_m (c : Core) (t : StepStrand) : (c.clocked t).m = c.m := by cases t <;> rfl
@[simp] theorem Core.clocked_rings (c : Core) (t : StepStrand) : (c.clocked t).rings = c.rings := by cases t <;> rfl
@[simp] theorem Core.clocked_hq (c : Core) (t : StepStrand) : (c.clocked t).hq = c.hq := by cases t <;> rfl
@[simp] theorem Core.clocked_dq (c : Core) (t : StepStrand) : (c.clocked t).dq = c.dq := by cases t <;> rfl
@[simp] theorem Core.clocked_fq (c : Core) (t : StepStrand) : (c.clocked t).fq = c.fq := by cases t <;> rfl
@[simp] theorem Core.clocked_csr (c : Core) (t : StepStrand) : (c.clocked t).csr = c.csr := by cases t <;> rfl
@[simp] theorem Core.clocked_strand (c : Core) (t k : StepStrand) : (c.clocked t).strand k = c.strand k := by cases t <;> cases k <;> rfl

/-- The end of a cycle changes the strand and the clock of its unit. -/
theorem State.stepTick_eq (s : State) (t : StepStrand) (w : Option WaitPlace) :
    s.stepTick t w = (s.updStep t fun p => p.ticked (s.now + s.core.divOf t.strand) w).updCore fun c => c.clocked t := by
  cases t <;> rfl

/-- The vector state after a word: any word of X but a modifier uses up the one that is pending (05 R97). -/
def Vec.afterWordOf (v : Vec) (t : StepStrand) (i : Instr) : Vec :=
  if t = .x ∧ (∀ a b c d, i ≠ .vectorModifier a b c d) then { v with modif := none } else v

/-- Issuing by its parts: the tokens, the strand, the pending modifier, the end of the cycle. -/
theorem State.issueWord_parts (e : State) (t : StepStrand) (i : Instr) (paced : Bool) (wants tells : List (BitVec 2)) (p : Step) (done : Done)
    (go : Go) :
    e.issueWord t i paced wants tells p done go =
      (((e.takeTokens t wants).updStep t fun q => q.issued p paced done tells go).updV fun v => v.afterWordOf t i).stepTick t none := by
  have other : t ≠ .x → ∀ v : Vec, v.afterWordOf t i = v := fun ne v => if_neg fun h => ne h.1
  cases t with
  | l => simp only [other (by decide)]; rfl
  | s => simp only [other (by decide)]; rfl
  | x =>
    by_cases modifier : ∃ a b c d, i = .vectorModifier a b c d
    · obtain ⟨a, b, c, d, rfl⟩ := modifier
      have kept : ∀ v : Vec, v.afterWordOf .x (.vectorModifier a b c d) = v := fun v => if_neg fun h => h.2 a b c d rfl
      simp only [kept]
      rfl
    · have word : ∀ a b c d, i ≠ .vectorModifier a b c d := by simpa using modifier
      have used : ∀ v : Vec, v.afterWordOf .x i = { v with modif := none } := fun v => if_pos ⟨rfl, word⟩
      simp only [used]
      unfold State.issueWord
      dsimp only
      split
      · exact absurd rfl (word _ _ _ _)
      · rfl

/-! ### Changes of one strand and of the vector state in turn -/

theorem State.updStep_updStep (s : State) (t : StepStrand) (f g : Step → Step) :
    (s.updStep t f).updStep t g = s.updStep t fun p => g (f p) := by cases t <;> rfl

theorem State.updV_updStep (s : State) (t : StepStrand) (f : Step → Step) (g : Vec → Vec) :
    (s.updStep t f).updV g = (s.updV g).updStep t f := by cases t <;> rfl

theorem State.updV_strand (s : State) (g : Vec → Vec) (t : StepStrand) : (s.updV g).core.strand t = s.core.strand t := by cases t <;> rfl

theorem State.updV_divOf (s : State) (g : Vec → Vec) (t : Strand) : (s.updV g).core.divOf t = s.core.divOf t := by cases t <;> rfl

/-- What a word that issues changes: its queues, its strand, the pending modifier, and the clock of its unit. -/
theorem State.issueWord_eq (e : State) (t : StepStrand) (i : Instr) (paced : Bool) (wants tells : List (BitVec 2)) (p : Step) (done : Done)
    (go : Go) :
    ∃ hq a, (e.takeTokens t wants).core.hq = hq ∧ e.issueWord t i paced wants tells p done go =
      ((({ e with core := { e.core with hq := hq } } : State).updV fun v => v.afterWordOf t i).updStep t fun q =>
        (({ q with after := a } : Step).issued p paced done tells go).ticked (e.now + e.core.divOf t.strand) none).updCore fun c => c.clocked t := by
  obtain ⟨hq, a, tokens, -⟩ := State.takeTokens_frame t wants e
  have div : ∀ u : Strand, ({ e.core with hq := hq } : Core).divOf u = e.core.divOf u := fun u => by cases u <;> rfl
  refine ⟨hq, a, ?_, ?_⟩
  · rw [tokens, State.updStep_core_hq]
  · rw [State.issueWord_parts, State.stepTick_eq, tokens, State.updStep_updStep, State.updV_updStep, State.updStep_updStep]
    simp only [State.updStep_now, State.updV_now, Core.divOf_updStep, State.updV_divOf, div]

end Sys2Proof.Machine

/-- Settles O21: each part of the core is read off the state of `State.issueWord_eq`. -/
theorem issuingTouchesItsStrandOnly : Obligations.IssuingTouchesItsStrandOnly := by
  unfold Obligations.IssuingTouchesItsStrandOnly
  intro e t i paced wants tells p done go u
  obtain ⟨hq, a, queues, whole⟩ := State.issueWord_eq e t i paced wants tells p done go
  have queue : ∀ n : Fin 12, u.core.hq[n] = ((wants.map (inQ t.strand)).filter (· = n)).foldl
      (fun q _ => q.pop e.now (e.now + e.core.divOf t.strand)) e.core.hq[n] := by
    intro n
    rw [← State.takeTokens_hq, queues]
    simp [u, whole]
  have own : u.core.strand t = (({ e.core.strand t with after := a } : Step).issued p paced done tells go).ticked
      (e.now + e.core.divOf t.strand) none := by
    simp only [u, whole, State.updCore_core, Core.clocked_strand, State.updStep_strand, State.updV_strand]
    cases t <;> rfl
  have other : ∀ k, k ≠ t → u.core.strand k = e.core.strand k := by
    intro k ne
    simp only [u, whole, State.updCore_core, Core.clocked_strand, State.updStep_strand_ne _ _ ne, State.updV_strand]
    cases k <;> rfl
  rw [own]
  refine ⟨?mem, ?others, ?c, other, ?m, ?csr, ?dq, ?fq, ?rings, ?untouched, queue, ?flight, ?v, ?g, ?fflags, ?latches, ?count, ?seq, ?cond, ?pc⟩
  case mem | others | c | m | csr | dq | fq | rings => simp [u, whole]
  case untouched =>
    intro n unnamed
    have none : (wants.map (inQ t.strand)).filter (· = n) = [] := by
      rw [List.filter_eq_nil_iff]
      rintro m named same
      exact unnamed (of_decide_eq_true same ▸ named)
    rw [queue, none, List.foldl_nil]
  case flight => exact fun stays => Step.mem_ticked (by simp) stays _ _
  case v => simp [u, whole, Vec.afterWordOf]
  case g | fflags | latches | count | seq | cond => simp
  case pc => exact Step.issued_pc { e.core.strand t with after := a } p paced done tells go
end

section
/-! SUPPORT. O34: the matrix words of X as one word with an operation (02 R38; 08 R184, R185). -/
open Sys2Proof Sys2Proof.Machine

namespace Sys2Proof.Machine

/-- Every matrix word is one word with its operation (08 R184). -/
theorem exec_matWord (s : State) (h : Hitch) (hd : BitVec 10) (t : BitVec 4) (c : BitVec 7) :
    ∀ e ∈ ([(.mldb h hd, .mldb hd.toNat), (.mmab h hd t, .mmab hd.toNat t.toNat), (.mmas h hd t, .mmas hd.toNat t.toNat),
        (.mdrain h hd t, .mdrain hd.toNat t.toNat), (.mzero h t, .mzero t.toNat), (.mtest h, .mtest),
        (.mtrsmLo h c hd, .mtrsm false c.toNat hd.toNat), (.mtrsmUp h c hd, .mtrsm true c.toNat hd.toNat), (.mlu h c, .mlu c.toNat),
        (.mchol h c, .mchol c.toNat), (.mgiv h c, .mgiv c.toNat), (.mpiv h hd, .mpiv hd.toNat), (.mfst h, .mfst)] : List (Instr × MOp)),
      exec e.1 s = matWord h e.1 e.2 s := by
  simp only [List.forall_mem_cons, List.not_mem_nil, false_implies, implies_true, and_true]
  exact ⟨rfl, rfl, rfl, rfl, rfl, rfl, rfl, rfl, rfl, rfl, rfl, rfl, rfl⟩

/-- The four words of the multiply-accumulate arrays take a format word (08 R185). -/
theorem pops_of_array_word (h : Hitch) (hd : BitVec 10) (t : BitVec 4) :
    ∀ e ∈ ([(.mldb h hd, .mldb hd.toNat), (.mmab h hd t, .mmab hd.toNat t.toNat), (.mmas h hd t, .mmas hd.toNat t.toNat),
        (.mdrain h hd t, .mdrain hd.toNat t.toNat)] : List (Instr × MOp)), e.2.pops = true := by
  simp only [List.forall_mem_cons, List.not_mem_nil, false_implies, implies_true, and_true]
  exact ⟨rfl, rfl, rfl, rfl⟩

/-- The word kept with an entry is the instruction's own. -/
theorem setWidth_zeroExtend (w : Word32) : (w.zeroExtend 64).setWidth 32 = w := by
  rw [BitVec.setWidth_setWidth_of_le _ (by decide), BitVec.setWidth_eq]

end Sys2Proof.Machine

/-- Settles O34: each clause is one branch of `matWord_go`. -/
theorem matrixWordsEnterTheQueue : Obligations.MatrixWordsEnterTheQueue := by
  unfold Obligations.MatrixWordsEnterTheQueue
  constructor
  · intro s h hd t c e form m fmt word taken before free room format checks
    have visible : (e.2.pops && !s.core.fq.visible m.next) = false := by
      cases pops : e.2.pops with
      | false => rfl
      | true => simp [(format pops).1]
    have combination : (e.2.pops && !s.comboOk before e.2 fmt) = false := by
      cases pops : e.2.pops with
      | false => rfl
      | true => simp [(format pops).2]
    rw [exec_matWord s h hd t c e form, matWord_go free]
    dsimp only
    rw [if_neg (Nat.not_le.mpr room), if_neg (by rw [visible]; decide), if_neg (by rw [combination]; decide), checks, setWidth_zeroExtend]
  · intro s h hd t e form m pc word n free
    have pops := pops_of_array_word h hd t e form
    have listed := exec_matWord s h hd t 0 e (List.mem_append_left _ form)
    rw [listed, matWord_go free]
    dsimp only
    refine ⟨fun full => ?full, fun room hidden => ?noFormat, fun room seen bad => ?combination⟩
    case full => rw [if_pos full]
    case noFormat => rw [if_neg (Nat.not_le.mpr room), if_pos (by simp [pops, hidden, m])]
    case combination =>
      rw [if_neg (Nat.not_le.mpr room), if_neg (by simp [seen, m]), if_pos (by simp [pops, bad, m])]
end

section
/-! SUPPORT. O44: a release to the core in focus, and what the core that it leaves holds (02 R23, R25, R28). -/
open Sys2Proof Sys2Proof.Machine

namespace Sys2Proof.Machine

/-! ### A core in focus -/

/-- A change of the core in focus by its place, which it keeps. -/
theorem State.updCoreAt_focus {s : State} {die q : Nat} (d : s.core.die = die) (n : s.core.q = q) {f : Core → Core}
    (keeps : (f s.core).die = die ∧ (f s.core).q = q) : s.updCoreAt die q f = { s with core := f s.core } := by
  have here : s.coreAt die q = s.core := if_pos ⟨d, n⟩
  rw [State.updCoreAt, here, State.putCore, if_pos ⟨d.trans keeps.1.symm, n.trans keeps.2.symm⟩]

theorem State.focus_self {s : State} {die q : Nat} (d : s.core.die = die) (n : s.core.q = q) : s.focus die q = s := if_pos ⟨d, n⟩

/-- What is done with the core in focus that keeps its place is done as it stands. -/
theorem State.onCore_focus {s : State} {die q : Nat} (d : s.core.die = die) (n : s.core.q = q) {f : State → State}
    (keeps : (f s).core.die = s.core.die ∧ (f s).core.q = s.core.q) : s.onCore die q f = f s := by
  rw [State.onCore, State.focus_self d n, State.focus_self keeps.1 keeps.2]

/-! ### Release -/

/-- The core of a released task also sees every earlier store (11 R268): the state that a release leaves of the one in focus. -/
theorem execTaskRelease_focus {s : State} {kid : BitVec 16} {vdie vcore : BitVec 8} {k : Kernel} {i : Image} {v : VCore}
    (kernel : s.kernel? kid.toNat = some k) (image : s.image? k.image = some i) (place : k.vc? vdie.toNat vcore.toNat = some v)
    (state : k.state = 2) (holds : k.holds = true) (ready : s.releasable k i v = true) (d : s.core.die = v.die) (q : s.core.q = v.q) :
    ∃ first, exec (.taskRelease kid vdie vcore) s = .next
      ((({ s with core := s.core.released k i v s.now first } : State).seeAll).updKernel k.kid fun k =>
        k.updVc v.vdie v.vcore fun v => { v with state := .running }) := by
  refine ⟨v.run == 0 && i.nextFormed v.vdie v.vcore 0 == some v.pos, ?_⟩
  change execTaskRelease kid vdie vcore s = _
  rw [execTaskRelease, kernel]
  dsimp only
  rw [image, place]
  dsimp only
  rw [if_pos ⟨state, holds, ready⟩, State.updCoreAt_focus d q ⟨d, q⟩, State.onCore_focus]
  · exact d
  · exact q
  · exact ⟨rfl, rfl⟩

/-! ### What a released core holds (02 R23) -/

section
variable (c : Core) (k : Kernel) (i : Image) (v : VCore) (now : Nat) (first : Bool)

theorem Core.released_regs : (c.released k i v now first).c.regs =
    ((((Vector.replicate 32 0).set 1 k.args).set 2 (w64 v.vcore)).set 3 (w64 v.vdie)).set 4 (w64 v.pos) := rfl

/-- The arguments stand in s1, the coordinates in s2 and s3, the ordinal in s4. -/
theorem Core.released_read :
    (c.released k i v now first).c.read 1 = k.args ∧ (c.released k i v now first).c.read 2 = BitVec.ofNat 64 v.vcore
      ∧ (c.released k i v now first).c.read 3 = BitVec.ofNat 64 v.vdie ∧ (c.released k i v now first).c.read 4 = BitVec.ofNat 64 v.pos :=
  ⟨rfl, rfl, rfl, rfl⟩

/-- Every other register of C reads 0. -/
theorem Core.released_read_other {r : BitVec 5} (h : r = 0 ∨ 4 < r.toNat) : (c.released k i v now first).c.read r = 0 := by
  obtain rfl | above := h
  · rfl
  · rw [CStrand.read]
    split
    · rfl
    · simp only [Core.released_regs]
      rw [Vector.getElem_set_ne (h := by omega), Vector.getElem_set_ne (h := by omega), Vector.getElem_set_ne (h := by omega),
        Vector.getElem_set_ne (h := by omega), Vector.getElem_replicate]

theorem Core.released_g (t : StepStrand) : ((c.released k i v now first).strand t).g =
    ((Vector.replicate 16 0).set 1 k.args).set 2 (w64 v.pos) := by cases t <;> rfl

/-- The arguments stand in g1 and the ordinal in g2, and every other register reads 0. -/
theorem Core.released_readG (t : StepStrand) :
    ((c.released k i v now first).strand t).readG 1 = k.args ∧ ((c.released k i v now first).strand t).readG 2 = BitVec.ofNat 64 v.pos
      ∧ ∀ g : BitVec 4, g ≠ 1 → g ≠ 2 → ((c.released k i v now first).strand t).readG g = 0 := by
  refine ⟨by cases t <;> rfl, by cases t <;> rfl, fun g ne1 ne2 => ?_⟩
  rw [Step.readG]
  split
  · rfl
  · have not1 : 1 ≠ g.toNat := fun e => ne1 (BitVec.eq_of_toNat_eq e.symm)
    have not2 : 2 ≠ g.toNat := fun e => ne2 (BitVec.eq_of_toNat_eq e.symm)
    simp only [Core.released_g]
    rw [Vector.getElem_set_ne (h := not2), Vector.getElem_set_ne (h := not1), Vector.getElem_replicate]

end

end Sys2Proof.Machine

/-- Settles O44: the core is the released one, which sees every earlier store, and its registers read by the lemmas above. -/
theorem releaseStartsATask : Obligations.ReleaseStartsATask := by
  unfold Obligations.ReleaseStartsATask
  intro s kid vdie vcore k i v kernel image place state holds ready d q
  obtain ⟨first, released⟩ := execTaskRelease_focus kernel image place state holds ready d q
  obtain ⟨s1, s2, s3, s4⟩ := s.core.released_read k i v s.now first
  have strands := s.core.released_readG k i v s.now first
  refine ⟨_, released, rfl, s1, s2, s3, s4, fun r h => s.core.released_read_other k i v s.now first h, ?strands, rfl, rfl, rfl, rfl, rfl, rfl,
    rfl, rfl, rfl, rfl, rfl, rfl, rfl, rfl, rfl, rfl⟩
  case strands =>
    simp only [List.forall_mem_cons, List.not_mem_nil, false_implies, implies_true, and_true]
    exact ⟨strands .l, strands .x, strands .s⟩
end

section
/-!
SUPPORT. O45: the ends of a splice, of a cleat phase and of kwait, and the frame tick, each on the condition that its event states
(02 R25 to R31; 19 R325).
-/
open Sys2Proof Sys2Proof.Machine

namespace Sys2Proof.Machine

/-! ### The end of a splice (02 R25; 10 R239) -/

/-- A task that may retire does. -/
theorem exec_spliceComplete_retires {s : State} (ready : s.core.spliced = true) (once : s.twice = none) :
    exec .spliceComplete s = .next s.retireTask := by
  change execSpliceComplete s = _
  rw [execSpliceComplete, if_neg (by simp [ready]), once]

/-- A splice that would publish a second version of a slot is a fault of C. -/
theorem exec_spliceComplete_twice {s : State} {n : Nat} (ready : s.core.spliced = true) (twice : s.twice = some n) :
    exec .spliceComplete s = .next ((s.updTask fun t => { t with state := .running }).endTrap (BitVec.ofNat 64 (0x100 + n)) s.now) := by
  change execSpliceComplete s = _
  rw [execSpliceComplete, if_neg (by simp [ready]), twice]
  rfl

/-! ### The cleat (02 R31) -/

/-- The machine in the next superstep of a kernel: see `exec_cleatComplete_opens`. -/
def State.nextSuperstep (r : State) (k : Kernel) (i : Image) : State := r.updKernel k.kid fun k => (k.nextPhase i).applyRequests r.now

section
variable {s : State} {kid : BitVec 16} {k : Kernel} {i : Image} (kernel : s.kernel? kid.toNat = some k)
  (image : s.image? k.image = some i) (ready : s.cleatReady k = true)
include kernel image ready

/-- A phase that is complete opens the next superstep. -/
theorem exec_cleatComplete_opens (alone : (s.at_ (s.cleatTick k)).taker k = none) :
    exec (.cleatComplete kid) s = .next ((s.at_ (s.cleatTick k)).nextSuperstep k i) := by
  change execCleatComplete kid s = _
  simp only [execCleatComplete, kernel, Option.bind_some, image, ready, Bool.not_true, Bool.false_eq_true, if_false, alone]
  split
  · next impossible => cases impossible
  · rfl

/-- In the next superstep a waiter takes the cores (19 R323). -/
theorem exec_cleatComplete_yields {w k1 : Kernel} (waiter : (s.at_ (s.cleatTick k)).taker k = some w)
    (holder : ((s.at_ (s.cleatTick k)).nextSuperstep k i).kernel? k.kid = some k1) :
    exec (.cleatComplete kid) s = .next (((s.at_ (s.cleatTick k)).nextSuperstep k i).yieldTo k1 w k.phase) := by
  rw [State.nextSuperstep] at holder
  change execCleatComplete kid s = _
  simp only [execCleatComplete, kernel, Option.bind_some, image, ready, Bool.not_true, Bool.false_eq_true, if_false, waiter, holder]
  rfl

end

/-- A virtual core of the next superstep counts anew and keeps its identities (02 R31, R32). -/
theorem Kernel.nextPhase_vcs (k : Kernel) (i : Image) : ∀ v ∈ (k.nextPhase i).vcs, v.expectSum = 0 ∧ v.landed = [] ∧ v.landedCount = 0
    ∧ ∃ u ∈ k.vcs, v.idents = u.idents ∧ v.expects = u.expects ∧ v.arrived = i.startArrival u.vdie u.vcore (k.phase + 1) := by
  intro v h
  obtain ⟨u, listed, rfl⟩ := List.mem_map.mp h
  exact ⟨rfl, rfl, rfl, u, listed, rfl, rfl, rfl⟩

/-! ### The frame tick (02 R29) -/

/-- A kernel that does not hold and has no late task moves on. -/
theorem State.kernelTick_on_time {s : State} {k : Kernel} {i : Image} (runs : k.hold = none)
    (onTime : k.late i (if k.begun then k.kframe + 1 else k.kframe) = []) :
    s.kernelTick k i =
      s.updKernel k.kid fun u => { u with kframe := if k.begun then k.kframe + 1 else k.kframe, begun := true, hold := none } := by
  simp only [State.kernelTick, runs, onTime, List.isEmpty_nil, if_true]

/-- The tick counts, a second of service with it where one is full (23 R369), and reaches every kernel. -/
theorem exec_frameTick (s : State) :
    let tick := (s.disp.frame + 1) * 75
    let r : State := { s with now := Nat.max s.now tick, disp := { s.disp with frame := s.disp.frame + 1 } }
    let p := if s.serv.powered = true ∧ tick % 7500000000 = 0 then { r with serv := s.serv.second } else r
    exec .frameTick s = .next ((s.disp.kernels.map (·.kid)).foldl State.frameKernel p) := by
  intro tick r p
  have kernels : p.disp.kernels = s.disp.kernels := by
    unfold p
    split <;> rfl
  rw [← kernels]
  rfl

/-! ### kwait (19 R325) -/

theorem exec_kwaitRelease {s : State} (waits : s.core.c.cond = .running (some .kwait)) (done : s.producersDone = true) :
    exec .kwaitRelease s = .next ((s.at_ s.core.c.next).seeAll).cDone := by
  change execKwaitRelease s = _
  rw [execKwaitRelease, if_pos ⟨waits, done⟩]

end Sys2Proof.Machine

/-- Settles O45: each event on its condition, by its lemma. -/
theorem tasksGoOn : Obligations.TasksGoOn := by
  unfold Obligations.TasksGoOn
  intro s kid
  refine ⟨exec_spliceComplete_retires, fun n => exec_spliceComplete_twice, fun k i kernel image ready => ?cleat, exec_frameTick s,
    fun k i runs => State.kernelTick_on_time runs, exec_kwaitRelease⟩
  case cleat =>
    exact ⟨exec_cleatComplete_opens kernel image ready, fun w k1 => exec_cleatComplete_yields kernel image ready, rfl, k.nextPhase_vcs i⟩
end

section
/-!
SUPPORT. O56 and O54: every word's round trip through its map, from the round trip of each instruction (05 R82 to R97).
-/
open Sys2Proof

namespace Sys2Proof.Laws.RoundTrip

/-- Every word decodes to itself; an event stands in no map. -/
theorem every_instruction (i : Instr) : Statement i := by
  cases i with
  | add => exact add _ _ _
  | sub => exact sub _ _ _
  | and => exact and _ _ _
  | or => exact or _ _ _
  | xor => exact xor _ _ _
  | shl => exact shl _ _ _
  | shr => exact shr _ _ _
  | sra => exact sra _ _ _
  | slt => exact slt _ _ _
  | sltu => exact sltu _ _ _
  | seq => exact seq _ _ _
  | min => exact min _ _ _
  | max => exact max _ _ _
  | minu => exact minu _ _ _
  | maxu => exact maxu _ _ _
  | mul => exact mul _ _ _
  | mulh => exact mulh _ _ _
  | mulhu => exact mulhu _ _ _
  | divu => exact divu _ _ _
  | remu => exact remu _ _ _
  | clz => exact clz _ _
  | popc => exact popc _ _
  | extS => exact extS _ _ _
  | extZ => exact extZ _ _ _
  | addi => exact addi _ _ _
  | andi => exact andi _ _ _
  | ori => exact ori _ _ _
  | xori => exact xori _ _ _
  | shli => exact shli _ _ _
  | shri => exact shri _ _ _
  | srai => exact srai _ _ _
  | slti => exact slti _ _ _
  | sltui => exact sltui _ _ _
  | lui => exact lui _ _
  | apc => exact apc _ _
  | ldB => exact ldB _ _ _
  | ldH => exact ldH _ _ _
  | ldW => exact ldW _ _ _
  | ldD => exact ldD _ _ _
  | lduB => exact lduB _ _ _
  | lduH => exact lduH _ _ _
  | lduW => exact lduW _ _ _
  | ldLast => exact ldLast _ _ _
  | stB => exact stB _ _ _
  | stH => exact stH _ _ _
  | stW => exact stW _ _ _
  | stD => exact stD _ _ _
  | amo => exact amo _ _ _ _ _
  | cas => exact cas _ _ _
  | beq => exact beq _ _ _
  | bne => exact bne _ _ _
  | blt => exact blt _ _ _
  | bge => exact bge _ _ _
  | bltu => exact bltu _ _ _
  | bgeu => exact bgeu _ _ _
  | jal => exact jal _ _
  | jalr => exact jalr _ _ _
  | loop => exact loop _ _
  | loopi => exact loopi _ _
  | qpush => exact qpush _ _
  | qpop => exact qpop _ _
  | qtry => exact qtry _ _ _
  | tpost => exact tpost _
  | twait => exact twait _
  | fmt => exact fmt _
  | nestW => exact nestW _ _
  | nestGo => exact nestGo
  | launch => exact launch _ _
  | stream => exact stream _
  | ktrig => exact ktrig
  | kwait => exact kwait
  | texit => exact texit
  | coll => exact coll _ _
  | cleatArrive => exact cleatArrive
  | cleatExpect => exact cleatExpect _
  | cleatWait => exact cleatWait _
  | fence => exact fence _
  | csrr => exact csrr _ _
  | csrw => exact csrw _ _
  | csrx => exact csrx _ _ _
  | trap => exact trap _
  | rett => exact rett
  | ecall => exact ecall
  | clkdiv => exact clkdiv _ _
  | pace => exact pace _ _
  | idle => exact idle
  | tlbinv => exact tlbinv _ _
  | fcast => exact fcast _ _ _ _
  | fverd => exact fverd _ _ _
  | endStrand => exact endStrand _ _
  | gadd => exact gadd _ _ _ _ _
  | gaddi => exact gaddi _ _ _ _ _
  | gli => exact gli _ _ _ _
  | stepLoopImm => exact stepLoopImm _ _ _ _ _
  | stepLoopReg => exact stepLoopReg _ _ _ _ _
  | brq => exact brq _ _ _ _ _
  | stepTpost => exact stepTpost _ _ _
  | stepTwait => exact stepTwait _ _ _
  | stepQpush => exact stepQpush _ _ _ _
  | stepQpop => exact stepQpop _ _ _ _
  | vadd => exact vadd _ _ _ _ _
  | vsub => exact vsub _ _ _ _ _
  | vmul => exact vmul _ _ _ _ _
  | vmin => exact vmin _ _ _ _ _
  | vmax => exact vmax _ _ _ _ _
  | vand => exact vand _ _ _ _
  | vor => exact vor _ _ _ _
  | vxor => exact vxor _ _ _ _
  | vshl => exact vshl _ _ _ _
  | vshr => exact vshr _ _ _ _
  | vsra => exact vsra _ _ _ _
  | vaddsat => exact vaddsat _ _ _ _
  | vsubsat => exact vsubsat _ _ _ _
  | vcmp => exact vcmp _ _ _ _ _ _
  | vabs => exact vabs _ _ _ _
  | vneg => exact vneg _ _ _ _
  | vnot => exact vnot _ _ _ _
  | vmov => exact vmov _ _ _ _
  | vrcp => exact vrcp _ _ _ _
  | vrsqrt => exact vrsqrt _ _ _ _
  | vsqrt => exact vsqrt _ _ _ _
  | vexp2 => exact vexp2 _ _ _ _
  | vlog2 => exact vlog2 _ _ _ _
  | vred => exact vred _ _ _ _ _
  | vsel => exact vsel _ _ _ _ _
  | vperm => exact vperm _ _ _ _
  | vzip => exact vzip _ _ _ _
  | vunzip => exact vunzip _ _ _ _
  | vslide => exact vslide _ _ _ _
  | vsplat => exact vsplat _ _ _
  | vbcast => exact vbcast _ _ _ _
  | pcnt => exact pcnt _ _ _
  | plogic => exact plogic _ _ _ _ _
  | ppop => exact ppop _ _ _
  | vcvt => exact vcvt _ _ _ _ _
  | vhad => exact vhad _ _ _ _ _
  | vmaxe => exact vmaxe _ _ _
  | vq => exact vq _ _ _ _ _
  | vdq => exact vdq _ _ _ _ _
  | vdqInv => exact vdqInv _ _ _ _ _ _
  | vld => exact vld _ _ _ _ _
  | vst => exact vst _ _ _ _ _
  | vldFf => exact vldFf _ _ _ _ _
  | vldx => exact vldx _ _ _ _ _
  | vstx => exact vstx _ _ _ _ _
  | vshape => exact vshape _ _
  | vrot => exact vrot _
  | vwin => exact vwin _ _
  | vfma => exact vfma _ _ _ _ _
  | vfms => exact vfms _ _ _ _ _
  | vfnma => exact vfnma _ _ _ _ _
  | vectorModifier => exact vectorModifier _ _ _ _
  | mldb => exact mldb _ _
  | mmab => exact mmab _ _ _
  | mmas => exact mmas _ _ _
  | mdrain => exact mdrain _ _ _
  | mzero => exact mzero _ _
  | mnest => exact mnest _
  | mtest => exact mtest _
  | mtrsmLo => exact mtrsmLo _ _ _
  | mtrsmUp => exact mtrsmUp _ _ _
  | mlu => exact mlu _ _
  | mchol => exact mchol _ _
  | mgiv => exact mgiv _ _
  | mpiv => exact mpiv _ _
  | mfst => exact mfst _
  | tld => exact tld _ _ _ _
  | tldT => exact tldT _ _ _ _
  | tst => exact tst _ _ _ _
  | wopen => exact wopen _ _ _ _ _
  | wopenW => exact wopenW _ _ _ _ _
  | tfar => exact tfar _ _ _ _
  | wadv => exact wadv _ _ _
  | supd => exact supd _ _ _ _ _
  | wdrop => exact wdrop _ _ _
  | tsum => exact tsum _ _ _ _ _ _
  | tfetch => exact tfetch _ _ _ _
  | tcopy => exact tcopy _ _ _ _
  | tpref => exact tpref _ _ _
  | _ => exact fun _ home => nomatch home

end Sys2Proof.Laws.RoundTrip

namespace Sys2Proof

/-- What a strand reads in an instruction's own word. -/
theorem decode_of_encode {i : Instr} {t : Strand} {w : Word32} (home : i.home = some t) (wf : i.wf = true) (e : encode i = w) :
    decode t w = .ok i :=
  e ▸ Laws.RoundTrip.every_instruction i t home wf

end Sys2Proof

/-- Settles O56: the round trip of each instruction, in the map of its strand. -/
theorem decodeOfEncode : Obligations.DecodeOfEncode := by
  unfold Obligations.DecodeOfEncode
  exact fun i t => Laws.RoundTrip.every_instruction i t

/-- Settles O54: each word is the encoding of its instruction, which decodes to it. -/
theorem wordsDecode : Obligations.WordsDecode := by
  unfold Obligations.WordsDecode
  refine ⟨?_, ?_, ?_, ?_, ?_, ?_, ?_, ?_, ?_, ?_, ?_, ?_, ?_, ?_, ?_, ?_, ?_, ?_, ?_, ?_, ?_, ?_⟩
  all_goals exact decode_of_encode rfl rfl rfl
end

section
/-! SUPPORT. O9: C's chain over the slots of a branch that is taken, and the word after a loop body's last (05 R90; 06 R116, R117). -/
open Sys2Proof Sys2Proof.Machine

namespace Sys2Proof.Machine

/-- Two words before a redirection, the chain moves on toward it. -/
theorem CStrand.advance_of_two {c : CStrand} (h : c.chain.rd = 2) :
    c.advance = { c with chain := ⟨c.chain.npc, 1, c.chain.nnpc, c.chain.nnpc + 4⟩ } := by
  rw [CStrand.advance, if_neg (by rw [h]; decide), if_pos h]

/-- At a redirection the chain goes to its target, and the loop entries that do not hold it leave. -/
theorem CStrand.advance_of_one {c : CStrand} (h : c.chain.rd = 1) :
    c.advance.chain = ⟨c.chain.npc, 0, 0, 0⟩
      ∧ c.advance.stack = c.stack.dropWhile fun e => !(decide (e.start ≤ c.chain.npc.toNat) && decide (c.chain.npc.toNat ≤ e.last)) := by
  rw [CStrand.advance, if_pos h]
  exact ⟨rfl, (c.setStack_spec _ _).2.2⟩

/-- At a body's last word with passes left the body starts again. -/
theorem afterWord_again {w : Nat} {e : LoopEntry} {l : List LoopEntry} (last : e.last = w) (left : 1 < e.count) :
    afterWord w (e :: l) = (e.start, ⟨e.start, e.last, e.count - 1⟩ :: l) := by
  rw [afterWord, if_pos last, if_pos left]

/-- At the last word of the last pass the entry below is asked. -/
theorem afterWord_finished {w : Nat} {e : LoopEntry} {l : List LoopEntry} (last : e.last = w) (final : e.count ≤ 1) :
    afterWord w (e :: l) = afterWord w l := by
  rw [afterWord, if_pos last, if_neg (Nat.not_lt.mpr final)]

/-- Elsewhere the next word follows. -/
theorem afterWord_inside {w : Nat} {e : LoopEntry} {l : List LoopEntry} (inside : e.last ≠ w) : afterWord w (e :: l) = (w + 4, e :: l) := by
  rw [afterWord, if_neg inside]

end Sys2Proof.Machine

/-- Settles O9: the chain at each of the two slots, and the three cases of `afterWord`. -/
theorem theChainAdvances : Obligations.TheChainAdvances := by
  unfold Obligations.TheChainAdvances
  constructor
  · intro c pc t chain
    have first := CStrand.advance_of_two (c := c) (by rw [chain])
    have slot : c.advance.chain = ⟨pc + 8, 1, t, t + 4⟩ := by rw [first, chain]
    have stack : c.advance.stack = c.stack := by rw [first]; rfl
    have second := CStrand.advance_of_one (c := c.advance) (by rw [slot])
    rw [slot, stack] at second
    exact ⟨slot, stack, second⟩
  · exact fun w e l => ⟨rfl, afterWord_inside, afterWord_again, afterWord_finished⟩
end

section
/-! SUPPORT. O20: the faults of C's word at the word: the rules of the delay slots, alignment, windows, and the handler's own (05 R90; 20 R341). -/
open Sys2Proof Sys2Proof.Machine

namespace Sys2Proof.Machine

/-! ### The delay slots (05 R90) -/

/-- A branch one or two words before C's word makes its place a slot. -/
theorem Core.inSlot_of_branch {c : Core} {k : Nat} {i : Instr} (near : k = 4 ∨ k = 8) (inside : k ≤ c.c.chain.pc.toNat)
    (before : decode .c (word (Memory.readNat c.imC (c.c.chain.pc.toNat - k) 4)) = .ok i) (branch : isBranch i = true) : c.inSlot = true := by
  have found : c.branchAt (c.c.chain.pc.toNat - k) = true := by rw [Core.branchAt, before]; exact branch
  rcases near with rfl | rfl
  · simp [Core.inSlot, inside, found]
  · simp [Core.inSlot, inside, found]

theorem Core.slotFault_of_forbidden {c : Core} {i : Instr} (slot : c.inSlot = true) (forbidden : slotForbidden i = true) :
    c.slotFault i = true := by
  simp [Core.slotFault, slot, forbidden]

/-- The last word of an active body is no slot. -/
theorem Core.slotFault_of_last {c : Core} (i : Instr) (slot : c.inSlot = true) (last : ∃ l ∈ c.c.stack, l.last = c.c.chain.pc.toNat) :
    c.slotFault i = true := by
  simp [Core.slotFault, slot, last]

/-- The last word of an active body is no branch. -/
theorem Core.slotFault_of_last_branch {c : Core} {i : Instr} (branch : isBranch i = true)
    (last : ∃ l ∈ c.c.stack, l.last = c.c.chain.pc.toNat) : c.slotFault i = true := by
  simp [Core.slotFault, branch, last]

/-- A word of C that breaks the rules of the slots. -/
theorem cWord_slotFault {s : State} {i : Instr} {srcs : List (BitVec 5)} {act : State → State} (h : s.core.slotFault i = true) :
    cWord i srcs act s = .next (s.cTrap 0x02 ((encode i).zeroExtend 64)) := if_pos h

/-- The eight branches (05 R90). -/
theorem isBranch_of_listed (d a b r t : BitVec 5) (i : BitVec 15) (o : BitVec 20) :
    ∀ e ∈ ([.beq a b i, .bne a b i, .blt a b i, .bge a b i, .bltu a b i, .bgeu a b i, .jal d o, .jalr r t i] : List Instr),
      isBranch e = true := by
  simp only [List.forall_mem_cons, List.not_mem_nil, false_implies, implies_true, and_true]
  exact ⟨rfl, rfl, rfl, rfl, rfl, rfl, rfl, rfl⟩

section
variable (s : State) (d a b : BitVec 5) (i : BitVec 15) (n : BitVec 10) (o : BitVec 20)

theorem slotForbidden_of_listed :
    ∀ e ∈ ([.loop a i, .loopi n i, .rett, .texit, .beq a b i, .bne a b i, .blt a b i, .bge a b i, .bltu a b i, .bgeu a b i, .jal d o,
        .jalr d a i] : List Instr), slotForbidden e = true := by
  simp only [List.forall_mem_cons, List.not_mem_nil, false_implies, implies_true, and_true]
  exact ⟨rfl, rfl, rfl, rfl, rfl, rfl, rfl, rfl, rfl, rfl, rfl, rfl⟩

/-- The words that may not stand in a slot are words of C, with its fault. -/
theorem exec_slotFault :
    ∀ e ∈ ([.loop a i, .loopi n i, .rett, .texit, .beq a b i, .bne a b i, .blt a b i, .bge a b i, .bltu a b i, .bgeu a b i, .jal d o,
        .jalr d a i] : List Instr), s.core.slotFault e = true → exec e s = .next (s.cTrap 0x02 ((encode e).zeroExtend 64)) := by
  simp only [List.forall_mem_cons, List.not_mem_nil, false_implies, implies_true, and_true]
  refine ⟨fun h => ?loop, fun h => ?loopi, fun h => ?rett, fun h => ?texit, fun h => ?beq, fun h => ?bne, fun h => ?blt, fun h => ?bge,
    fun h => ?bltu, fun h => ?bgeu, fun h => ?jal, fun h => ?jalr⟩
  case loop => change execLoop a i s = _; rw [execLoop, cWord_slotFault h]
  case loopi => change execLoopi n i s = _; rw [execLoopi, cWord_slotFault h]
  case rett => change execRett s = _; rw [execRett, cWord_slotFault h]
  case texit => change execTexit s = _; rw [execTexit, cWord_slotFault h]
  case beq => change execBeq a b i s = _; rw [execBeq, cBranch, cWord_slotFault h]
  case bne => change execBne a b i s = _; rw [execBne, cBranch, cWord_slotFault h]
  case blt => change execBlt a b i s = _; rw [execBlt, cBranch, cWord_slotFault h]
  case bge => change execBge a b i s = _; rw [execBge, cBranch, cWord_slotFault h]
  case bltu => change execBltu a b i s = _; rw [execBltu, cBranch, cWord_slotFault h]
  case bgeu => change execBgeu a b i s = _; rw [execBgeu, cBranch, cWord_slotFault h]
  case jal => change execJal d o s = _; rw [execJal, cWord_slotFault h]
  case jalr => change execJalr d a i s = _; rw [execJalr, cWord_slotFault h]

end

/-! ### Alignment and windows (06 R108, R112) -/

theorem cLoad_misaligned {i : Instr} {d a : BitVec 5} {imm : BitVec 15} {n : Nat} {ext : Nat → Word64} {after : Nat → State → State}
    {s : State} (f : s.cFree i [a] = true) (h : (s.core.c.read a + imm.signExtend 64).toNat % n ≠ 0) :
    cLoad i d a imm n ext after s = .next (s.cTrap 0x03 (s.core.c.read a + imm.signExtend 64)) := by
  rw [cLoad, cWord_free _ f]
  exact congrArg _ (if_pos h)

theorem cStore_misaligned {i : Instr} {b a : BitVec 5} {imm : BitVec 15} {n : Nat} {s : State} (f : s.cFree i [a, b] = true)
    (h : (s.core.c.read a + imm.signExtend 64).toNat % n ≠ 0) :
    cStore i b a imm n s = .next (s.cTrap 0x03 (s.core.c.read a + imm.signExtend 64)) := by
  rw [cStore, cWord_free _ f]
  exact congrArg _ (if_pos h)

theorem exec_load_misaligned (s : State) (d a : BitVec 5) (i : BitVec 15) :
    ∀ e ∈ ([(.ldH d a i, 2, [a]), (.ldW d a i, 4, [a]), (.ldD d a i, 8, [a]), (.lduH d a i, 2, [a]), (.lduW d a i, 4, [a]),
        (.ldLast d a i, 8, [a])] : List (Instr × Nat × List (BitVec 5))), s.cFree e.1 e.2.2 = true →
      (s.core.c.read a + i.signExtend 64).toNat % e.2.1 ≠ 0 → exec e.1 s = .next (s.cTrap 0x03 (s.core.c.read a + i.signExtend 64)) := by
  simp only [List.forall_mem_cons, List.not_mem_nil, false_implies, implies_true, and_true]
  refine ⟨fun f h => ?ldH, fun f h => ?ldW, fun f h => ?ldD, fun f h => ?lduH, fun f h => ?lduW, fun f h => ?ldLast⟩
  case ldH => change execLdH d a i s = _; rw [execLdH, cLoad_misaligned f h]
  case ldW => change execLdW d a i s = _; rw [execLdW, cLoad_misaligned f h]
  case ldD => change execLdD d a i s = _; rw [execLdD, cLoad_misaligned f h]
  case lduH => change execLduH d a i s = _; rw [execLduH, cLoad_misaligned f h]
  case lduW => change execLduW d a i s = _; rw [execLduW, cLoad_misaligned f h]
  case ldLast => change execLdLast d a i s = _; rw [execLdLast, cLoad_misaligned f h]

theorem exec_store_misaligned (s : State) (b a : BitVec 5) (i : BitVec 15) :
    ∀ e ∈ ([(.stH b a i, 2, [a, b]), (.stW b a i, 4, [a, b]), (.stD b a i, 8, [a, b])] : List (Instr × Nat × List (BitVec 5))),
      s.cFree e.1 e.2.2 = true → (s.core.c.read a + i.signExtend 64).toNat % e.2.1 ≠ 0 →
      exec e.1 s = .next (s.cTrap 0x03 (s.core.c.read a + i.signExtend 64)) := by
  simp only [List.forall_mem_cons, List.not_mem_nil, false_implies, implies_true, and_true]
  refine ⟨fun f h => ?stH, fun f h => ?stW, fun f h => ?stD⟩
  case stH => change execStH b a i s = _; rw [execStH, cStore_misaligned f h]
  case stW => change execStW b a i s = _; rw [execStW, cStore_misaligned f h]
  case stD => change execStD b a i s = _; rw [execStD, cStore_misaligned f h]

section
variable {i : Instr} {srcs : List (BitVec 5)} {a : BitVec 5} {s : State} {d : BitVec 5} {use : BitVec 2}
  {eff : Nat → Nat → State → EffKind} (f : s.cFree i srcs = true)
include f

theorem cAtomic_misaligned (h : (s.core.c.read a).toNat % 8 ≠ 0) :
    cAtomic i srcs d a use eff s = .next (s.cTrap 0x03 (s.core.c.read a)) := by
  rw [cAtomic, cWord_free _ f]
  exact congrArg _ (if_pos h)

theorem cAtomic_window (h : (s.core.c.read a).toNat % 8 = 0) (low : 0x8000000000000 ≤ (s.core.c.read a).toNat)
    (high : (s.core.c.read a).toNat < 0xC000000000000) : cAtomic i srcs d a use eff s = .next (s.cTrap 0x05 (s.core.c.read a)) := by
  rw [cAtomic, cWord_free _ f]
  exact congrArg _ ((if_neg (not_not.mpr h)).trans (if_pos ⟨low, high⟩))

end

/-! ### Handler context (20 R341) -/

theorem State.cTrap_handler {s : State} (h : s.core.c.handler = true) (cause : BitVec 8) (tval : Word64) :
    s.cTrap cause tval = s.handlerFault := if_pos h

theorem State.cWait_handler {s : State} (h : s.core.c.handler = true) (w : WaitPlace) : s.cWait w = s.handlerFault := if_pos h

/-- The supervisor's core halts, and the host is told once. -/
theorem State.handlerFault_supervisor {s : State} (h : s.core.sup = true) :
    s.handlerFault.core.halted = true ∧ s.handlerFault.host.fault.getLsbD 1 = true
      ∧ s.handlerFault.host.msix = s.host.msix + (if s.host.fault.getLsbD 1 then 0 else 1) ∧ s.handlerFault.mem = s.mem := by
  rw [State.handlerFault, if_pos h]
  refine ⟨rfl, ?_, ?_, rfl⟩
  · simp
  · cases raised : s.host.fault.getLsbD 1 <;> simp

end Sys2Proof.Machine

/-- Settles O20: the rules of the slots, the checks of an address, and the handler's faults, each by its lemma. -/
theorem faultsAtTheWord : Obligations.FaultsAtTheWord := by
  unfold Obligations.FaultsAtTheWord
  constructor
  · intro s d a b i u op n o va pc
    refine ⟨?slot, fun last => ⟨?lastBranch, ?lastSlot⟩, ?misaligned, ?atomics⟩
    case slot =>
      intro a' b' i' o' k near inside before branch decodes e listed
      have slot : s.core.inSlot = true := Core.inSlot_of_branch near inside decodes (isBranch_of_listed a' a' b' a' b' i' o' before branch)
      exact exec_slotFault s d a b i n o e listed (Core.slotFault_of_forbidden slot (slotForbidden_of_listed d a b i n o e listed))
    case lastBranch =>
      intro e listed
      have fault := Core.slotFault_of_last_branch (isBranch_of_listed d a b d a i o e listed) last
      exact exec_slotFault s d a b i n o e (List.mem_append_right [Instr.loop a i, .loopi n i, .rett, .texit] listed) fault
    case lastSlot => exact fun e srcs act slot => cWord_slotFault (Core.slotFault_of_last e slot last)
    case misaligned =>
      intro e listed free away
      rcases List.mem_append.mp (show e ∈ [_, _, _, _, _, _] ++ [_, _, _] from listed) with load | store
      · exact exec_load_misaligned s d a i e load free away
      · exact exec_store_misaligned s b a i e store free away
    case atomics =>
      simp only [List.forall_mem_cons, List.not_mem_nil, false_implies, implies_true, and_true]
      constructor
      · intro f
        change (_ → execAmo d a b u op s = _) ∧ (_ → _ → _ → execAmo d a b u op s = _)
        rw [execAmo]
        exact ⟨cAtomic_misaligned f, cAtomic_window f⟩
      · intro f
        change (_ → execCas d a b s = _) ∧ (_ → _ → _ → execCas d a b s = _)
        rw [execCas]
        exact ⟨cAtomic_misaligned f, cAtomic_window f⟩
  · exact fun s cause tval w handler =>
      ⟨fun _ => State.cTrap_handler handler cause tval, State.cWait_handler handler w, State.handlerFault_supervisor⟩
end

section
/-! SUPPORT. O33: words that change the shape, the window or the pending modifier of the vector engine (05 R97; 07 R144, R147). -/
open Sys2Proof Sys2Proof.Machine

namespace Sys2Proof.Machine

/-- A word of the shape or the window that nothing holds: its fault, or its issue with its effect. -/
theorem windowWord_free {h : Hitch} {i : Instr} {fault : State → Option (BitVec 8 × Word64)} {f : State → Vec → Vec} {s : State}
    (free : s.stepFree .x h i false [] [] = true) : windowWord h i fault f s = .next (match fault s with
      | some e => s.stepTrap .x e.1 e.2 s.core.x.pc.toNat
      | none => s.issues (s.updV (f s)) .x h i false [] [] (.atCount (s.core.x.count + 1)) .on) := by
  rw [windowWord, stepWord_free _ free]
  cases fault s <;> rfl

/-! ### The stage predicates (07 R147) -/

theorem Vec.stage_p (v : Vec) (first shift : Bool) {i : Nat} (h : i < 16) : (v.stage first shift).p[i] =
    if i < 8 then v.p[i] else if i = 8 then List.replicate 1024 first else if shift then v.p[i - 1] else allFalse :=
  Vector.getElem_ofFn _

theorem Vec.stage_low (v : Vec) (first shift : Bool) (i : Fin 8) : (v.stage first shift).p[i.val] = v.p[i.val] := by
  rw [Vec.stage_p _ _ _ (by omega), if_pos i.isLt]

theorem Vec.stage_first (v : Vec) (first shift : Bool) : (v.stage first shift).p[8] = List.replicate 1024 first := by
  rw [Vec.stage_p _ _ _ (by decide), if_neg (by decide), if_pos rfl]

theorem Vec.stage_shifted (v : Vec) (first : Bool) (i : Fin 7) : (v.stage first true).p[9 + i.val] = v.p[8 + i.val] := by
  have before : 9 + i.val - 1 = 8 + i.val := by omega
  rw [Vec.stage_p _ _ _ (by omega), if_neg (by omega), if_neg (by omega), if_pos rfl]
  simp only [before]

theorem Vec.rotate_p (v : Vec) : v.rotate.p = (v.stage (decide (0 < v.left)) true).p := rfl

end Sys2Proof.Machine

/-- Settles O33: the modifier issues as `stepWord_free` says, the others as `windowWord_free` does. -/
theorem shapeAndWindowWords : Obligations.ShapeAndWindowWords := by
  unfold Obligations.ShapeAndWindowWords
  intro s h z g pn inv zero rm v x next
  refine ⟨fun free => ?modifier, fun free => ?vshape, fun free => ⟨?vrot, rfl, rfl, rfl, ?_, ?_, ?_⟩, fun free => ?vwin⟩
  case modifier =>
    change execVectorModifier pn inv zero rm s = _
    rw [execVectorModifier, stepWord_free _ free]
    rfl
  case vshape =>
    change execVshape h z s = _
    rw [execVshape, windowWord_free free]
  case vrot =>
    change execVrot h s = _
    rw [execVrot, windowWord_free free]
  · rw [v.rotate_p, v.stage_first]
  · exact fun i => by rw [v.rotate_p, v.stage_shifted]
  · exact fun i => by rw [v.rotate_p, v.stage_low]
  case vwin =>
    change execVwin h g s = _
    rw [execVwin, windowWord_free free]
    by_cases valid : vwinOk x.toNat = true
    · rw [if_pos valid, if_pos valid]
    · rw [if_neg valid, if_neg valid]
end

section
/-!
SUPPORT. O35: what fmt pushes into fq (06 R119), and a state in which that word comes after a nest.go of C that no access of C has waited for
(11 R267).
-/
open Sys2Proof Sys2Proof.Machine

namespace Sys2Proof.Machine

/-- fmt with a format word that passes its checks, and room for it: the word comes after every nest.go that C has issued (11 R267). -/
theorem execFmt_pushes {s : State} {a : BitVec 5} (free : s.cFree (.fmt a) [a] = true)
    (ok : fmtOk (if a = 0 then s.core.csr.fmtd else s.core.c.read a) = true) (room : s.core.fq.room formatDepth s.now = true) :
    execFmt a s = .next ((s.updCore fun c =>
      { c with fq := c.fq.push (if a = 0 then s.core.csr.fmtd else s.core.c.read a) s.cSeen c.c.pushAfter }).cDone) := by
  rw [execFmt, cWord_free _ free]
  simp only [ok, room, Bool.not_true, Bool.false_eq_true, if_false, if_true]

/-- Two pushes onto one queue that leave the same queue come after the same words. -/
theorem Queue.push_after_inj {q : Queue} {v w : Word64} {m n : Nat} {a b : After} (h : q.push v m a = q.push w n b) : a = b := by
  have items : q.items ++ [⟨v, m, a⟩] = q.items ++ [⟨w, n, b⟩] := congrArg Queue.items h
  obtain ⟨-, -, after⟩ : v = w ∧ m = n ∧ a = b := by simpa using items
  exact after

/-- The reset state with one nest.go issued, which nothing that C has done since comes after. -/
def afterNestGo : State := State.reset.updC fun c => { c with nGo := 1 }

theorem afterNestGo_free : afterNestGo.cFree (.fmt 0) [0] = true := by decide

theorem afterNestGo_pushAfter : afterNestGo.core.c.pushAfter ≠ afterNestGo.core.c.after := by decide

end Sys2Proof.Machine

/--
Refutes O35: its clause for fmt says that the word pushed comes after `CStrand.after`, where the model pushes it after `CStrand.pushAfter`, every
nest.go of C included.  The two differ in `afterNestGo`, where C has issued one nest.go; there `fmt 0` pushes FMTD.
-/
theorem not_formatWordsAndNests : ¬ Obligations.FormatWordsAndNests := by
  unfold Obligations.FormatWordsAndNests
  rintro ⟨words, -⟩
  obtain ⟨-, fmt, -⟩ := words afterNestGo 0 0
  obtain ⟨t, runs, only, -⟩ := fmt afterNestGo_free (by decide) (by decide)
  have pushes := execFmt_pushes afterNestGo_free (by decide) (by decide)
  cases runs.symm.trans pushes
  exact afterNestGo_pushAfter (Queue.push_after_inj (congrArg (fun u => u.core.fq) only))
end

section
/-!
SUPPORT. O42: the course of a word that is no instruction and of a cause (05 R82, R97; 20 R331 to R334), and what taking an exception leaves
(20 R339).
-/
open Sys2Proof Sys2Proof.Machine

namespace Sys2Proof.Machine

/-! ### Words that are no instruction (05 R82, R97) -/

theorem execReservedOpcode_x (s : State) (w : Word32) (h : s.core.v.modif = none) :
    execReservedOpcode .x w s = .next (s.stepTrap .x 0x01 (w.zeroExtend 64) s.core.x.pc.toNat) := by
  simp only [execReservedOpcode, h]
  rfl

theorem execReservedOpcode_modified {s : State} {m : Modifier} (w : Word32) (h : s.core.v.modif = some m) :
    execReservedOpcode .x w s = .next (s.modifierFault m w) := by
  simp only [execReservedOpcode, h]

/-! ### Causes (20 R333, R334) -/

section
variable {s : State} {cause : BitVec 8} {src : BitVec 4} {tval : Word64} (forecast : cause ≠ 0x0D) (test : cause ≠ 0x0F)
  (page : cause = 0x04 → s.core.task = none) (call : cause ≠ 0x10)
include forecast test page call

/-- A cause that is not one of those with a course of their own comes by its source. -/
theorem execTrapEntry_by_source : execTrapEntry cause src tval s = .next (
    if src = 0 then s.cTrap cause tval
    else if src = 1 then s.stepTrap .l cause tval s.core.l.pc.toNat
    else if src = 2 ∧ cause ≠ 0x0C then s.stepTrap .x cause tval s.core.x.pc.toNat
    else if src = 3 then s.stepTrap .s cause tval s.core.s.pc.toNat
    else if s.core.c.handler then s.raiseLater cause src tval
    else s.enterTrap cause src false tval none 0 s.now) := by
  have absent : ¬(cause = 0x04 ∧ s.core.task.isSome = true) := fun ⟨c, t⟩ => by simp [page c] at t
  rw [execTrapEntry, if_neg absent, if_neg forecast, if_neg test, if_neg call]

/-- A source that is no strand's is asynchronous. -/
theorem execTrapEntry_asynchronous (unit : 4 ≤ src.toNat) : execTrapEntry cause src tval s = .next (
    if s.core.c.handler then s.raiseLater cause src tval else s.enterTrap cause src false tval none 0 s.now) := by
  have strand : src ≠ 0 ∧ src ≠ 1 ∧ src ≠ 2 ∧ src ≠ 3 := by bv_omega
  obtain ⟨not0, not1, not2, not3⟩ := strand
  rw [execTrapEntry_by_source forecast test page call, if_neg not0, if_neg not1, if_neg (not2 ·.1), if_neg not3]

end

/-! ### Taking an exception (20 R331 to R333, R339) -/

/-- The counts that a stop brings up to its tick are none of C's, and no pending entry changes. -/
theorem Core.stopped_frame (c : Core) (tick : Nat) :
    (if c.freeze.isSome then c.thaw tick else c.sync tick).c = c.c ∧ (if c.freeze.isSome then c.thaw tick else c.sync tick).pend = c.pend := by
  unfold Core.thaw
  split
  · split <;> exact ⟨rfl, rfl⟩
  · exact ⟨rfl, rfl⟩

/-- An exception taken outside a handler: its frame, C's chain kept, and the pending entries kept for the next resumption. -/
theorem State.enterTrap_spec {s : State} (outside : s.core.c.handler = false) (cause : BitVec 8) (src : BitVec 4) (precise : Bool)
    (tval : Word64) (strand : Option StepStrand) (pc tick : Nat) :
    let t := s.enterTrap cause src precise tval strand pc tick
    t.core.pend = s.core.pend.map (fun p => { p with kept := p.kind != 3 }) ∧ t.core.frame.cause = cause ∧ t.core.frame.tval = tval
      ∧ t.core.frame.src = src ∧ t.core.frame.precise = precise ∧ t.core.c.handler = true ∧ t.core.c.saved = s.core.c.chain ∧ t.mem = s.mem := by
  obtain ⟨c, pend⟩ := s.core.stopped_frame tick
  rw [State.enterTrap, if_neg (by rw [outside]; decide)]
  exact ⟨congrArg (List.map _) pend, rfl, rfl, rfl, rfl, rfl, congrArg CStrand.chain c, rfl⟩

/-- A pending entry whose cycle of C has come, and that no earlier stop kept, enters its trap and leaves the list. -/
theorem execPendingEntryTaken_spec {s : State} {p : Pending} (due : s.core.duePend = some p) (outside : s.core.c.handler = false)
    (internal : p.cause ≠ 0x11) (fresh : p.kept = false) :
    ∃ t, execPendingEntryTaken s = .next t ∧ t.core.pend = (s.core.pend.erase p).map (fun e => { e with kept := e.kind != 3 })
      ∧ t.core.frame.cause = p.cause ∧ t.core.frame.tval = p.tval ∧ t.core.frame.src = p.src ∧ t.core.frame.precise = false
      ∧ t.core.c.handler = true ∧ t.core.c.saved = s.core.c.chain ∧ t.mem = s.mem := by
  let begun := if p.kind == 3 then s.at_ s.core.c.next else s
  let taken := begun.updCore fun c => { c with pend := c.pend.erase p }
  have same : begun.core = s.core ∧ begun.mem = s.mem := by
    unfold begun
    split <;> exact ⟨rfl, rfl⟩
  obtain ⟨core, mem⟩ := same
  have runs : execPendingEntryTaken s = .next ((taken.enterTrap p.cause p.src false p.tval none 0 taken.now).updCore fun c =>
      { c with frame := { c.frame with entry := s.core.faultedEntry p, gload := s.core.faultedLoad p } }) := by
    simp only [execPendingEntryTaken, due, outside, fresh, internal, Bool.false_or, Bool.false_eq_true, if_false, taken, begun]
  have trap := State.enterTrap_spec (s := taken) (by simp only [taken, State.updCore_core, core, outside])
    p.cause p.src false p.tval none 0 taken.now
  simp only [taken, State.updCore_core, State.updCore_mem, core, mem] at trap
  exact ⟨_, runs, trap⟩

end Sys2Proof.Machine

/-- Settles O42: each strand's reserved word, the sources of a cause, and a pending entry, by the lemmas above. -/
theorem causesReachTheCore : Obligations.CausesReachTheCore := by
  unfold Obligations.CausesReachTheCore
  constructor
  · exact fun s w => ⟨rfl, rfl, rfl, execReservedOpcode_x s w, fun m => execReservedOpcode_modified w⟩
  · intro s cause src tval forecast test page
    have bySource := fun call => execTrapEntry_by_source (src := src) (tval := tval) forecast test page call
    have asynchronous := fun call unit => execTrapEntry_asynchronous (src := src) (tval := tval) forecast test page call unit
    refine ⟨fun call c => ?c, fun call l => ?l, fun call s => ?s, fun call unit outside => ?trap, fun call unit inside => ?later,
      fun p => execPendingEntryTaken_spec⟩
    case c => subst c; exact bySource call
    case l => subst l; exact bySource call
    case s => subst s; exact bySource call
    case trap => exact (asynchronous call unit).trans (congrArg _ (if_neg (by rw [outside]; decide)))
    case later => exact (asynchronous call unit).trans (congrArg _ (if_pos inside))
end

section
/-!
SUPPORT. O57: every meaning of an instruction or event ends in a next state, branch by branch: a word of C through its slots and its interlock, a
word of L, X or S at once, and an event by its own cases.
-/
open Sys2Proof Sys2Proof.Machine

namespace Sys2Proof.Machine

/-- The execution ends in a next state: no fault of the model, and no refusal. -/
def Completes (o : Host.Outcome State Fault Refusal) : Prop := ∃ t, o = .next t

theorem Completes.next (t : State) : Completes (.next t) := ⟨t, rfl⟩

theorem Completes.ite {p : Prop} [Decidable p] {a b : Host.Outcome State Fault Refusal} (ha : Completes a) (hb : Completes b) :
    Completes (if p then a else b) := by
  split
  · exact ha
  · exact hb

/-! ### Words of C (05 R90; 06 R103) -/

theorem cWord_completes (i : Instr) (srcs : List (BitVec 5)) (act : State → State) (s : State) : Completes (cWord i srcs act s) :=
  .ite (.next _) (.ite (.next _) (.ite (.next _) (.next _)))

theorem aluR_completes (i : Instr) (d a b : BitVec 5) (lat : Nat) (f : Word64 → Word64 → Word64) (s : State) :
    Completes (aluR i d a b lat f s) := cWord_completes ..

theorem aluU_completes (i : Instr) (d a : BitVec 5) (f : Word64 → Word64) (s : State) : Completes (aluU i d a f s) := cWord_completes ..

theorem aluDiv_completes (i : Instr) (d a b : BitVec 5) (f : Word64 → Word64 → Word64) (s : State) :
    Completes (aluDiv i d a b f s) := cWord_completes ..

theorem cLoad_completes (i : Instr) (d a : BitVec 5) (imm : BitVec 15) (n : Nat) (ext : Nat → Word64) (after : Nat → State → State)
    (s : State) : Completes (cLoad i d a imm n ext after s) := cWord_completes ..

theorem cStore_completes (i : Instr) (b a : BitVec 5) (imm : BitVec 15) (n : Nat) (s : State) : Completes (cStore i b a imm n s) :=
  cWord_completes ..

theorem cAtomic_completes (i : Instr) (srcs : List (BitVec 5)) (d a : BitVec 5) (use : BitVec 2) (eff : Nat → Nat → State → EffKind)
    (s : State) : Completes (cAtomic i srcs d a use eff s) := cWord_completes ..

theorem cBranch_completes (i : Instr) (a b : BitVec 5) (o : BitVec 15) (p : Word64 → Word64 → Bool) (s : State) :
    Completes (cBranch i a b o p s) := cWord_completes ..

/-! ### Events of the core (06 R103; 07 R151, R174; 09; 11) -/

theorem execReservedOpcode_completes (s : State) (t : Strand) (w : Word32) : Completes (execReservedOpcode t w s) := by
  unfold execReservedOpcode
  cases t with
  | c => exact .next _
  | l => exact .next _
  | s => exact .next _
  | x => cases s.core.v.modif <;> exact .next _

theorem execGlobalLoadArrival_completes (s : State) : Completes (execGlobalLoadArrival s) := by
  unfold execGlobalLoadArrival
  split <;> exact .next _

theorem execCLoadArrival_completes (s : State) : Completes (execCLoadArrival s) := by
  unfold execCLoadArrival
  split <;> exact .next _

theorem execHitchPostDelivery_completes (s : State) : Completes (execHitchPostDelivery s) := by
  unfold execHitchPostDelivery
  split <;> exact .next _

theorem execTransferComplete_completes (s : State) (u : XUnit) : Completes (execTransferComplete u s) := by
  unfold execTransferComplete
  split <;> exact .next _

theorem execTransferAtomArrival_completes (s : State) (u : XUnit) (pa : BitVec 52) : Completes (execTransferAtomArrival u pa s) := by
  unfold execTransferAtomArrival
  split
  · exact .next _
  · exact .ite (.next _) (.next _)

theorem execTfarLanding_completes (s : State) : Completes (execTfarLanding s) := by
  unfold execTfarLanding
  split <;> exact .next _

theorem execRemoteReadRequest_completes (s : State) : Completes (execRemoteReadRequest s) := by
  unfold execRemoteReadRequest
  split
  · exact .next _
  refine .ite (.next _) ?_
  split
  · split
    · refine .ite ?_ (.next _)
      split <;> exact .next _
    · exact .next _
  · exact .next _

theorem execOperandFetchArrival_completes (s : State) : Completes (execOperandFetchArrival s) := by
  unfold execOperandFetchArrival
  split <;> exact .next _

theorem execQueueDeadlock_completes (s : State) : Completes (execQueueDeadlock s) := by
  unfold execQueueDeadlock
  split <;> exact .next _

theorem execPendingEntryTaken_completes (s : State) : Completes (execPendingEntryTaken s) := by
  unfold execPendingEntryTaken
  split
  · exact .next _
  · exact .ite (.next _) (.next _)

theorem execCorrectableRetryResolved_completes (s : State) : Completes (execCorrectableRetryResolved s) := by
  unfold execCorrectableRetryResolved
  split <;> exact .next _

theorem execTranslationWalkComplete_completes (s : State) : Completes (execTranslationWalkComplete s) := by
  unfold execTranslationWalkComplete
  split <;> exact .next _

/-! ### Events of the matrix unit (08) -/

theorem execMatrixEntryStart_completes (s : State) : Completes (execMatrixEntryStart s) := by
  unfold execMatrixEntryStart
  split
  · refine .ite ?_ (.ite (.next _) (.next _))
    extract_lets t
    cases t.core.m.running <;> exact .next _
  · exact .next _

theorem execMatrixOccupancyEnd_completes (s : State) : Completes (execMatrixOccupancyEnd s) := by
  unfold execMatrixOccupancyEnd
  split
  · exact .next _
  · exact .ite (.next _) (.next _)

theorem execMatrixResultVisible_completes (s : State) : Completes (execMatrixResultVisible s) := by
  unfold execMatrixResultVisible
  split <;> exact .next _

theorem execNestPoint_completes (s : State) : Completes (execNestPoint s) := by
  unfold execNestPoint
  split
  · exact .ite (.next _) (.next _)
  · exact .next _

theorem execFactorColumnBoundary_completes (s : State) : Completes (execFactorColumnBoundary s) := by
  unfold execFactorColumnBoundary
  split
  · exact .ite (.next _) (.ite (.next _) (.next _))
  · exact .next _

theorem execFactorisationBreakdown_completes (s : State) : Completes (execFactorisationBreakdown s) := by
  unfold execFactorisationBreakdown
  split
  · split <;> exact .next _
  · exact .next _

theorem execSelfTestFailure_completes (s : State) : Completes (execSelfTestFailure s) := by
  unfold execSelfTestFailure
  split
  · exact .next _
  · exact .ite (.next _) (.ite (.next _) (.ite (.next _) (.next _)))

/-! ### Events of tasks, kernels and forecasts (02; 10; 19) -/

theorem execTaskRelease_completes (s : State) (kid : BitVec 16) (vdie vcore : BitVec 8) : Completes (execTaskRelease kid vdie vcore s) := by
  unfold execTaskRelease
  split
  · exact .next _
  split
  · exact .ite (.next _) (.next _)
  · exact .next _

theorem execSpliceComplete_completes (s : State) : Completes (execSpliceComplete s) := by
  unfold execSpliceComplete
  refine .ite (.next _) ?_
  split <;> exact .next _

theorem execCleatComplete_completes (s : State) (kid : BitVec 16) : Completes (execCleatComplete kid s) := by
  unfold execCleatComplete
  split
  · refine .ite (.next _) ?_
    dsimp only
    split <;> exact .next _
  · exact .next _

theorem execKwaitRelease_completes (s : State) : Completes (execKwaitRelease s) := by
  unfold execKwaitRelease
  exact .ite (.next _) (.next _)

theorem execVersionPublication_completes (s : State) : Completes (execVersionPublication s) := by
  unfold execVersionPublication
  split
  · exact .next _
  · split <;> exact .next _

theorem execPredictionReady_completes (s : State) : Completes (execPredictionReady s) := by
  unfold execPredictionReady
  split
  · exact .ite (.next _) (.next _)
  · exact .next _

theorem execVerdictArrival_completes (s : State) : Completes (execVerdictArrival s) := by
  unfold execVerdictArrival
  split <;> exact .next _

theorem execOrphanForecast_completes (s : State) (kid : BitVec 16) : Completes (execOrphanForecast kid s) := by
  unfold execOrphanForecast
  split <;> exact .next _

theorem execStreamResident_completes (s : State) (kid : BitVec 16) : Completes (execStreamResident kid s) := by
  unfold execStreamResident
  split <;> exact .next _

theorem execKernelIssue_completes (s : State) (kid : BitVec 16) : Completes (execKernelIssue kid s) := by
  unfold execKernelIssue
  split
  · exact .next _
  split
  · exact .next _
  · exact .ite (.next _) (.ite (.next _) (.ite (.next _) (.next _)))

theorem execCommandRingPoll_completes (s : State) : Completes (execCommandRingPoll s) := by
  unfold execCommandRingPoll
  refine .ite (.next _) (.ite (.next _) ?_)
  exact .ite (.next _) (.next _)

theorem execLoad_completes (s : State) (c : Cmd) : Completes (execLoad c s) := by
  unfold execLoad
  split <;> exact .next _

/-! ### Events of clocks, links and service (21; 22; 23) -/

theorem execTimerCompareMatch_completes (s : State) : Completes (execTimerCompareMatch s) := by
  unfold execTimerCompareMatch
  exact .ite (.next _) (.next _)

theorem execFrequencyTransition_completes (s : State) : Completes (execFrequencyTransition s) := by
  unfold execFrequencyTransition
  split <;> exact .next _

theorem execBoostBoundary_completes (s : State) : Completes (execBoostBoundary s) := by
  unfold execBoostBoundary
  exact .ite (.next _) (.next _)

theorem execFallStep_completes (s : State) (kid : BitVec 16) : Completes (execFallStep kid s) := by
  unfold execFallStep
  split
  · exact .next _
  · exact .ite (.next _) (.next _)

theorem execTimerDisciplineStep_completes (s : State) (add : Bool) : Completes (execTimerDisciplineStep add s) := by
  unfold execTimerDisciplineStep
  exact .ite (.next _) (.next _)

theorem execSupervisorReadyTimeout_completes (s : State) : Completes (execSupervisorReadyTimeout s) := by
  unfold execSupervisorReadyTimeout
  exact .ite (.next _) (.next _)

theorem execFlitReceive_completes (s : State) (port : BitVec 5) (f : Flit) : Completes (execFlitReceive port f s) := by
  unfold execFlitReceive
  split <;> exact .next _

theorem execNakReceived_completes (s : State) (port : BitVec 5) (seq : BitVec 12) : Completes (execNakReceived port seq s) := by
  unfold execNakReceived
  split
  · exact .next _
  · exact .ite (.next _) (.next _)

theorem execPortTrainingComplete_completes (s : State) (port : BitVec 5) (lanes : BitVec 4) (peer : BitVec 16) :
    Completes (execPortTrainingComplete port lanes peer s) := by
  unfold execPortTrainingComplete
  split
  · exact .next _
  · exact .ite (.next _) (.ite (.next _) (.next _))

theorem execLinkLoss_completes (s : State) (port : BitVec 5) : Completes (execLinkLoss port s) := by
  unfold execLinkLoss
  split <;> exact .next _

theorem execHeldRemoteWriteRelease_completes (s : State) : Completes (execHeldRemoteWriteRelease s) := by
  unfold execHeldRemoteWriteRelease
  split <;> exact .next _

theorem execCollectiveTimeout_completes (s : State) (id : BitVec 16) : Completes (execCollectiveTimeout id s) := by
  unfold execCollectiveTimeout
  split <;> exact .next _

theorem execThermalSample_completes (s : State) (isStack : Bool) (n : BitVec 5) (t : BitVec 16) :
    Completes (execThermalSample isStack n t s) := by
  unfold execThermalSample
  split <;> exact .next _

theorem execPatrolScrub_completes (s : State) (pa : BitVec 52) (uncorrectable : Bool) : Completes (execPatrolScrub pa uncorrectable s) := by
  unfold execPatrolScrub
  exact .ite (.next _) (.next _)

/-! ### Every instruction and event -/

/-- The instructions not named are words of L, X and S and events without a case of their own, which end in the state they name. -/
theorem exec_completes (i : Instr) (s : State) : Completes (exec i s) := by
  cases i with
  | add | sub | and | or | xor | shl | shr | sra | slt | sltu | seq | min | max | minu | maxu | mul | mulh | mulhu =>
    simp only [exec, execAdd, execSub, execAnd, execOr, execXor, execShl, execShr, execSra, execSlt, execSltu, execSeq, execMin,
      execMax, execMinu, execMaxu, execMul, execMulh, execMulhu, aluR_completes]
  | divu | remu =>
    simp only [exec, execDivu, execRemu, aluDiv_completes]
  | clz | popc | extS | extZ | addi | andi | ori | xori | shli | shri | srai | slti | sltui =>
    simp only [exec, execClz, execPopc, execExtS, execExtZ, execAddi, execAndi, execOri, execXori, execShli, execShri, execSrai,
      execSlti, execSltui, aluU_completes]
  | ldB | ldH | ldW | ldD | lduB | lduH | lduW | ldLast =>
    simp only [exec, execLdB, execLdH, execLdW, execLdD, execLduB, execLduH, execLduW, execLdLast, cLoad_completes]
  | stB | stH | stW | stD =>
    simp only [exec, execStB, execStH, execStW, execStD, cStore_completes]
  | amo | cas =>
    simp only [exec, execAmo, execCas, cAtomic_completes]
  | beq | bne | blt | bge | bltu | bgeu =>
    simp only [exec, execBeq, execBne, execBlt, execBge, execBltu, execBgeu, cBranch_completes]
  | lui | apc | jal | jalr | loop | loopi | qpush | qpop | qtry | tpost | twait | fmt | nestW | nestGo | launch | stream | ktrig
  | kwait | texit | coll | cleatArrive | cleatExpect | cleatWait | fence | csrr | csrw | csrx | trap | rett | ecall | clkdiv | pace
  | idle | tlbinv | fcast | fverd =>
    simp only [exec, execLui, execApc, execJal, execJalr, execLoop, execLoopi, execQpush, execQpop, execQtry, execTpost, execTwait,
      execFmt, execNestW, execNestGo, execLaunch, execStream, execKtrig, execKwait, execTexit, execColl, execCleatArrive,
      execCleatExpect, execCleatWait, execFence, execCsrr, execCsrw, execCsrx, execTrap, execRett, execEcall, execClkdiv, execPace,
      execIdle, execTlbinv, execFcast, execFverd, cWord_completes]
  | reservedOpcode => exact execReservedOpcode_completes ..
  | globalLoadArrival => exact execGlobalLoadArrival_completes ..
  | cLoadArrival => exact execCLoadArrival_completes ..
  | hitchPostDelivery => exact execHitchPostDelivery_completes ..
  | transferComplete => exact execTransferComplete_completes ..
  | transferAtomArrival => exact execTransferAtomArrival_completes ..
  | tfarLanding => exact execTfarLanding_completes ..
  | remoteReadRequest => exact execRemoteReadRequest_completes ..
  | operandFetchArrival => exact execOperandFetchArrival_completes ..
  | queueDeadlock => exact execQueueDeadlock_completes ..
  | pendingEntryTaken => exact execPendingEntryTaken_completes ..
  | correctableRetryResolved => exact execCorrectableRetryResolved_completes ..
  | translationWalkComplete => exact execTranslationWalkComplete_completes ..
  | matrixEntryStart => exact execMatrixEntryStart_completes ..
  | matrixOccupancyEnd => exact execMatrixOccupancyEnd_completes ..
  | matrixResultVisible => exact execMatrixResultVisible_completes ..
  | nestPoint => exact execNestPoint_completes ..
  | factorColumnBoundary => exact execFactorColumnBoundary_completes ..
  | factorisationBreakdown => exact execFactorisationBreakdown_completes ..
  | selfTestFailure => exact execSelfTestFailure_completes ..
  | taskRelease => exact execTaskRelease_completes ..
  | spliceComplete => exact execSpliceComplete_completes ..
  | cleatComplete => exact execCleatComplete_completes ..
  | kwaitRelease => exact execKwaitRelease_completes ..
  | versionPublication => exact execVersionPublication_completes ..
  | predictionReady => exact execPredictionReady_completes ..
  | verdictArrival => exact execVerdictArrival_completes ..
  | orphanForecast => exact execOrphanForecast_completes ..
  | streamResident => exact execStreamResident_completes ..
  | kernelIssue => exact execKernelIssue_completes ..
  | commandRingPoll => exact execCommandRingPoll_completes ..
  | load => exact execLoad_completes ..
  | timerCompareMatch => exact execTimerCompareMatch_completes ..
  | frequencyTransition => exact execFrequencyTransition_completes ..
  | boostBoundary => exact execBoostBoundary_completes ..
  | fallStep => exact execFallStep_completes ..
  | timerDisciplineStep => exact execTimerDisciplineStep_completes ..
  | supervisorReadyTimeout => exact execSupervisorReadyTimeout_completes ..
  | flitReceive => exact execFlitReceive_completes ..
  | nakReceived => exact execNakReceived_completes ..
  | portTrainingComplete => exact execPortTrainingComplete_completes ..
  | linkLoss => exact execLinkLoss_completes ..
  | heldRemoteWriteRelease => exact execHeldRemoteWriteRelease_completes ..
  | collectiveTimeout => exact execCollectiveTimeout_completes ..
  | thermalSample => exact execThermalSample_completes ..
  | patrolScrub => exact execPatrolScrub_completes ..
  | _ => exact .next _

end Sys2Proof.Machine

/-- Settles O57: every branch of every meaning ends in a next state. -/
theorem noInstructionStops : Obligations.NoInstructionStops := by
  unfold Obligations.NoInstructionStops
  exact exec_completes
end

section
/-! SUPPORT. O1, O2, O3: the words of C that compute one result, by their three forms, and what their tables name (06 R103 to R107; 03 R55). -/
open Sys2Proof Sys2Proof.Machine

namespace Sys2Proof.Machine

/-! ### The three forms (06 R103, R105) -/

/-- A register form that nothing holds gives its result. -/
theorem aluR_result {s : State} {i : Instr} {d a b : BitVec 5} {lat : Nat} {f : Word64 → Word64 → Word64} {v : Word64}
    (free : s.cFree i [a, b] = true) (value : f (s.core.c.read a) (s.core.c.read b) = v) :
    ∃ t, aluR i d a b lat f s = .next t ∧ CResult s t d v lat := by
  subst value
  exact ⟨_, cWord_free _ free, State.result_spec ..⟩

/-- A form over one register that nothing holds gives its result. -/
theorem aluU_result {s : State} {i : Instr} {d a : BitVec 5} {f : Word64 → Word64} {v : Word64} (free : s.cFree i [a] = true)
    (value : f (s.core.c.read a) = v) : ∃ t, aluU i d a f s = .next t ∧ CResult s t d v 1 := by
  subst value
  exact ⟨_, cWord_free _ free, State.result_spec ..⟩

/-- The cycle of the context in use from which the divider is free (06 R103). -/
def CStrand.dividerFree (c : CStrand) : Nat := if c.handler then c.shDivFree else c.divFree

/-- What a divide changes of C before its result: the divider alone, for four cycles. -/
theorem CStrand.divide_only (c : CStrand) : c.divide = { c with divFree := c.divide.divFree, shDivFree := c.divide.shDivFree } := by
  unfold CStrand.divide
  split <;> rfl

theorem CStrand.dividerFree_divide (c : CStrand) : c.divide.dividerFree = c.cycles + 4 := by
  cases h : c.handler <;> simp [CStrand.divide, CStrand.dividerFree, CStrand.cycles, h]

theorem CStrand.dividerFree_congr {c e : CStrand} (p : e.divFree = c.divFree) (q : e.shDivFree = c.shDivFree) (h : e.handler = c.handler) :
    e.dividerFree = c.dividerFree := by
  simp only [CStrand.dividerFree, p, q, h]

/-- A result leaves the divider as it is. -/
theorem State.result_dividerFree (s : State) (d : BitVec 5) (v : Word64) (lat : Nat) :
    (s.result d v lat).core.c.dividerFree = s.core.c.dividerFree := by
  have remember := CStrand.remember_only s.core.c d
  have write := CStrand.write_regs_only (s.core.c.remember d) d v
  have new := CStrand.newResult_only ((s.core.c.remember d).write d v) d lat
  have advance := CStrand.advance_only (((s.core.c.remember d).write d v).newResult d lat)
  refine CStrand.dividerFree_congr ?_ ?_ ?_ <;>
    simp only [State.result, State.setS, State.cDone, State.cTick, State.updC_core_c] <;> rw [advance, new, write, remember]

theorem execLui_result {s : State} {d : BitVec 5} {i : BitVec 20} (free : s.cFree (.lui d i) [] = true) :
    ∃ t, execLui d i s = .next t ∧ CResult s t d (imm20 i) 1 := ⟨_, cWord_free _ free, State.result_spec ..⟩

theorem execApc_result {s : State} {d : BitVec 5} {i : BitVec 20} (free : s.cFree (.apc d i) [] = true) :
    ∃ t, execApc d i s = .next t ∧ CResult s t d (s.core.c.chain.pc + imm20 i) 1 := ⟨_, cWord_free _ free, State.result_spec ..⟩

theorem execAddi_result {s : State} {d a : BitVec 5} {i : BitVec 15} (free : s.cFree (.addi d a i) [a] = true) :
    ∃ t, execAddi d a i s = .next t ∧ CResult s t d (s.core.c.read a + imm15 i) 1 := aluU_result free rfl

/-- A divide begun: C stands as before but for its divider. -/
theorem CResult.of_divide {s t : State} {d : BitVec 5} {v : Word64} (h : CResult (s.updC CStrand.divide) t d v 4) : CResult s t d v 4 := by
  have only := s.core.c.divide_only
  obtain ⟨strand, rest, result, others, chain, stack, cycles, ready, count⟩ := h
  have advance := CStrand.advance_congr (c := s.core.c) (e := s.core.c.divide) (by rw [only]) (by simp only [CStrand.stack]; rw [only])
    (by rw [only])
  have same : ∀ r, s.core.c.divide.read r = s.core.c.read r := CStrand.read_congr (by rw [only]) (by rw [only]) (by rw [only])
  have counts : s.core.c.divide.cycles = s.core.c.cycles := by simp only [CStrand.cycles]; rw [only]
  have words : (s.core.c.divide.count + if s.core.c.divide.handler then 0 else 1) = s.core.c.count + if s.core.c.handler then 0 else 1 := by
    rw [only]
  have kept : SameRest s.core.c t.core.c := by
    rwa [State.updC_core_c, only] at rest
  exact ⟨strand, kept, result, fun r ne => (others r ne).trans (same r), chain.trans advance.1, stack.trans advance.2,
    cycles.trans (congrArg (· + 1) counts), ready.trans (congrArg (· + 4) counts), count.trans words⟩

/-- A divide that nothing holds, the divider free, gives its result and holds the divider for four cycles. -/
theorem aluDiv_result {s : State} {i : Instr} {d a b : BitVec 5} {f : Word64 → Word64 → Word64} {v : Word64}
    (idle : s.core.c.dividerFree ≤ s.core.c.cycles) (free : s.cFree i [a, b] = true) (value : f (s.core.c.read a) (s.core.c.read b) = v) :
    ∃ t, aluDiv i d a b f s = .next t ∧ CResult s t d v 4
      ∧ (if s.core.c.handler then t.core.c.shDivFree else t.core.c.divFree) = s.core.c.cycles + 4 := by
  subst value
  have ready : s.core.c.dividing = false := decide_eq_false (Nat.not_lt.mpr idle)
  have result := (State.result_spec (s.updC CStrand.divide) d (f (s.core.c.read a) (s.core.c.read b)) 4).of_divide
  have ⟨_, ⟨context, _⟩, _⟩ := result
  have busy := (State.result_dividerFree (s.updC CStrand.divide) d (f (s.core.c.read a) (s.core.c.read b)) 4).trans
    s.core.c.dividerFree_divide
  rw [CStrand.dividerFree, context] at busy
  refine ⟨_, (cWord_free _ free).trans ?_, result, busy⟩
  simp only [ready, Bool.false_eq_true, if_false]

/-! ### The values of the rows (06 R105) -/

theorem sltFn_eq (x y : Word64) : sltFn x y = if x.toInt < y.toInt then 1 else 0 := by
  simp [sltFn, ofBool, BitVec.slt]

theorem sltuFn_eq (x y : Word64) : sltuFn x y = if x.toNat < y.toNat then 1 else 0 := by
  simp [sltuFn, ofBool, BitVec.ult]

theorem ofBool_beq (x y : Word64) : ofBool (x == y) = if x = y then 1 else 0 := by
  simp [ofBool]

theorem ite_slt {α : Type} (x y : Word64) (u v : α) : (if x.slt y = true then u else v) = if x.toInt < y.toInt then u else v := by
  simp [BitVec.slt]

theorem ite_ult {α : Type} (x y : Word64) (u v : α) : (if x.ult y = true then u else v) = if x.toNat < y.toNat then u else v := by
  simp [BitVec.ult]

theorem mulhS_eq (x y : Word64) : mulhS x y = BitVec.ofInt 64 (x.toInt * y.toInt / 2 ^ 64) := by
  rw [mulhS, Nat.cast_pow, Nat.cast_ofNat]

theorem mul_eq_ofNat (x y : Word64) : x * y = BitVec.ofNat 64 (x.toNat * y.toNat) := by
  rw [BitVec.ofNat_mul, BitVec.ofNat_toNat, BitVec.ofNat_toNat, BitVec.setWidth_eq, BitVec.setWidth_eq]

theorem divuFn_eq (x y : Word64) :
    divuFn x y = if y = 0 then BitVec.ofNat 64 (2 ^ 64 - 1) else BitVec.ofNat 64 (x.toNat / y.toNat) := by
  unfold divuFn
  split
  · rfl
  · apply BitVec.eq_of_toNat_eq
    have := Nat.lt_of_le_of_lt (Nat.div_le_self x.toNat y.toNat) x.isLt
    rw [BitVec.toNat_udiv, BitVec.toNat_ofNat, Nat.mod_eq_of_lt this]

theorem remuFn_eq (x y : Word64) : remuFn x y = if y = 0 then x else BitVec.ofNat 64 (x.toNat % y.toNat) := by
  unfold remuFn
  split
  · rfl
  · apply BitVec.eq_of_toNat_eq
    have := Nat.lt_of_le_of_lt (Nat.mod_le x.toNat y.toNat) x.isLt
    rw [BitVec.toNat_umod, BitVec.toNat_ofNat, Nat.mod_eq_of_lt this]

theorem leadingZeros_eq (x : Word64) :
    BitVec.ofNat 64 (leadingZeros 64 x.toNat) = if x = 0 then 64 else BitVec.ofNat 64 (63 - Nat.log2 x.toNat) := by
  unfold leadingZeros
  by_cases h : x = 0
  · subst h; rfl
  · have : x.toNat ≠ 0 := fun e => h (BitVec.eq_of_toNat_eq e)
    rw [if_neg h, if_neg (by simpa using this)]

theorem popCount_eq (x : Word64) : popCount 64 x.toNat = ((List.range 64).filter fun k => x.toNat / 2 ^ k % 2 = 1).length := by
  have bits : (List.range 64).filter (bitOf x.toNat) = (List.range 64).filter fun k => x.toNat / 2 ^ k % 2 = 1 :=
    List.filter_congr fun k _ => by rw [bitOf, Bool.beq_eq_decide_eq]
  simp [popCount, bitsOf, List.filter_map, bits]

/-- The three widths of ext.s and ext.z. -/
theorem extSFn_widths (x : Word64) : extSFn 1 x = (x.truncate 8).signExtend 64 ∧ extSFn 2 x = (x.truncate 16).signExtend 64
    ∧ extSFn 4 x = (x.truncate 32).signExtend 64 :=
  ⟨if_pos rfl, (if_neg (by decide)).trans (if_pos rfl), (if_neg (by decide)).trans (if_neg (by decide))⟩

theorem extZFn_widths (x : Word64) : extZFn 1 x = (x.truncate 8).zeroExtend 64 ∧ extZFn 2 x = (x.truncate 16).zeroExtend 64
    ∧ extZFn 4 x = (x.truncate 32).zeroExtend 64 :=
  ⟨if_pos rfl, (if_neg (by decide)).trans (if_pos rfl), (if_neg (by decide)).trans (if_neg (by decide))⟩

/-- Zero extension of the low bits keeps their value. -/
theorem truncate_zeroExtend (x : Word64) (w : Nat) : (x.truncate w).zeroExtend 64 = BitVec.ofNat 64 (x.toNat % 2 ^ w) := by
  apply BitVec.eq_of_toNat_eq
  simp

/-- An amount of six bits is taken whole. -/
theorem shiftAmount_amount (n : BitVec 6) : shiftAmount (amount n) = n.toNat := by
  have := n.isLt
  simp [shiftAmount, amount]
  omega

/-- imm20 moved up by 15, as an integer (06 R107). -/
theorem imm20_eq (i : BitVec 20) : imm20 i = BitVec.ofInt 64 (i.toInt * 2 ^ 15) := by
  have up : BitVec.twoPow 64 15 = BitVec.ofInt 64 (2 ^ 15) := by decide
  rw [imm20, BitVec.signExtend, BitVec.shiftLeft_eq_mul_twoPow, up, ← BitVec.ofInt_mul]

/-- An address read as an integer (06 R107). -/
theorem ofInt_toNat_add (x : Word64) (n : Int) : BitVec.ofInt 64 (x.toNat + n) = x + BitVec.ofInt 64 n := by
  rw [BitVec.ofInt_add, BitVec.ofInt_natCast, BitVec.ofNat_toNat, BitVec.setWidth_eq]

/-- lui's part of a constant within its range, moved up again (03 R55). -/
theorem upper_part {x l : Int} (low : l = (BitVec.ofInt 15 x).toInt) (least : -(2 ^ 34) ≤ x - l) (most : x - l ≤ 2 ^ 34 - 2 ^ 15) :
    (BitVec.ofInt 20 ((x - l) / 2 ^ 15)).toInt * 2 ^ 15 = x - l := by
  have whole : (x - l) % 2 ^ 15 = 0 := by
    rw [low, BitVec.toInt_ofInt]
    exact Int.emod_eq_zero_of_dvd (Int.dvd_self_sub_bmod ..)
  rw [BitVec.toInt_ofInt, Int.bmod_eq_of_le (by omega) (by omega)]
  omega

/-! ### The tables of the forms (06 R105, R106) -/

/-- The register forms but the divides, each with its latency and its function: see `exec_registerForm`. -/
def registerForms (d a b : BitVec 5) : List (Instr × Nat × (Word64 → Word64 → Word64)) :=
  [(.add d a b, 1, (· + ·)), (.sub d a b, 1, (· - ·)), (.and d a b, 1, (· &&& ·)), (.or d a b, 1, (· ||| ·)), (.xor d a b, 1, (· ^^^ ·)),
    (.shl d a b, 1, shlFn), (.shr d a b, 1, shrFn), (.sra d a b, 1, sraFn), (.slt d a b, 1, sltFn), (.sltu d a b, 1, sltuFn),
    (.seq d a b, 1, fun x y => ofBool (x == y)), (.min d a b, 1, fun x y => if y.slt x then y else x),
    (.max d a b, 1, fun x y => if x.slt y then y else x), (.minu d a b, 1, fun x y => if y.ult x then y else x),
    (.maxu d a b, 1, fun x y => if x.ult y then y else x), (.mul d a b, 3, (· * ·)), (.mulh d a b, 3, mulhS), (.mulhu d a b, 3, mulhU)]

theorem exec_registerForm (s : State) (d a b : BitVec 5) :
    ∀ r ∈ registerForms d a b, exec r.1 s = aluR r.1 d a b r.2.1 r.2.2 s := by
  simp only [registerForms, List.forall_mem_cons, List.not_mem_nil, false_implies, implies_true, and_true]
  exact ⟨rfl, rfl, rfl, rfl, rfl, rfl, rfl, rfl, rfl, rfl, rfl, rfl, rfl, rfl, rfl, rfl, rfl, rfl⟩

/-- The divides, each with its function: see `exec_divideForm`. -/
def divideForms (d a b : BitVec 5) : List (Instr × (Word64 → Word64 → Word64)) := [(.divu d a b, divuFn), (.remu d a b, remuFn)]

theorem exec_divideForm (s : State) (d a b : BitVec 5) : ∀ r ∈ divideForms d a b, exec r.1 s = aluDiv r.1 d a b r.2 s := by
  simp only [divideForms, List.forall_mem_cons, List.not_mem_nil, false_implies, implies_true, and_true]
  exact ⟨rfl, rfl⟩

/-- The forms over one register, each with its function: see `exec_immediateForm`. -/
def immediateForms (d a : BitVec 5) (i : BitVec 15) (n : BitVec 6) : List (Instr × (Word64 → Word64)) :=
  [(.clz d a, fun x => BitVec.ofNat 64 (leadingZeros 64 x.toNat)), (.popc d a, fun x => BitVec.ofNat 64 (popCount 64 x.toNat)),
    (.extS d a 1, extSFn 1), (.extS d a 2, extSFn 2), (.extS d a 4, extSFn 4), (.extZ d a 1, extZFn 1), (.extZ d a 2, extZFn 2),
    (.extZ d a 4, extZFn 4), (.addi d a i, (· + imm15 i)), (.andi d a i, (· &&& imm15 i)), (.ori d a i, (· ||| imm15 i)),
    (.xori d a i, (· ^^^ imm15 i)), (.shli d a n, fun x => shlFn x (amount n)), (.shri d a n, fun x => shrFn x (amount n)),
    (.srai d a n, fun x => sraFn x (amount n)), (.slti d a i, fun x => sltFn x (imm15 i)), (.sltui d a i, fun x => sltuFn x (imm15 i))]

theorem exec_immediateForm (s : State) (d a : BitVec 5) (i : BitVec 15) (n : BitVec 6) :
    ∀ r ∈ immediateForms d a i n, exec r.1 s = aluU r.1 d a r.2 s := by
  simp only [immediateForms, List.forall_mem_cons, List.not_mem_nil, false_implies, implies_true, and_true]
  exact ⟨rfl, rfl, rfl, rfl, rfl, rfl, rfl, rfl, rfl, rfl, rfl, rfl, rfl, rfl, rfl, rfl, rfl⟩

/-- The rows of R105 are the model's forms. -/
theorem registerForms_values (d a b : BitVec 5) (x y : Word64) :
    (registerForms d a b).map (fun r => (r.1, r.2.2 x y, r.2.1)) =
      [(.add d a b, x + y, 1), (.sub d a b, x - y, 1), (.and d a b, x &&& y, 1), (.or d a b, x ||| y, 1), (.xor d a b, x ^^^ y, 1),
        (.shl d a b, x <<< (y.toNat % 64), 1), (.shr d a b, x >>> (y.toNat % 64), 1), (.sra d a b, x.sshiftRight (y.toNat % 64), 1),
        (.slt d a b, if x.toInt < y.toInt then 1 else 0, 1), (.sltu d a b, if x.toNat < y.toNat then 1 else 0, 1),
        (.seq d a b, if x = y then 1 else 0, 1),
        (.min d a b, if y.toInt < x.toInt then y else x, 1), (.max d a b, if x.toInt < y.toInt then y else x, 1),
        (.minu d a b, if y.toNat < x.toNat then y else x, 1), (.maxu d a b, if x.toNat < y.toNat then y else x, 1),
        (.mul d a b, BitVec.ofNat 64 (x.toNat * y.toNat), 3), (.mulh d a b, BitVec.ofInt 64 (x.toInt * y.toInt / 2 ^ 64), 3),
        (.mulhu d a b, BitVec.ofNat 64 (x.toNat * y.toNat / 2 ^ 64), 3)] := by
  simp only [registerForms, List.map_cons, List.map_nil, shlFn, shrFn, sraFn, shiftAmount, sltFn_eq, sltuFn_eq, ofBool_beq, ite_slt, ite_ult,
    mul_eq_ofNat, mulhS_eq, mulhU]

theorem divideForms_values (d a b : BitVec 5) (x y : Word64) :
    (divideForms d a b).map (fun r => (r.1, r.2 x y)) =
      [(.divu d a b, if y = 0 then BitVec.ofNat 64 (2 ^ 64 - 1) else BitVec.ofNat 64 (x.toNat / y.toNat)),
        (.remu d a b, if y = 0 then x else BitVec.ofNat 64 (x.toNat % y.toNat))] := by
  simp only [divideForms, List.map_cons, List.map_nil, divuFn_eq, remuFn_eq]

theorem immediateForms_values (d a : BitVec 5) (i : BitVec 15) (n : BitVec 6) (x : Word64) :
    (immediateForms d a i n).map (fun r => (r.1, r.2 x)) =
      [(.clz d a, if x = 0 then 64 else BitVec.ofNat 64 (63 - Nat.log2 x.toNat)),
        (.popc d a, BitVec.ofNat 64 ((List.range 64).filter fun k => x.toNat / 2 ^ k % 2 = 1).length),
        (.extS d a 1, (x.truncate 8).signExtend 64), (.extS d a 2, (x.truncate 16).signExtend 64),
        (.extS d a 4, (x.truncate 32).signExtend 64), (.extZ d a 1, BitVec.ofNat 64 (x.toNat % 2 ^ 8)),
        (.extZ d a 2, BitVec.ofNat 64 (x.toNat % 2 ^ 16)), (.extZ d a 4, BitVec.ofNat 64 (x.toNat % 2 ^ 32)),
        (.addi d a i, x + i.signExtend 64), (.andi d a i, x &&& i.signExtend 64), (.ori d a i, x ||| i.signExtend 64),
        (.xori d a i, x ^^^ i.signExtend 64), (.shli d a n, x <<< n.toNat), (.shri d a n, x >>> n.toNat), (.srai d a n, x.sshiftRight n.toNat),
        (.slti d a i, if x.toInt < (i.signExtend 64).toInt then 1 else 0), (.sltui d a i, if x.toNat < (i.signExtend 64).toNat then 1 else 0)] := by
  obtain ⟨s1, s2, s4⟩ := extSFn_widths x
  obtain ⟨z1, z2, z4⟩ := extZFn_widths x
  simp only [immediateForms, List.map_cons, List.map_nil, leadingZeros_eq, popCount_eq, s1, s2, s4, z1, z2, z4, truncate_zeroExtend, imm15,
    shlFn, shrFn, sraFn, shiftAmount_amount, sltFn_eq, sltuFn_eq]

end Sys2Proof.Machine

/-- Settles O1: each row is one of the model's forms, whose word gives its result. -/
theorem registerFormsGiveTheirResults : Obligations.RegisterFormsGiveTheirResults := by
  unfold Obligations.RegisterFormsGiveTheirResults
  constructor
  · intro s d a b x y e row free
    rw [← registerForms_values] at row
    obtain ⟨r, form, rfl⟩ := List.mem_map.mp row
    rw [exec_registerForm s d a b r form]
    exact aluR_result free rfl
  · intro s d a b x y idle e row free
    rw [← divideForms_values] at row
    obtain ⟨r, form, rfl⟩ := List.mem_map.mp row
    rw [exec_divideForm s d a b r form]
    exact aluDiv_result idle free rfl

/-- Settles O2: each row is one of the model's forms, whose word gives its result. -/
theorem immediateFormsGiveTheirResults : Obligations.ImmediateFormsGiveTheirResults := by
  unfold Obligations.ImmediateFormsGiveTheirResults
  intro s d a i n x y e row free
  rw [← immediateForms_values] at row
  obtain ⟨r, form, rfl⟩ := List.mem_map.mp row
  rw [exec_immediateForm s d a i n r form]
  exact aluU_result free rfl

/-- Settles O3: lui and apc by the value of imm20, and the pair by the two parts of its constant. -/
theorem upperImmediates : Obligations.UpperImmediates := by
  unfold Obligations.UpperImmediates
  constructor
  · intro s d i
    simp only [List.forall_mem_cons, List.not_mem_nil, false_implies, implies_true, and_true]
    rw [ofInt_toNat_add, ← imm20_eq]
    exact ⟨execLui_result, execApc_result⟩
  · intro s t d x l low least most ne lui addi free runs free'
    obtain ⟨t', lui', -, -, upper, -⟩ := execLui_result free
    obtain rfl : t' = t := Host.Outcome.next.inj (lui'.symm.trans runs)
    obtain ⟨u, addi', -, -, sum, -⟩ := execAddi_result free'
    refine ⟨u, addi', (sum ne).trans ?_⟩
    rw [upper ne, imm20_eq, upper_part low least most, imm15, BitVec.signExtend, ← low, ← BitVec.ofInt_add, Int.sub_add_cancel]
end

section
/-! SUPPORT. O7, O8, O10: branches, jumps and hardware loops of C, each with its faults and the chain it leaves (06 R114 to R117; 05 R90). -/
open Sys2Proof Sys2Proof.Machine

namespace Sys2Proof.Machine

/-! ### Branches (06 R114, R116) -/

/-- C's registers and loop stack as a word of flow leaves them: only the chain moves, and the cycle ends. -/
def CMoved (s t : State) (stack : List LoopEntry) (chain : Chain) : Prop :=
  OnlyC s t ∧ SameRest s.core.c t.core.c ∧ (∀ r, t.core.c.read r = s.core.c.read r) ∧ t.core.c.stack = stack ∧ t.core.c.chain = chain

/-- The end of a cycle in which C's chain and its stack alone changed. -/
theorem CMoved.of_setStack (s : State) (stack : List LoopEntry) (chain : Chain) :
    CMoved s ((s.updC fun c => { c.setStack stack with chain := chain }).cTick none) stack chain := by
  obtain ⟨rest, reads, set⟩ := s.core.c.setStack_spec stack chain
  obtain ⟨tickRest, tickReads, tickChain, tickStack⟩ := (s.updC fun c => { c.setStack stack with chain := chain }).cTick_c
  exact ⟨rfl, rest.trans tickRest, fun r => (tickReads r).trans (reads r), tickStack.trans set, tickChain⟩

/-- The end of a cycle in which C's chain alone changed. -/
theorem CMoved.of_chain (s : State) (chain : Chain) : CMoved s ((s.updC fun c => { c with chain := chain }).cTick none) s.core.c.stack chain := by
  obtain ⟨tickRest, tickReads, tickChain, tickStack⟩ := (s.updC fun c => { c with chain := chain }).cTick_c
  exact ⟨rfl, (s.core.c.rest_chain chain).trans tickRest, fun r => (tickReads r).trans (CStrand.read_congr rfl rfl rfl r), tickStack, tickChain⟩

/-- A conditional branch that nothing holds: one of its two faults, the redirection, or its slots alone. -/
theorem cBranch_free {s : State} {i : Instr} {a b : BitVec 5} {o : BitVec 15} {p : Word64 → Word64 → Bool} {taken : Bool}
    (free : s.cFree i [a, b] = true) (compares : p (s.core.c.read a) (s.core.c.read b) = taken) :
    let pc := s.core.c.chain.pc
    let target := target15 pc o
    if taken = true ∧ target % 4 ≠ 0 then cBranch i a b o p s = .next (s.cTrap 0x03 (BitVec.ofInt 64 target))
    else if taken = true ∧ ¬(0 ≤ target ∧ target < 0x10000) then cBranch i a b o p s = .next (s.cTrap 0x05 (BitVec.ofInt 64 target))
    else ∃ t, cBranch i a b o p s = .next t ∧ CMoved s t s.core.c.stack
      (if taken then ⟨pc + 4, 2, pc + 8, BitVec.ofInt 64 target⟩ else ⟨pc + 4, 0, 0, 0⟩) := by
  intro pc target
  rw [cBranch, cWord_free _ free, compares, State.branch_spec]
  cases taken with
  | false =>
    simp only [Bool.false_eq_true, false_and, if_false]
    exact ⟨_, rfl, CMoved.of_chain ..⟩
  | true =>
    simp only [true_and, if_true]
    split
    · rfl
    split
    · rfl
    · exact ⟨_, rfl, CMoved.of_chain ..⟩

/-- The six conditional branches, each with its comparison: see `exec_branchForm`. -/
def branchForms (a b : BitVec 5) (o : BitVec 15) : List (Instr × (Word64 → Word64 → Bool)) :=
  [(.beq a b o, (· == ·)), (.bne a b o, (· != ·)), (.blt a b o, fun x y => x.slt y), (.bge a b o, fun x y => !x.slt y),
    (.bltu a b o, fun x y => x.ult y), (.bgeu a b o, fun x y => !x.ult y)]

theorem exec_branchForm (s : State) (a b : BitVec 5) (o : BitVec 15) : ∀ r ∈ branchForms a b o, exec r.1 s = cBranch r.1 a b o r.2 s := by
  simp only [branchForms, List.forall_mem_cons, List.not_mem_nil, false_implies, implies_true, and_true]
  exact ⟨rfl, rfl, rfl, rfl, rfl, rfl⟩

theorem branchForms_values (a b : BitVec 5) (o : BitVec 15) (x y : Word64) :
    (branchForms a b o).map (fun r => (r.1, r.2 x y)) =
      [(.beq a b o, decide (x = y)), (.bne a b o, decide (x ≠ y)), (.blt a b o, decide (x.toInt < y.toInt)),
        (.bge a b o, decide (y.toInt ≤ x.toInt)), (.bltu a b o, decide (x.toNat < y.toNat)), (.bgeu a b o, decide (y.toNat ≤ x.toNat))] := by
  simp only [branchForms, List.map_cons, List.map_nil, beq_eq_decide, bne, BitVec.slt, BitVec.ult, ← decide_not, Int.not_lt, Nat.not_lt]

/-! ### Jumps (06 R115, R116) -/

/-- The stack in use depends on the two stacks and the context. -/
theorem CStrand.stack_congr {c e : CStrand} (p : e.loops = c.loops) (q : e.shLoops = c.shLoops) (h : e.handler = c.handler) :
    e.stack = c.stack := by
  simp only [CStrand.stack, p, q, h]

/-- One register written and nothing more of what a word reads: its latency is all that is recorded beside it (06 R103). -/
theorem State.setS_spec (s : State) (d : BitVec 5) (v : Word64) (lat : Nat) :
    SameRest s.core.c (s.setS d v lat).core.c ∧ (d ≠ 0 → (s.setS d v lat).core.c.read d = v)
      ∧ (∀ r, r ≠ d → (s.setS d v lat).core.c.read r = s.core.c.read r) ∧ (s.setS d v lat).core.c.chain = s.core.c.chain
      ∧ (s.setS d v lat).core.c.stack = s.core.c.stack := by
  have remember := CStrand.remember_only s.core.c d
  have write := CStrand.write_regs_only (s.core.c.remember d) d v
  have new := CStrand.newResult_only ((s.core.c.remember d).write d v) d lat
  have reads : ∀ r, (s.setS d v lat).core.c.read r = ((s.core.c.remember d).write d v).read r := by
    intro r
    refine CStrand.read_congr ?_ ?_ ?_ r <;> rw [State.setS, State.updC_core_c, new]
  refine ⟨?rest, fun ne => ?result, fun r ne => ?others, ?chain, ?stack⟩
  case rest =>
    rw [State.setS, State.updC_core_c, new]
    exact ((SameRest.remember _ d).trans (SameRest.write _ d v)).trans (SameRest.of_loads ..)
  case result => rw [reads, CStrand.read_write _ _ _ ne]
  case others => rw [reads, CStrand.read_write_ne _ _ ne, CStrand.remember_read]
  case chain => rw [State.setS, State.updC_core_c, new, write, remember]
  case stack => refine CStrand.stack_congr ?_ ?_ ?_ <;> rw [State.setS, State.updC_core_c, new, write, remember]

/-- A word that is a jump: one of its two faults, or its link and the redirection. -/
theorem jump_completes {s : State} {w : Host.Outcome State Fault Refusal} {d : BitVec 5} {target : Int}
    (jumps : w = .next (s.branch target fun s => s.link d)) :
    let pc := s.core.c.chain.pc
    if target % 4 ≠ 0 then w = .next (s.cTrap 0x03 (BitVec.ofInt 64 target))
    else if ¬(0 ≤ target ∧ target < 0x10000) then w = .next (s.cTrap 0x05 (BitVec.ofInt 64 target))
    else ∃ t, w = .next t ∧ OnlyC s t ∧ SameRest s.core.c t.core.c ∧ (d ≠ 0 → t.core.c.read d = pc + 12)
      ∧ (∀ r, r ≠ d → t.core.c.read r = s.core.c.read r) ∧ t.core.c.stack = s.core.c.stack
      ∧ t.core.c.chain = ⟨pc + 4, 2, pc + 8, BitVec.ofInt 64 target⟩ := by
  intro pc
  rw [State.branch_spec] at jumps
  split
  · next away => rw [jumps, if_pos away]
  next whole =>
  rw [if_neg whole] at jumps
  split
  · next outside => rw [jumps, if_pos outside]
  next inside =>
  rw [if_neg inside] at jumps
  obtain ⟨linkRest, linked, others, chain, stack⟩ := s.setS_spec d (pc + 12) 1
  obtain ⟨-, rest, reads, top, moved⟩ := CMoved.of_chain (s.link d)
    ⟨(s.link d).core.c.chain.pc + 4, 2, (s.link d).core.c.chain.pc + 8, BitVec.ofInt 64 target⟩
  refine ⟨_, jumps, rfl, linkRest.trans rest, fun ne => (reads d).trans (linked ne), fun r ne => (reads r).trans (others r ne),
    top.trans stack, moved.trans ?_⟩
  rw [State.link, chain]

section
variable {s : State} {c d a : BitVec 5} {o : BitVec 20} {i : BitVec 15} {n : BitVec 10}

theorem execJal_free (free : s.cFree (.jal d o) [] = true) :
    execJal d o s = .next (s.branch (target20 s.core.c.chain.pc o) fun s => s.link d) := cWord_free _ free

theorem execJalr_free (free : s.cFree (.jalr d a i) [a] = true) :
    execJalr d a i s = .next (s.branch ((s.core.c.read a + imm15 i).toNat : Int) fun s => s.link d) := cWord_free _ free

theorem execLoop_free (free : s.cFree (.loop c i) [c] = true) : execLoop c i s = .next (s.loopIssue (s.core.c.read c).toNat i) :=
  cWord_free _ free

theorem execLoopi_free (free : s.cFree (.loopi n i) [] = true) : execLoopi n i s = .next (s.loopIssue n.toNat i) := cWord_free _ free

end

/-! ### Loops (06 R117) -/

/-- A loop word that nothing holds: its faults, the body skipped, or the entry pushed. -/
theorem loop_completes {s : State} {w : Host.Outcome State Fault Refusal} {count : Nat} {o : BitVec 15} (loops : w = .next (s.loopIssue count o)) :
    let pc := s.core.c.chain.pc
    let last := (target15 pc o).toNat
    let st := s.core.c.stack
    if 0x10000 ≤ last then w = .next (s.cTrap 0x05 (BitVec.ofNat 64 last))
    else if (∃ l ∈ st, l.last = pc.toNat) ∨ 4 ≤ st.length ∨ (∃ l, st.head? = some l ∧ l.last < last) then w = .next (s.cTrap 0x13 0)
    else ∃ t, w = .next t ∧ CMoved s t (if count = 0 then (afterWord last st).2 else ⟨pc.toNat + 4, last, count⟩ :: st)
      (if count = 0 then ⟨BitVec.ofNat 64 (afterWord last st).1, 0, 0, 0⟩ else ⟨pc + 4, 0, 0, 0⟩) := by
  intro pc last st
  have issue := s.loopIssue_spec count o
  split
  · next past => exact loops.trans (congrArg _ (issue.trans (if_pos past)))
  next inside =>
  split
  · next bad => exact loops.trans (congrArg _ ((issue.trans (if_neg inside)).trans (if_pos bad)))
  next good =>
  refine ⟨_, loops.trans (congrArg _ ((issue.trans (if_neg inside)).trans (if_neg good))), ?_⟩
  split
  · exact CMoved.of_setStack ..
  · exact CMoved.of_setStack ..

end Sys2Proof.Machine

/-- Settles O7: each comparison is one of the model's branches, whose word faults, goes to its target or goes on. -/
theorem conditionalBranches : Obligations.ConditionalBranches := by
  unfold Obligations.ConditionalBranches
  intro s a b o x y pc target e row free
  rw [← branchForms_values] at row
  obtain ⟨r, form, rfl⟩ := List.mem_map.mp row
  rw [exec_branchForm s a b o r form]
  exact cBranch_free free rfl

/-- Settles O8: jal and jalr are jumps to their own targets. -/
theorem jumps : Obligations.Jumps := by
  unfold Obligations.Jumps
  intro s d a o i pc
  simp only [List.forall_mem_cons, List.not_mem_nil, false_implies, implies_true, and_true]
  exact ⟨fun free => jump_completes (execJal_free free), fun free => jump_completes (execJalr_free free)⟩

/-- Settles O10: loop and loopi issue their loop with their own count. -/
theorem loopsPushTheirBody : Obligations.LoopsPushTheirBody := by
  unfold Obligations.LoopsPushTheirBody
  intro s c n o pc last st
  simp only [List.forall_mem_cons, List.not_mem_nil, false_implies, implies_true, and_true]
  exact ⟨fun free => loop_completes (execLoop_free free), fun free => loop_completes (execLoopi_free free)⟩
end

section
/-!
SUPPORT. O11: what qpush of C puts into a data queue (06 R118), in the state after a nest.go that no access of C has waited for (11 R267).
-/
open Sys2Proof Sys2Proof.Machine

namespace Sys2Proof.Machine

/-- qpush with room for its word: the word comes after every nest.go that C has issued (11 R267). -/
theorem execQpush_pushes {s : State} {v : BitVec 5} {p : BitVec 2} (free : s.cFree (.qpush v p) [v] = true)
    (room : (s.core.dq[outQ .c p]).room 16 s.now = true) :
    execQpush v p s = .next ((s.updCore fun c => c.updDq (outQ .c p) fun q => q.push (s.core.c.read v) s.cSeen c.c.pushAfter).cDone) := by
  rw [execQpush, cWord_free _ free, State.cPush]
  exact congrArg _ (if_pos room)

theorem afterNestGo_qpush_free : afterNestGo.cFree (.qpush 0 1) [0] = true := by decide

end Sys2Proof.Machine

/--
Refutes O11: its clause for qpush says that the word pushed comes after `CStrand.after`, where the model pushes it after `CStrand.pushAfter`, every
nest.go of C included, as R267 has it.  The two differ in `afterNestGo`, where C has issued one nest.go; there `qpush` of s0 pushes 0 toward L.
-/
theorem not_queueWordsOfC : ¬ Obligations.QueueWordsOfC := by
  unfold Obligations.QueueWordsOfC
  rintro ⟨words, -⟩
  obtain ⟨qpush, -⟩ := words afterNestGo 0 1
  have room : (afterNestGo.core.dq[outQ .c 1]).room 16 afterNestGo.now = true := by decide
  obtain ⟨t, runs, -, only⟩ := qpush afterNestGo_qpush_free room
  cases runs.symm.trans (execQpush_pushes afterNestGo_qpush_free room)
  have queue := congrArg (fun u => u.core.dq[outQ .c 1]) only
  exact afterNestGo_pushAfter (Queue.push_after_inj (queue : _))
end

section
/-!
SUPPORT. O14 and O15: a control register reads what was written to it, now or late; the accesses of csrr, csrw and csrx by context.
-/
open Sys2Proof Sys2Proof.Machine

namespace Sys2Proof.Machine

/-! ### What a written register reads (06 R131, R134, R135) -/

/-- A register that another domain reads holds its new value at once, whenever that domain sees it. -/
theorem State.csrLate_pace (s : State) (n : Nat) (f : Csr → Csr) : (s.csrLate n f).core.csr.pace = (f s.core.csr).pace := by
  simp only [State.csrLate, State.updCsr_core_csr]
  split <;> rfl

theorem State.csrLate_mtesti (s : State) (n : Nat) (f : Csr → Csr) : (s.csrLate n f).core.csr.mtesti = (f s.core.csr).mtesti := by
  simp only [State.csrLate, State.updCsr_core_csr]
  split <;> rfl

/-- A pacing register is written late, with the low eight bits. -/
theorem State.csrWrite_pace (s : State) {n : Nat} (h : 0x030 ≤ n ∧ n ≤ 0x032) (v : Word64) :
    s.csrWrite n v = s.csrLate n fun r => { r with pace := r.pace.set (n - 0x30) (v.truncate 8) (by omega) } := by
  obtain ⟨lo, hi⟩ := h
  have other : n ≠ 0x000 ∧ n ≠ 0x001 ∧ n ≠ 0x002 ∧ n ≠ 0x003 ∧ n ≠ 0x010 ∧ ¬ n ≤ 0x027 := by omega
  simp [State.csrWrite, other, lo, hi]

theorem State.csrWrite_pace_reads (s : State) {n : Nat} (h : 0x030 ≤ n ∧ n ≤ 0x032) (v : Word64) :
    (s.csrWrite n v).cDone.csrRead n = some ((v.truncate 8).zeroExtend 64) := by
  rw [State.csrRead_pace _ h, show (s.csrWrite n v).cDone.core.csr = (s.csrWrite n v).core.csr from rfl]
  simp only [State.csrWrite_pace s h, State.csrLate_pace, Vector.getElem_set_self]

/-- MTESTI keeps the low 32 bits, and is never below 0x400 (06 R135). -/
theorem State.csrWrite_mtesti_reads (s : State) (v : Word64) :
    (s.csrWrite 0x050 v).csrRead 0x050 = some (BitVec.ofNat 64 (Nat.max 0x400 (v.toNat % 2 ^ 32))) := by
  have low : (v.truncate 32 : Word32).toNat = v.toNat % 2 ^ 32 := BitVec.toNat_setWidth _ _
  rw [State.csrRead_mtesti, show s.csrWrite 0x050 v = s.csrLate 0x050 (fun r =>
    { r with mtesti := if (v.truncate 32 : Word32).toNat < 0x400 then 0x400 else v.truncate 32 }) from rfl, State.csrLate_mtesti]
  congr 1
  apply BitVec.eq_of_toNat_eq
  have wide : v.toNat % 2 ^ 32 < 2 ^ 32 := Nat.mod_lt _ (by decide)
  by_cases small : v.toNat % 2 ^ 32 < 0x400
  · simp only [low, small, if_true, BitVec.toNat_ofNat, Nat.max_def, show ¬ 0x400 ≤ v.toNat % 2 ^ 32 by omega, if_false]
    decide
  · simp only [low, small, if_false, Nat.max_def, show 0x400 ≤ v.toNat % 2 ^ 32 by omega, if_true, BitVec.truncate_eq_setWidth,
      BitVec.toNat_setWidth, BitVec.toNat_ofNat]

/-- LODC is cleared by any write (06 R132). -/
theorem State.csrWrite_lodc_reads (s : State) (v : Word64) : (s.csrWrite 0x091 v).csrRead 0x091 = some 0 := by
  rw [State.csrRead_lodc, show s.csrWrite 0x091 v = s.updCsr (fun r => { r with lodcEvents := 0, lodcCycles := 0 }) from rfl,
    State.updCsr_core_csr]
  simp [w64]

/-- The registers that no word writes. -/
theorem State.csrWrite_readOnly (s : State) (v : Word64) :
    ∀ n ∈ [0x040, 0x041, 0x042, 0x080, 0x081, 0x082, 0x083, 0x090, 0x103, 0x104], s.csrWrite n v = s := by
  simp only [List.forall_mem_cons, List.not_mem_nil, false_implies, implies_true, and_true]
  exact ⟨rfl, rfl, rfl, rfl, rfl, rfl, rfl, rfl, rfl, rfl⟩

/-- A number of the frame names a register (20 R333). -/
theorem State.csrRead_frame_some (s : State) {n : Nat} (h : 0x100 ≤ n ∧ n ≤ 0x105) : ∃ v, s.csrRead n = some v := by
  obtain ⟨pc, npc, nnpc, cause, tval, stat⟩ := s.csrRead_frame
  obtain rfl | rfl | rfl | rfl | rfl | rfl : n = 0x100 ∨ n = 0x101 ∨ n = 0x102 ∨ n = 0x103 ∨ n = 0x104 ∨ n = 0x105 := by omega
  exacts [⟨_, pc⟩, ⟨_, npc⟩, ⟨_, nnpc⟩, ⟨_, cause⟩, ⟨_, tval⟩, ⟨_, stat⟩]

/-! ### The contexts of an access (06 R102, R131) -/

theorem State.csrAccess_none {s : State} {i : Instr} {csr : BitVec 12} {w : Bool} {k : Word64 → State → State}
    (h : s.csrRead csr.toNat = none) : s.csrAccess i csr w k = s.cTrap 0x01 ((encode i).zeroExtend 64) := by
  rw [State.csrAccess, h]

theorem State.csrAccess_frame_denied {s : State} {i : Instr} {csr : BitVec 12} {w : Bool} {k : Word64 → State → State}
    (h : 0x100 ≤ csr.toNat ∧ csr.toNat ≤ 0x105) (task : s.core.c.handler = false) (user : s.core.sup = false) :
    s.csrAccess i csr w k = s.cTrap 0x05 (csr.zeroExtend 64) := by
  obtain ⟨v, hv⟩ := s.csrRead_frame_some h
  have frame : isFrameCsr csr.toNat = true := by simp only [isFrameCsr, h, decide_true, Bool.and_self]
  simp only [State.csrAccess, hv, frame, task, user, Bool.not_false, Bool.and_self, Bool.true_or, if_true]

theorem execCsrr_free {s : State} {d : BitVec 5} {csr : BitVec 12} (free : s.cFree (.csrr d csr) [] = true) :
    execCsrr d csr s = .next (s.csrAccess (.csrr d csr) csr false fun v s => s.result d v 2) := cWord_free _ free

theorem execCsrw_free {s : State} {a : BitVec 5} {csr : BitVec 12} (free : s.cFree (.csrw a csr) [a] = true) :
    execCsrw a csr s = .next (s.csrAccess (.csrw a csr) csr true fun _ s => (s.csrWrite csr.toNat (s.core.c.read a)).cDone) :=
  cWord_free _ free

theorem execCsrx_free {s : State} {d a : BitVec 5} {csr : BitVec 12} (free : s.cFree (.csrx d a csr) [a] = true) :
    execCsrx d a csr s = .next (s.csrAccess (.csrx d a csr) csr true fun v s =>
      (s.csrWrite csr.toNat (s.core.c.read a)).result d v 2) := cWord_free _ free

section
variable {s : State} {d a : BitVec 5} {csr : BitVec 12} {v : Word64} (reads : s.csrRead csr.toNat = some v)
  (may : 0x100 ≤ csr.toNat ∧ csr.toNat ≤ 0x105 → s.core.c.handler = true ∨ s.core.sup = true)
include reads may

theorem execCsrr_reads (free : s.cFree (.csrr d csr) [] = true) : execCsrr d csr s = .next (s.result d v 2) := by
  rw [execCsrr_free free, State.csrAccess_ok reads may fun write => Bool.noConfusion write]

variable (super : csr.toNat = 0x050 ∨ csr.toNat = 0x0A0 → s.core.sup = true)
include super

theorem execCsrw_writes (free : s.cFree (.csrw a csr) [a] = true) :
    execCsrw a csr s = .next (s.csrWrite csr.toNat (s.core.c.read a)).cDone := by
  rw [execCsrw_free free, State.csrAccess_ok reads may fun _ => super]

theorem execCsrx_exchanges (free : s.cFree (.csrx d a csr) [a] = true) :
    execCsrx d a csr s = .next ((s.csrWrite csr.toNat (s.core.c.read a)).result d v 2) := by
  rw [execCsrx_free free, State.csrAccess_ok reads may fun _ => super]

end

/-- Each access is one of `csrAccess`, whatever it does with the value. -/
theorem exec_csr_access {s : State} (d a : BitVec 5) (csr : BitVec 12) :
    ∀ e ∈ ([(.csrr d csr, []), (.csrw a csr, [a]), (.csrx d a csr, [a])] : List (Instr × List (BitVec 5))), s.cFree e.1 e.2 = true →
      ∃ w k, exec e.1 s = .next (s.csrAccess e.1 csr w k) := by
  simp only [List.forall_mem_cons, List.not_mem_nil, false_implies, implies_true, and_true]
  exact ⟨fun free => ⟨_, _, execCsrr_free free⟩, fun free => ⟨_, _, execCsrw_free free⟩, fun free => ⟨_, _, execCsrx_free free⟩⟩

/-! ### pace and clkdiv (06 R137, R138) -/

theorem sat_gap (v : Nat) : w64 (sat 255 v) = BitVec.ofNat 64 (Nat.min v 255) := by
  rw [sat_eq_min]
  exact congrArg (BitVec.ofNat 64) (Nat.min_comm 255 v)

theorem execPace_free {s : State} {a : BitVec 5} {r : BitVec 2} (free : s.cFree (.pace a r) [a] = true) :
    execPace a r s = .next (s.csrWrite (0x030 + r.toNat) (BitVec.ofNat 64 (Nat.min (s.core.c.read a).toNat 255))).cDone := by
  simp only [execPace, cWord_free _ free, sat_gap]

theorem execClkdiv_free {s : State} {a : BitVec 5} {dom : BitVec 2} {k : Task} (task : s.core.task = some k)
    (free : s.cFree (.clkdiv a dom) [a] = true) :
    execClkdiv a dom s = .next (if (s.core.c.read a).toNat ∈ [5, 6, 7, 8, 10, 12]
      then (s.updKernel k.kid fun q => { q with reqs := addRequest q.reqs dom.toNat (s.core.c.read a).toNat }).cDone
      else s.cTrap 0x05 (s.core.c.read a)) := by
  rw [execClkdiv, cWord_free _ free]
  simp only [divisorOk, task, Bool.not_eq_true', List.contains_eq_mem, decide_eq_false_iff_not, ite_not]

/-- A gap of at most 255 fits its eight bits. -/
theorem gap_fits {g : Nat} (h : g ≤ 255) : ((BitVec.ofNat 64 g).truncate 8).zeroExtend 64 = (BitVec.ofNat 64 g : Word64) := by
  apply BitVec.eq_of_toNat_eq
  simp only [BitVec.truncate_eq_setWidth, BitVec.toNat_setWidth, BitVec.toNat_ofNat]
  omega

end Sys2Proof.Machine

/-- Settles O14: the context that may, each refusal of `csrAccess`, and what the written registers read. -/
theorem controlRegisterWords : Obligations.ControlRegisterWords := by
  unfold Obligations.ControlRegisterWords
  refine ⟨fun s d a csr => ⟨fun v reads may => ⟨fun free => ?csrr, fun super => ⟨fun free => ?csrw, fun free => ?csrx⟩⟩,
    fun e he free => ⟨fun missing => ?missing, fun frame task user => ?denied⟩⟩, fun s v => ⟨s.csrWrite_readOnly v, s.csrWrite_lodc_reads v⟩,
    State.csrWrite_mtesti_reads⟩
  case csrr => exact ⟨_, execCsrr_reads reads may free, s.result_spec d v 2⟩
  case csrw => exact ⟨_, execCsrw_writes reads may super free, State.cDone_spec _⟩
  case csrx => exact ⟨_, execCsrx_exchanges reads may super free, State.result_spec _ d v 2⟩
  case missing =>
    obtain ⟨w, k, runs⟩ := exec_csr_access d a csr e he free
    rw [runs, State.csrAccess_none missing]
  case denied =>
    obtain ⟨w, k, runs⟩ := exec_csr_access d a csr e he free
    rw [runs, State.csrAccess_frame_denied frame task user]

/-- Settles O15: pace writes a pacing register and clkdiv notes its request, or faults. -/
theorem paceAndDivisorWords : Obligations.PaceAndDivisorWords := by
  unfold Obligations.PaceAndDivisorWords
  constructor
  · intro s a r free named
    have number : 0x030 ≤ 0x030 + r.toNat ∧ 0x030 + r.toNat ≤ 0x032 := by
      have : r.toNat ≠ 3 := fun e => named (BitVec.eq_of_toNat_eq e)
      omega
    refine ⟨_, execPace_free free, State.cDone_spec _, ?_⟩
    exact (State.csrWrite_pace_reads s number _).trans (congrArg some (gap_fits (Nat.min_le_right _ 255)))
  · intro s k a dom task free
    exact ⟨fun runs => ⟨_, (execClkdiv_free task free).trans (congrArg _ (if_pos runs)), State.cDone_spec _⟩,
      fun wrong => (execClkdiv_free task free).trans (congrArg _ (if_neg wrong))⟩
end

section
/-!
SUPPORT. O16, O17 and O19: the frame and the chains at trap entry and at the return; the service words and their contexts.
-/
open Sys2Proof Sys2Proof.Machine

namespace Sys2Proof.Machine

/-! ### Trap entry and return (20 R331 to R335, R340) -/

/-- The counts that a stop brings up to its tick move no strand's word and no g register. -/
theorem Core.stopped_strands (c : Core) (tick : Nat) (t : StepStrand) :
    ((if c.freeze.isSome then c.thaw tick else c.sync tick).strand t).pc = (c.strand t).pc
      ∧ ((if c.freeze.isSome then c.thaw tick else c.sync tick).strand t).g = (c.strand t).g := by
  unfold Core.thaw Core.sync Step.syncTo
  split
  · split <;> cases t <;> exact ⟨rfl, rfl⟩
  · cases t
    case x => exact ⟨rfl, rfl⟩
    all_goals
      simp only [Core.strand]
      split <;> exact ⟨rfl, rfl⟩

section
variable {s : State} (outside : s.core.c.handler = false) (cause : BitVec 8) (src : BitVec 4) (precise : Bool) (tval : Word64)
  (strand : Option StepStrand) (pc tick : Nat)
include outside

/-- C in its handler: its own chain kept, the handler's word next; the registers, the loops and the count are as they were. -/
theorem State.enterTrap_c : (s.enterTrap cause src precise tval strand pc tick).core.c =
    { s.core.c with handler := true, saved := s.core.c.chain, held := s.core.c.heldCond, chain := ⟨0x10, 0, 0, 0⟩, shLoops := [],
                    next := Nat.max tick s.core.c.next, cond := .running none, hcount := 0, shReady := Vector.replicate 32 0,
                    shDivFree := 0 } := by
  have c := (s.core.stopped_frame tick).1
  rw [State.enterTrap, if_neg (by rw [outside]; decide)]
  simp only [State.keepStop, State.updCore_core, c]

/-- The frame of C's own chain (20 R333, R335). -/
theorem State.enterTrap_frame :
    let f := (s.enterTrap cause src precise tval none pc tick).core.frame
    let ch := s.core.c.chain
    f.strand = none ∧ f.rd = ch.rd ∧ f.fpc = BitVec.ofNat 17 ch.pc.toNat
      ∧ (ch.rd ≠ 0 → f.fnpc = BitVec.ofNat 17 ch.npc.toNat ∧ f.fnnpc = BitVec.ofNat 17 ch.nnpc.toNat) := by
  have c := congrArg CStrand.chain (s.core.stopped_frame tick).1
  rw [State.enterTrap, if_neg (by rw [outside]; decide)]
  refine ⟨rfl, congrArg Chain.rd c, ?_, fun redirected => ?_⟩
  all_goals
    simp only [State.keepStop, State.updCore_core, Core.frameAddrs, c, addr17]
    split
  · rfl
  · rfl
  · contradiction
  · exact ⟨rfl, rfl⟩

theorem State.enterTrap_strands (t : StepStrand) :
    ((s.enterTrap cause src precise tval strand pc tick).core.strand t).pc = (s.core.strand t).pc
      ∧ ((s.enterTrap cause src precise tval strand pc tick).core.strand t).g = (s.core.strand t).g := by
  have kept := s.core.stopped_strands tick t
  rw [State.enterTrap, if_neg (by rw [outside]; decide)]
  cases t <;> exact kept

end
/-- Loads performed again change the vector unit's list of them and the counter of free values. -/
theorem State.redoLoads_only (s : State) (tick : Nat) :
    s.redoLoads tick = { s with free := (s.redoLoads tick).free, core := { s.core with v := (s.redoLoads tick).core.v } } := by
  unfold State.redoLoads
  dsimp only
  split <;> rfl

/-- The core as the return finds it, once the faulting entry is dropped or repeated and the loads are performed again. -/
def State.retried (s : State) (tick : Nat) : State :=
  (s.keepStop.updCore fun c => let k := (c.matSync c.stop).dropEntry; { k with m := k.m.resume }).redoLoads tick

theorem State.retried_frame (s : State) (tick : Nat) :
    (s.retried tick).core.c = s.core.c ∧ (s.retried tick).core.frame = s.core.frame ∧ (s.retried tick).mem = s.mem
      ∧ ∀ t, ((s.retried tick).core.strand t).pc = (s.core.strand t).pc ∧ ((s.retried tick).core.strand t).g = (s.core.strand t).g := by
  obtain ⟨c, frame, l, st, xpc, xg⟩ := Core.dropEntry_frame (s.core.matSync s.core.stop)
  rw [State.retried, State.redoLoads_only]
  refine ⟨c, frame, rfl, fun t => ?_⟩
  cases t
  · exact ⟨congrArg Step.pc l, congrArg Step.g l⟩
  · exact ⟨xpc, xg⟩
  · exact ⟨congrArg Step.pc st, congrArg Step.g st⟩

/-- Moving the moments of a core leaves each strand's word and g registers. -/
theorem Core.shift_strand (c : Core) (n : Nat) (trap : Bool) (t : StepStrand) :
    ((c.shift n trap).strand t).pc = (c.strand t).pc ∧ ((c.shift n trap).strand t).g = (c.strand t).g := by
  obtain ⟨next, hc, lpc, xpc, spc, lg, xg, sg⟩ := c.shift_frame n trap
  cases t
  exacts [⟨lpc, lg⟩, ⟨xpc, xg⟩, ⟨spc, sg⟩]

/-- The core back in the frame's chain: a frame that names a step strand gives C's own chain back and leads that strand to TFNPC. -/
def Core.returned (c : Core) : Core :=
  let chain := if c.frame.strand.isSome then c.c.saved else c.frame.chain
  let same := chain.pc == c.c.saved.pc && chain.rd == c.c.saved.rd
  let back : Core :=
    { c with c := { c.c with handler := false, next := c.resume, chain := chain, cond := if same then c.c.held else .running none } }
  match c.frame.strand with
  | none => back
  | some t => back.setStrand t { back.strand t with pc := c.frame.fnpc.zeroExtend 32 }

theorem State.returnTrap_eq (s : State) (tick : Nat) : s.returnTrap tick =
    (s.retried tick).updCore fun c => c.returned.shift (tick - c.resume) true := rfl

theorem Core.returned_c (c : Core) : ∃ m w, c.returned.c = { c.c with handler := false, next := m, cond := w, chain :=
    if c.frame.strand.isSome then c.c.saved else c.frame.chain } := by
  unfold Core.returned
  cases c.frame.strand with
  | none => exact ⟨_, _, rfl⟩
  | some t => cases t <;> exact ⟨_, _, rfl⟩

theorem Core.returned_named {c : Core} {t : StepStrand} (named : c.frame.strand = some t) :
    (c.returned.strand t).pc = c.frame.fnpc.zeroExtend 32 := by
  rw [Core.returned, named]
  cases t <;> rfl

theorem Core.returned_unnamed {c : Core} (own : c.frame.strand = none) (t : StepStrand) : c.returned.strand t = c.strand t := by
  rw [Core.returned, own]
  cases t <;> rfl

/-- C after the return: its chain from the frame, or its own where the frame names a step strand; nothing else of its registers. -/
theorem State.returnTrap_c (s : State) (tick : Nat) : ∃ m w,
    (s.returnTrap tick).core.c = { s.core.c with handler := false, next := m, cond := w, chain :=
      if s.core.frame.strand.isSome then s.core.c.saved else s.core.frame.chain } := by
  obtain ⟨c, frame, -, -⟩ := s.retried_frame tick
  obtain ⟨m, w, back⟩ := (s.retried tick).core.returned_c
  obtain ⟨k, moved, -⟩ := (s.retried tick).core.returned.shift_frame (tick - (s.retried tick).core.resume) true
  rw [back, c, frame] at moved
  exact ⟨k, w, moved⟩

theorem State.returnTrap_mem (s : State) (tick : Nat) : (s.returnTrap tick).mem = s.mem := by
  obtain ⟨-, -, mem, -⟩ := s.retried_frame tick
  exact mem

/-- The strand that the frame names resumes at TFNPC (20 R335). -/
theorem State.returnTrap_named {s : State} {t : StepStrand} (named : s.core.frame.strand = some t) (tick : Nat) :
    ((s.returnTrap tick).core.strand t).pc = s.core.frame.fnpc.zeroExtend 32 := by
  obtain ⟨-, frame, -, -⟩ := s.retried_frame tick
  rw [State.returnTrap_eq, State.updCore_core, (Core.shift_strand _ _ _ t).1, Core.returned_named (by rw [frame, named]), frame]

/-- A frame of C's own chain leaves every strand where it is. -/
theorem State.returnTrap_unnamed {s : State} (own : s.core.frame.strand = none) (tick : Nat) (t : StepStrand) :
    ((s.returnTrap tick).core.strand t).pc = (s.core.strand t).pc ∧ ((s.returnTrap tick).core.strand t).g = (s.core.strand t).g := by
  obtain ⟨-, frame, -, strands⟩ := s.retried_frame tick
  obtain ⟨pc, g⟩ := Core.shift_strand (s.retried tick).core.returned (tick - (s.retried tick).core.resume) true t
  rw [Core.returned_unnamed (by rw [frame, own])] at pc g
  exact ⟨pc.trans (strands t).1, g.trans (strands t).2⟩

/-! ### trap and ecall (06 R139) -/

theorem State.softTrap_spec {s : State} (outside : s.core.c.handler = false) (v : Word64) :
    let t := s.softTrap v
    t.core.frame.cause = 0x10 ∧ t.core.frame.tval = v ∧ t.core.frame.src = 0 ∧ t.core.c.handler = true ∧ t.core.c.chain.pc = 0x10
      ∧ t.core.c.saved = s.core.c.advance.chain ∧ t.core.frame.fpc = BitVec.ofNat 17 s.core.c.advance.chain.pc.toNat
      ∧ t.core.c.prim = s.core.c.prim ∧ t.core.c.loops = s.core.c.advance.loops ∧ t.mem = s.mem := by
  have still : s.cDone.core.c.handler = false := (s.core.c.advance_handler).trans outside
  obtain ⟨-, cause, tval, src, -, inside, saved, mem⟩ :=
    State.enterTrap_spec still 0x10 0 false v none 0 (s.cycleEnd .c)
  obtain ⟨-, -, pc, -⟩ := State.enterTrap_frame still 0x10 0 false v 0 (s.cycleEnd .c)
  have c := State.enterTrap_c still 0x10 0 false v none 0 (s.cycleEnd .c)
  have prim : s.core.c.advance.prim = s.core.c.prim := by rw [s.core.c.advance_only]
  rw [State.softTrap, if_neg (by rw [outside]; decide)]
  dsimp only
  rw [c]
  exact ⟨cause, tval, src, rfl, rfl, rfl, pc, prim, rfl, mem⟩

theorem execTrap_free {s : State} {code : BitVec 8} (free : s.cFree (.trap code) [] = true) :
    execTrap code s = .next (s.softTrap (code.zeroExtend 64)) := cWord_free _ free

theorem execEcall_free {s : State} (free : s.cFree .ecall [] = true) : execEcall s = .next (s.softTrap 0x100) := cWord_free _ free

/-- The two words and their codes. -/
theorem exec_softTrap {s : State} (code : BitVec 8) : ∀ e ∈ ([(.trap code, code.zeroExtend 64), (.ecall, 0x100)] : List (Instr × Word64)),
    s.cFree e.1 [] = true → exec e.1 s = .next (s.softTrap e.2) := by
  simp only [List.forall_mem_cons, List.not_mem_nil, false_implies, implies_true, and_true]
  exact ⟨execTrap_free, execEcall_free⟩

/-! ### rett, idle and tlbinv (06 R140 to R142) -/

theorem cIf_neg {ok : Bool} {i : Instr} {k : State → State} {s : State} (h : ok = false) :
    cIf ok i k s = s.cTrap 0x05 ((encode i).zeroExtend 64) := by rw [cIf, h]; rfl

/-- A word outside its contexts, past its interlock. -/
theorem cWord_denied {i : Instr} {srcs : List (BitVec 5)} {ok : Bool} {k : State → State} {s : State} (free : s.cFree i srcs = true)
    (outside : ok = false) : cWord i srcs (cIf ok i k) s = .next (s.cTrap 0x05 ((encode i).zeroExtend 64)) := by
  rw [cWord_free _ free, cIf_neg outside]

theorem execRett_free {s : State} (free : s.cFree .rett [] = true) (inside : s.core.c.handler = true) :
    execRett s = .next ((s.updCore fun c => c.takeUp s.now).returnTrap (s.now + s.core.div.ctl)) := by
  rw [execRett, cWord_free _ free, cIf_pos inside]
  rfl

/-- Where the supervisor wrote nothing into the snapshot block, nothing is taken up. -/
theorem State.takeUp_nothing {s : State} (nothing : s.core.extra = []) : (s.updCore fun c => c.takeUp s.now) = s := by
  rw [State.updCore, Core.takeUp, nothing]
  rfl

theorem execIdle_free {s : State} (free : s.cFree .idle [] = true) (super : s.core.sup = true) (outside : s.core.c.handler = false) :
    execIdle s = .next (s.cDone.updC fun c => { c with cond := .running (some .idleWord) }) := by
  have still : (s.updC CStrand.advance).core.c.handler = false := s.core.c.advance_handler.trans outside
  rw [execIdle, cWord_free _ free, cIf_pos super, State.cWait, if_neg (by rw [still]; decide)]
  rfl

/-- A translation outlives tlbinv unless it is of the context and holds the address, or all of the context go (06 R142). -/
def Held.stays (ctx : BitVec 16) (all : BitVec 1) (va : Nat) (h : Held) : Bool := !(h.ctx == ctx && (all == 1 || h.covers h.ctx va))

theorem Held.stays_iff (ctx : BitVec 16) (all : BitVec 1) (va : Nat) (h : Held) :
    h.stays ctx all va = true ↔ ¬(h.ctx = ctx ∧ (all = 1 ∨ h.va ≤ va ∧ va < h.va + h.size)) := by
  simp only [Held.stays, Held.covers, beq_self_eq_true, Bool.true_and, Bool.not_eq_true', ← Bool.not_eq_true, Bool.and_eq_true,
    Bool.or_eq_true, beq_iff_eq, decide_eq_true_eq]

/-- The translations dropped from every buffer. -/
def State.dropHeld (s : State) (stays : Held → Bool) : State :=
  { s with xlat := { s.xlat with held := s.xlat.held.filter fun e => stays e.2 },
           core := { s.core with tlb := s.core.tlb.filter stays },
           others := s.others.map fun c => { c with tlb := c.tlb.filter stays } }

theorem execTlbinv_free {s : State} {a : BitVec 5} {c : BitVec 1} (free : s.cFree (.tlbinv a c) [a] = true) (super : s.core.sup = true) :
    execTlbinv a c s = .next (s.dropHeld (Held.stays s.core.csr.ctxid c (s.core.c.read a).toNat)).cDone := by
  rw [execTlbinv, cWord_free _ free, cIf_pos super]
  rfl

/-- Each service word outside its contexts (log 51). -/
theorem exec_service_denied {s : State} (d a : BitVec 5) (c : BitVec 1) (h : BitVec 10) (k i : BitVec 2) (g : BitVec 3) :
    ∀ e ∈ ([(.rett, [], s.core.c.handler), (.idle, [], s.core.sup), (.tlbinv a c, [a], s.core.sup), (.texit, [], s.core.taskContext),
        (.fcast a h k g, [a], s.core.taskContext), (.fverd d h i, [], s.core.taskContext)] : List (Instr × List (BitVec 5) × Bool)),
      s.cFree e.1 e.2.1 = true → e.2.2 = false → exec e.1 s = .next (s.cTrap 0x05 ((encode e.1).zeroExtend 64)) := by
  have rett : s.cFree .rett [] = true → _ → execRett s = _ := cWord_denied
  have idle : s.cFree .idle [] = true → _ → execIdle s = _ := cWord_denied
  have tlbinv : s.cFree (.tlbinv a c) [a] = true → _ → execTlbinv a c s = _ := cWord_denied
  have texit : s.cFree .texit [] = true → _ → execTexit s = _ := cWord_denied
  have fcast : s.cFree (.fcast a h k g) [a] = true → _ → execFcast a h k g s = _ := cWord_denied
  have fverd : s.cFree (.fverd d h i) [] = true → _ → execFverd d h i s = _ := cWord_denied
  simp only [List.forall_mem_cons, List.not_mem_nil, false_implies, implies_true, and_true]
  exact ⟨rett, idle, tlbinv, texit, fcast, fverd⟩

/-! ### An exception and its return (20 R335, R340) -/

/-- Seventeen bits keep an address of C's instruction memory. -/
theorem addr17_fits {w : Word64} (h : w.toNat < 2 ^ 17) : (BitVec.ofNat 17 w.toNat).zeroExtend 64 = w := by
  apply BitVec.eq_of_toNat_eq
  simp only [BitVec.truncate_eq_setWidth, BitVec.toNat_setWidth, BitVec.toNat_ofNat, Nat.mod_eq_of_lt h, Nat.mod_eq_of_lt w.isLt]

/-- The frame holds C's chain, as far as its addresses lie within the memory and its redirection is one of the three. -/
theorem State.enterTrap_chain {s : State} (outside : s.core.c.handler = false) (cause : BitVec 8) (src : BitVec 4) (precise : Bool)
    (tval : Word64) (pc tick : Nat) :
    let ch := s.core.c.chain
    let back := (s.enterTrap cause src precise tval none pc tick).core.frame.chain
    ch.pc.toNat < 2 ^ 17 → ch.rd ≠ 3 → (ch.rd ≠ 0 → ch.npc.toNat < 2 ^ 17 ∧ ch.nnpc.toNat < 2 ^ 17) →
      back.pc = ch.pc ∧ back.rd = ch.rd ∧ (ch.rd ≠ 0 → back.npc = ch.npc ∧ back.nnpc = ch.nnpc) := by
  intro ch back pcFits rd fits
  obtain ⟨-, frd, fpc, fnext⟩ := State.enterTrap_frame outside cause src precise tval pc tick
  refine ⟨?_, ?_, fun redirected => ?_⟩
  · simp only [back, Frame.chain, fpc]
    exact addr17_fits pcFits
  · simp only [back, Frame.chain, frd]
    exact if_neg rd
  · obtain ⟨npc, nnpc⟩ := fnext redirected
    obtain ⟨npcFits, nnpcFits⟩ := fits redirected
    simp only [back, Frame.chain, npc, nnpc]
    exact ⟨addr17_fits npcFits, addr17_fits nnpcFits⟩

end Sys2Proof.Machine

/-- Settles O16: `softTrap` completes the word and enters the trap, or faults in a handler. -/
theorem softwareTraps : Obligations.SoftwareTraps := by
  unfold Obligations.SoftwareTraps
  intro s code e he free
  refine ⟨fun inside => ?_, fun outside => ⟨_, exec_softTrap code e he free, State.softTrap_spec outside e.2⟩⟩
  rw [exec_softTrap code e he free, State.softTrap, if_pos inside]

/-- Settles O17: the three service words where they may stand, and `cIf` where they may not. -/
theorem serviceWords : Obligations.ServiceWords := by
  unfold Obligations.ServiceWords
  refine ⟨fun s a c => ⟨fun free inside => ⟨execRett_free free inside, fun nothing => ?rett⟩,
    fun free super outside => ⟨_, execIdle_free free super outside, ?idle, rfl⟩, fun free super => ⟨_, execTlbinv_free free super, ?tlbinv⟩⟩,
    fun s => exec_service_denied⟩
  case rett => rw [show exec .rett s = _ from execRett_free free inside, State.takeUp_nothing nothing]
  case idle =>
    obtain ⟨-, next⟩ := s.cDone_spec
    exact ⟨rfl, next⟩
  case tlbinv =>
    let stays := Held.stays s.core.csr.ctxid c (s.core.c.read a).toNat
    have kept : ∀ (l : List Held) (h : Held), h ∈ l.filter stays ↔ h ∈ l ∧ ¬(h.ctx = s.core.csr.ctxid ∧
        (c = 1 ∨ h.va ≤ (s.core.c.read a).toNat ∧ (s.core.c.read a).toNat < h.va + h.size)) :=
      fun l h => List.mem_filter.trans (and_congr_right' (h.stays_iff ..))
    obtain ⟨-, next⟩ := (s.dropHeld stays).cDone_spec
    refine ⟨rfl, next, fun h => List.mem_filter.trans (and_congr_right' (h.2.stays_iff ..)), kept _, List.length_map _, fun n o ho => ?_⟩
    exact ⟨{ o with tlb := o.tlb.filter stays }, List.getElem?_map.trans (congrArg _ ho), rfl, kept _⟩

/-- Settles O19: the return leads C to the frame's chain, and trap entry wrote C's own chain there. -/
theorem trapReturnRestores : Obligations.TrapReturnRestores := by
  unfold Obligations.TrapReturnRestores
  constructor
  · intro s tick
    obtain ⟨m, w, c⟩ := s.returnTrap_c tick
    dsimp only
    rw [c]
    refine ⟨rfl, rfl, rfl, rfl, rfl, s.returnTrap_mem tick, fun own => ?own, fun k named => ⟨?saved, State.returnTrap_named named tick⟩⟩
    case own =>
      rw [own]
      exact ⟨rfl, rfl, rfl, rfl⟩
    case saved => rw [named]; rfl
  · intro s cause src precise tval a b ch outside pc rd redirected
    obtain ⟨own, -⟩ := State.enterTrap_frame outside cause src precise tval 0 a
    obtain ⟨-, -, -, -, -, -, -, mem⟩ := State.enterTrap_spec outside cause src precise tval none 0 a
    obtain ⟨chainPc, chainRd, chainNext⟩ := State.enterTrap_chain outside cause src precise tval 0 a pc rd redirected
    obtain ⟨m, w, c⟩ := (s.enterTrap cause src precise tval none 0 a).returnTrap_c b
    have strand := fun t => And.intro
      ((State.returnTrap_unnamed own b t).1.trans (State.enterTrap_strands outside cause src precise tval none 0 a t).1)
      ((State.returnTrap_unnamed own b t).2.trans (State.enterTrap_strands outside cause src precise tval none 0 a t).2)
    obtain ⟨lpc, lg⟩ := strand .l
    obtain ⟨xpc, xg⟩ := strand .x
    obtain ⟨spc, sg⟩ := strand .s
    dsimp only
    rw [c, own, State.enterTrap_c outside]
    exact ⟨rfl, rfl, rfl, chainPc, chainRd, chainNext, rfl, lpc, xpc, spc, lg, xg, sg, (State.returnTrap_mem _ b).trans mem⟩

end

section
/-!
SUPPORT. O26: the end of C and of a step strand, and what follows an end.
-/
open Sys2Proof Sys2Proof.Machine

namespace Sys2Proof.Machine

/-! ### What follows an end (02 R25) -/

theorem Core.allEnded_iff (c : Core) : c.allEnded = true ↔
    c.c.cond = .ended ∧ c.l.cond = .ended ∧ c.x.cond = .ended ∧ c.s.cond = .ended := by
  simp only [Core.allEnded, Bool.and_eq_true, beq_iff_eq, and_assoc]

/-- While a strand runs, an end has no effect beyond its strand. -/
theorem State.afterEnd_running {s : State} (running : ¬ s.core.allEnded = true) (tick : Nat) : s.afterEnd tick = s := by
  unfold State.afterEnd
  cases s.core.task with
  | none => rfl
  | some t => simp only [running, Bool.not_false, if_true]

/-- The fourth end: the task splices where the checks pass. -/
theorem State.afterEnd_splices {s : State} {k : Task} (task : s.core.task = some k) (ended : s.core.allEnded = true)
    (empty : s.core.firstFull = none) (once : s.twice = none) (tick : Nat) :
    s.afterEnd tick = s.updTask fun t => { t with state := .splicing } := by
  have passes : s.endFault = none := by rw [State.endFault, empty, once]; rfl
  simp only [State.afterEnd, task, ended, passes, Bool.not_true, Bool.false_eq_true, if_false]

/-- A task's end notes the address of its texit. -/
def State.exitC (s : State) : State :=
  (s.updTask fun t => { t with exitPc := s.core.c.chain.pc }).updC fun c =>
    { c with cond := .ended, count := c.count + 1, next := s.cycleEnd .c }

theorem execTexit_free {s : State} (free : s.cFree .texit [] = true) (context : s.core.taskContext = true) :
    execTexit s = .next (s.exitC.afterEnd (s.cycleEnd .c)) := by
  rw [execTexit, cWord_free _ free, cIf_pos context]
  rfl

/-- The end of C writes no slot. -/
theorem State.exitC_twice (s : State) : s.exitC.twice = s.twice := by
  have kernel : s.exitC.myKernel = s.myKernel := by
    simp only [State.myKernel, State.exitC, State.updTask, State.updC]
    cases s.core.task <;> rfl
  simp only [State.twice, kernel]
  simp only [State.exitC, State.updTask, State.updC]
  cases s.core.task <;> cases s.myKernel <;> rfl

theorem State.exitC_allEnded (s : State) : s.exitC.core.allEnded = true ↔
    s.core.l.cond = .ended ∧ s.core.x.cond = .ended ∧ s.core.s.cond = .ended :=
  (Core.allEnded_iff _).trans (and_iff_right rfl)

/-! ### The end of L, X or S (07 R178; 09 R229) -/

/-- What an end leaves alone: C, memory, the other strands, and the g registers of its own. -/
def State.StrandOnly (t : StepStrand) (s u : State) : Prop :=
  u.core.c = s.core.c ∧ u.mem = s.mem ∧ (u.core.strand t).g = (s.core.strand t).g ∧ ∀ k, k ≠ t → u.core.strand k = s.core.strand k

theorem State.StrandOnly.trans {t : StepStrand} {s u v : State} (first : s.StrandOnly t u) (second : u.StrandOnly t v) : s.StrandOnly t v := by
  obtain ⟨c, mem, g, others⟩ := first
  obtain ⟨c', mem', g', others'⟩ := second
  exact ⟨c'.trans c, mem'.trans mem, g'.trans g, fun k hk => (others' k hk).trans (others k hk)⟩

theorem State.updStep_strandOnly (t : StepStrand) (s : State) {f : Step → Step} (g : (f (s.core.strand t)).g = (s.core.strand t).g) :
    s.StrandOnly t (s.updStep t f) :=
  ⟨s.updStep_core_c t f, by cases t <;> rfl, (congrArg Step.g (s.updStep_strand t f)).trans g, fun _ hk => s.updStep_strand_ne f hk⟩

theorem State.takeTokens_strandOnly (t : StepStrand) (wants : List (BitVec 2)) (s : State) : s.StrandOnly t (s.takeTokens t wants) := by
  obtain ⟨hq, a, eq, -⟩ := State.takeTokens_frame t wants s
  rw [eq]
  have queues : s.StrandOnly t { s with core := { s.core with hq := hq } } :=
    ⟨rfl, rfl, by cases t <;> rfl, fun k _ => by cases k <;> rfl⟩
  exact queues.trans (State.updStep_strandOnly t _ rfl)

theorem State.pushToken_strandOnly (t : StepStrand) (n : Fin 12) (since : Nat) (s : State) : s.StrandOnly t (s.pushToken t n since) :=
  ⟨rfl, rfl, by cases t <;> rfl, fun k _ => by cases k <;> rfl⟩

theorem State.stepTick_strandOnly (t : StepStrand) (w : Option WaitPlace) (s : State) : s.StrandOnly t (s.stepTick t w) := by
  rw [State.stepTick_eq]
  refine (State.updStep_strandOnly (f := fun p => p.ticked (s.now + s.core.divOf t.strand) w) t s rfl).trans ⟨?_, rfl, ?_, fun k _ => ?_⟩
  · exact Core.clocked_c ..
  · exact congrArg Step.g (Core.clocked_strand ..)
  · exact Core.clocked_strand ..

theorem State.endWith_strandOnly (t : StepStrand) (posts : List (BitVec 2)) (s : State) : s.StrandOnly t (s.endWith t posts) := by
  have ticked := State.stepTick_strandOnly t none s
  unfold State.endWith
  dsimp only
  refine State.StrandOnly.trans ?_ (State.updStep_strandOnly t _ rfl)
  split
  · split
    · exact ticked.trans (State.updStep_strandOnly t _ rfl)
    · exact ticked.trans (State.pushToken_strandOnly ..)
  · exact ticked

theorem State.endWith_ended (t : StepStrand) (posts : List (BitVec 2)) (s : State) : ((s.endWith t posts).core.strand t).cond = .ended := by
  unfold State.endWith
  cases t <;> rfl

section
variable {s : State} {t : StepStrand} {h : Hitch} (free : s.stepFree t h (.endStrand t h) false [] [] = true)
include free

theorem execEndStrand_waits (early : ((s.core.strand t).flights.all fun f => f.isDone (s.core.strand t).count) = false) :
    execEndStrand t h s = .next (s.stepTick t (some .ending)) := by
  rw [execEndStrand, stepWord_free _ free]
  simp only [early, Bool.not_false, if_true]

variable (done : ((s.core.strand t).flights.all fun f => f.isDone (s.core.strand t).count) = true)
include done

theorem execEndStrand_openRing (l : t = .l) (opened : s.core.rings.any (·.open_) = true) :
    execEndStrand t h s = .next (s.stepTrap t 0x13 0 (s.core.strand t).pc.toNat) := by
  subst l
  rw [execEndStrand, stepWord_free _ free]
  simp only [done, opened, Bool.not_true, Bool.false_eq_true, if_false, and_self, if_true]

theorem execEndStrand_ends (closed : ¬(t = .l ∧ s.core.rings.any (·.open_) = true)) :
    execEndStrand t h s =
      .next (((s.takeTokens t (codes h.wait)).endWith t (codes h.post)).afterEnd (s.cycleEnd t.strand)) := by
  rw [execEndStrand, stepWord_free _ free]
  simp only [done, closed, Bool.not_true, Bool.false_eq_true, if_false]

end

end Sys2Proof.Machine

/-- Settles O26: the end of C with the check that follows it, and the end of a strand while C runs. -/
theorem strandsEnd : Obligations.StrandsEnd := by
  unfold Obligations.StrandsEnd
  constructor
  · intro s k task context free
    refine ⟨_, execTexit_free free context, fun passes => ?_⟩
    have ended := s.exitC_allEnded
    by_cases all : s.exitC.core.allEnded = true
    · obtain ⟨empty, once⟩ : s.core.firstFull = none ∧ s.twice = none := by
        obtain ⟨l, x, st⟩ := ended.mp all
        rcases passes with (h | h | h) | h
        exacts [absurd l h, absurd x h, absurd st h, h]
      have exits : s.exitC.core.task = some { k with exitPc := s.core.c.chain.pc } := congrArg (Option.map _) task
      rw [State.afterEnd_splices exits all empty (s.exitC_twice.trans once), if_pos (ended.mp all), State.updTask, exits]
      exact ⟨rfl, fun _ => rfl, rfl, rfl, rfl⟩
    · have exits : s.exitC.core.task = some { k with exitPc := s.core.c.chain.pc } := congrArg (Option.map _) task
      rw [State.afterEnd_running all, if_neg fun e => all (ended.mpr e), exits]
      exact ⟨rfl, fun _ => rfl, rfl, rfl, rfl⟩
  · intro s t h free p rest
    refine ⟨execEndStrand_waits free, execEndStrand_openRing free, fun done closed running => ?_⟩
    have only := (State.takeTokens_strandOnly t (codes h.wait) s).trans (State.endWith_strandOnly t (codes h.post) _)
    obtain ⟨c, mem, g, others⟩ := only
    refine ⟨_, execEndStrand_ends free done closed, ?_⟩
    rw [State.afterEnd_running fun all => running (c ▸ ((Core.allEnded_iff _).mp all).1)]
    exact ⟨State.endWith_ended .., g, mem, c, others⟩

end

section
/-!
SUPPORT. O6: an atomic of C that is buffered, and one that performs at its word.
-/
open Sys2Proof Sys2Proof.Machine

namespace Sys2Proof.Machine

/-! ### What an atomic does to memory (06 R112; 05 R88) -/

/-- The operations by their codes, with what each leaves of an old doubleword and an operand. -/
def amoTable (old y : Word64) : List (BitVec 4 × Word64) :=
  [(0, y), (1, old + y), (2, old &&& y), (3, old ||| y), (4, old ^^^ y), (5, if old.toInt < y.toInt then old else y),
   (6, if old.toInt < y.toInt then y else old), (7, if old.toNat < y.toNat then old else y), (8, if old.toNat < y.toNat then y else old)]

theorem amoFn_table (old y : Word64) : ∀ e ∈ amoTable old y, amoFn e.1 old y = e.2 := by
  have signed : (old.slt y = true) ↔ old.toInt < y.toInt := BitVec.slt_iff_toInt_lt
  simp only [amoTable, List.forall_mem_cons, List.not_mem_nil, false_implies, implies_true, and_true]
  exact ⟨rfl, rfl, rfl, rfl, rfl, if_congr signed rfl rfl, if_congr signed rfl rfl, if_congr Iff.rfl rfl rfl, if_congr Iff.rfl rfl rfl⟩

/-- A doubleword of global memory that is aligned lies in one line. -/
theorem State.pokeDoubleword {s : State} {pa : Nat} (aligned : pa % 8 = 0) (global : windowOf pa = none) (live : s.deadByte pa = false)
    (v : Word64) :
    (s.pokeBytes true pa (leBytes 8 v.toNat)).mem = Memory.writeBytes s.mem pa (leBytes 8 v.toNat)
      ∧ (s.pokeBytes true pa (leBytes 8 v.toNat)).core.c = s.core.c := by
  have length := leBytes_length 8 v.toNat
  exact ⟨State.pokeBytes_mem s true pa _ 0 (by omega) (by omega) global live, (SameButTask.poke s true pa _ 0).c⟩

section
variable {s : State} {pa : Nat} {mem : List Host.Cell} {old : Word64} (aligned : pa % 8 = 0) (global : windowOf pa = none)
  (live : s.deadByte pa = false) (holds : s.mem = mem) (reads : BitVec.ofNat 64 (Memory.readNat mem pa 8) = old)
include aligned global live holds reads

theorem State.perform_amo (va : Nat) (op : BitVec 4) (y : Word64) :
    (s.perform (.amo va pa op y)).mem = Memory.writeBytes mem pa (leBytes 8 (amoFn op old y).toNat)
      ∧ (s.perform (.amo va pa op y)).core.c = s.core.c := by
  subst holds reads
  exact State.pokeDoubleword aligned global live _

theorem State.perform_cas (va : Nat) (expected y : Word64) :
    (s.perform (.cas va pa expected y)).mem = (if old = expected then Memory.writeBytes mem pa (leBytes 8 y.toNat) else mem)
      ∧ (s.perform (.cas va pa expected y)).core.c = s.core.c := by
  subst holds reads
  rw [State.perform, State.mem64]
  split
  · exact State.pokeDoubleword aligned global live y
  · obtain ⟨mem, core, -⟩ := SameButLines.homeRead s pa 8
    exact ⟨mem, by rw [core]⟩

end

/-! ### An atomic of C past its checks (06 R113) -/

section
variable {i : Instr} {srcs : List (BitVec 5)} {d a : BitVec 5} {use : BitVec 2} {eff : Nat → Nat → State → EffKind} {s : State} {pa : Nat}
  (free : s.cFree i srcs = true) (reach : s.reaches (s.core.c.read a).toNat pa 8 true)
  (outside : (s.core.c.read a).toNat < 0x8000000000000 ∨ 0xC000000000000 ≤ (s.core.c.read a).toNat) (global : windowOf pa = none)
include free reach outside global

/-- One with d = 0 of a task that is not pinned becomes an effect of the task, before any order. -/
theorem cAtomic_buffered {k : Task} {u : State} (task : s.core.task = some k) (loose : k.pinned = false)
    (put : s.put 0 (eff (s.core.c.read a).toNat pa s) = .done u) : cAtomic i srcs 0 a use eff s = .next u.cDone := by
  obtain ⟨aligned, page, -⟩ := reach
  have buffers : (0 : BitVec 5) = 0 ∧ s.core.task.isSome = true ∧ (!s.pinnedTask) = true := by
    simp only [State.pinnedTask, task, loose, Option.isSome_some, Bool.not_false, and_self]
  rw [cAtomic, cWord_free _ free]
  dsimp only
  rw [if_neg (by omega), if_neg (by simp only [windowSpace]; omega), State.cPage_ok _ page, global]
  dsimp only [Option.isSome_none]
  rw [if_neg Bool.false_ne_true, if_pos buffers, put]

variable (ordered : (if use = 2 then s.fenceDone else s.cOrdered) = true)
  (clean : s.poisonIn (s.core.c.read a).toNat pa 8 = none) (cleanAfter : s.pin.poisonIn (s.core.c.read a).toNat pa 8 = none)
  (now : d ≠ 0 ∧ s.forecasting = none ∨ d = 0 ∧ (s.pinnedTask = true ∨ s.core.task = none))
include ordered clean cleanAfter now

/-- One that performs at its word, after the early drain: its effect on memory, and the old doubleword in s[d]. -/
theorem cAtomic_performs {mem : List Host.Cell} (does : ∀ u : State, u.mem = s.pin.mem → u.deadByte pa = s.pin.deadByte pa →
      (u.perform (eff (s.core.c.read a).toNat pa s)).mem = mem ∧ (u.perform (eff (s.core.c.read a).toNat pa s)).core.c = u.core.c) :
    ∃ t, cAtomic i srcs d a use eff s = .next t ∧ t.mem = mem ∧ (d ≠ 0 → t.core.c.read d = s.pin.mem64 pa)
      ∧ (∀ r, r ≠ d → t.core.c.read r = s.pin.core.c.read r) ∧ t.core.c.chain = s.pin.core.c.advance.chain := by
  have notBuffered : ¬(d = 0 ∧ s.core.task.isSome = true ∧ s.pinnedTask = false) := by
    rintro ⟨zero, some_, loose⟩
    rcases now with ⟨nonzero, -⟩ | ⟨-, pinned | none_⟩
    · exact nonzero zero
    · rw [pinned] at loose; cases loose
    · rw [none_] at some_; cases some_
  have notForecast : ¬(d ≠ 0 ∧ s.forecasting.isSome = true) := by
    rintro ⟨nonzero, forecasts⟩
    rcases now with ⟨-, none_⟩ | ⟨zero, -⟩
    · rw [none_] at forecasts; cases forecasts
    · exact nonzero zero
  obtain ⟨u, put, same⟩ := State.put_pinned (eff (s.core.c.read a).toNat pa s) s.pin_pinned
  have unchanged : u.mem = s.pin.mem ∧ u.deadByte pa = s.pin.deadByte pa ∧ u.core.c = s.pin.core.c := by
    rcases same with rfl | ⟨f, rfl⟩ <;> exact ⟨rfl, rfl, rfl⟩
  obtain ⟨sameMem, sameDead, sameC⟩ := unchanged
  obtain ⟨written, keptC⟩ := does u sameMem sameDead
  have c := keptC.trans sameC
  rw [cAtomic_start free reach outside global ordered, if_neg notBuffered, if_neg notForecast, clean, cleanAfter, put]
  dsimp only
  by_cases zero : d = 0
  · obtain ⟨-, reads, chain, -⟩ := State.cDone_from c
    rw [if_pos zero]
    exact ⟨_, rfl, written, fun nonzero => absurd zero nonzero, fun r _ => reads r, chain⟩
  · rw [if_neg zero]
    obtain ⟨only, -, result, others, chain, -⟩ := State.resultLate_spec (u.perform (eff (s.core.c.read a).toNat pa s)) d (s.pin.mem64 pa)
      none (s.core.c.read a).toNat pa
    rw [c] at others chain
    exact ⟨_, rfl, (congrArg State.mem only).trans written, result, others, chain⟩

end

/-- A cas writes its second operand where the doubleword was the expected one. -/
theorem execCas_performs {s : State} {d a b : BitVec 5} {pa : Nat} (free : s.cFree (.cas d a b) [a, b, d] = true)
    (reach : s.reaches (s.core.c.read a).toNat pa 8 true)
    (outside : (s.core.c.read a).toNat < 0x8000000000000 ∨ 0xC000000000000 ≤ (s.core.c.read a).toNat) (global : windowOf pa = none)
    (ordered : s.cOrdered = true) (clean : s.poisonIn (s.core.c.read a).toNat pa 8 = none)
    (cleanAfter : s.pin.poisonIn (s.core.c.read a).toNat pa 8 = none)
    (now : d ≠ 0 ∧ s.forecasting = none ∨ d = 0 ∧ (s.pinnedTask = true ∨ s.core.task = none)) (aligned : pa % 8 = 0)
    (live : s.pin.deadByte pa = false) :
    ∃ t, execCas d a b s = .next t
      ∧ t.mem = (if BitVec.ofNat 64 (Memory.readNat s.pin.mem pa 8) = s.core.c.read d
          then Memory.writeBytes s.pin.mem pa (leBytes 8 (s.core.c.read b).toNat) else s.pin.mem)
      ∧ (d ≠ 0 → t.core.c.read d = s.pin.mem64 pa) ∧ (∀ r, r ≠ d → t.core.c.read r = s.pin.core.c.read r)
      ∧ t.core.c.chain = s.pin.core.c.advance.chain :=
  cAtomic_performs free reach outside global (use := 0) ordered clean cleanAfter now
    fun _ mem dead => State.perform_cas aligned global (dead.trans live) mem rfl _ _ _

end Sys2Proof.Machine

/-- Settles O6: the buffered atomics by `State.put_buffers`, the others by `cAtomic_performs`. -/
theorem atomicsActOnce : Obligations.AtomicsActOnce := by
  unfold Obligations.AtomicsActOnce
  constructor
  · intro s k a b u op pa va task loose reach outside global room
    have buffers : ∀ (i : Instr) (srcs : List (BitVec 5)) (use : BitVec 2) (eff : Nat → Nat → State → EffKind), s.cFree i srcs = true →
        (eff va pa s).size = 8 → ∃ t, cAtomic i srcs 0 a use eff s = .next t ∧ t.mem = s.mem ∧ CNext s.core.c t.core.c
          ∧ t.core.task.map (·.buf) = some (insertEff ⟨eff va pa s, s.copyCycle, 0, none, s.issuePhase 0⟩ k.buf) := by
      intro i srcs use eff free size
      obtain ⟨t, put, mem, same, buf⟩ := State.put_buffers 0 task loose (e := eff va pa s) (by rw [size]; exact room)
      exact ⟨_, cAtomic_buffered free reach outside global task loose put, mem, State.cDone_next same, buf⟩
    simp only [List.forall_mem_cons, List.not_mem_nil, false_implies, implies_true, and_true]
    have amo := fun free => buffers (.amo 0 a b u op) [a, b] u (fun va pa s => .amo va pa op (s.core.c.read b)) free rfl
    have cas := fun free => buffers (.cas 0 a b) [a, b, 0] 0 (fun va pa s => .cas va pa (s.core.c.read 0) (s.core.c.read b)) free rfl
    exact ⟨amo, cas⟩
  · intro s d a b u pa va m reach aligned outside global live clean cleanAfter now old y
    constructor
    · have amo : ∀ e ∈ amoTable old y,
          s.cFree (.amo d a b u e.1) [a, b] = true → (if u = 2 then s.fenceDone else s.cOrdered) = true →
          ∃ t, execAmo d a b u e.1 s = .next t ∧ t.mem = Memory.writeBytes m.mem pa (leBytes 8 e.2.toNat) ∧ (d ≠ 0 → t.core.c.read d = old)
              ∧ (∀ r, r ≠ d → t.core.c.read r = m.core.c.read r) ∧ t.core.c.chain = m.core.c.advance.chain := by
        intro e he free ordered
        refine cAtomic_performs free reach outside global ordered clean cleanAfter now fun v mem dead => ?_
        have performs := State.perform_amo aligned global (dead.trans live) mem (old := old) rfl va e.1 y
        rw [amoFn_table old y e he] at performs
        exact performs
      intro e he
      obtain ⟨r, hr, rfl⟩ := List.mem_map.mp (show e ∈ (amoTable old y).map fun r => (Instr.amo d a b u r.1, r.2) from he)
      exact amo r hr
    · intro free ordered
      exact execCas_performs free reach outside global ordered clean cleanAfter now aligned live
end

section
/-!
SUPPORT. O4: the value of each load of C, and the byte that a word of C sees.
-/
open Sys2Proof Sys2Proof.Machine

namespace Sys2Proof.Machine

/-! ### The loads (06 R108) -/

/-- Sign extension of the low bits of a number is that of the word that holds them. -/
theorem sextBytes_eq {n : Nat} (pos : 0 < n) (v : Nat) : sextBytes n v = (BitVec.ofNat (8 * n) v).signExtend 64 := by
  have half : 2 ^ (8 * n) = 2 * 2 ^ (8 * n - 1) := by rw [← Nat.pow_succ']; congr 1; omega
  rw [sextBytes, BitVec.signExtend, BitVec.toInt_eq_toNat_cond, toI, BitVec.toNat_ofNat]
  exact congrArg _ (if_congr (by omega) rfl rfl)

/-- What a load leaves: its value, and the cycle at which it is ready from the own window. -/
def Loads (s t : State) (d : BitVec 5) (pa : Nat) (v : Word64) : Prop :=
  CLoaded s t d v ∧ (s.isLocal pa = true → t.core.c.readyAt d = s.core.c.cycles + 6)

theorem Loads.giveUpLine {s t : State} {d : BitVec 5} {pa : Nat} {v : Word64} (h : Loads s t d pa v) : Loads s (t.giveUpLine pa) d pa v := by
  obtain ⟨loaded, ready⟩ := h
  exact ⟨loaded.giveUpLine pa, ready⟩

theorem cLoad_loads {i : Instr} {d a : BitVec 5} {imm : BitVec 15} {n pa : Nat} {ext : Nat → Word64} {after : Nat → State → State} {s : State}
    (keeps : ∀ t v, Loads s t d pa v → Loads s (after pa t) d pa v) (free : s.cFree i [a] = true)
    (reach : s.reaches (s.core.c.read a + imm.signExtend 64).toNat pa n false) :
    ∃ t, cLoad i d a imm n ext after s = .next t
      ∧ Loads s t d pa (ext (leNat (s.seenBytes (s.core.c.read a + imm.signExtend 64).toNat pa n))) :=
  ⟨_, cLoad_free free reach, keeps _ _ (s.loaded_spec ..)⟩

/-! ### The byte that a word of C sees (06 R109; 11 R376) -/

/-- A byte that no prediction gives is what the task's buffer leaves of it. -/
theorem State.taskByteOver_buffered {s : State} {t : Task} {va : Nat} (task : s.core.task = some t) (unpredicted : s.predictedIndex va = none)
    (under : Byte) : s.taskByteOver va under = overlay t.buf va under := by
  simp only [State.taskByteOver, unpredicted, task]

theorem State.seenByte_buffered {s : State} {t : Task} {va pa : Nat} (task : s.core.task = some t) (plain : snapOf pa = none)
    (unpredicted : s.predictedIndex va = none) :
    s.seenByte va pa = overlay t.buf va (match s.hit pa with | some g => Memory.read g.cells pa | none => Memory.read s.mem pa) := by
  rw [State.seenByte, plain]
  exact State.taskByteOver_buffered task unpredicted _

theorem overlay_append (l : List Effect) (e : Effect) (va : Nat) (base : Byte) :
    overlay (l ++ [e]) va base = mergeByte (overlay l va base) (e.kind.bitsAt va).2 (e.kind.bitsAt va).1 := List.foldl_append

/-- A byte of a store of whole bytes, with every bit of it. -/
theorem bitsAt_whole {v q va : Nat} {bs : List Byte} (low : v ≤ va) (high : va < v + bs.length) :
    (EffKind.store v q (whole bs)).bitsAt va = (bs.getD (va - v) 0, 0xFF) := by
  have inside : va - v < bs.length := by omega
  have covers : v ≤ va ∧ va < v + (whole bs).length := ⟨low, by rw [whole, List.length_map]; exact high⟩
  rw [EffKind.bitsAt, if_pos covers]
  simp [nth, whole, inside]

theorem mergeByte_none (old v : Byte) : mergeByte old 0 v = old := by
  have all : ~~~(0 : Byte) = BitVec.allOnes 8 := BitVec.not_zero
  have nothing : v &&& 0 = 0 := BitVec.and_zero
  have same : old ||| 0 = old := BitVec.or_zero
  rw [mergeByte, all, BitVec.and_allOnes, nothing, same]

end Sys2Proof.Machine

/-- Settles O4: each load by `cLoad_loads`, each byte by the newest buffered store. -/
theorem loadsReadTheirBytes : Obligations.LoadsReadTheirBytes := by
  unfold Obligations.LoadsReadTheirBytes
  constructor
  · intro s d a i pa va x
    have load : ∀ (w : Instr) (n : Nat) (ext : Nat → Word64) (v : Word64), ext (x n) = v → s.cFree w [a] = true → s.reaches va pa n false →
        ∃ t, cLoad w d a i n ext (fun _ s => s) s = .next t ∧ CLoaded s t d v ∧
          (s.isLocal pa = true → t.core.c.readyAt d = s.core.c.cycles + 6) := by
      intro w n ext v value free reach
      subst value
      exact cLoad_loads (fun _ _ h => h) free reach
    have sext : ∀ (w : Instr) (n : Nat), 0 < n → s.cFree w [a] = true → s.reaches va pa n false →
        ∃ t, cLoad w d a i n (sextBytes n) (fun _ s => s) s = .next t ∧ CLoaded s t d ((BitVec.ofNat (8 * n) (x n)).signExtend 64) ∧
          (s.isLocal pa = true → t.core.c.readyAt d = s.core.c.cycles + 6) :=
      fun w n pos => load w n (sextBytes n) _ (sextBytes_eq pos (x n))
    have last : s.cFree (.ldLast d a i) [a] = true → s.reaches va pa 8 false →
        ∃ t, execLdLast d a i s = .next t ∧ CLoaded s t d (BitVec.ofNat 64 (x 8)) ∧
          (s.isLocal pa = true → t.core.c.readyAt d = s.core.c.cycles + 6) := cLoad_loads fun _ _ h => h.giveUpLine
    simp only [List.forall_mem_cons, List.not_mem_nil, false_implies, implies_true, and_true]
    exact ⟨sext (.ldB d a i) 1 (by decide), sext (.ldH d a i) 2 (by decide), sext (.ldW d a i) 4 (by decide),
      load (.ldD d a i) 8 w64 _ rfl, load (.lduB d a i) 1 w64 _ rfl, load (.lduH d a i) 2 w64 _ rfl, load (.lduW d a i) 4 w64 _ rfl, last⟩
  · intro s t va pa task plain unpredicted under
    have seen : _ = overlay _ _ under := State.seenByte_buffered task plain unpredicted
    refine ⟨fun empty => by rw [seen, empty]; rfl, fun l e buf => ⟨fun v q bs store low high => ?_, fun untouched => ?_⟩⟩
    · rw [seen, buf, overlay_append, store, bitsAt_whole low high, mergeByte_whole]
    · rw [seen, buf, overlay_append, untouched, mergeByte_none]

end

section
/-!
SUPPORT. O40: what each event of the matrix unit comes to where the entry it concerns stands.
-/
open Sys2Proof Sys2Proof.Machine

namespace Sys2Proof.Machine

/-! ### The events of the matrix unit (08 R186 to R188, R197 to R199) -/

section
variable {s : State} {c : Nat} {e : MEntry} {op : MOp} {row col : Int} (starts : s.startCount = some c)
  (about : s.core.m.about = some (e, op, row, col))
include starts about

/-- A single word starts with its operation. -/
theorem execMatrixEntryStart_word (fresh : e.rest = false) (single : op ≠ .nest) :
    execMatrixEntryStart s = .next ((e.inView (s.matTo c) fun s =>
      s.startOp op e.fmt row col e.seq (BitVec.ofNat 64 (imWord s.core.imX e.pc.toNat)) e.occ).settle (s.matTo c) e.occ op.counted
        fun e => { e with start := some (s.matTo c).core.m.count }) := by
  simp only [execMatrixEntryStart, starts, about, single, fresh, if_false, Bool.false_eq_true]
  rfl

/-- The nest at the head of the queue begun: it becomes the one that runs, and an mnest counts toward the self-test. -/
def State.nestBegun (s : State) (e : MEntry) : State :=
  s.updM fun m => { m.promote (m.count + 1) with ops := m.ops + (if e.seq.isSome then 1 else 0) }

/-- A nest with points starts with its walk. -/
theorem execMatrixEntryStart_nest {n : Nest} (nest : op = .nest) (runs : ((s.matTo c).nestBegun e).core.m.running = some n)
    (points : n.total ≠ 0) :
    execMatrixEntryStart s =
      .next (((s.matTo c).nestBegun e).updM fun m => m.updHead fun e => { e with start := some m.count }) := by
  rw [State.nestBegun] at runs
  simp only [execMatrixEntryStart, starts, about, nest, runs, points, if_false, if_true]
  rfl

variable {n : Nest} (runs : s.core.m.running = some n) (walks : e.rest = true) (started : e.start.isSome = true)
include runs walks started

/-- The word of an entry: of X for an mnest, of C for a nest.go. -/
def State.entryWord (s : State) (e : MEntry) : Word64 :=
  BitVec.ofNat 64 (imWord (if e.seq.isSome then s.core.imX else s.core.imC) e.pc.toNat)

theorem execNestPoint_faults {f : BitVec 8 × Word64}
    (faults : (s.matTo c).entryFault (s.matTo c).core.m.present op n.fmt row col ((s.matTo c).entryWord e) = some f) :
    execNestPoint s = .next ((s.matTo c).startFault f.1 f.2) := by
  have going : ¬((!e.rest) = true ∨ e.start.isNone = true) := by
    rw [walks, Option.isNone_iff_eq_none, ← Option.not_isSome_iff_eq_none, started]
    decide
  rw [State.entryWord] at faults
  simp only [execNestPoint, starts, about, runs, if_neg going, faults]

/-- A point past its checks is performed, and the nest goes on behind it. -/
theorem execNestPoint_goes
    (passes : (s.matTo c).entryFault (s.matTo c).core.m.present op n.fmt row col ((s.matTo c).entryWord e) = none) :
    let r := s.matTo c
    let occ := r.occupancy r.core.m.present op n.fmt row col
    let last := decide (n.total ≤ n.point + 1)
    let v := (e.inView r fun s => s.startOp op n.fmt row col (if last then e.seq else none) (r.entryWord e) occ).settle r occ op.counted
      fun e => { e with occ := e.occ + occ, rest := !last }
    v.core.m.free_ = r.core.m.count + occ → (v.core.m.queue.head?.any fun e => !e.bad) = true → v.core.freeze = none →
      execNestPoint s = .next (v.updM fun m => { m with running := m.running.map fun n =>
        { n with point := n.point + 1, ended := if last then some m.count else none } }) := by
  intro r occ last v free good thawed
  have going : ¬((!e.rest) = true ∨ e.start.isNone = true) := by
    rw [walks, Option.isNone_iff_eq_none, ← Option.not_isSome_iff_eq_none, started]
    decide
  have performed : v.core.m.free_ = r.core.m.count + occ ∧ (v.core.m.queue.head?.any fun e => !e.bad) = true ∧ v.core.freeze.isNone = true :=
    ⟨free, good, by rw [thawed]; rfl⟩
  rw [State.entryWord] at passes
  simp only [execNestPoint, starts, about, runs, if_neg going, passes]
  exact congrArg _ (if_pos performed)

end

/-- The head leaves at the end of its occupancy. -/
theorem execMatrixOccupancyEnd_leaves {s : State} {e : MEntry} {l : List MEntry} (queue : s.core.m.queue = e :: l)
    (started : e.start.isSome = true) (whole : e.rest = false) (unheld : s.core.m.factor = none ∨ s.core.m.tail = true) :
    execMatrixOccupancyEnd s = .next ((s.matTo (Nat.max s.core.m.count s.core.m.free_)).updM fun m =>
      ({ m with queue := l, factor := none }).promote m.count) := by
  have stays : ¬(e.start.isNone = true ∨ e.rest = true ∨ s.core.m.factor.isSome = true ∧ (!s.core.m.tail) = true) := by
    rw [Option.isNone_iff_eq_none, ← Option.not_isSome_iff_eq_none, started, whole]
    rcases unheld with h | h <;> rw [h] <;> simp
  simp only [execMatrixOccupancyEnd, queue, if_neg stays]

/-- The first result becomes visible with its flags, and with STATE 2 where it ends a factorisation word. -/
theorem execMatrixResultVisible_shows {s v : State} {r : MResult} {rest : List MResult} (first : firstResult s.core.m.results = some (r, rest))
    (writes : ((s.matTo (Nat.max s.core.m.count r.due)).updM fun m => { m with results := rest }).writeAll r.ofX r.writes = .done v) :
    let x := (v.orFlags .x r.flags).xDone r.seq
    execMatrixResultVisible s = .next (if r.last = true then
      x.setFactorRegs (fstatN x.core.m.fstat) (fstatSet x.core.m.fstat 0 2) x.core.m.grow (x.now + x.core.div.mat) else x) := by
  simp only [execMatrixResultVisible, first, writes]

end Sys2Proof.Machine

/-- Settles O40: each event by the lemma above that says what it comes to. -/
theorem matrixUnitAdvances : Obligations.MatrixUnitAdvances := by
  unfold Obligations.MatrixUnitAdvances
  intro s
  refine ⟨fun c e op row col => execMatrixEntryStart_word, fun c e row col n starts about => execMatrixEntryStart_nest starts about rfl,
    fun e l => execMatrixOccupancyEnd_leaves, fun r rest v first => execMatrixResultVisible_shows first,
    fun c e op row col n starts about runs walks started => ⟨fun f => execNestPoint_faults starts about runs walks started,
      execNestPoint_goes starts about runs walks started⟩, ⟨_, rfl, rfl, rfl, fun works => ?inject⟩, fun frozen => ?operands⟩
  case inject => exact if_neg (by rw [show (s.matTo _).core.m.failing = s.core.m.failing from rfl, works]; decide)
  case operands =>
    change execOperandFetchArrival s = _
    rw [execOperandFetchArrival, frozen]

end

section
/-!
SUPPORT. O38: what arrives at a core: vector results, the data of loads, posts; and the queue deadlock.
-/
open Sys2Proof Sys2Proof.Machine

namespace Sys2Proof.Machine

/-! ### Results and data that arrive (06 R103; 07 R151, R152) -/

/-- One result that is due is written alone, and leaves the latches. -/
theorem State.deliver_one (s : State) (l : VLatch) :
    s.deliver [l] = (l.targets.foldl State.writeTarget
      (s.updV fun v => { v with latches := v.latches.filter fun k => !decide (k = l) })).orFlags .x l.flags := by
  have only : ∀ k, [l].contains k = decide (k = l) := fun k => by simp [List.contains_eq_mem]
  simp only [State.deliver, only]
  rfl

theorem execVectorResultArrival_one {s : State} {l : VLatch} (due : s.dueLatches = [l]) :
    execVectorResultArrival s = .next ((l.targets.foldl State.writeTarget
      ((s.at_ s.core.x.next).updV fun v => { v with latches := v.latches.filter fun k => !decide (k = l) })).orFlags .x l.flags) := by
  rw [execVectorResultArrival, due, State.deliver_one]

section
variable {s : State} {g : GLoad} (runs : s.core.stopped = false) (due : s.dueLoad = some g) (first : g.again = false)
include runs due first

theorem execGlobalLoadArrival_clean (clean : g.poison = none) :
    execGlobalLoadArrival s = .next ((g.targets.foldl State.writeTarget
      ((s.at_ s.core.x.next).updV fun v => { v with gloads := v.gloads.filter fun k => k.seq != g.seq })).xDone (some g.seq)) := by
  simp only [execGlobalLoadArrival, runs, due, first, clean, Bool.false_eq_true, if_false]

theorem execGlobalLoadArrival_poisoned {a : Nat} (poison : g.poison = some a) :
    execGlobalLoadArrival s = .next ((s.at_ s.core.x.next).loadFault g 0x0C a) := by
  simp only [execGlobalLoadArrival, runs, due, first, poison, Bool.false_eq_true, if_false]

end

/-- An asynchronous cause that finds room pends behind the others (20 R339). -/
theorem State.raiseAt_pend {s : State} (room : s.core.pend.length < 16) (cause : BitVec 8) (src : BitVec 4) (tval : Word64) (pc : Nat) :
    (s.raiseAt cause src tval pc).core.pend = s.core.pend ++ [s.core.pendEntry cause src tval pc] := by
  rw [State.raiseAt, State.updCore_core, Core.pendMore, if_pos room]

/-- The fault of a load names its word and its address. -/
theorem State.loadFault_pend {s : State} (room : s.core.pend.length < 16) (g : GLoad) (cause : BitVec 8) (va : Nat) :
    ∃ p, (s.loadFault g cause va).core.pend = s.core.pend ++ [p] ∧ p.cause = cause ∧ p.src = 2 ∧ p.tval = BitVec.ofNat 64 va
      ∧ p.pc = g.pc.toNat := by
  unfold State.loadFault
  exact ⟨_, State.raiseAt_pend (by exact room) cause 2 (w64 va) g.pc.toNat, rfl, rfl, rfl, rfl⟩

/-- A line kept stands in the global cache. -/
theorem State.mem_keepLine (s : State) (g : GLine) : g ∈ (s.keepLine g).core.gcache := List.mem_cons_self

/-- The data of a load of C: the load leaves the list, and its line comes into the global cache. -/
theorem execCLoadArrival_spec {s : State} {l : CLoad} (due : s.core.c.dueLoad = some l) :
    ∃ t, execCLoadArrival s = .next t ∧ t.core.c = { s.core.c with loads := s.core.c.loads.erase l } ∧ t.mem = s.mem
      ∧ ∀ n, l.line = some n → n ∈ t.core.gcache := by
  rw [execCLoadArrival, due]
  dsimp only
  cases line : l.line with
  | none => exact ⟨_, rfl, rfl, rfl, nofun⟩
  | some g =>
    obtain ⟨mem, core, -⟩ := SameButLines.keepLine ((s.at_ s.core.c.next).updC fun c => { c with loads := c.loads.erase l }) g
    refine ⟨_, rfl, congrArg Core.c core, mem, fun n same => ?_⟩
    cases same
    exact State.mem_keepLine _ g

/-! ### Posts (02 R36, R37) -/

/-- The first post reaches its queue, behind what its strand came after, and no other queue changes. -/
theorem execHitchPostDelivery_spec {s : State} {k : StepStrand} {seq : Nat} {q : BitVec 2} {n : Fin 12} {tick since : Nat}
    (first : s.firstPost = some (k, seq, q, n, tick, since)) :
    ∃ t, execHitchPostDelivery s = .next t ∧ t.core.hq[n] = (s.core.hq[n]).push 1 since (s.core.strand k).after
      ∧ (∀ m, m ≠ n → t.core.hq[m] = s.core.hq[m]) ∧ t.mem = s.mem ∧ t.core.c = s.core.c := by
  have after : (((s.at_ tick).updStep k (Step.popPost seq q)).core.strand k).after = (s.core.strand k).after := by cases k <;> rfl
  have queues : ∀ m, (((s.at_ tick).updStep k (Step.popPost seq q)).pushToken k n since).core.hq[m]
      = if n = m then (s.core.hq[m]).push 1 since (s.core.strand k).after else s.core.hq[m] := by
    intro m
    rw [State.pushToken, State.updCore_core, Core.updHq_get, after]
    cases k <;> rfl
  rw [execHitchPostDelivery, first]
  refine ⟨_, rfl, (queues n).trans (if_pos rfl), fun m other => (queues m).trans (if_neg other.symm), ?_, ?_⟩
  all_goals cases k <;> rfl

/-! ### The queue deadlock (02 R40) -/

theorem execQueueDeadlock_spec {s : State} {v : Word64} (dead : s.core.deadlock = some v) (outside : s.core.c.handler = false) :
    ∃ t, execQueueDeadlock s = .next t ∧ t.core.frame.cause = 0x13 ∧ t.core.frame.tval = v ∧ t.core.c.handler = true
      ∧ t.core.c.saved = s.core.c.chain ∧ t.mem = s.mem := by
  rw [execQueueDeadlock, dead]
  obtain ⟨-, cause, tval, -, -, inside, saved, mem⟩ :=
    State.enterTrap_spec (s := s.at_ s.core.c.next) outside 0x13 0 false v none 0 (s.at_ s.core.c.next).now
  exact ⟨_, rfl, cause, tval, inside, saved, mem⟩

end Sys2Proof.Machine

/-- Settles O38: each arrival by its lemma, and the deadlock by `State.enterTrap_spec`. -/
theorem resultsArrive : Obligations.ResultsArrive := by
  unfold Obligations.ResultsArrive
  refine ⟨fun s => ⟨fun l => execVectorResultArrival_one, fun g => execGlobalLoadArrival_clean, ?poisoned, ?load,
    fun k seq q n tick since => execHitchPostDelivery_spec⟩, fun s v => execQueueDeadlock_spec⟩
  case poisoned =>
    intro g a runs due first poison
    exact ⟨_, execGlobalLoadArrival_poisoned runs due first poison, rfl, fun room => State.loadFault_pend (s := s.at_ s.core.x.next) room g 0x0C a⟩
  case load =>
    intro l due
    obtain ⟨t, runs, c, mem, line⟩ := execCLoadArrival_spec due
    exact ⟨t, runs, congrArg CStrand.loads c, mem, fun r => CStrand.read_congr (by rw [c]) (by rw [c]) (by rw [c]) r, line⟩

end

section
/-!
SUPPORT. O13: the kernel words of C: their effects put into the task's buffer or performed, their waits, and the fence.
-/
open Sys2Proof Sys2Proof.Machine

namespace Sys2Proof.Machine

/-! ### Effects and waits of a word of C (02 R41; 10 R247) -/

/-- A wait outside a handler takes a cycle. -/
theorem State.cWait_task {s : State} (outside : s.core.c.handler = false) (p : WaitPlace) : s.cWait p = s.cTick (some p) := by
  rw [State.cWait, if_neg (by rw [outside]; decide)]

/-- The task has room for an effect in its splice buffer, or needs none. -/
def State.roomFor (s : State) (k : Task) (e : EffKind) : Prop :=
  k.pinned = true ∨ k.forecast = none ∨ k.used + s.core.m.reserved + e.size ≤ 524288

/-- An effect with room takes its place, or is performed. -/
theorem State.put_room {s : State} {k : Task} {e : EffKind} (task : s.core.task = some k) (room : s.roomFor k e) :
    ∃ u, s.put 0 e = .done u := by
  rw [State.put_of_task task]
  split
  · exact ⟨_, rfl⟩
  split
  · exact ⟨_, rfl⟩
  split
  · next loose full forecasts =>
    rcases room with h | h | h
    · exact absurd h loose
    · rw [h] at forecasts; cases forecasts
    · exact absurd h full
  · exact ⟨_, rfl⟩

/-- Without room the effect stalls. -/
theorem State.put_stalls {s : State} {k : Task} {e : EffKind} (task : s.core.task = some k) (full : ¬ s.roomFor k e) :
    s.put 0 e = .stall := by
  simp only [State.roomFor, not_or] at full
  obtain ⟨loose, forecasts, large⟩ := full
  rw [State.put_of_task task, if_neg loose, if_neg large, if_pos (Option.isSome_iff_ne_none.mpr forecasts)]

theorem State.cPut_done {s u : State} {e : EffKind} {k : State → State} (put : s.put 0 e = .done u) : s.cPut e k = k u := by
  rw [State.cPut, put]

theorem State.cPut_stalls {s : State} {t : Task} {e : EffKind} {k : State → State} (task : s.core.task = some t) (full : ¬ s.roomFor t e)
    (outside : s.core.c.handler = false) : s.cPut e k = s.cTick (some .verdict) := by
  rw [State.cPut, State.put_stalls task full]
  exact State.cWait_task outside _

/-! ### launch, ktrig, stream and kwait (06 R122 to R124) -/

section
variable {s : State}

theorem execLaunch_free {k : Task} {d a : BitVec 5} (task : s.core.task = some k) (free : s.cFree (.launch d a) [a] = true) :
    let handle : Word64 := BitVec.ofNat 64 (k.kid % 2 ^ 16 * 2 ^ 48 + k.ord % 2 ^ 32 * 2 ^ 16 + s.core.c.nLaunch % 2 ^ 16)
    execLaunch d a s = .next (s.cPut (.launch handle (s.core.c.read a)) fun s' =>
      (s'.updC fun c => { c with nLaunch := c.nLaunch + 1 }).result d handle 1) := by
  intro handle
  have named : s.launchHandle = handle := by rw [State.launchHandle, task]; rfl
  rw [execLaunch, cWord_free _ free, named]

theorem execKtrig_free (free : s.cFree .ktrig [] = true) : execKtrig s = .next (s.cPut .ktrig State.cDone) := cWord_free _ free

theorem execStream_free {a : BitVec 5} (free : s.cFree (.stream a) [a] = true) :
    execStream a s = .next (s.streamWord s.core.csr.ctxid (s.core.c.read a).toNat).cDone := cWord_free _ free

theorem execKwait_free (free : s.cFree .kwait [] = true) :
    execKwait s = .next (if s.producersDone then s.seeAll.cDone else s.cWait .kwait) := cWord_free _ free

/-! ### fence and the order of what follows it (06 R130; 11 R267, R271) -/

/-- What a fence leaves: what C comes after, and the marks on what the core has on its way. -/
def State.fenced (s : State) : State :=
  { s.updC (fun c => { c with fence := c.fence.join c.after }) with
    links := { s.links with flying := s.links.flying.map fun (f : Flying) =>
      if f.sender = (s.core.die, s.core.q) ∧ f.ident = none then { f with fenced := true } else f } }

theorem execFence_free {scope : BitVec 2} (free : s.cFree (.fence scope) [] = true) : execFence scope s = .next s.fenced.cDone := by
  rw [execFence, cWord_free _ free]
  simp only [Option.isNone_iff_eq_none]
  rfl

/-- The words that C comes after are no part of its registers, its chain or its loops. -/
theorem State.fenced_next (s : State) : CNext s.core.c s.fenced.cDone.core.c := by
  obtain ⟨-, rest, reads, chain, stack⟩ := s.fenced.cDone_spec
  have c : s.fenced.core.c = { s.core.c with fence := s.core.c.fence.join s.core.c.after } := rfl
  obtain ⟨sameChain, sameStack⟩ := CStrand.advance_congr (c := s.core.c) (e := s.fenced.core.c) rfl rfl rfl
  exact ⟨rest, fun r => (reads r).trans (CStrand.read_congr (by rw [c]) (by rw [c]) (by rw [c]) r), chain.trans sameChain,
    stack.trans sameStack⟩

theorem State.fenced_fence (s : State) : s.fenced.cDone.core.c.fence = s.core.c.fence.join s.core.c.after := by
  have only := s.fenced.core.c.advance_only
  exact congrArg CStrand.fence only

/-- Some word of a unit before a number has still to perform. -/
theorem all_before {l : List Xfer} {e : Xfer} {n : Nat} {rest : Xfer → Bool} (mem : e ∈ l) (before : e.seq ≤ n) (waits : rest e = true) :
    (l.all fun e => decide (n < e.seq) || !rest e) = false :=
  List.all_eq_false.mpr ⟨e, mem, by rw [waits, decide_eq_false (by omega)]; decide⟩

/-- A global access of C waits for what it comes after. -/
theorem State.cAccess_waits {pa : Nat} {k : State → State} (held : s.cOrdered = false) (outside : s.core.c.handler = false)
    (away : s.isLocal pa = false) (plain : snapOf pa = none) : s.cAccess pa k = s.cTick (some .order) := by
  rw [State.cAccess, away, plain, held]
  exact State.cWait_task outside _

/-- A transfer or a remote write before the fence holds back C's global accesses. -/
theorem State.fence_holds (task : s.core.task.isSome = true) (outside : s.core.c.handler = false)
    (held : (∃ e ∈ s.core.inb.queue, e.seq ≤ s.core.c.fence.l ∧ (s.xferAccess e.op = true ∨ s.xferRemote e.op = true))
      ∨ (∃ e ∈ s.core.outb.queue, e.seq ≤ s.core.c.fence.s ∧ (s.xferAccess e.op = true ∨ s.xferRemote e.op = true))
      ∨ (∃ f ∈ s.links.flying, f.fenced = true ∧ f.sender = (s.core.die, s.core.q))) : s.cOrdered = false := by
  have runs : s.core.task.isNone = false := Option.isNone_eq_false_iff.mpr task
  have undone : (s.unitsDone s.core.c.fence true && s.links.flying.all fun f => !(f.fenced && f.sender == (s.core.die, s.core.q))) = false := by
    rcases held with ⟨e, mem, before, access⟩ | ⟨e, mem, before, access⟩ | ⟨f, mem, fenced, sender⟩
    · rw [State.unitsDone, all_before mem before (by simpa using access), Bool.false_and, Bool.false_and]
    · rw [State.unitsDone, all_before mem before (by simpa using access), Bool.and_false, Bool.false_and]
    · have marked : (!(f.fenced && f.sender == (s.core.die, s.core.q))) = false := by
        rw [fenced, sender, beq_self_eq_true]; rfl
      rw [List.all_eq_false.mpr ⟨f, mem, by rw [marked]; decide⟩, Bool.and_false]
  rw [State.cOrdered, State.fenceDone, outside, runs, undone]
  rfl

/-- A load of global memory waits for what it comes after. -/
theorem cLoad_waits {i : Instr} {d a : BitVec 5} {imm : BitVec 15} {n pa : Nat} {ext : Nat → Word64} {after : Nat → State → State}
    (held : s.cOrdered = false) (outside : s.core.c.handler = false) (away : s.isLocal pa = false) (plain : snapOf pa = none)
    (free : s.cFree i [a] = true) (aligned : (s.core.c.read a + imm.signExtend 64).toNat % n = 0)
    (page : s.page (s.core.c.read a + imm.signExtend 64).toNat false = .ok pa) :
    cLoad i d a imm n ext after s = .next (s.cTick (some .order)) := by
  rw [cLoad, cWord_free _ free]
  dsimp only
  rw [show imm15 imm = imm.signExtend 64 from rfl, if_neg (by simpa using aligned), State.cPage_ok _ page,
    State.cAccess_waits held outside away plain]

/-- So does a store of a pinned task. -/
theorem cStore_waits {i : Instr} {b a : BitVec 5} {imm : BitVec 15} {n pa : Nat}
    (held : s.cOrdered = false) (outside : s.core.c.handler = false) (away : s.isLocal pa = false) (plain : snapOf pa = none)
    (free : s.cFree i [a, b] = true) (aligned : (s.core.c.read a + imm.signExtend 64).toNat % n = 0)
    (page : s.page (s.core.c.read a + imm.signExtend 64).toNat true = .ok pa) (pinned : s.pinnedTask = true) :
    cStore i b a imm n s = .next (s.cTick (some .order)) := by
  rw [cStore, cWord_free _ free]
  dsimp only
  rw [show imm15 imm = imm.signExtend 64 from rfl, if_neg (by simpa using aligned), State.cPage_ok _ page, if_pos pinned,
    State.cAccess_waits held outside away plain]

/-! ### coll (06 R126; 21 R354) -/

theorem execColl_unordered {d a : BitVec 5} (free : s.cFree (.coll d a) [a] = true) (aligned : (s.core.c.read a).toNat % 64 = 0)
    (held : s.cOrdered = false) (outside : s.core.c.handler = false) : execColl d a s = .next (s.cTick (some .order)) := by
  rw [execColl, cWord_free _ free]
  dsimp only
  rw [if_pos ⟨aligned, by rw [held]; rfl⟩, State.cWait_task outside]

/-- The id of the collective whose descriptor stands at an address. -/
def State.collId (s : State) (k : Kernel) (va : Nat) : Word64 := BitVec.ofNat 64 (leNat (s.taskLoad k.ctx va 2))

/-- coll once what its reads come after has performed: its accesses, its check, then the start or the effect. -/
theorem execColl_free {k : Kernel} {d a : BitVec 5} (kernel : s.myKernel = some k) (free : s.cFree (.coll d a) [a] = true)
    (now : (s.core.c.read a).toNat % 64 ≠ 0 ∨ s.cOrdered = true) :
    execColl d a s = .next (match s.collAccess (s.core.c.read a).toNat, s.collCheck (s.core.c.read a).toNat with
      | .walk x w, _ => s.freezeCore (.walk x w)
      | .bad c x, _ => s.cTrap c (BitVec.ofNat 64 x)
      | .ok, some c => s.cTrap (BitVec.ofNat 8 c) (s.core.c.read a)
      | .ok, none =>
        let id := s.collId k (s.core.c.read a).toNat
        if s.forecasting.isSome then s.cPut (.coll (s.core.c.read a)) fun s => s.result d id 1
        else (s.startColl (s.core.c.read a)).result d id 1) := by
  have goes : ¬((s.core.c.read a).toNat % 64 = 0 ∧ (!s.cOrdered) = true) := by
    rintro ⟨aligned, held⟩
    rcases now with h | h
    · exact h aligned
    · rw [h] at held; cases held
  rw [execColl, cWord_free _ free]
  simp only [if_neg goes, kernel]
  rfl

/-! ### The cleat (06 R127 to R129; 02 R31, R32) -/

/-- An arrival made: the next one has another identity. -/
def State.arrived (s : State) : State := s.updC fun c => { c with nArrive := c.nArrive + 1 }

/-- An expectation made: the next one has another identity. -/
def State.expected (s : State) : State := s.updC fun c => { c with nExpect := c.nExpect + 1 }

theorem execCleatArrive_free {k : Task} (task : s.core.task = some k) (free : s.cFree .cleatArrive [] = true) :
    execCleatArrive s = .next (
      if s.otherArrival (k.ident s.core.c.nArrive) then s.cTrap 0x13 0
      else if s.forecasting.isSome then s.cPut (.arrive (k.ident s.core.c.nArrive)) fun s => s.arrived.cDone
      else (s.perform (.arrive (k.ident s.core.c.nArrive))).arrived.cDone) := by
  rw [execCleatArrive, cWord_free _ free]
  simp only [task]
  rfl

theorem execCleatExpect_free {k : Task} {a : BitVec 5} (task : s.core.task = some k) (free : s.cFree (.cleatExpect a) [a] = true) :
    let e : EffKind := .expect (k.ident s.core.c.nExpect) (s.core.c.read a).toNat
    execCleatExpect a s = .next (
      if 2 ^ 32 ≤ (s.core.c.read a).toNat then s.cTrap 0x13 0
      else if s.forecasting.isSome then s.cPut e fun s => s.expected.cDone
      else (s.perform e).expected.cDone) := by
  rw [execCleatExpect, cWord_free _ free]
  simp only [task]
  rfl

theorem execCleatWait_free {q : Kernel} {v : VCore} {a : BitVec 5} (kernel : s.myKernel = some q) (core : s.myVc = some v)
    (free : s.cFree (.cleatWait a) [a] = true) :
    let n := (s.core.c.read a).toNat
    execCleatWait a s = .next (
      if n < q.phase then s.cDone
      else if q.phase < n ∨ v.arrived.isNone then s.cTrap 0x13 0
      else s.cWait (.cleat (BitVec.ofNat 64 n))) := by
  rw [execCleatWait, cWord_free _ free]
  simp only [kernel, core]
  rfl

end

end Sys2Proof.Machine

/-- Settles O13: the effects by `State.put_room` and `State.put_stalls`, the waits by `State.cWait_task`, each word by the lemma above that says
what it comes to. -/
theorem kernelWords : Obligations.KernelWords := by
  unfold Obligations.KernelWords
  refine ⟨?effects, ?fences, ?coll, ?cleat⟩
  case effects =>
    intro s k d a task handle room
    have launch := fun free => execLaunch_free (d := d) (a := a) task free
    refine ⟨fun free has => ?submits, fun free full outside => ?launchWaits, fun free has => ?triggers, fun free full outside => ?triggerWaits⟩
    case submits =>
      obtain ⟨u, put⟩ := State.put_room task has
      exact ⟨u, _, put, (launch free).trans (congrArg _ (State.cPut_done put)), State.result_spec _ d handle 1⟩
    case launchWaits =>
      exact (launch free).trans (congrArg _ (State.cPut_stalls task full outside))
    case triggers =>
      obtain ⟨u, put⟩ := State.put_room task has
      exact ⟨u, _, put, (execKtrig_free free).trans (congrArg _ (State.cPut_done put)), u.cDone_spec⟩
    case triggerWaits =>
      exact (execKtrig_free free).trans (congrArg _ (State.cPut_stalls task full outside))
  case fences =>
    intro s d a i scope pa
    refine ⟨fun free => ⟨_, execStream_free free, State.cDone_spec _⟩, fun free done => ?kwait, fun free waits outside => ?wait,
      fun free => ⟨_, execFence_free free, s.fenced_next, rfl, ?strands, rfl, rfl, rfl, rfl, rfl, rfl, s.fenced_fence, rfl⟩,
      ?order⟩
    case kwait => exact ⟨_, (execKwait_free free).trans (congrArg _ (if_pos done)), State.cDone_spec _⟩
    case wait =>
      exact (execKwait_free free).trans (congrArg _ ((if_neg (by rw [waits]; decide)).trans (State.cWait_task outside _)))
    case strands => intro k; cases k <;> rfl
    case order =>
      intro task outside held va away plain
      have unordered := State.fence_holds task outside held
      have load : ∀ w n ext, s.cFree w [a] = true → va % n = 0 → s.page va false = .ok pa →
          cLoad w d a i n ext (fun _ s => s) s = .next (s.cTick (some .order)) := fun _ _ _ => cLoad_waits unordered outside away plain
      have last : s.cFree (.ldLast d a i) [a] = true → va % 8 = 0 → s.page va false = .ok pa →
          execLdLast d a i s = .next (s.cTick (some .order)) := cLoad_waits unordered outside away plain
      have store : ∀ w n, s.cFree w [a, d] = true → va % n = 0 → s.page va true = .ok pa → s.pinnedTask = true →
          cStore w d a i n s = .next (s.cTick (some .order)) := fun _ _ => cStore_waits unordered outside away plain
      simp only [List.forall_mem_cons, List.not_mem_nil, false_implies, implies_true, and_true]
      exact ⟨⟨load (.ldB d a i) 1 (sextBytes 1), load (.ldH d a i) 2 (sextBytes 2), load (.ldW d a i) 4 (sextBytes 4),
        load (.ldD d a i) 8 w64, load (.lduB d a i) 1 w64, load (.lduH d a i) 2 w64, load (.lduW d a i) 4 w64, last⟩,
        store (.stB d a i) 1, store (.stH d a i) 2, store (.stW d a i) 4, store (.stD d a i) 8⟩
  case coll =>
    intro s k t d a kernel task free va id
    refine ⟨execColl_unordered free, fun now => ?_⟩
    have runs := execColl_free kernel free now
    refine ⟨fun x w access => ?walk, fun c x access => ?denied, fun c access check => ?refused, fun access check plain => ?starts,
      fun access check forecasts has => ?buffered⟩
    case walk =>
      rw [access] at runs
      exact runs
    case denied =>
      rw [access] at runs
      exact runs
    case refused =>
      rw [access, check] at runs
      exact runs
    case starts =>
      rw [access, check] at runs
      simp only [plain, Option.isSome_none, Bool.false_eq_true, if_false] at runs
      exact ⟨_, runs, State.result_spec _ d id 1⟩
    case buffered =>
      obtain ⟨u, put⟩ := State.put_room task (has.imp_right Or.inr)
      rw [access, check] at runs
      simp only [Option.isSome_iff_ne_none.mpr forecasts, if_true] at runs
      exact ⟨u, _, put, runs.trans (congrArg _ (State.cPut_done put)), State.result_spec u d id 1⟩
  case cleat =>
    intro s k q v a task kernel core n arrive expect room
    have arrives := fun free => execCleatArrive_free task free
    have expects := fun free => execCleatExpect_free (a := a) task free
    have waits := fun free => execCleatWait_free (a := a) kernel core free
    refine ⟨fun free plain alone => ?arrives, fun free forecasts alone has => ?arrivalHeld, fun free other => ?arrivalTwice,
      fun free plain small => ?expects, fun free forecasts small has => ?expectHeld, fun free large => ?expectLarge, fun free past => ?past,
      fun free never => ?never, fun free present arrived outside => ?present⟩
    case arrives =>
      have runs := arrives free
      simp only [alone, plain, Option.isSome_none, Bool.false_eq_true, if_false] at runs
      exact ⟨_, runs, State.cDone_spec _⟩
    case arrivalHeld =>
      obtain ⟨u, put⟩ := State.put_room task (has.imp_right Or.inr)
      have runs := arrives free
      simp only [alone, Option.isSome_iff_ne_none.mpr forecasts, Bool.false_eq_true, if_false, if_true] at runs
      exact ⟨u, _, put, runs.trans (congrArg _ (State.cPut_done put)), State.cDone_spec _⟩
    case arrivalTwice =>
      exact (arrives free).trans (congrArg _ (if_pos other))
    case expects =>
      have runs := expects free
      have fits : ¬ 2 ^ 32 ≤ (s.core.c.read a).toNat := Nat.not_le.mpr small
      simp only [fits, plain, Option.isSome_none, Bool.false_eq_true, if_false] at runs
      exact ⟨_, runs, State.cDone_spec _⟩
    case expectHeld =>
      obtain ⟨u, put⟩ := State.put_room task (has.imp_right Or.inr)
      have runs := expects free
      have fits : ¬ 2 ^ 32 ≤ (s.core.c.read a).toNat := Nat.not_le.mpr small
      simp only [fits, Option.isSome_iff_ne_none.mpr forecasts, if_false, if_true] at runs
      exact ⟨u, _, put, runs.trans (congrArg _ (State.cPut_done put)), State.cDone_spec _⟩
    case expectLarge =>
      exact (expects free).trans (congrArg _ (if_pos large))
    case past =>
      exact ⟨_, (waits free).trans (congrArg _ (if_pos past)), State.cDone_spec _⟩
    case never =>
      have later : ¬ n < q.phase := by omega
      have fails : q.phase < n ∨ v.arrived.isNone = true := never.imp_right fun h => Option.isNone_iff_eq_none.mpr h.2
      exact (waits free).trans (congrArg _ ((if_neg later).trans (if_pos fails)))
    case present =>
      have same : ¬ n < q.phase := by omega
      have stands : ¬(q.phase < n ∨ v.arrived.isNone = true) := by
        rw [Option.isNone_iff_eq_none]
        exact not_or.mpr ⟨by omega, arrived⟩
      exact (waits free).trans (congrArg _ ((if_neg same).trans ((if_neg stands).trans (State.cWait_task outside _))))

end

section
/-!
SUPPORT. O22 to O25: the common words of L, X and S: values for g registers, loops, branches on a queue, tokens and data words
(02 R37, R41; 07 R174 to R177).
-/
open Sys2Proof Sys2Proof.Machine

namespace Sys2Proof.Machine

/-! ### The g registers of a strand, and the values that arrive in them (07 R174) -/

theorem Step.readG_zero (p : Step) : p.readG 0 = 0 := rfl

theorem Step.readG_congr {p q : Step} (same : q.g = p.g) (r : BitVec 4) : q.readG r = p.readG r := by
  simp only [Step.readG, same]

theorem Step.readG_writeG (p : Step) {r : BitVec 4} (nonzero : r ≠ 0) (v : Word64) : (p.writeG r v).readG r = v := by
  rw [Step.readG, Step.writeG, if_neg nonzero, if_neg nonzero]
  exact Vector.getElem_set_self _

theorem Step.readG_writeG_ne (p : Step) {r k : BitVec 4} (other : k ≠ r) (v : Word64) : (p.writeG r v).readG k = p.readG k := by
  have apart : r.toNat ≠ k.toNat := fun e => other (BitVec.eq_of_toNat_eq e.symm)
  by_cases zero : r = 0
  · rw [Step.writeG, if_pos zero]
  · rw [Step.readG, Step.readG, Step.writeG, if_neg zero]
    exact if_congr Iff.rfl rfl (Vector.getElem_set_ne r.isLt _ apart)

/-- A flag write that C made concerns the flags alone. -/
theorem Step.takeFlags_frame (p : Step) (now : Nat) :
    (p.takeFlags now).g = p.g ∧ (p.takeFlags now).latches = p.latches ∧ (p.takeFlags now).count = p.count := by
  rw [Step.takeFlags]
  repeat' split
  all_goals exact ⟨rfl, rfl, rfl⟩

section
variable {s : State} {t : StepStrand} {l : GLatch} (one : (s.core.strand t).latches = [l])
include one

/-- A cycle begins by writing the value that has become due. -/
theorem State.beginCycle_due (due : l.due ≤ (s.core.strand t).count) :
    (s.beginCycle t).core.strand t = { ((s.core.strand t).takeFlags s.now).writeG l.reg l.value with latches := [] } := by
  obtain ⟨-, latches, count⟩ := (s.core.strand t).takeFlags_frame s.now
  simp only [State.beginCycle, State.updStep_strand, latches, count, one, due, List.filter_cons, List.filter_nil, decide_true, if_true,
    Bool.not_true, Bool.false_eq_true, if_false, List.foldl_cons, List.foldl_nil]

/-- A value that is not due stays on its way. -/
theorem State.beginCycle_early (early : (s.core.strand t).count < l.due) :
    (s.beginCycle t).core.strand t = { (s.core.strand t).takeFlags s.now with latches := [l] } := by
  obtain ⟨-, latches, count⟩ := (s.core.strand t).takeFlags_frame s.now
  have later : ¬ l.due ≤ (s.core.strand t).count := by omega
  simp only [State.beginCycle, State.updStep_strand, latches, count, one, later, List.filter_cons, List.filter_nil, decide_false, if_true,
    Bool.not_false, Bool.false_eq_true, if_false, List.foldl_nil]

end

/-- A word whose effect is a value for a g register issues with the value on its way. -/
theorem stepWord_gResult {s : State} {t : StepStrand} {h : Hitch} {i : Instr} {d : BitVec 4} {v : State → Word64}
    (free : s.stepFree t h i false [] [] = true) : stepWord t h i false [] [] (fun s => gResult t d (v s) s) s =
      s.issues (s.gLatch t d (v s)) t h i false [] [] (.atCount ((s.core.strand t).count + 2)) .on := stepWord_free _ free

/-! ### Loop words (07 R175) -/

/-- A body that an active one does not hold. -/
theorem Lc.any_outside (lc : Vector Lc 4) (pc last : Nat) :
    (lc.any fun l => l.active && !(decide (l.start ≤ pc) && decide (last ≤ l.last))) = true ↔
      ∃ l ∈ lc.toList, l.active = true ∧ ¬(l.start ≤ pc ∧ last ≤ l.last) := by
  rw [← Vector.any_toList, List.any_eq_true]
  simp only [Bool.and_eq_true, Bool.not_eq_true', Bool.and_eq_false_iff, decide_eq_false_iff_not, not_and_or]

/-- A loop word that nothing holds: its faults in their order, the body skipped, or the counter started. -/
theorem stepWord_loop {s : State} {t : StepStrand} {h : Hitch} {i : Instr} {n : BitVec 2} {count : Nat} {o : BitVec 10}
    {act : State → WordRes} (loops : act s = stepLoopAct t n count o s) (free : s.stepFree t h i false [] [] = true) :
    let p := s.core.strand t
    let pc := p.pc.toNat
    let last := pc + 4 * o.toNat
    stepWord t h i false [] [] act s =
      if 0x10000 ≤ last then s.stepTrap t 0x05 (BitVec.ofNat 64 last) pc
      else if (p.lc[n.toNat]'(by have := n.isLt; omega)).active = true
          ∨ (∃ l ∈ p.lc.toList, l.active = true ∧ ¬(l.start ≤ pc ∧ last ≤ l.last)) then s.stepTrap t 0x13 0 pc
      else if count = 0 then
        s.issues (s.updStep t fun _ => (p.afterLoops last).1) t h i false [] [] (.atCount p.count) (.past (p.afterLoops last).2)
      else
        s.issues (s.updStep t fun q =>
          { q with lc := q.lc.set n.toNat ⟨count, pc + 4, last, true, q.loopSeq⟩ (by have := n.isLt; omega), loopSeq := q.loopSeq + 1 })
          t h i false [] [] (.atCount p.count) .on := by
  intro p pc last
  rw [stepWord_free _ free, loops, stepLoopAct]
  dsimp only
  by_cases past : 0x10000 ≤ last
  · rw [if_pos past, if_pos past]; rfl
  rw [if_neg past, if_neg past]
  by_cases active : (p.lc[n.toNat]'(by have := n.isLt; omega)).active = true
  · rw [if_pos active, if_pos (.inl active)]
  rw [if_neg active]
  by_cases outside : ∃ l ∈ p.lc.toList, l.active = true ∧ ¬(l.start ≤ pc ∧ last ≤ l.last)
  · rw [if_pos ((Lc.any_outside ..).mpr outside), if_pos (.inr outside)]
  rw [if_neg fun e => outside ((Lc.any_outside ..).mp e), if_neg (not_or.mpr ⟨active, outside⟩)]
  by_cases zero : count = 0
  · rw [if_pos zero, if_pos zero]; rfl
  · rw [if_neg zero, if_neg zero]; rfl

/-! ### A branch on a queue (07 R176) -/

/-- The four conditions of a brq. -/
theorem brqTaken_iff {cond : BitVec 3} (legal : cond.toNat < 4) (w : Word64) : brqTaken cond w = true ↔
    (cond = 0 ∧ w = 0) ∨ (cond = 1 ∧ w ≠ 0) ∨ (cond = 2 ∧ w.toInt < 0) ∨ (cond = 3 ∧ 0 ≤ w.toInt) := by
  have negative : w.slt 0#64 = true ↔ w.toInt < 0 := BitVec.slt_iff_toInt_lt
  have codes : cond = 0 ∨ cond = 1 ∨ cond = 2 ∨ cond = 3 := by revert cond; decide
  rcases codes with rfl | rfl | rfl | rfl
  · simp [brqTaken]
  · simp [brqTaken]
  · simp [brqTaken, negative]
  · simp [brqTaken, ← not_lt, ← negative]

theorem targetOk_iff (target : Int) : targetOk target = true ↔ 0 ≤ target ∧ target < 0x10000 := by
  rw [targetOk, Bool.and_eq_true, decide_eq_true_iff, decide_eq_true_iff]

/-- A brq that nothing holds: its wait, the word popped on either way, or the fault of its target before the pop. -/
theorem execBrq_free {s : State} {t : StepStrand} {h : Hitch} {q : BitVec 2} {cond : BitVec 3} {o : BitVec 17}
    (free : s.stepFree t h (.brq t h q cond o) false [] [] = true) :
    let n := inQ t.strand q
    let p := s.core.strand t
    let target : Int := p.pc.toNat + 4 * o.toInt
    execBrq t h q cond o s = .next (
      if (s.core.dq[n]).visible s.now = false then s.stepTick t (some (.data n.val false))
      else if brqTaken cond (s.core.dq[n]).head = true then
        if targetOk target = true then
          s.issues ((s.popData t q).updStep t fun p => { p with brqLeft := 2 }) t h (.brq t h q cond o) false [] [] (.atCount p.count)
            (.taken target.toNat)
        else s.stepTrap t 0x05 (BitVec.ofInt 64 target) p.pc.toNat
      else s.issues (s.popData t q) t h (.brq t h q cond o) false [] [] (.atCount p.count) .on) := by
  intro n p target
  rw [execBrq, stepWord_free _ free]
  dsimp only
  cases (s.core.dq[inQ t.strand q]).visible s.now with
  | false => rfl
  | true =>
    cases brqTaken cond (s.core.dq[inQ t.strand q]).head with
    | false => rfl
    | true => cases targetOk target <;> rfl

/-! ### Tokens and data words (02 R37, R41; 07 R177) -/

/-- A data word popped leaves the count of its strand. -/
theorem State.popData_count (s : State) (t : StepStrand) (q : BitVec 2) :
    ((s.popData t q).core.strand t).count = (s.core.strand t).count := by cases t <;> rfl

theorem execStepQpush_free {s : State} {t : StepStrand} {h : Hitch} {q : BitVec 2} {a : BitVec 4}
    (free : s.stepFree t h (.stepQpush t h q a) false [] [] = true) :
    let out := outQ t.strand q
    execStepQpush t h q a s = .next (
      if (s.core.dq[out]).room 16 s.now = true then
        s.issues (s.updCore fun c => c.updDq out fun d => d.push ((s.core.strand t).readG a) (s.now + s.core.divOf t.strand) (c.afterOf t)) t h
          (.stepQpush t h q a) false [] [] (.atCount (s.core.strand t).count) .on
      else s.stepTick t (some (.data out.val true))) := by
  intro out
  rw [execStepQpush, stepWord_free _ free]
  dsimp only
  by_cases room : (s.core.dq[out]).room 16 s.now = true
  · rw [if_pos room, if_pos room]; rfl
  · rw [if_neg room, if_neg room]

theorem execStepQpop_free {s : State} {t : StepStrand} {h : Hitch} {q : BitVec 2} {d : BitVec 4}
    (free : s.stepFree t h (.stepQpop t h q d) false [] [] = true) :
    let inn := inQ t.strand q
    execStepQpop t h q d s = .next (
      if (s.core.dq[inn]).visible s.now = true then
        s.issues ((s.popData t q).gLatch t d (s.core.dq[inn]).head) t h (.stepQpop t h q d) false [] []
          (.atCount ((s.core.strand t).count + 2)) .on
      else s.stepTick t (some (.data inn.val false))) := by
  intro inn
  rw [execStepQpop, stepWord_free _ free]
  dsimp only
  by_cases word : (s.core.dq[inn]).visible s.now = true
  · rw [if_pos word, if_pos word, gResult, s.popData_count]
  · rw [if_neg word, if_neg word]

/-- A word of L or S meets no modifier: its tokens, a post that stands undelivered before its own, then its effect. -/
theorem stepWord_unmodified {s : State} {t : StepStrand} {h : Hitch} {i : Instr} {paced : Bool} {tokens posts : List (BitVec 2)}
    {act : State → WordRes} (outside : t ≠ .x) : stepWord t h i paced tokens posts act s =
      match tokensSeen s t (codes h.wait ++ tokens) with
      | some n => s.stepTick t (some (.hitch n.val false))
      | none =>
        match (codes h.post ++ posts).find? (s.core.heldPost t s.now) with
        | some q => s.stepTick t (some (.hitch (outQ t.strand q).val true))
        | none => stepWord.stepAct t i paced (codes h.wait ++ tokens) (codes h.post ++ posts) (s.core.strand t) act s := by
  cases t with
  | x => exact absurd rfl outside
  | l | s => rfl

end Sys2Proof.Machine

/-- Settles O22: the words by `stepWord_gResult`, the arrival by what a cycle begins with. -/
theorem gRegisterWords : Obligations.GRegisterWords := by
  unfold Obligations.GRegisterWords
  constructor
  · intro s t h d a b i j x n
    simp only [List.forall_mem_cons, List.not_mem_nil, false_implies, implies_true, and_true]
    exact ⟨fun free => congrArg _ (stepWord_gResult free), fun free => congrArg _ (stepWord_gResult free),
      fun free => congrArg _ (stepWord_gResult free)⟩
  · intro s t l one p
    obtain ⟨sameG, -⟩ := (s.core.strand t).takeFlags_frame s.now
    constructor
    · intro due
      have arrived : p = _ := State.beginCycle_due one due
      rw [arrived]
      refine ⟨rfl, fun nonzero => Step.readG_writeG _ nonzero _, Step.readG_zero _, fun r other => ?_⟩
      exact (Step.readG_writeG_ne _ other _).trans (Step.readG_congr sameG r)
    · intro early
      have stays : p = _ := State.beginCycle_early one early
      rw [stays]
      exact ⟨rfl, Step.readG_congr sameG⟩

/-- Settles O23: both words have the effect that `stepWord_loop` takes apart. -/
theorem stepLoops : Obligations.StepLoops := by
  unfold Obligations.StepLoops
  intro s t h n c g o p pc last k
  simp only [List.forall_mem_cons, List.not_mem_nil, false_implies, implies_true, and_true]
  exact ⟨fun free => congrArg _ (stepWord_loop rfl free), fun free => congrArg _ (stepWord_loop rfl free)⟩

/-- Settles O24: `execBrq_free` under each clause's premises. -/
theorem branchOnQueue : Obligations.BranchOnQueue := by
  unfold Obligations.BranchOnQueue
  intro s t h q cond o i n p w target taken legal free
  have goes := execBrq_free free
  have takes : brqTaken cond w = true ↔ taken := brqTaken_iff legal w
  refine ⟨fun empty => ?waits, fun word on => ?goesOn, fun word yes low high => ?branches, fun word yes bad => ?faults⟩
  case waits => exact goes.trans (congrArg _ (if_pos empty))
  all_goals
    have filled : ¬ (s.core.dq[n]).visible s.now = false := by rw [word]; exact Bool.noConfusion
  case goesOn => exact goes.trans (congrArg _ ((if_neg filled).trans (if_neg fun e => on (takes.mp e))))
  case branches =>
    exact goes.trans (congrArg _ ((if_neg filled).trans ((if_pos (takes.mpr yes)).trans (if_pos ((targetOk_iff _).mpr ⟨low, high⟩)))))
  case faults =>
    exact goes.trans (congrArg _ ((if_neg filled).trans ((if_pos (takes.mpr yes)).trans (if_neg fun e => bad ((targetOk_iff _).mp e)))))

/-- Settles O25: each word by its own lemma, the waits by `stepWord_unmodified`. -/
theorem stepQueueWords : Obligations.StepQueueWords := by
  unfold Obligations.StepQueueWords
  constructor
  · intro s t h q a p out inn
    exact ⟨fun free => congrArg _ (stepWord_free _ free), fun free => congrArg _ (stepWord_free _ free), execStepQpush_free, execStepQpop_free⟩
  · intro s h i paced tokens posts act n q t outside
    rw [stepWord_unmodified outside]
    constructor
    · intro unseen; rw [unseen]
    · intro seen held; rw [seen, held]
end

section
/-!
SUPPORT. O27 to O30: the vector words with a result, each as the form that the model gives it (07 R148 to R169), and what their tables name.
-/
open Sys2Proof Sys2Proof.Machine

namespace Sys2Proof.Machine

/-! ### The forms (07 R148, R150, R151) -/

section
variable {s : State} {h : Hitch} {i : Instr} {d a b c : BitVec 6} (free : s.stepFree .x h i false [] [] = true)
include free

/-- A word of two operands that nothing holds: cause 0x07 under a type that it does not take, else its lanes on their way. -/
theorem vec2_free {pn : BitVec 4} {bad : Nat → Bool} {lat : Nat → Nat} {f : Nat → Nat → Nat → Nat → Nat × Flags}
    (clear : s.scoreboarded [d.toNat, a.toNat, b.toNat] = false) : vec2 h i d a b pn bad lat f s = .next (
      if bad s.vtype = true then s.stepTrap .x 0x07 ((encode i).zeroExtend 64) s.core.x.pc.toNat
      else s.issuesVec h i (lat s.vtype) (s.lanesOut (s.gov pn) d.toNat
        (List.zipWith (f s.vtype (s.gov pn).rm) (s.lanes a.toNat s.vtype) (s.lanes b.toNat s.vtype)))) := vecWord_un free clear rfl

/-- The same with one operand. -/
theorem vec1_free {pn : BitVec 4} {bad : Nat → Bool} {lat : Nat → Nat} {f : Nat → Nat → Nat → Nat × Flags}
    (clear : s.scoreboarded [d.toNat, a.toNat] = false) : vec1 h i d a pn bad lat f s = .next (
      if bad s.vtype = true then s.stepTrap .x 0x07 ((encode i).zeroExtend 64) s.core.x.pc.toNat
      else s.issuesVec h i (lat s.vtype) (s.lanesOut (s.gov pn) d.toNat ((s.lanes a.toNat s.vtype).map (f s.vtype (s.gov pn).rm)))) :=
  vecWord_un free clear rfl

/-- A word of three operands under a type that it takes. -/
theorem vec3_free {f : Nat → Nat → Nat → Nat → Nat → Nat × Flags} (clear : s.scoreboarded [d.toNat, a.toNat, b.toNat, c.toNat] = false)
    (takes : isMx s.vtype = false) : vec3 h i d a b c f s = .next (s.issuesVec h i 4 (s.lanesOut (s.gov 0) d.toNat
      (((s.lanes a.toNat s.vtype).zip ((s.lanes b.toNat s.vtype).zip (s.lanes c.toNat s.vtype))).map
        fun p => f s.vtype (s.gov 0).rm p.1 p.2.1 p.2.2))) := vecWord_ok free clear rfl takes

/-- A permute, which takes every type. -/
theorem permute_free {names : List Nat} {f : State → Nat → List Nat} (clear : s.scoreboarded (d.toNat :: names) = false) :
    permute h i d names f s = .next (s.issuesVec h i 2 (s.lanesOut (s.gov 0) d.toNat ((f s s.vtype).map noFlag))) :=
  vecWord_free free rfl clear

/-- A predicate written whole. -/
theorem predWord_free {d : BitVec 4} {k : State → List Bool} :
    predWord h i d k s = .next (s.issuesVec h i 2 ([.pred d ((k s).map some)], 0)) := vecWord_free free rfl rfl

end

/-! ### The words of two operands (07 R154 to R156) -/

/-- An integer that is a natural number, modulo 2^w. -/
theorem ofI_natCast (w n : Nat) : ofI w n = n % 2 ^ w := Int.toNat_natCast _

/-- The words of two operands, each with its predicate, the types that it does not take, its latency and its element function: see
`exec_binaryForm`. -/
def binaryForms (h : Hitch) (d a b : BitVec 6) (pn : BitVec 4) :
    List (Instr × BitVec 4 × (Nat → Bool) × (Nat → Nat) × (Nat → Nat → Nat → Nat → Nat × Flags)) :=
  [(.vadd h d a b pn, pn, isMx, addLat, addE), (.vsub h d a b pn, pn, isMx, addLat, subE), (.vmul h d a b pn, pn, isMx, four, mulE),
    (.vmin h d a b pn, pn, isMx, two, fun t _ => minE t), (.vmax h d a b pn, pn, isMx, two, fun t _ => maxE t),
    (.vand h d a b, 0, never, two, fun _ _ x y => noFlag (x &&& y)), (.vor h d a b, 0, never, two, fun _ _ x y => noFlag (x ||| y)),
    (.vxor h d a b, 0, never, two, fun _ _ x y => noFlag (x ^^^ y)),
    (.vshl h d a b, 0, notInt, two, fun t _ x y => wrap t ((x * 2 ^ (y % laneWidth t) : Nat) : Int)),
    (.vshr h d a b, 0, notInt, two, fun t _ x y => noFlag (x / 2 ^ (y % laneWidth t))), (.vsra h d a b, 0, notInt, two, fun t _ => sraE t),
    (.vaddsat h d a b, 0, notInt, two, fun t _ x y => satE t (intVal t x + intVal t y)),
    (.vsubsat h d a b, 0, notInt, two, fun t _ x y => satE t (intVal t x - intVal t y))]

theorem exec_binaryForm (s : State) (h : Hitch) (d a b : BitVec 6) (pn : BitVec 4) : ∀ r ∈ binaryForms h d a b pn,
    exec r.1 s = vec2 h r.1 d a b r.2.1 r.2.2.1 r.2.2.2.1 r.2.2.2.2 s := by
  simp only [binaryForms, List.forall_mem_cons, List.not_mem_nil, false_implies, implies_true, and_true]
  exact ⟨rfl, rfl, rfl, rfl, rfl, rfl, rfl, rfl, rfl, rfl, rfl, rfl, rfl⟩

/-- The element functions of R154 to R156 under one type are the model's. -/
theorem binaryForms_values (h : Hitch) (d a b : BitVec 6) (pn : BitVec 4) (t : Nat) :
    (binaryForms h d a b pn).map (fun r => (r.1, r.2.1, r.2.2.1 t, r.2.2.2.1 t, r.2.2.2.2 t)) =
      let w := laneWidth t
      [(.vadd h d a b pn, pn, isMx t, if isFp t then 4 else 2, fun m x y => addE t m x y),
        (.vsub h d a b pn, pn, isMx t, if isFp t then 4 else 2, fun m x y => subE t m x y),
        (.vmul h d a b pn, pn, isMx t, 4, fun m x y => mulE t m x y),
        (.vmin h d a b pn, pn, isMx t, 2, fun _ x y => minE t x y), (.vmax h d a b pn, pn, isMx t, 2, fun _ x y => maxE t x y),
        (.vand h d a b, 0, false, 2, fun _ x y => (x &&& y, 0)), (.vor h d a b, 0, false, 2, fun _ x y => (x ||| y, 0)),
        (.vxor h d a b, 0, false, 2, fun _ x y => (x ^^^ y, 0)),
        (.vshl h d a b, 0, !isInt t, 2, fun _ x y => (x * 2 ^ (y % w) % 2 ^ w, 0)),
        (.vshr h d a b, 0, !isInt t, 2, fun _ x y => (x / 2 ^ (y % w), 0)),
        (.vsra h d a b, 0, !isInt t, 2, fun _ x y => (ofI w (toI w x / 2 ^ (y % w)), 0)),
        (.vaddsat h d a b, 0, !isInt t, 2, fun _ x y => (ofI w (clampInt t (intVal t x + intVal t y)), 0)),
        (.vsubsat h d a b, 0, !isInt t, 2, fun _ x y => (ofI w (clampInt t (intVal t x - intVal t y)), 0))] := by
  have shl : ∀ x y, wrap t ((x * 2 ^ (y % laneWidth t) : Nat) : Int) = (x * 2 ^ (y % laneWidth t) % 2 ^ laneWidth t, 0) :=
    fun x y => by rw [wrap, ofI_natCast]
  simp only [binaryForms, List.map_cons, List.map_nil, shl]
  rfl

/-! ### The words of one and of three operands (07 R154, R155, R169) -/

/-- The words of one operand, each with the types that it does not take, its latency and its element function: see `exec_unaryForm`. -/
def unaryForms (h : Hitch) (d a : BitVec 6) (pn : BitVec 4) :
    List (Instr × (Nat → Bool) × (Nat → Nat) × (Nat → Nat → Nat → Nat × Flags)) :=
  [(.vabs h d a pn, isMx, two, fun t _ => absE t), (.vneg h d a pn, isMx, two, fun t _ => negE t), (.vnot h d a pn, never, two, fun t _ => notE t),
    (.vmov h d a pn, never, two, fun _ _ => noFlag), (.vrcp h d a pn, notFp, eight, fun t m x => fpRcp t m (fpOf t x)),
    (.vrsqrt h d a pn, notFp, eight, fun t m x => fpRsqrt t m (fpOf t x)), (.vsqrt h d a pn, notFp, eight, fun t m x => fpSqrt t m (fpOf t x)),
    (.vexp2 h d a pn, notFp, eight, fun t m x => fpExp2 t m (fpOf t x)), (.vlog2 h d a pn, notFp, eight, fun t m x => fpLog2 t m (fpOf t x))]

theorem exec_unaryForm (s : State) (h : Hitch) (d a : BitVec 6) (pn : BitVec 4) : ∀ r ∈ unaryForms h d a pn,
    exec r.1 s = vec1 h r.1 d a pn r.2.1 r.2.2.1 r.2.2.2 s := by
  simp only [unaryForms, List.forall_mem_cons, List.not_mem_nil, false_implies, implies_true, and_true]
  exact ⟨rfl, rfl, rfl, rfl, rfl, rfl, rfl, rfl, rfl⟩

theorem unaryForms_values (h : Hitch) (d a : BitVec 6) (pn : BitVec 4) (t : Nat) :
    (unaryForms h d a pn).map (fun r => (r.1, r.2.1 t, r.2.2.1 t, r.2.2.2 t)) =
      [(.vabs h d a pn, isMx t, 2, fun _ x => absE t x), (.vneg h d a pn, isMx t, 2, fun _ x => negE t x),
        (.vnot h d a pn, false, 2, fun _ x => (2 ^ laneWidth t - 1 - x, 0)), (.vmov h d a pn, false, 2, fun _ x => (x, 0)),
        (.vrcp h d a pn, !isFp t, 8, fun m x => fpRcp t m (fpOf t x)), (.vrsqrt h d a pn, !isFp t, 8, fun m x => fpRsqrt t m (fpOf t x)),
        (.vsqrt h d a pn, !isFp t, 8, fun m x => fpSqrt t m (fpOf t x)), (.vexp2 h d a pn, !isFp t, 8, fun m x => fpExp2 t m (fpOf t x)),
        (.vlog2 h d a pn, !isFp t, 8, fun m x => fpLog2 t m (fpOf t x))] := rfl

/-- The fused words, each with its element function: see `exec_fusedForm`. -/
def fusedForms (h : Hitch) (d a b c : BitVec 6) : List (Instr × (Nat → Nat → Nat → Nat → Nat → Nat × Flags)) :=
  [(.vfma h d a b c, fmaE), (.vfms h d a b c, fmsE), (.vfnma h d a b c, fnmaE)]

theorem exec_fusedForm (s : State) (h : Hitch) (d a b c : BitVec 6) : ∀ r ∈ fusedForms h d a b c, exec r.1 s = vec3 h r.1 d a b c r.2 s := by
  simp only [fusedForms, List.forall_mem_cons, List.not_mem_nil, false_implies, implies_true, and_true]
  exact ⟨rfl, rfl, rfl⟩

theorem fusedForms_values (h : Hitch) (d a b c : BitVec 6) (t m : Nat) :
    (fusedForms h d a b c).map (fun r => (r.1, r.2 t m)) =
      let w := laneWidth t
      [(.vfma h d a b c, fun x y z => if isFp t then fpFma t m (fpOf t x) (fpOf t y) (fpOf t z) else (ofI w ((x : Int) * y + z), 0)),
        (.vfms h d a b c, fun x y z => if isFp t then fpFma t m (fpOf t x) (fpOf t y) (fpOf t z).neg else (ofI w ((x : Int) * y - z), 0)),
        (.vfnma h d a b c, fun x y z =>
          if isFp t then fpFma t m (fpOf t x).neg (fpOf t y) (fpOf t z) else (ofI w ((z : Int) - x * y), 0))] := rfl

/-! ### Permutes and splats (07 R159, R160) -/

/-- The permutes and vsplat, each with the registers that it reads and the lanes of its result: see `exec_permuteForm`. -/
def permuteForms (h : Hitch) (d a b : BitVec 6) (g : BitVec 4) : List (Instr × List Nat × (State → Nat → List Nat)) :=
  [(.vperm h d a b, [a.toNat, b.toNat], fun s t => (s.lanes b.toNat t).map fun j => nth (s.lanes a.toNat t) (j % lanesOf t) 0),
    (.vzip h d a b, [a.toNat, b.toNat], fun s t =>
      (((s.lanes a.toNat t).zip (s.lanes b.toNat t)).flatMap fun p => [p.1, p.2]).take (lanesOf t)),
    (.vunzip h d a b, [a.toNat, b.toNat], fun s t => evens (s.lanes a.toNat t ++ s.lanes b.toNat t)),
    (.vslide h d a g, [a.toNat], fun s t => slide (s.lanes a.toNat t) (s.core.x.readG g).toInt),
    (.vsplat h d g, [], fun s t => List.replicate (lanesOf t) ((s.core.x.readG g).toNat % 2 ^ laneWidth t))]

theorem exec_permuteForm (s : State) (h : Hitch) (d a b : BitVec 6) (g : BitVec 4) : ∀ r ∈ permuteForms h d a b g,
    exec r.1 s = permute h r.1 d r.2.1 r.2.2 s := by
  simp only [permuteForms, List.forall_mem_cons, List.not_mem_nil, false_implies, implies_true, and_true]
  exact ⟨rfl, rfl, rfl, rfl, rfl⟩

/-! ### Groups of registers (07 R149) -/

/-- A group that ends at or before v63. -/
theorem groupBad_fits {n c : Nat} (fits : n + c ≤ 64) : groupBad n c = false := decide_eq_false (by omega)

/-- The two shapes of a floating-point type. -/
theorem bf16_shape (t x y : Nat) : (if t = tBf16 then x else y) = if t == tBf16 then x else y := if_congr beq_iff_eq.symm rfl rfl

/-- A dequantisation that nothing holds, into the registers that its VSH type takes (07 R168). -/
theorem dequant_free {s : State} {h : Hitch} {i : Instr} {d a : BitVec 6} {k : BitVec 4} {m : BitVec 2} {seed : Option (BitVec 3)} {n : Nat}
    (shape : n = if s.vtype = tBf16 then 4 else 8) (free : s.stepFree .x h i false [] [] = true) (fp : isFp s.vtype = true)
    (src : a.toNat + codeRegs (mxOf m) ≤ 64) (dst : d.toNat + n ≤ 64)
    (clear : s.scoreboarded (groupOf a.toNat (codeRegs (mxOf m)) ++ groupOf d.toNat n) = false) :
    let t := s.vtype
    let codes := (groupOf a.toNat (codeRegs (mxOf m))).flatMap fun n => s.lanes n (mxOf m)
    let r := (pieces 32 32 codes).flatMap fun row =>
      vdqRow t (mxOf m) (s.gov 0).rm row (s.core.v.readK (s.core.v.physK k.toNat)).sc (seed.map s.seedNat)
    dequant h i d a k m seed s = .next (s.issuesVec h i 6
      (((pieces (lanesOf t) 8 (r.map (·.1))).zip (groupOf d.toNat n)).map (fun p => s.regOut p.2 (laneWidth t) p.1), orAll (r.map (·.2)))) := by
  rw [bf16_shape] at shape
  subst shape
  have takes : (notFp s.vtype || groupBad a.toNat (codeRegs (mxOf m)) || groupBad d.toNat (if s.vtype == tBf16 then 4 else 8)) = false := by
    rw [notFp, fp, groupBad_fits src, groupBad_fits dst]; rfl
  exact vecWord_ok free clear rfl takes

end Sys2Proof.Machine

/-- Settles O27: each row of the table is one of the model's words of two operands. -/
theorem vectorWordsOfTwoOperands : Obligations.VectorWordsOfTwoOperands := by
  unfold Obligations.VectorWordsOfTwoOperands
  intro s h d a b pn t w all e row free clear g
  obtain ⟨r, form, rfl⟩ := List.mem_map.mp (binaryForms_values h d a b pn t ▸ row)
  exact (exec_binaryForm s h d a b pn r form).trans (vec2_free free clear)

/-- Settles O28: each row of the tables is one of the model's words of one or of three operands. -/
theorem vectorWordsOfOneAndThreeOperands : Obligations.VectorWordsOfOneAndThreeOperands := by
  unfold Obligations.VectorWordsOfOneAndThreeOperands
  constructor
  · intro s h d a pn t w e row free clear g
    obtain ⟨r, form, rfl⟩ := List.mem_map.mp (unaryForms_values h d a pn t ▸ row)
    exact (exec_unaryForm s h d a pn r form).trans (vec1_free free clear)
  · intro s h d a b c t g w e row free clear takes
    obtain ⟨r, form, rfl⟩ := List.mem_map.mp (fusedForms_values h d a b c t g.rm ▸ row)
    exact (exec_fusedForm s h d a b c r form).trans (vec3_free free clear takes)

/-- Settles O29: each word as `vecWord_free` says, the permutes by their form. -/
theorem predicatesMovesAndPermutes : Obligations.PredicatesMovesAndPermutes := by
  unfold Obligations.PredicatesMovesAndPermutes
  constructor
  · intro s h d p q g f o c v a b pn t gv act n r x
    refine ⟨fun free takes clear => ?vcmp, fun free => ?pcnt, fun free => ?plogic, fun free => ?ppop, fun free takes clear => ?vred⟩
    case vcmp => exact vecWord_ok free clear rfl takes
    case pcnt =>
      have count : sat 1024 (s.core.x.readG g).toNat = n := (sat_eq_min _ _).trans (Nat.min_comm _ _)
      have runs : execPcnt h d g s = _ := predWord_free free
      rw [count] at runs
      exact runs
    case plogic => exact predWord_free free
    case ppop =>
      change execPpop h p g s = _
      exact vecWord_free free rfl rfl
    case vred => exact vecWord_ok free clear rfl takes
  · intro s h d a b pn k g t n x y gv i kr z
    refine ⟨fun free clear => ?vsel, fun e row free clear => ?permute, fun free entry clear => ?vbcast⟩
    case vsel =>
      change execVsel h d a b pn s = _
      exact vecWord_free free rfl clear
    case permute =>
      obtain ⟨r, form, rfl⟩ := List.mem_map.mp (show e ∈ (permuteForms h d a b g).map fun r => (r.1, r.2.1, r.2.2 s t) from row)
      exact (exec_permuteForm s h d a b g r form).trans (permute_free free clear)
    case vbcast => exact vecWord_ok free clear rfl (decide_eq_false (Nat.not_lt.mpr entry))

/-- Settles O30: each word issues, since its type, its groups and its pair of types are ones that it takes. -/
theorem conversionWords : Obligations.ConversionWords := by
  unfold Obligations.ConversionWords
  intro s h d a k dt st seed m t kn ty rd rs g c
  refine ⟨fun free pair dst src clear => ?vcvt, fun free fp dst clear => ?vhad, fun free fp src clear => ?vmaxe,
    fun free fp src dst clear => ?vq, ?vdq⟩
  case vcvt =>
    have takes : (cvtBad dt.toNat st.toNat || groupBad d.toNat rd || groupBad a.toNat rs) = false := by
      rw [pair, groupBad_fits dst, groupBad_fits src]; rfl
    exact vecWord_ok free clear rfl takes
  case vhad =>
    have shape : c = if t == tBf16 then 2 else 1 := bf16_shape t 2 1
    clear_value c
    subst shape
    have takes : (notFp t || groupBad d.toNat (if t == tBf16 then 2 else 1)) = false := by rw [notFp, fp, groupBad_fits dst]; rfl
    exact vecWord_ok free clear rfl takes
  case vmaxe =>
    have takes : (notFp t || groupBad a.toNat 8) = false := by rw [notFp, fp, groupBad_fits src]; rfl
    exact vecWord_ok free clear rfl takes
  case vq =>
    have takes : (notFp t || groupBad a.toNat 8 || groupBad d.toNat (codeRegs ty)) = false := by
      rw [notFp, fp, groupBad_fits src, groupBad_fits dst]; rfl
    exact vecWord_ok free clear rfl takes
  case vdq =>
    simp only [List.forall_mem_cons, List.not_mem_nil, false_implies, implies_true, and_true]
    exact ⟨dequant_free rfl, dequant_free rfl⟩

end

section
/-!
SUPPORT. O31 and O32: vector loads and stores past their pages: elements in the own window, the runs stored, and the bytes of memory that
they change (07 R170 to R173; 11 R267, R376).
-/
open Sys2Proof Sys2Proof.Machine

namespace Sys2Proof.Machine

/-! ### The pages of a word's elements (07 R170; 11 R260) -/

/-- A page that stands for a word stands for an access at once. -/
theorem State.probe_of_page {s : State} {va pa : Nat} {write : Bool} (h : s.page va write = .ok pa) : s.probe va write = .ok pa := by
  unfold State.page at h
  unfold State.probe
  cases translated : s.translate va write with
  | ok p =>
    simp only [translated] at h ⊢
    split at h
    · cases h
    · cases h; rfl
  | bad c => simp only [translated] at h; cases h
  | miss =>
    simp only [translated] at h
    split at h
    · cases h
    · split at h <;> cases h

/-- The pages of a word's elements are those of each. -/
theorem State.pages_ok_cons {s : State} {write : Bool} {e : Elem} {els : List Elem} {l : List (Elem × Nat)}
    (h : s.pages write (e :: els) = .ok l) : ∃ pa r, l = (e, pa) :: r ∧ s.page e.va write = .ok pa ∧ s.pages write els = .ok r := by
  unfold State.pages at h
  cases page : s.page e.va write with
  | bad c => simp only [page] at h; cases h
  | walk => simp only [page] at h; cases h
  | ok pa =>
    cases rest : s.pages write els with
    | bad c va => simp only [page, rest] at h; cases h
    | walk va => simp only [page, rest] at h; cases h
    | ok r => simp only [page, rest] at h; cases h; exact ⟨pa, r, rfl, rfl, rfl⟩

theorem State.pages_ok {s : State} {write : Bool} {els : List Elem} {l : List (Elem × Nat)} (h : s.pages write els = .ok l) :
    l.map (·.1) = els ∧ ∀ p ∈ l, s.page p.1.va write = .ok p.2 := by
  induction els generalizing l with
  | nil => cases h; exact ⟨rfl, fun _ h => absurd h List.not_mem_nil⟩
  | cons e els ih =>
    obtain ⟨pa, r, rfl, page, rest⟩ := State.pages_ok_cons h
    obtain ⟨same, each⟩ := ih rest
    exact ⟨by rw [List.map_cons, same], List.forall_mem_cons.mpr ⟨page, each⟩⟩

/-- Every element has the page that the list gives it. -/
theorem State.pages_ok_elem {s : State} {write : Bool} {els : List Elem} {l : List (Elem × Nat)} (h : s.pages write els = .ok l)
    {e : Elem} (he : e ∈ els) : ∃ pa, (e, pa) ∈ l ∧ s.page e.va write = .ok pa := by
  obtain ⟨same, each⟩ := State.pages_ok h
  rw [← same] at he
  obtain ⟨p, hp, rfl⟩ := List.mem_map.mp he
  exact ⟨p.2, hp, each p hp⟩

/-- The first element's page, where every element has its own. -/
theorem State.pages_ok_first {s : State} {write : Bool} {els : List Elem} {l : List (Elem × Nat)} (h : s.pages write els = .ok l) :
    s.pages write (els.take 1) = .ok (l.take 1) := by
  cases els with
  | nil => cases h; rfl
  | cons e els =>
    obtain ⟨pa, r, rfl, page, -⟩ := State.pages_ok_cons h
    simp only [List.take_succ_cons, List.take_zero, State.pages, page]

/-- The active elements of a word at consecutive addresses (07 R153, R170). -/
abbrev State.directElems (s : State) (g : BitVec 4) (o : BitVec 8) (pn : BitVec 4) : List Elem :=
  elemsAt (s.active (s.gov pn) (lanesOf s.vtype)) (laneWidth s.vtype) (s.vaddr g o)

/-! ### Loads from the own window (07 R171, R173) -/

section
variable {s : State} {els : List Elem} {l : List (Elem × Nat)} (own : (l.all fun p => s.isLocal p.2) = true)
  (pages : s.pages false els = .ok l)
include own pages

/-- A word whose elements all lie in the own window is no global word. -/
theorem State.globalWord_own : s.globalWord els = false := by
  refine List.any_eq_false.mpr fun e he => ?_
  obtain ⟨pa, listed, page⟩ := State.pages_ok_elem pages he
  have inside : s.isLocal pa = true := List.all_eq_true.mp own _ listed
  rw [State.away, State.probe_of_page page]
  simp only [inside, Bool.not_true, Bool.false_eq_true, not_false_eq_true]

end

/-- A first-fault load whose elements all have their pages finds none that waits for a walk. -/
theorem State.find_walk_none {s : State} {els : List Elem} {l : List (Elem × Nat)} (pages : s.pages false els = .ok l) (n : Nat) :
    ((els.take n).find? fun e => s.page e.va false == .walk && (s.walkWaits e.va || s.probe e.va false != .absent)) = none := by
  refine List.find?_eq_none.mpr fun e he => ?_
  obtain ⟨pa, -, page⟩ := State.pages_ok_elem pages (List.mem_of_mem_take he)
  have stands : (Page.ok pa == Page.walk) = false := rfl
  rw [page, stands, Bool.false_and]
  exact Bool.false_ne_true

/-- What a load from the own window has on the way to its register: the values of its elements as the task sees them. -/
def State.loadTarget (s : State) (d : Nat) (zero : Bool) (l : List (Elem × Nat)) : LatchTarget :=
  .vreg (s.core.v.phys d) (laneWidth s.vtype)
    (lanesFrom (lanesOf s.vtype) zero (l.map fun p => (p.1.i, s.elemValue (laneWidth s.vtype) p.1 p.2)))

theorem State.loadLocal_clean {s : State} {l : List (Elem × Nat)} (clean : s.poisonElems (laneWidth s.vtype) l = none) (d : Nat) (zero : Bool)
    (extra : List LatchTarget) :
    s.loadLocal d zero l extra = .ok (s.vlatch 6 (s.loadTarget d zero l :: extra) 0) (.atCount (s.core.x.count + 6)) .on := by
  rw [State.loadLocal]
  simp only [clean]
  rfl

section
variable {s : State} {h : Hitch} {v vi : BitVec 6} {g pn : BitVec 4} {o : BitVec 8} {els : List Elem} {l : List (Elem × Nat)}
  (own : (l.all fun p => s.isLocal p.2) = true) (clean : s.poisonElems (laneWidth s.vtype) l = none)
include own clean

/-- A load whose elements lie in the own window, none poisoned. -/
theorem vload_own (pages : s.pages false els = .ok l) (d : Nat) (zero : Bool) :
    vload s d zero els = .ok (s.vlatch 6 [s.loadTarget d zero l] 0) (.atCount (s.core.x.count + 6)) .on := by
  rw [vload, pages]
  dsimp only
  rw [State.globalWord_own own pages, if_neg Bool.false_ne_true, State.loadLocal_clean clean]

theorem execVld_own (free : s.stepFree .x h (.vld h v g o pn) false [] [] = true) (aligned : s.vaddr g o % 64 = 0)
    (clear : s.scoreboarded [v.toNat] = false)
    (pages : s.pages false (s.directElems g o pn) = .ok l) :
    execVld h v g o pn s = .next (s.issuesVec h (.vld h v g o pn) 6 ([s.loadTarget v.toNat (s.gov pn).zero l], 0)) := by
  rw [execVld, stepWord_free _ free]
  simp only [clear, Bool.false_eq_true, if_false, aligned, ne_eq, not_true_eq_false, vload_own own clean pages]
  rfl

theorem execVldx_own (free : s.stepFree .x h (.vldx h v g vi pn) false [] [] = true) (clear : s.scoreboarded (v.toNat :: s.indexRegs vi) = false)
    (indexed : s.indexed (.vldx h v g vi pn) vi g pn = .ok els) (pages : s.pages false els = .ok l) :
    execVldx h v g vi pn s = .next (s.issuesVec h (.vldx h v g vi pn) 6 ([s.loadTarget v.toNat (s.gov pn).zero l], 0)) := by
  rw [execVldx, stepWord_free _ free]
  simp only [clear, Bool.false_eq_true, if_false, indexed, vload_own own clean pages]
  rfl

/-- A first-fault load whose elements are all there leaves its predicate as it is. -/
theorem execVldFf_own (free : s.stepFree .x h (.vldFf h v g o pn) false [] [] = true) (aligned : s.vaddr g o % 64 = 0)
    (clear : s.scoreboarded [v.toNat] = false) (governed : (s.gov pn).pn ≠ 0) (plain : (s.gov pn).inv = false)
    (pages : s.pages false (s.directElems g o pn) = .ok l)
    (all : s.beforeFault (laneWidth s.vtype) (s.directElems g o pn) = l)
    (some_ : l ≠ []) :
    execVldFf h v g o pn s = .next (s.issuesVec h (.vldFf h v g o pn) 6 ([s.loadTarget v.toNat (s.gov pn).zero l], 0)) := by
  obtain ⟨same, -⟩ := State.pages_ok pages
  have length : l.length = (s.directElems g o pn).length := by
    rw [← same, List.length_map]
  have lawful : ¬((s.gov pn).pn = 0 ∨ (s.gov pn).inv = true) := by rw [plain]; exact not_or.mpr ⟨governed, Bool.false_ne_true⟩
  have filled : l.isEmpty = false := List.isEmpty_eq_false_iff.mpr some_
  rw [execVldFf, stepWord_free _ free]
  simp only [clear, Bool.false_eq_true, if_false, lawful, aligned, ne_eq, not_true_eq_false, State.pages_ok_first pages, all,
    State.find_walk_none pages, State.globalWord_own own pages, filled, length, List.drop_length, State.loadLocal_clean clean]
  rfl

end

/-- A first-fault load may not be governed by p0 or by an inverted predicate. -/
theorem execVldFf_unlawful {s : State} {h : Hitch} {v : BitVec 6} {g pn : BitVec 4} {o : BitVec 8}
    (free : s.stepFree .x h (.vldFf h v g o pn) false [] [] = true) (clear : s.scoreboarded [v.toNat] = false)
    (unlawful : (s.gov pn).pn = 0 ∨ (s.gov pn).inv = true) :
    execVldFf h v g o pn s = .next (s.stepTrap .x 0x01 ((encode (.vldFf h v g o pn)).zeroExtend 64) s.core.x.pc.toNat) := by
  rw [execVldFf, stepWord_free _ free]
  dsimp only
  rw [clear, if_neg Bool.false_ne_true, if_pos unlawful]
  rfl

/-! ### Stores (07 R171, R172; 11 R267) -/

/-- None of a list of runs lies outside the own window. -/
theorem State.away_isEmpty (s : State) (l : List Run) :
    (l.filter fun r => !s.isLocal r.pa).isEmpty = true ↔ ∀ r ∈ l, s.isLocal r.pa = true := by
  simp only [List.isEmpty_iff, List.filter_eq_nil_iff, Bool.not_eq_true', Bool.not_eq_false]

/-- None of a word's direct stores comes after an access still to perform (11 R267): see `State.storesOrdered_iff`. -/
def State.StoresOrdered (s : State) (runs : List Run) : Prop :=
  (∀ r ∈ runs, s.isLocal r.pa = true) ∨ s.xOrdered (s.core.x.seq + 1) s.core.x.after true = true

/-- It is what the model asks before it makes the stores of a word at once. -/
theorem State.storesOrdered_iff (s : State) (runs : List Run) : s.StoresOrdered runs ↔
    ((runs.filter fun r => !s.isLocal r.pa).isEmpty || s.xOrdered (s.core.x.seq + 1) s.core.x.after true) = true := by
  rw [Bool.or_eq_true, s.away_isEmpty]
  rfl

section
variable {s u : State} {runs : List Run}

/-- A word's stores where none of the direct ones comes after an access still to perform. -/
theorem State.storeWord_ordered (ordered : s.StoresOrdered runs)
    (stored : s.storeRuns (some (s.core.x.seq + 1)) runs = .done u) : s.storeWord runs = (.done u, false) := by
  rw [State.storeWord, if_pos ((s.storesOrdered_iff runs).mp ordered), stored]

/-- A word's stores where they come after one: those outside the own window are held. -/
theorem State.storeWord_held (unordered : ¬ s.StoresOrdered runs)
    (stored : s.storeRuns none (runs.filter fun r => s.isLocal r.pa) = .done u) : s.storeWord runs =
      (.done (u.updV fun v => { v with stores := v.stores ++
        [⟨s.core.x.seq + 1, s.core.x.after, runs.filter fun r => !s.isLocal r.pa⟩] }), true) := by
  rw [State.storeWord, if_neg fun now => unordered ((s.storesOrdered_iff runs).mpr now), stored]

end

/-- The runs of a store's elements, in ascending order of their elements. -/
def State.elemRuns (s : State) (v : Nat) (l : List (Elem × Nat)) : List Run :=
  l.map fun p => elemRun (laneWidth s.vtype) (nth (s.lanes v s.vtype) p.1.i 0) p.1 p.2

/-- A store whose elements have their pages makes the stores of its runs. -/
theorem vstore_pages {s : State} {els : List Elem} {l : List (Elem × Nat)} (pages : s.pages true els = .ok l) (v : Nat) (joined : Bool) :
    vstore s v els joined = match s.storeWord (if joined then joinRuns (s.elemRuns v l) else s.elemRuns v l) with
      | (.stall, _) => .wait .verdict
      | (.done s1, held) => .ok s1 (if held then .waiting else .atCount s.core.x.count) .on := by
  rw [vstore, pages]
  rfl

/-- How a store word ends: complete in its cycle, or in flight with its direct stores held. -/
def State.StoreEnds (s u : State) (h : Hitch) (i : Instr) (runs : List Run) (w : Host.Outcome State Fault Refusal) : Prop :=
  (s.StoresOrdered runs → s.storeRuns (some (s.core.x.seq + 1)) runs = .done u →
    w = .next (s.issues u .x h i false [] [] (.atCount s.core.x.count) .on))
  ∧ (¬ s.StoresOrdered runs → s.storeRuns none (runs.filter fun r => s.isLocal r.pa) = .done u →
    w = .next (s.issues (u.updV fun v => { v with stores := v.stores ++
      [⟨s.core.x.seq + 1, s.core.x.after, runs.filter fun r => !s.isLocal r.pa⟩] }) .x h i false [] [] .waiting .on))

/-- A store word that nothing holds and that comes to its stores ends as `State.StoreEnds` says. -/
theorem stepWord_stores {s : State} (u : State) {h : Hitch} {i : Instr} {act : State → WordRes} {v : Nat} {els : List Elem}
    {l : List (Elem × Nat)} {joined : Bool} (free : s.stepFree .x h i false [] [] = true) (stores : act s = vstore s v els joined)
    (pages : s.pages true els = .ok l) :
    s.StoreEnds u h i (if joined then joinRuns (s.elemRuns v l) else s.elemRuns v l) (.next (stepWord .x h i false [] [] act s)) := by
  rw [stepWord_free _ free, stores, vstore_pages pages]
  constructor
  · intro ordered stored
    rw [State.storeWord_ordered ordered stored]
    rfl
  · intro unordered stored
    rw [State.storeWord_held unordered stored]
    rfl

/-- A misaligned vst faults, whatever its pages hold (log 45). -/
theorem execVst_misaligned {s : State} {h : Hitch} {v : BitVec 6} {g pn : BitVec 4} {o : BitVec 8}
    (free : s.stepFree .x h (.vst h v g o pn) false [] [] = true) (clear : s.scoreboarded [v.toNat] = false)
    (misaligned : s.vaddr g o % 64 ≠ 0) :
    execVst h v g o pn s = .next (s.stepTrap .x 0x03 (BitVec.ofNat 64 (s.vaddr g o)) s.core.x.pc.toNat) := by
  rw [execVst, stepWord_free _ free]
  dsimp only
  rw [clear, if_neg Bool.false_ne_true, if_pos misaligned]
  rfl

/-! ### The bytes that stores into the own window change (07 R171; 11 R376) -/

theorem State.isLocal_congr {s u : State} (die : u.core.die = s.core.die) (q : u.core.q = s.core.q) (pa : Nat) : u.isLocal pa = s.isLocal pa := by
  rw [State.isLocal, State.isLocal, die, q]

/-- A store into the own window is performed at once. -/
theorem State.storeTo_own {s : State} {pa : Nat} (own : s.isLocal pa = true) (bs : List (Byte × Byte)) : s.storeTo pa bs = s.poke true pa bs := by
  unfold State.isLocal at own
  unfold State.storeTo
  cases window : windowOf pa with
  | none => rfl
  | some w =>
    obtain ⟨d, q, off⟩ := w
    simp only [window, Bool.and_eq_true, beq_iff_eq] at own
    have here : (d, q) = s.core.place := Prod.ext own.1 own.2
    simp only [here, if_true]

theorem SameButTask.place {c e : Core} (h : SameButTask c e) : e.die = c.die ∧ e.q = c.q := by
  rw [h]
  exact ⟨rfl, rfl⟩

theorem State.poke_isLocal (s : State) (own : Bool) (pa : Nat) (bs : List (Byte × Byte)) (x : Nat) :
    (s.poke own pa bs).isLocal x = s.isLocal x := by
  obtain ⟨die, q⟩ := SameButTask.place (s.poke_core own pa bs)
  exact State.isLocal_congr die q x

/-- The runs of a word that all lie in the own window, stored one after another. -/
def State.storeOwn (s : State) (l : List Run) : State := l.foldl (fun s r => s.storeTo r.pa r.bytes) s

theorem State.storeRuns_own {s : State} {l : List Run} (own : ∀ r ∈ l, s.isLocal r.pa = true) (seq : Option Nat) :
    s.storeRuns seq l = .done (s.storeOwn l) := by
  have direct : ∀ r ∈ l, (s.isLocal r.pa || ((windowOf r.pa).isSome && s.forecasting.isNone)) = true := fun r hr => by rw [own r hr]; rfl
  have all : (l.filter fun r => s.isLocal r.pa || ((windowOf r.pa).isSome && s.forecasting.isNone)) = l := List.filter_eq_self.mpr direct
  have none_ : (l.filter fun r => !(s.isLocal r.pa || ((windowOf r.pa).isSome && s.forecasting.isNone))) = [] :=
    List.filter_eq_nil_iff.mpr fun r hr => by rw [direct r hr]; exact Bool.false_ne_true
  rw [State.storeRuns]
  dsimp only
  rw [none_, all]
  rfl

theorem State.storeOwn_cons {s : State} {r : Run} {l : List Run} (own : s.isLocal r.pa = true) :
    s.storeOwn (r :: l) = (s.poke true r.pa r.bytes).storeOwn l := by
  rw [State.storeOwn, List.foldl_cons, State.storeTo_own own]
  rfl

/-- No byte outside the runs changes. -/
theorem State.storeOwn_outside {s : State} {l : List Run} {x : Nat} (wf : Memory.wf s.mem = true) (own : ∀ r ∈ l, s.isLocal r.pa = true)
    (outside : ∀ r ∈ l, x < r.pa ∨ r.pa + r.bytes.length ≤ x) : Memory.read (s.storeOwn l).mem x = Memory.read s.mem x := by
  induction l generalizing s with
  | nil => rfl
  | cons r l ih =>
    obtain ⟨here, rest⟩ := List.forall_mem_cons.mp own
    obtain ⟨apart, apartRest⟩ := List.forall_mem_cons.mp outside
    have kept : ∀ q ∈ l, (s.poke true r.pa r.bytes).isLocal q.pa = true := fun q hq => (s.poke_isLocal ..).trans (rest q hq)
    rw [State.storeOwn_cons here, ih (State.poke_wf wf true r.pa r.bytes) kept apartRest,
      State.poke_read wf true r.pa r.bytes 0 (.inl (State.isLocal_window here)), if_neg (by omega)]

/-- Inside a single run, the bits of its masks change. -/
theorem State.storeOwn_inside {s : State} {r : Run} {k : Nat} (wf : Memory.wf s.mem = true) (own : s.isLocal r.pa = true)
    (inside : k < r.bytes.length) : Memory.read (s.storeOwn [r]).mem (r.pa + k) =
      mergeByte (Memory.read s.mem (r.pa + k)) (r.bytes.getD k (0, 0)).2 (r.bytes.getD k (0, 0)).1 := by
  have offset : r.pa + k - r.pa = k := by omega
  rw [State.storeOwn_cons own]
  refine (State.poke_read wf true r.pa r.bytes 0 (.inl (State.isLocal_window own)) _).trans ?_
  rw [if_pos (by omega), offset]

end Sys2Proof.Machine

/-- Settles O31: each word by its lemma about elements in the own window. -/
theorem vectorLoads : Obligations.VectorLoads := by
  unfold Obligations.VectorLoads
  intro s h v g o vi pn l els t w va gv r direct own clean
  exact ⟨execVld_own own clean, execVldx_own own clean, execVldFf_own own clean, execVldFf_unlawful⟩

/-- Settles O32: the words by `stepWord_stores`, the bytes by one run after another. -/
theorem vectorStores : Obligations.VectorStores := by
  unfold Obligations.VectorStores
  constructor
  · intro s u h v g o vi pn l els t w n va runs stores
    refine ⟨fun free clear aligned pages => ?vst, execVst_misaligned, fun free clear indexed pages => ?vstx⟩
    case vst =>
      refine stepWord_stores u free (joined := true) ?_ pages
      simp only [clear, Bool.false_eq_true, if_false]
      exact if_neg (not_not.mpr aligned)
    case vstx =>
      refine stepWord_stores u free (joined := false) ?_ pages
      simp only [clear, Bool.false_eq_true, if_false, indexed]
  · intro s u seq l wf own stored
    rw [State.storeRuns_own own] at stored
    cases stored
    refine ⟨fun x outside => State.storeOwn_outside wf own outside, ?_⟩
    rintro r rfl k inside
    exact State.storeOwn_inside wf (own r List.mem_cons_self) inside
end

section
/-!
SUPPORT. O36: the zeros that mzero writes into its tile, and the three words that mfst pushes into xc.
-/
open Sys2Proof Sys2Proof.Machine

namespace Sys2Proof.Machine

/-! ### The rows of an accumulator tile in the own window (08 R186, R195; 11 R256, R257) -/

/-- No byte of a window, or past the windows, stands in a channel or a stack of HBM. -/
theorem State.deadByte_window {s : State} {pa : Nat} (window : windowSpace ≤ pa) : s.deadByte pa = false := by
  have count : s.stackCount ≤ 24 := by rw [State.stackCount]; split <;> decide
  have past : ¬ pa < s.hbmTop := by rw [State.hbmTop]; unfold windowSpace at window; omega
  rw [State.deadByte, decide_eq_false past, Bool.false_and]

/-- The tile's first byte in the window of the core in focus. -/
def State.tileBase (s : State) (t : Nat) : Nat := windowBase s.core.die s.core.q + accBase + t * 16384

theorem State.windowSpace_le_tileBase (s : State) (t : Nat) : windowSpace ≤ s.tileBase t := by
  unfold State.tileBase windowBase
  omega

/-- The zeros of the first n rows of a tile. -/
def zeroRows (t n : Nat) : List MWrite := (List.range n).map fun i => .acc t i (List.replicate 64 0)

/-- The zeros of one row of a tile written into the own window. -/
def State.clearRow (s : State) (t i : Nat) : State := s.pokeBytes true (s.tileBase t + i * 256) (List.replicate 256 0)

/-- The zeros of the first n rows of a tile, written one row after another. -/
def State.clearRows (s : State) (t n : Nat) : State := (List.range n).foldl (fun s i => s.clearRow t i) s

/-- What the matrix unit does with the zeros of a tile: they go into the own window at once. -/
theorem State.writeAll_zeroRows (s : State) (seq : Option Nat) (t n : Nat) : s.writeAll seq (zeroRows t n) = .done (s.clearRows t n) := by
  have bytes : (List.replicate 64 0).flatMap (leBytes 4) = List.replicate 256 0 := by
    have entry : leBytes 4 0 = List.replicate 4 0 := by decide
    rw [List.flatMap_replicate, entry, List.flatten_replicate_replicate]
  simp only [State.writeAll, zeroRows, List.filterMap_map, Function.comp_def, List.filterMap_none, State.storeRuns, List.filter_nil,
    List.map_nil, State.putAll, List.foldl_nil, List.foldl_map, bytes, State.clearRows, State.clearRow, State.tileBase]

theorem State.clearRows_succ (s : State) (t n : Nat) : s.clearRows t (n + 1) = (s.clearRows t n).clearRow t n := by
  rw [State.clearRows, List.range_succ, List.foldl_append, List.foldl_cons, List.foldl_nil, State.clearRows]

/-- Writing moves no window. -/
theorem State.pokeBytes_tileBase (s : State) (own : Bool) (pa : Nat) (bs : List Byte) (t : Nat) :
    (s.pokeBytes own pa bs).tileBase t = s.tileBase t := by
  obtain ⟨die, q⟩ := SameButTask.place (s.poke_core own pa (whole bs))
  rw [State.tileBase, State.pokeBytes, die, q, State.tileBase]

theorem State.clearRows_tileBase (s : State) (t n : Nat) : (s.clearRows t n).tileBase t = s.tileBase t := by
  induction n with
  | zero => rfl
  | succ n ih => rw [State.clearRows_succ, State.clearRow, State.pokeBytes_tileBase, ih]

theorem State.clearRows_wf {s : State} (wf : s.MemCanonical) (t n : Nat) : (s.clearRows t n).MemCanonical := by
  induction n with
  | zero => exact wf
  | succ n ih =>
    rw [State.clearRows_succ]
    exact State.pokeBytes_wf ih ..

/-- The first n rows of the tile read 0, every other byte as before. -/
theorem State.clearRows_read {s : State} (wf : s.MemCanonical) (t n x : Nat) : Memory.read (s.clearRows t n).mem x =
    if s.tileBase t ≤ x ∧ x < s.tileBase t + n * 256 then 0 else Memory.read s.mem x := by
  induction n with
  | zero => exact (if_neg (by omega)).symm
  | succ n ih =>
    have space := s.windowSpace_le_tileBase t
    rw [State.clearRows_succ, State.clearRow, State.clearRows_tileBase,
      State.pokeBytes_read (s.clearRows_wf wf t n) _ _ _ _ (.inr fun k _ => State.deadByte_window (by omega)), ih, List.length_replicate]
    by_cases row : s.tileBase t + n * 256 ≤ x ∧ x < s.tileBase t + n * 256 + 256
    · rw [if_pos row, if_pos (by omega), List.getD_replicate _ (by omega)]
    · rw [if_neg row]
      exact if_congr (by omega) rfl rfl

/-! ### mzero at its start (08 R195) -/

/-- What mzero puts in line: the zeros of its tile, and no flag. -/
def Matrix.zeroResult (m : Matrix) (t : Nat) (seq : Option Nat) (due : Nat) : MResult :=
  ⟨due, zeroRows t 64, 0, seq, 0, false, m.headX, m.headGo⟩

/-- mzero at its start: the tag record, the later products into its tile, and its own zeros. -/
theorem State.startZero_eq (s : State) (t : Nat) (seq : Option Nat) (due : Nat) :
    s.startZero t seq due = .ok (s.updM fun m => { m with
      tags := m.tags.setIfInBounds t none
      results := (m.results.map fun r => if due < r.due then { r with writes := r.writes.map (MWrite.zeroed t) } else r)
        ++ [m.zeroResult t seq due] }) := rfl

/-! ### mfst at its start (08 R211) -/

/-- A data queue after its change, and another as it was. -/
theorem Core.updDq_get (c : Core) (m n : Fin 12) (f : Queue → Queue) : (c.updDq m f).dq[n] = if m = n then f c.dq[n] else c.dq[n] := by
  by_cases same : m = n
  · subst same
    simp [Core.updDq]
  · have apart : m.val ≠ n.val := fun e => same (Fin.ext e)
    simp [Core.updDq, same, Vector.getElem_set_ne (h := apart)]

/-- Words of the matrix unit pushed into xc one after another, behind the accesses of a word of X. -/
def State.pushResults (s : State) (since seq : Nat) (l : List Word64) : State :=
  l.foldl (fun s w => s.updCore fun c => c.updDq 6 fun q => q.push w since (c.x.after.with_ .x seq)) s

theorem State.startMfst_eq (s : State) (seq : Option Nat) (begun : Nat) : s.startMfst seq begun =
    .ok ((s.pushResults (s.now + s.core.div.mat) (seq.getD 0) [BitVec.ofNat 64 s.core.m.fcol, s.core.m.fstat, s.core.m.grow]).result_
      (begun + 1) [] 0 seq 0) := rfl

section
variable (s : State) (since seq : Nat) (l : List Word64)

/-- They come into xc in their order, behind what stands there. -/
theorem State.pushResults_words :
    ((s.pushResults since seq l).core.dq[(6 : Fin 12)]).items.map (·.word) = (s.core.dq[(6 : Fin 12)]).items.map (·.word) ++ l := by
  induction l generalizing s with
  | nil => exact (List.append_nil _).symm
  | cons w l ih =>
    rw [State.pushResults, List.foldl_cons]
    refine (ih _).trans ?_
    rw [State.updCore_core, Core.updDq_get, if_pos rfl, Queue.push, List.map_append, List.append_assoc]
    rfl

/-- No other data queue changes. -/
theorem State.pushResults_other {n : Fin 12} (other : n ≠ 6) : (s.pushResults since seq l).core.dq[n] = s.core.dq[n] := by
  induction l generalizing s with
  | nil => rfl
  | cons w l ih =>
    rw [State.pushResults, List.foldl_cons]
    refine (ih _).trans ?_
    rw [State.updCore_core, Core.updDq_get, if_neg other.symm]

/-- They change the data queues alone. -/
theorem State.pushResults_only : s.pushResults since seq l = s.updCore fun c => { c with dq := (s.pushResults since seq l).core.dq } := by
  induction l generalizing s with
  | nil => rfl
  | cons w l ih => exact ih (s.updCore fun c => c.updDq 6 fun q => q.push w since (c.x.after.with_ .x seq))

end

end Sys2Proof.Machine

/-- Settles O36: mzero by the zeros of its rows, mfst by what its pushes leave. -/
theorem mzeroClearsAndMfstReturns : Obligations.MzeroClearsAndMfstReturns := by
  unfold Obligations.MzeroClearsAndMfstReturns
  constructor
  · intro s u v t seq due tile wf starts
    rw [State.startZero_eq] at starts
    cases starts
    refine ⟨⟨?empty, fun k other => ?kept, rfl⟩, s.core.m.zeroResult t seq due, rfl, rfl, rfl, fun written => ?zeros⟩
    case empty => simp [tile]
    case kept => simp [other.symm]
    case zeros =>
      obtain rfl : s.clearRows t 64 = v := Put.done.inj ((s.writeAll_zeroRows _ t 64).symm.trans written)
      exact ⟨fun k inside => (s.clearRows_read wf t 64 _).trans (if_pos ⟨Nat.le_add_right _ _, Nat.add_lt_add_left inside _⟩),
        fun x outside => (s.clearRows_read wf t 64 x).trans (if_neg (by unfold State.tileBase accBase; omega))⟩
  · intro s seq begun
    let since := s.now + s.core.div.mat
    let results := [BitVec.ofNat 64 s.core.m.fcol, s.core.m.fstat, s.core.m.grow]
    have words := s.pushResults_words since (seq.getD 0) results
    have others := fun (n : Fin 12) (other : n ≠ 6) => s.pushResults_other since (seq.getD 0) results other
    have only := s.pushResults_only since (seq.getD 0) results
    refine ⟨_, s.startMfst_eq seq begun, ?_⟩
    generalize s.pushResults since (seq.getD 0) results = p at words others only ⊢
    refine ⟨words, others, ?_⟩
    rw [only]
    exact ⟨rfl, rfl, rfl, rfl, rfl, rfl, rfl⟩
end

section
/-!
SUPPORT. O41: a factorisation word at its boundary and at its breakdown, and a self-test product that differs.
-/
open Sys2Proof Sys2Proof.Machine

namespace Sys2Proof.Machine

/-! ### The registers of the factorisation state written (08 R201, R203) -/

section
variable (s : State) (fcol : Nat) (fstat grow : Word64) (since : Nat)

@[simp] theorem State.setFactorRegs_m : (s.setFactorRegs fcol fstat grow since).core.m =
    { s.core.m with fcol := fcol, fstat := fstat, grow := grow } := rfl

@[simp] theorem State.setFactorRegs_pend : (s.setFactorRegs fcol fstat grow since).core.pend = s.core.pend := rfl

@[simp] theorem State.setFactorRegs_mem : (s.setFactorRegs fcol fstat grow since).mem = s.mem := rfl

end

/-! ### Factorisation words (08 R203, R204, R209, R212) -/

section
variable {s : State} {f : Factor} {e : MEntry} {l : List MEntry} (runs : s.core.m.factor = some f) (queue : s.core.m.queue = e :: l)
include runs queue

/-- A boundary outside a stop: the column's step, then the next column. -/
theorem execFactorColumnBoundary_steps (outside : s.core.c.handler = false) (sound : f.broke = none) (more : s.core.m.tail = false)
    (fresh : f.early = false) :
    let r := s.matTo (Nat.max s.core.m.count f.due)
    execFactorColumnBoundary s = .next ((r.colStep e.op f (r.now + r.core.div.mat)).factorNext e.op e.seq (f.col + 1) f.due
      (e.start.getD 0 + e.occ)) := by
  simp only [execFactorColumnBoundary, runs, queue, outside, sound, more, fresh, Option.isSome_none, Bool.false_eq_true, or_self, if_false]

/-- A word that broke down with a cause, before its trap is raised: it leaves the queue, the tile in line for memory, and the registers name its
column and cause. -/
def State.brokenDown (s : State) (f : Factor) (e : MEntry) (l : List MEntry) (code : Nat) : State :=
  let r := s.matTo (Nat.max s.core.m.count (s.breakCount e f))
  (r.updM fun m => { m with factor := none, queue := l, free_ := m.count,
                            results := m.results ++ [(MResult.mk m.count (r.writeBack e.op []) 0 e.seq 0 false e.seq e.go)] }).setFactorRegs
    f.col (fstatSet s.core.m.fstat code 3) s.core.m.grow r.now

/-- A breakdown raises its trap on C, unless a stop has put it among the pending entries (20 R339). -/
theorem execFactorisationBreakdown_broken {code : Nat} (broken : f.broke = some code) :
    execFactorisationBreakdown s = .next (if f.pended then s.brokenDown f e l code
      else (s.brokenDown f e l code).raiseAt (BitVec.ofNat 8 code) 4 (BitVec.ofNat 64 f.col) e.pc.toNat) := by
  simp only [execFactorisationBreakdown, runs, queue, broken]
  rfl

end

/-- What a breakdown leaves, but for its trap (08 R212). -/
theorem State.brokenDown_spec (s : State) (f : Factor) (e : MEntry) (l : List MEntry) (code : Nat) :
    let t := s.brokenDown f e l code
    t.core.m.factor = none ∧ t.core.m.queue = l ∧ t.core.m.fcol = f.col ∧ t.core.m.fstat = fstatSet s.core.m.fstat code 3 ∧ t.mem = s.mem
      ∧ t.core.pend = s.core.pend := by
  dsimp only
  rw [State.brokenDown, State.setFactorRegs_m, State.setFactorRegs_pend, State.setFactorRegs_mem]
  exact ⟨rfl, rfl, rfl, rfl, rfl, rfl⟩

/-- Raising a cause leaves the matrix unit as it is. -/
theorem State.raiseAt_m (s : State) (cause : BitVec 8) (src : BitVec 4) (tval : Word64) (pc : Nat) :
    (s.raiseAt cause src tval pc).core.m = s.core.m := by
  rw [State.raiseAt, State.updCore_core, Core.pendMore]
  split <;> rfl

/-! ### The self-test (08 R199; 23 R374) -/

/-- Fencing a core changes the service record and the READY bits alone, and the core stands among the fenced ones. -/
theorem State.fenceCore_spec (s : State) (d q : Nat) :
    (s.fenceCore d q).core = s.core ∧ (s.fenceCore d q).mem = s.mem ∧ (d, q) ∈ (s.fenceCore d q).serv.fencedCores := by
  have fenced : (d, q) ∈ dedup (s.serv.fencedCores ++ [(d, q)]) := (mem_dedup ..).mpr (List.mem_append_right _ List.mem_cons_self)
  unfold State.fenceCore
  dsimp only
  split
  · exact ⟨rfl, rfl, fenced⟩
  · rw [State.setReady_core, State.setReady_mem, State.setReady_serv]
    exact ⟨rfl, rfl, fenced⟩

/-- A core without a task has none that the failure moves. -/
theorem State.testFailed_idle {s : State} (idle : s.core.task = none) : s.testFailed = s := by
  rw [State.testFailed, Core.taskState, idle]
  rfl

section
variable {s : State} {d : Nat} (tests : s.core.m.testDue = some d)
include tests

/-- A difference told before its cycle, or while the core is frozen, waits (log 45). -/
theorem execSelfTestFailure_waits (early : s.now < s.matTick d ∨ s.core.freeze.isSome = true) (ahead : d ≥ s.matCount s.now)
    (fresh : s.core.m.failing = false) : execSelfTestFailure s = .next (s.updM fun m => { m with failing := true }) := by
  simp only [execSelfTestFailure, tests, fresh, Nat.not_lt.mpr ahead, early, false_and, Bool.not_false, and_self, if_true, if_false]

/-- In its cycle it fences the core. -/
theorem execSelfTestFailure_fences (come : s.matTick d ≤ s.now) (thawed : s.core.freeze = none)
    (told : d ≥ s.matCount s.now ∨ s.core.m.failing = true) :
    execSelfTestFailure s = .next (((((s.matTo (Nat.max s.core.m.count d)).updM fun m =>
      { m with fenced := true, failing := false, testDue := none }).fenceCore s.core.die s.core.q)).testFailed) := by
  have kept : ¬(d < s.matCount s.now ∧ (!s.core.m.failing) = true) := by
    rintro ⟨missed, untold⟩
    rcases told with ahead | failing
    · omega
    · rw [failing] at untold
      exact Bool.false_ne_true untold
  simp only [execSelfTestFailure, tests, if_neg kept, thawed, Nat.not_lt.mpr come, Option.isSome_none, Bool.false_eq_true, or_self, false_and,
    if_false]

end

end Sys2Proof.Machine

/-- Settles O41: the boundary and the breakdown of a factorisation word, and the self-test's failure, each by its lemma. -/
theorem factorisationAndSelfTest : Obligations.FactorisationAndSelfTest := by
  unfold Obligations.FactorisationAndSelfTest
  refine ⟨fun s f e l runs queue => ⟨execFactorColumnBoundary_steps runs queue, fun code broken => ?breakdown⟩,
    fun s d tests => ⟨execSelfTestFailure_waits tests, fun come thawed told idle => ?fence⟩⟩
  case breakdown =>
    obtain ⟨factor, rest, fcol, fstat, mem, pend⟩ := s.brokenDown_spec f e l code
    refine ⟨_, execFactorisationBreakdown_broken runs queue broken, ?_⟩
    generalize s.brokenDown f e l code = t at factor rest fcol fstat mem pend ⊢
    cases f.pended with
    | true => exact ⟨factor, rest, fcol, fstat, mem, fun _ => pend, nofun⟩
    | false =>
      rw [if_neg Bool.false_ne_true, State.raiseAt_m, ← pend]
      exact ⟨factor, rest, fcol, fstat, mem, nofun, fun _ room => ⟨_, State.raiseAt_pend room .., rfl, rfl, rfl, rfl⟩⟩
  case fence =>
    obtain ⟨core, mem, fenced⟩ := State.fenceCore_spec ((s.matTo (Nat.max s.core.m.count d)).updM fun m =>
      { m with fenced := true, failing := false, testDue := none }) s.core.die s.core.q
    refine ⟨_, execSelfTestFailure_fences tests come thawed told, ?_⟩
    rw [State.testFailed_idle (by rw [core]; exact idle), core, mem]
    exact ⟨rfl, rfl, rfl, fenced⟩
end

section
/-! SUPPORT. O37: the transfer words of L and S as one word with an operation, and what it leaves when it enters its unit (09 R215, R218 to R220). -/
open Sys2Proof Sys2Proof.Machine

namespace Sys2Proof.Machine

/-! ### The table of the words (09 R215) -/

/-- The transfer words with their units, operations and registers; `close` is what the register of an advance says. -/
def transferForms (h : Hitch) (hd : BitVec 10) (a b : BitVec 4) (n : BitVec 2) (u : BitVec 4) (bfl com : BitVec 1) (close : Bool) :
    List (XUnit × Instr × XOp × BitVec 4 × BitVec 4) :=
  [(.inb, .tld h hd a b, .tld hd.toNat false, a, b), (.inb, .tldT h hd a b, .tld hd.toNat true, a, b),
    (.outb, .tst h hd a b, .tst hd.toNat, a, b), (.inb, .wopen h hd a b n, .wopen hd.toNat n.toNat false, a, b),
    (.inb, .wopenW h hd a b n, .wopen hd.toNat n.toNat true, a, b), (.outb, .tfar h hd a b, .tfar hd.toNat, a, b),
    (.inb, .tfetch h hd a b, .tfetch hd.toNat, a, b), (.inb, .wadv h a n, .wadv n.toNat false close, a, 0),
    (.inb, .wdrop h a n, .wadv n.toNat true close, a, 0), (.outb, .supd h hd a b u, .supd hd.toNat u.toNat, a, b),
    (.outb, .tsum h hd a b bfl com, .tsum hd.toNat (bfl == 1) (com == 1), a, b), (.outb, .tcopy h hd a b, .tcopy hd.toNat, a, b),
    (.inb, .tpref h hd b, .tpref hd.toNat, 0, b)]

section
variable {s : State} {h : Hitch} {hd : BitVec 10} {a b : BitVec 4} {n : BitVec 2} {u : BitVec 4} {bfl com : BitVec 1}

/-- Each is the one transfer word with its operation (09 R215). -/
theorem exec_transferForm : ∀ e ∈ transferForms h hd a b n u bfl com ((s.core.l.readG a).getLsbD 0),
    exec e.2.1 s = xferWord e.1 h e.2.1 e.2.2.1 e.2.2.2.1 e.2.2.2.2 s := by
  simp only [transferForms, List.forall_mem_cons, List.not_mem_nil, false_implies, implies_true, and_true]
  exact ⟨rfl, rfl, rfl, rfl, rfl, rfl, rfl, rfl, rfl, rfl, rfl, rfl, rfl⟩

/-- A tpref of the table names the word's own handle. -/
theorem transferForms_tpref {close : Bool} : ∀ e ∈ transferForms h hd a b n u bfl com close, ∀ k, e.2.2.1 = .tpref k → k = hd.toNat := by
  simp only [transferForms, List.forall_mem_cons, List.not_mem_nil, false_implies, implies_true, and_true, reduceCtorEq, XOp.tpref.injEq,
    true_and]
  exact fun k named => named.symm

end

/-! ### What the unit takes up (09 R218, R219) -/

/-- The cycle of a word's completion by its unit's clock: the one that R219 fixes, or one a free number of cycles later (log 4). -/
def State.transferDue (s : State) (u : XUnit) (op : XOp) (ga gb : Word64) : Nat × State :=
  match s.fixedDelay op ga gb with
  | some n => ((s.core.unit u).clock + n, s)
  | none => ((s.core.unit u).clock + 1 + Config.transferDelay s.free, { s with free := s.free + 1 })

/-- A tfar counts among those of its task (02 R32). -/
def State.countTfar (s : State) (op : XOp) : State :=
  match op with
  | .tfar _ => s.updTask fun k => { k with nTfar := k.nTfar + 1 }
  | _ => s

/-- The entry of a word in its unit: see `xferWord_enters`. -/
def State.transferEntry (s : State) (u : XUnit) (i : Instr) (op : XOp) (ga gb : Word64) : Xfer :=
  let p := s.core.strand (unitStrand u)
  { op := op, a := ga, b := gb, extra := (match op with | .supd _ _ => s.localBytes ga.toNat 32 | _ => []), moved := 0, st := .queued,
    seq := p.seq + 1, issue := p.count, due := (s.transferDue u op ga gb).1,
    idx := (match op, s.core.task with | .tfar _, some k => k.nTfar | _, _ => 0), pc := p.pc, word := (wordTval i).setWidth 32, todo := none,
    flags := 0, bad := none, after := p.after, phase := (s.myKernel.map (·.phase)).getD 0, plain := s.beforeFcast, back := false }

/-- The state in which a word that entered its unit issues: see `xferWord_enters`. -/
def State.enterUnit (s : State) (u : XUnit) (i : Instr) (op : XOp) (ga gb : Word64) : State :=
  ((s.transferDue u op ga gb).2.countTfar op).updUnit u fun x => { x with queue := x.queue ++ [s.transferEntry u i op ga gb] }

theorem State.transferDue_fixed {s : State} {u : XUnit} {op : XOp} {ga gb : Word64} {d : Nat} (fixed : s.fixedDelay op ga gb = some d) :
    (s.transferDue u op ga gb).1 = (s.core.unit u).clock + d := by
  rw [State.transferDue, fixed]

theorem State.transferDue_frame (s : State) (u : XUnit) (op : XOp) (ga gb : Word64) :
    ∃ n, (s.transferDue u op ga gb).2 = { s with free := n } := by
  unfold State.transferDue
  split <;> exact ⟨_, rfl⟩

theorem State.countTfar_frame (s : State) (op : XOp) : ∃ t, s.countTfar op = { s with core := { s.core with task := t } } := by
  unfold State.countTfar
  split <;> exact ⟨_, rfl⟩

/-- A change of a unit leaves memory, C and the step strands, and is that unit's. -/
theorem State.updUnit_spec (s : State) (u : XUnit) (f : XUnitSt → XUnitSt) :
    (s.updUnit u f).mem = s.mem ∧ (s.updUnit u f).core.c = s.core.c ∧ (∀ k, (s.updUnit u f).core.strand k = s.core.strand k)
      ∧ (s.updUnit u f).core.unit u = f (s.core.unit u) := by
  cases u <;> exact ⟨rfl, rfl, fun k => by cases k <;> rfl, rfl⟩

/-- A word that enters its unit changes neither memory nor C nor any strand, and stands behind the words already there. -/
theorem State.enterUnit_spec (s : State) (u : XUnit) (i : Instr) (op : XOp) (ga gb : Word64) :
    (s.enterUnit u i op ga gb).mem = s.mem ∧ (s.enterUnit u i op ga gb).core.c = s.core.c
      ∧ (∀ k, (s.enterUnit u i op ga gb).core.strand k = s.core.strand k)
      ∧ ((s.enterUnit u i op ga gb).core.unit u).queue = (s.core.unit u).queue ++ [s.transferEntry u i op ga gb] := by
  obtain ⟨n, drawn⟩ := s.transferDue_frame u op ga gb
  obtain ⟨t, counted⟩ := State.countTfar_frame { s with free := n } op
  obtain ⟨mem, c, strands, unit⟩ := State.updUnit_spec { s with free := n, core := { s.core with task := t } } u fun x =>
    { x with queue := x.queue ++ [s.transferEntry u i op ga gb] }
  rw [State.enterUnit, drawn, counted]
  refine ⟨mem, c, fun k => (strands k).trans ?_, (congrArg XUnitSt.queue unit).trans ?_⟩
  · cases k <;> rfl
  · cases u <;> rfl

/-- Sectors filled at their homes change neither memory nor the core (09 R224). -/
theorem State.fillLines_frame (s : State) (pins : List Nat) (pa n : Nat) :
    (s.fillLines pins pa n).mem = s.mem ∧ (s.fillLines pins pa n).core = s.core := by
  unfold State.fillLines
  refine List.foldlRecOn (motive := fun t : State => t.mem = s.mem ∧ t.core = s.core) _ _ ⟨rfl, rfl⟩ fun t same l _ => ?_
  obtain ⟨mem, core⟩ := same
  split
  · exact ⟨mem, core⟩
  · unfold State.setLine
    dsimp only
    split <;> exact ⟨mem, core⟩

theorem State.fillSectors_frame (s : State) (l : List (Nat × Nat)) : (s.fillSectors l).mem = s.mem ∧ (s.fillSectors l).core = s.core := by
  unfold State.fillSectors
  refine List.foldlRecOn (motive := fun t : State => t.mem = s.mem ∧ t.core = s.core) _ _ ⟨rfl, rfl⟩ fun t same p _ => ?_
  obtain ⟨mem, core⟩ := same
  split
  · next pa _ =>
    obtain ⟨filledMem, filledCore⟩ := t.fillLines_frame [] pa p.2
    exact ⟨filledMem.trans mem, filledCore.trans core⟩
  · exact ⟨mem, core⟩

/-! ### The word (09 R218 to R220) -/

section
variable {s : State} {u : XUnit} {h : Hitch} {i : Instr} {op : XOp} {a b : BitVec 4}

/-- The checks of a word at issue over its registers as read (09 R220). -/
def State.transferFault (s : State) (u : XUnit) (i : Instr) (op : XOp) (a b : BitVec 4) : Option (BitVec 8 × Word64) :=
  firstFault (s.issueChecks op ((s.core.strand (unitStrand u)).readG a) ((s.core.strand (unitStrand u)).readG b) (wordTval i))

variable (free : s.stepFree (unitStrand u) h i true [] [] = true)
include free

/-- A full unit: the word waits behind a head held for the splice buffer, and else freezes the core, after a stop only (log 17). -/
theorem xferWord_full (full : unitDepth ≤ (s.core.unit u).queue.length) : xferWord u h i op a b s = .next (
    if (s.core.unit u).held = true then s.stepTick (unitStrand u) (some .verdict)
    else if s.core.c.handler then s.stepTick (unitStrand u) none else s.freezeAt (unitStrand u) (.fullQueue u)) := by
  rw [xferWord, stepWord_free _ free]
  dsimp only
  rw [if_pos full]
  cases (s.core.unit u).held <;> rfl

variable (room : (s.core.unit u).queue.length < unitDepth)
include room

theorem xferWord_faults {f : BitVec 8 × Word64} (fault : s.transferFault u i op a b = some f) :
    xferWord u h i op a b s = .next (s.stepTrap (unitStrand u) f.1 f.2 (s.core.strand (unitStrand u)).pc.toNat) := by
  unfold State.transferFault at fault
  rw [xferWord, stepWord_free _ free]
  dsimp only
  rw [if_neg (Nat.not_le.mpr room), fault]

variable (sound : s.transferFault u i op a b = none)
include sound

/-- A tpref that finds its unit empty completes at issue (09 R219, R224). -/
theorem xferWord_prefetches {k : Nat} (tpref : op = .tpref k) (empty : (s.core.unit u).queue = []) : ∃ v : State,
    xferWord u h i op a b s =
      .next (s.issues v (unitStrand u) h i true [] [] (.atCount (s.core.strand (unitStrand u)).count) .on) ∧ v.mem = s.mem ∧ v.core = s.core := by
  unfold State.transferFault at sound
  subst tpref
  rw [xferWord, stepWord_free _ free]
  dsimp only
  rw [if_neg (Nat.not_le.mpr room), sound, empty]
  refine ⟨_, rfl, ?_⟩
  split
  · exact State.fillSectors_frame _ _
  · exact ⟨rfl, rfl⟩

/-- Any other word enters its unit, and is in flight until it completes there. -/
theorem xferWord_enters (other : (s.core.unit u).queue = [] → ∀ k, op ≠ .tpref k) : xferWord u h i op a b s =
    .next (s.issues (s.enterUnit u i op ((s.core.strand (unitStrand u)).readG a) ((s.core.strand (unitStrand u)).readG b))
      (unitStrand u) h i true [] [] .waiting .on) := by
  unfold State.transferFault at sound
  rw [xferWord, stepWord_free _ free]
  dsimp only
  rw [if_neg (Nat.not_le.mpr room), sound]
  dsimp only
  cases queue : (s.core.unit u).queue with
  | cons e l => cases op <;> rfl
  | nil =>
    cases op with
    | tpref k => exact absurd rfl (other queue k)
    | _ => rfl

end

end Sys2Proof.Machine

/-- Settles O37: every row of the table is the one transfer word, which is full, faults, prefetches or enters its unit. -/
theorem transferWordsEnterTheirUnit : Obligations.TransferWordsEnterTheirUnit := by
  unfold Obligations.TransferWordsEnterTheirUnit
  intro s h hd a b n u bfl com close e form t p x y q fault free
  rw [exec_transferForm e form]
  refine ⟨xferWord_full free, fun room f => xferWord_faults free room, fun empty sound tpref => ?prefetches, fun room sound other => ?enters⟩
  case prefetches => exact xferWord_prefetches free (by rw [show (s.core.unit e.1).queue = [] from empty]; decide) sound tpref empty
  case enters =>
    have notPrefetch : q = [] → ∀ k, e.2.2.1 ≠ .tpref k := fun empty k named =>
      other empty (transferForms_tpref e form k named ▸ named)
    obtain ⟨mem, c, strands, queue⟩ := s.enterUnit_spec e.1 e.2.1 e.2.2.1 x y
    exact ⟨_, xferWord_enters free room sound notPrefetch, mem, c, strands, _, queue, rfl, rfl, rfl, rfl, rfl, rfl, rfl,
      fun d fixed => State.transferDue_fixed fixed⟩
end

section
/-!
SUPPORT. O39: the head of a transfer unit at its completion, a remote read served at its target, and a remote write landing (09 R218, R220,
R231, R232, R236; 17 R300).
-/
open Sys2Proof Sys2Proof.Machine

namespace Sys2Proof.Machine

/-! ### The head of a unit (09 R218, R220, R236) -/

/-- The state in which the head of a unit has its moment: see `execTransferComplete_head`. -/
abbrev State.atHead (s : State) (u : XUnit) (e : Xfer) : State := { s with now := Nat.max s.now (s.unitTick u (s.leavesAt e)) }

/-- The head reaches its completion at its tick, and a freeze of a full unit may end with it. -/
theorem execTransferComplete_head {s : State} {u : XUnit} {e : Xfer} {l : List Xfer} (queue : (s.core.unit u).queue = e :: l) :
    exec (.transferComplete u) s = .next ((s.atHead u e).xferComplete u e).endFull := by
  change execTransferComplete u s = _
  rw [execTransferComplete, queue]

section
variable {s : State} {u : XUnit} {e : Xfer}

theorem State.xferComplete_faulted (st : e.st = .faulted) : s.xferComplete u e = s := by
  simp only [State.xferComplete, st]

theorem State.xferComplete_dropped (st : e.st = .dropped) : s.xferComplete u e = (s.dropped e).xferDone u e 0 := by
  simp only [State.xferComplete, st]

theorem State.xferComplete_departed (st : e.st = .queued) (departed : e.departed = true) : s.xferComplete u e = s.xferDone u e 0 := by
  simp only [State.xferComplete, st, departed, if_true]

/-- A word other than wadv goes on with the effects that it has left; its local writes are made already (09 R236). -/
theorem State.xferComplete_moving (st : e.st = .moving) (noRing : ∀ n d c, e.op ≠ .wadv n d c) :
    s.xferComplete u e = s.xferMove u e { s.planOf e with finish := id, poison := e.bad } (e.todo.getD []) e.flags := by
  rw [State.xferComplete, st]
  cases op : e.op with
  | wadv n d c => exact absurd op (noRing n d c)
  | _ => rfl

section
variable (st : e.st = .queued) (here : e.departed = false)
include st here

theorem State.xferComplete_bad {c : BitVec 8} {a : Nat} (mapped : (s.planOf e).mapped = .bad c a) :
    s.xferComplete u e = s.xferFault u c a := by
  simp only [State.xferComplete, st, here, mapped, Bool.false_eq_true, if_false]

theorem State.xferComplete_walk {a : Nat} {w : Bool} (mapped : (s.planOf e).mapped = .walk a w) :
    s.xferComplete u e = s.unitWalk a w := by
  simp only [State.xferComplete, st, here, mapped, Bool.false_eq_true, if_false]

/-- A word whose plan holds: it moves its bytes, or it is a tfar whose peer is not reachable (21 R352). -/
theorem State.xferComplete_mapped (mapped : (s.planOf e).mapped = .ok) (built : (s.planOf e).late = false) (served : e.unserved = false) :
    s.xferComplete u e =
      if s.cutOff e then s.raiseFault 2 else s.xferMove u e (s.planOf e) (s.planOf e).todo (s.planOf e).flags := by
  simp only [State.xferComplete, st, here, mapped, built, served, Bool.or_self, Bool.false_eq_true, if_false]

end

/-- Outside a full-queue freeze a walk freezes the core (17 R297). -/
theorem State.unitWalk_freezes (thawed : s.core.fullFrozen = false) (a : Nat) (w : Bool) : s.unitWalk a w = s.freezeCore (.walk a w) := by
  rw [State.unitWalk, thawed]

/-- A poisoned atom among the sources of the head that arrives completes it (09 R220). -/
theorem execTransferAtomArrival_source {l : List Xfer} {pa : BitVec 52} {a : Nat × Nat} {b : Nat} (queue : (s.core.unit u).queue = e :: l)
    (poisoned : pa.toNat / 32 ∈ s.poison) (source : ∃ p ∈ s.sources e, a ∈ atomsOf p.1 p.2) (found : s.probe a.1 false = .ok b)
    (same : b / 32 = pa.toNat / 32) : exec (.transferAtomArrival u pa) s = .next (s.xferComplete u e).endFull := by
  obtain ⟨p, span, atom⟩ := source
  change execTransferAtomArrival u pa s = _
  rw [execTransferAtomArrival, queue]
  refine if_pos (Bool.and_eq_true_iff.mpr ⟨?_, List.contains_iff_mem.mpr poisoned⟩)
  exact List.any_eq_true.mpr ⟨p, span, List.any_eq_true.mpr ⟨a, atom, by rw [found]; exact beq_iff_eq.mpr same⟩⟩

end

/-! ### Remote reads (09 R231; 21 R352) -/

section
variable {s : State} {e : Xfer} {l : List Xfer} {h : Nat} {H : Handle} {k : Kernel} (queue : s.core.inb.queue = e :: l)
  (op : e.op = .tfetch h) (fresh : e.extra = []) (handle : s.handle? h = some H) (kernel : s.myKernel = some k)
include queue op fresh handle kernel

/-- A remote read that is still to be served, by what its target's place says. -/
theorem execRemoteReadRequest_tfetch : exec .remoteReadRequest s =
    if farNode e.b = 0 then
      match k.vc? (farDie e.b) (farCore e.b) with
      | none => .next s
      | some v => .next (s.updXHead .inb fun x =>
          { x with extra := H.cleanImage (Memory.readBytes s.mem (windowBase v.die v.q + farOff e.b) H.imageBytes) })
    else .next (State.updXHead { s with free := s.free + 1 } .inb fun x =>
      { x with extra := H.cleanImage ((List.range H.imageBytes).map (Config.peerByte s.free)) }) := by
  have unserved : e.unserved = true := by rw [Xfer.unserved, op, fresh]; rfl
  change execRemoteReadRequest s = _
  rw [execRemoteReadRequest, queue]
  dsimp only
  rw [unserved, op]
  dsimp only
  rw [handle, kernel]
  rfl

end

/-! ### What a change of a virtual core leaves (02 R31) -/

/-- The first entry that a test accepts is found again after a change that keeps it accepted. -/
theorem find?_updFirst {α : Type} {p : α → Bool} {f : α → α} {l : List α} {a : α} (found : l.find? p = some a) (keeps : p (f a) = true) :
    (updFirst p f l).find? p = some (f a) := by
  induction l with
  | nil => cases found
  | cons b l ih =>
    unfold updFirst
    by_cases accepted : p b = true
    · rw [List.find?_cons_of_pos accepted] at found
      cases found
      rw [if_pos accepted, List.find?_cons_of_pos keeps]
    · rw [List.find?_cons_of_neg accepted] at found
      rw [if_neg accepted, List.find?_cons_of_neg accepted, ih found]

theorem State.kernel?_updKernel {s : State} {kid : Nat} {f : Kernel → Kernel} {k : Kernel} (kernel : s.kernel? kid = some k)
    (keeps : (f k).kid = k.kid) : (s.updKernel kid f).kernel? kid = some (f k) := by
  have named := List.find?_some kernel
  exact find?_updFirst (p := fun k : Kernel => k.kid == kid) kernel (by rw [keeps]; exact named)

theorem Kernel.vc?_updVc {k : Kernel} {vdie vcore : Nat} {f : VCore → VCore} {v : VCore} (place : k.vc? vdie vcore = some v)
    (keeps : (f v).vdie = v.vdie ∧ (f v).vcore = v.vcore) : (k.updVc vdie vcore f).vc? vdie vcore = some (f v) := by
  have named := List.find?_some place
  exact find?_updFirst (p := fun v : VCore => v.vdie == vdie && v.vcore == vcore) place (by rw [keeps.1, keeps.2]; exact named)

/-- A change that reaches the cleat is one of the virtual core, but for the tick at which the dispatcher hears of it (log 55). -/
theorem State.updCleat_eq {s : State} {kid vdie vcore : Nat} {k : Kernel} {v : VCore} (kernel : s.kernel? kid = some k)
    (place : k.vc? vdie vcore = some v) (f : VCore → VCore) : ∃ n g, (∀ v, ∃ tick, g v = { f v with heard := tick }) ∧
      s.updCleat kid vdie vcore f = State.updKernel { s with free := n } kid fun k => k.updVc vdie vcore g := by
  simp only [State.updCleat, kernel, place]
  split
  · unfold State.noticeAt
    split <;> exact ⟨_, _, fun v => ⟨_, rfl⟩, rfl⟩
  · exact ⟨s.free, f, fun v => ⟨_, rfl⟩, rfl⟩

theorem VCore.land_place (v : VCore) (id : Ident) : (v.land id).vdie = v.vdie ∧ (v.land id).vcore = v.vcore := by
  unfold VCore.land
  split <;> exact ⟨rfl, rfl⟩

/-- An arrival counted at its target (09 R232). -/
theorem State.updCleat_lands {s : State} {kid vdie vcore : Nat} {k : Kernel} {v : VCore} (kernel : s.kernel? kid = some k)
    (place : k.vc? vdie vcore = some v) (id : Ident) :
    (∃ n d, s.updCleat kid vdie vcore (fun v => v.land id) = { s with free := n, disp := d })
      ∧ ∃ x w, (s.updCleat kid vdie vcore fun v => v.land id).kernel? kid = some x ∧ x.vc? vdie vcore = some w
        ∧ w.landed = (v.land id).landed ∧ w.landedCount = (v.land id).landedCount := by
  obtain ⟨n, g, heard, changed⟩ := State.updCleat_eq kernel place fun v => v.land id
  obtain ⟨tick, same⟩ := heard v
  obtain ⟨die, core⟩ := v.land_place id
  rw [changed]
  refine ⟨⟨n, _, rfl⟩, k.updVc vdie vcore g, g v, State.kernel?_updKernel (s := { s with free := n }) kernel rfl,
    Kernel.vc?_updVc place ?_, ?_, ?_⟩
  · rw [same]
    exact ⟨die, core⟩
  · rw [same]
  · rw [same]

/-! ### The bytes that land (09 R232; 11 R256, R263) -/

/-- An offset of an enabled core's window has the core's place (11 R256). -/
theorem windowOf_windowBase {die q off : Nat} (d : die < 24) (c : q < 32) (o : off < 2 ^ 32) :
    windowOf (windowBase die q + off) = some (die, q, off) := by
  unfold windowOf windowBase windowSpace
  rw [if_pos (by omega)]
  congr 2
  · omega
  · exact Prod.ext (by omega) (by omega)

/-- Nothing but cores and bytes of memory differs. -/
def OnlyCores (s t : State) : Prop := t = { s with core := t.core, others := t.others, mem := t.mem }

theorem OnlyCores.trans {s t u : State} (h : OnlyCores s t) (k : OnlyCores t u) : OnlyCores s u := by
  rw [OnlyCores] at *
  rw [k, h]

theorem OnlyCores.putCore (s : State) (c : Core) : OnlyCores s (s.putCore c) := by
  unfold State.putCore
  split
  · exact rfl
  · split <;> exact rfl

theorem OnlyCores.focus (s : State) (die q : Nat) : OnlyCores s (s.focus die q) := by
  unfold State.focus
  split <;> exact rfl

theorem State.focus_mem (s : State) (die q : Nat) : (s.focus die q).mem = s.mem := by
  unfold State.focus
  split <;> rfl

theorem OnlyCores.write (s : State) (m : List Host.Cell) : OnlyCores s { s with mem := m } := rfl

/-- Bytes written into a window are written there, and change nothing else but cores. -/
theorem State.poke_window (s : State) (own : Bool) {pa die q off : Nat} (window : windowOf pa = some (die, q, off)) (bs : List (Byte × Byte)) :
    OnlyCores s (s.poke own pa bs) ∧ (s.poke own pa bs).mem = Memory.writeMasked s.mem pa bs := by
  unfold State.poke
  rw [window]
  exact ⟨(OnlyCores.putCore s _).trans (OnlyCores.write _ _), rfl⟩

/-- Bytes written into a core's window by that core, which is in focus then, or by another. -/
def State.pokeWindow (s : State) (own : Bool) (die q pa : Nat) (bs : List (Byte × Byte)) : State :=
  if own then s.onCore die q fun s => s.poke own pa bs else s.poke own pa bs

theorem State.pokeWindow_spec (s : State) (own : Bool) {pa die q off : Nat} (window : windowOf pa = some (die, q, off))
    (bs : List (Byte × Byte)) : OnlyCores s (s.pokeWindow own die q pa bs)
      ∧ (s.pokeWindow own die q pa bs).mem = Memory.writeMasked s.mem pa bs := by
  cases own with
  | false =>
    rw [State.pokeWindow, if_neg Bool.false_ne_true]
    exact s.poke_window false window bs
  | true =>
    obtain ⟨only, mem⟩ := (s.focus die q).poke_window true window bs
    rw [State.pokeWindow, if_pos rfl, State.onCore]
    refine ⟨((OnlyCores.focus s die q).trans only).trans (OnlyCores.focus _ _ _), ?_⟩
    rw [State.focus_mem, mem, State.focus_mem]

/-- A remote write lands in the core that sent it, for the task that sent it (02 R27). -/
def State.landsOwn (s : State) (f : Flying) (v : VCore) : Bool :=
  f.sender == (v.die, v.q) && ((s.coreAt v.die v.q).task.map fun t => t.kid == f.kid && t.vdie == f.vdie && t.vcore == f.vcore).getD false

section
variable {s : State} {f : Flying} {k : Kernel} {v : VCore} (kernel : s.kernel? f.kid = some k) (place : k.vc? f.vdie f.vcore = some v)
include kernel place

/-- A remote write lands by its bytes, and then by the arrival that it counts. -/
theorem State.land_eq : s.land f =
    let t := s.pokeWindow (s.landsOwn f v) v.die v.q (windowBase v.die v.q + f.off) f.bytes
    match f.ident with
    | none => t
    | some id => t.updCleat f.kid f.vdie f.vcore fun v => v.land id := by
  rw [State.land, kernel]
  dsimp only
  rw [place]
  rfl

variable (die : v.die < 24) (core : v.q < 32) (off : f.off < 2 ^ 32)
include die core off

/-- What a landing leaves, and what it brings (09 R232; 11 R263; 17 R300). -/
theorem State.land_spec : (s.land f).now = s.now ∧ (s.land f).links = s.links
    ∧ (s.land f).mem = Memory.writeMasked s.mem (windowBase v.die v.q + f.off) f.bytes ∧ (f.ident = none → (s.land f).disp = s.disp)
    ∧ ∀ id, f.ident = some id → ∃ x w, (s.land f).kernel? f.kid = some x ∧ x.vc? f.vdie f.vcore = some w
        ∧ w.landed = (v.land id).landed ∧ w.landedCount = (v.land id).landedCount := by
  obtain ⟨only, mem⟩ := s.pokeWindow_spec (s.landsOwn f v) (windowOf_windowBase die core off) f.bytes
  rw [State.land_eq kernel place]
  generalize s.pokeWindow (s.landsOwn f v) v.die v.q (windowBase v.die v.q + f.off) f.bytes = t at only mem ⊢
  have now : t.now = s.now := by rw [only]
  have links : t.links = s.links := by rw [only]
  have disp : t.disp = s.disp := by rw [only]
  cases ident : f.ident with
  | none => exact ⟨now, links, mem, fun _ => disp, nofun⟩
  | some id =>
    have known : t.kernel? f.kid = some k := by rw [State.kernel?, disp]; exact kernel
    obtain ⟨⟨n, d, changed⟩, counted⟩ := State.updCleat_lands known place id
    dsimp only
    refine ⟨?_, ?_, ?_, nofun, ?_⟩
    · rw [changed]; exact now
    · rw [changed]; exact links
    · rw [changed]; exact mem
    · rintro _ ⟨⟩; exact counted

end

end Sys2Proof.Machine

/-- Settles O39: the head by the branches of its completion, a remote read by its target, a remote write by its landing. -/
theorem transfersComplete : Obligations.TransfersComplete := by
  unfold Obligations.TransfersComplete
  refine ⟨fun s u e l queue => ?head, fun s e l h H k queue op fresh handle kernel => ?read,
    fun s f rest k v first kernel place die core off => ?landing⟩
  case head =>
    intro now p i
    rw [execTransferComplete_head queue]
    refine ⟨fun st here => ⟨fun mapped built served reached => ?moves, fun c a mapped => ?faults, fun a w mapped => ⟨?walks, ?freezes⟩,
        fun mapped built served away => ?stays⟩,
      fun st departed => by rw [State.xferComplete_departed st departed], fun st => by rw [State.xferComplete_faulted st],
      fun st => by rw [State.xferComplete_dropped st], fun st noRing => by rw [State.xferComplete_moving st noRing],
      fun pa a b poisoned source found same => execTransferAtomArrival_source queue poisoned source found same⟩
    case moves => rw [State.xferComplete_mapped st here mapped built served, reached, if_neg Bool.false_ne_true]
    case stays => rw [State.xferComplete_mapped st here mapped built served, away, if_pos rfl]
    case faults => rw [State.xferComplete_bad st here mapped]
    case walks => rw [State.xferComplete_walk st here mapped]
    case freezes => exact fun thawed => State.unitWalk_freezes thawed a w
  case read =>
    rw [execRemoteReadRequest_tfetch queue op fresh handle kernel]
    refine ⟨fun v own place => ?_, fun peer => if_neg peer⟩
    rw [if_pos own, place]
  case landing =>
    obtain ⟨now, links, mem, disp, counted⟩ := State.land_spec
      (s := { s with now := Nat.max s.now f.lands, links := { s.links with flying := rest } }) kernel place die core off
    refine ⟨_, ?_, now, congrArg Links.flying links, mem, disp, counted⟩
    change execTfarLanding s = _
    rw [execTfarLanding, first]
end

section
/-!
SUPPORT. O46: fcast past its checks, the forecast that it declares, fverd, and the events of predictions, publications and verdicts
(10 R239 to R255).
-/
open Sys2Proof Sys2Proof.Machine

namespace Sys2Proof.Machine

/-! ### The fields of fcast's operand (10 R243) -/

theorem field_low (x : Word64) : field x.toNat 0 32 = x.toNat % 2 ^ 32 := by
  rw [field, pow_zero, Nat.div_one]

theorem field_high (x : Word64) : field x.toNat 32 32 = x.toNat / 2 ^ 32 :=
  Nat.mod_eq_of_lt (Nat.div_lt_of_lt_mul x.isLt)

/-! ### What fcast declares (10 R244, R251, R252) -/

/-- The task has declared its forecast's handle (10 R244). -/
def State.declares (s : State) (h : Nat) : State := s.updTask fun t => { t with declared := some h }

/-- The forecast of a slot that an earlier run of this task declared in the superstep (10 R251, R252). -/
def VCore.earlier (v : VCore) (slot : Nat) : Option Forecast := v.forecast.bind fun f => if f.slot = slot then some f else none

/-- The version of a forecast has passed. -/
def Forecast.hasPassed (f : Forecast) : Bool :=
  match f.verdict with
  | .passed _ _ => true
  | _ => false

/-- An fcast of the slot completes at once: in a rerun, or where the version has passed already (10 R251, R252). -/
def VCore.settled (v : VCore) (slot : Nat) : Bool := v.rerun.isSome || (v.earlier slot).any Forecast.hasPassed

/-- A rerun has its verdict (10 R252). -/
theorem VCore.settled_rerun {v : VCore} {slot : Nat} (rerun : v.rerun ≠ none) : v.settled slot = true := by
  rw [VCore.settled, Option.isSome_iff_ne_none.mpr rerun, Bool.true_or]

/-- So has a slot whose version has passed (10 R251). -/
theorem VCore.settled_passed {v : VCore} {slot : Nat} {f : Forecast} {e x : Nat} (earlier : v.forecast = some f) (same : f.slot = slot)
    (passed : f.verdict = .passed e x) : v.settled slot = true := by
  have found : v.earlier slot = some f := by rw [VCore.earlier, earlier]; exact if_pos same
  rw [VCore.settled, found, Option.any_some, Forecast.hasPassed, passed, Bool.or_true]

/-- A task that has neither been squashed nor judged has none yet. -/
theorem VCore.settled_first {v : VCore} {slot : Nat} (fresh : v.rerun = none) (first : v.forecast = none) : v.settled slot = false := by
  rw [VCore.settled, fresh, VCore.earlier, first]
  rfl

/-- The forecast as fcast declares it (10 R242 to R244). -/
def State.castForecast (s : State) (v : VCore) (slot h kind group : Nat) (x : Word64) : Forecast :=
  { slot := slot, h := h, kind := kind, group := group, ftola := x.toNat % 2 ^ 32, ftolr := x.toNat / 2 ^ 32,
    delta := if s.core.csr.fdamp = 0x80000000 then 0 else s.core.csr.fdamp.toNat, built := none,
    judged := (v.earlier slot).bind (·.judged), verdict := .pending, since := s.cycleEnd .c }

/-- The task is forecasting, and its words under way were issued before (10 R244, R245). -/
def State.pends (s : State) (k : Kernel) (h : Nat) (f : Forecast) : State :=
  (s.declares h).issuedBefore.updTask fun t => { t with forecast := some ((s.declares h).judge k f) }

/-- A verdict on its way is all that the comparator adds to a forecast (10 R249). -/
theorem State.judge_only (s : State) (k : Kernel) (f : Forecast) : s.judge k f = { f with judged := (s.judge k f).judged } := by
  unfold State.judge
  split <;> rfl

/-- The forecast stands pending beside its declaration, and C and memory are as before. -/
theorem State.pends_spec {s : State} {t : Task} (task : s.core.task = some t) (k : Kernel) (h : Nat) (f : Forecast) :
    CNext s.core.c (s.pends k h f).cDone.core.c ∧ (s.pends k h f).cDone.mem = s.mem
      ∧ (s.pends k h f).cDone.core.task.map (·.declared) = some (some h)
      ∧ (s.pends k h f).cDone.core.task.bind (·.forecast) = some { f with judged := ((s.declares h).judge k f).judged } := by
  have held : (s.pends k h f).cDone.core.task = some { t with declared := some h, forecast := some ((s.declares h).judge k f) } := by
    rw [State.cDone_core]
    change ((s.core.task.map _).map _) = _
    rw [task]
    rfl
  exact ⟨State.cDone_from rfl, rfl, by rw [held]; rfl, by rw [held, ← State.judge_only]; rfl⟩

/-! ### fcast (10 R242 to R244, R251, R252) -/

section
variable {s : State} {t : Task} {k : Kernel} {v : VCore} {a : BitVec 5} {h : BitVec 10} {kind : BitVec 2} {g : BitVec 3}
variable (context : s.core.taskContext = true) (task : s.core.task = some t) (kernel : s.myKernel = some k) (core : s.myVc = some v)
  (free : s.cFree (.fcast a h kind g) [a] = true)
include context task kernel core free

/-- A handle that names no slot has no forecast (10 R243). -/
theorem execFcast_noSlot (absent : (k.handle? h.toNat).bind (·.fslot) = none) :
    execFcast a h kind g s = .next (s.cTrap 0x07 (BitVec.ofNat 64 h.toNat)) := by
  rw [execFcast, cWord_free _ free, cIf_pos context]
  simp only [task, kernel, core, absent]
  rfl

/-- fcast of a handle with a slot: its checks in their order, and then the declaration. -/
theorem execFcast_slot {slot : Nat} (names : (k.handle? h.toNat).bind (·.fslot) = some slot) :
    execFcast a h kind g s = .next (
      if tolOk ((s.core.c.read a).toNat / 2 ^ 32) = false ∨ tolOk ((s.core.c.read a).toNat % 2 ^ 32) = false then
        s.cTrap 0x07 (s.core.c.read a)
      else if kind = 2 ∧ deltaOk s.core.csr.fdamp.toNat = false then s.cTrap 0x07 (s.core.csr.fdamp.zeroExtend 64)
      else if t.declared ≠ none then s.cTrap 0x13 (BitVec.ofNat 64 h.toNat)
      else if t.pinned then s.overflow
      else if v.settled slot then (s.declares h.toNat).cDone
      else (s.pends k h.toNat (s.castForecast v slot h.toNat kind.toNat g.toNat (s.core.c.read a))).cDone) := by
  rw [execFcast, cWord_free _ free, cIf_pos context]
  simp only [task, kernel, core, names, field_low, field_high, Bool.or_eq_true, Bool.not_eq_true', Option.isSome_iff_ne_none]
  refine congrArg _ (ite_congr rfl (fun _ => rfl) fun _ => ite_congr rfl (fun _ => rfl) fun _ => ite_congr rfl (fun _ => rfl) fun _ =>
    ite_congr rfl (fun _ => rfl) fun _ => ?_)
  cases rerun : v.rerun with
  | some r => rw [VCore.settled, rerun]; rfl
  | none =>
    simp only [VCore.settled, rerun, State.castForecast, VCore.earlier]
    cases v.forecast.bind fun f => if f.slot = slot then some f else none with
    | none => rfl
    | some f => cases verdict : f.verdict <;> simp only [Option.map_some, Option.any_some, Forecast.hasPassed, verdict] <;> rfl

end

/-! ### fverd (10 R255; 18 R307) -/

/-- fverd of a running task, whose handle is in the table or is not (log 67). -/
theorem execFverd_free {s : State} {t : Task} {d : BitVec 5} {h : BitVec 10} {item : BitVec 2} (context : s.core.taskContext = true)
    (task : s.core.task = some t) (free : s.cFree (.fverd d h item) [] = true) :
    execFverd d h item s = .next (
      if (s.handle? h.toNat).isNone then s.cTrap 0x07 ((encode (.fverd d h item)).zeroExtend 64)
      else s.result d (BitVec.ofNat 64 (s.verdictItem h.toNat item.toNat)) 1) := by
  rw [execFverd, cWord_free _ free, cIf_pos context, task]
  rfl

/-! ### Predictions, publications, verdicts, orphans (10 R239 to R254) -/

/-- A prediction not built yet is built from the history (10 R240, R245). -/
theorem execPredictionReady_builds {s : State} {k : Kernel} {f : Forecast} (forecasts : s.forecasting = some f) (kernel : s.myKernel = some k)
    (unbuilt : f.built = none) :
    execPredictionReady s = .next (s.updTask fun t => { t with forecast := some { f with built := some (k.predicted f) } }) := by
  rw [execPredictionReady, forecasts, kernel]
  dsimp only
  rw [unbuilt]
  rfl

/-- An owed publication whose pages are present is made (10 R239). -/
theorem execVersionPublication_publishes {s : State} {k : Kernel} {n : Nat} {H : Handle} (owed : s.nextOwed = some (k, n, H, none)) :
    execVersionPublication s = .next (s.publish k n H) := by
  rw [execVersionPublication, owed]

/-- The request for a page of a slot's footprint noted, so that it is sent once (10 R239). -/
def Kernel.notesRequest (k : Kernel) (n va : Nat) : Kernel :=
  { k with slots := k.slots.zipIdx.map fun p => if p.2 = n then { p.1 with asked := p.1.asked ++ [va / 65536] } else p.1 }

/-- One whose page is absent asks for it (10 R239). -/
theorem execVersionPublication_asks {s : State} {k : Kernel} {n : Nat} {H : Handle} {va : Nat} (owed : s.nextOwed = some (k, n, H, some va)) :
    execVersionPublication s = .next ((s.pageRequest k.ctx va false false).updKernel k.kid fun k => k.notesRequest n va) := by
  rw [execVersionPublication, owed]
  rfl

/-- The verdict that arrives first takes effect at its tick: a passing one makes the task ordinary (10 R250). -/
theorem execVerdictArrival_passes {s : State} {k : Kernel} {v : VCore} {f : Forecast} {e x tick : Nat}
    (first : s.firstVerdict = some (k, v, f, .passed e x, tick)) :
    execVerdictArrival s = .next (State.passVerdict { s with now := Nat.max s.now tick } k v f e x) := by
  rw [execVerdictArrival, first]

/-- A failing one squashes the task with its cascade (10 R250, R253). -/
theorem execVerdictArrival_fails {s : State} {k : Kernel} {v : VCore} {f : Forecast} {why e x tick : Nat}
    (first : s.firstVerdict = some (k, v, f, .failed why e x, tick)) :
    execVerdictArrival s = .next (State.squashPrimary { s with now := Nat.max s.now tick } k v f why e x) := by
  rw [execVerdictArrival, first]

/-- An orphan squashed without comparison, if no earlier one's cascade squashed it (10 R248). -/
def State.squashOrphan (k : Kernel) (s : State) (p : VCore × Forecast) : State :=
  match s.pendingOf k.kid p.1 with
  | some f => s.squashPrimary k p.1 f 2 0 0
  | none => s

/-- Every orphan of the kernel resolves as failing, in turn (10 R248). -/
theorem execOrphanForecast_kernel {s : State} {kid : BitVec 16} {k : Kernel} (kernel : s.kernel? kid.toNat = some k) :
    execOrphanForecast kid s = .next ((s.orphans k).foldl (State.squashOrphan k) s) := by
  rw [execOrphanForecast, kernel]
  rfl

end Sys2Proof.Machine

/-- Settles O46: fcast by the order of its checks (`execFcast_slot`) and what a declaration leaves, fverd by its table, each event by what it
finds. -/
theorem forecastsGoOn : Obligations.ForecastsGoOn := by
  unfold Obligations.ForecastsGoOn
  refine ⟨fun s d a h kind item g t k v context task kernel core => ?_, fun s kid k =>
    ⟨fun f => execPredictionReady_builds, fun n H => execVersionPublication_publishes, fun n H va => execVersionPublication_asks,
      fun v f e x tick => execVerdictArrival_passes, fun v f why e x tick => execVerdictArrival_fails, execOrphanForecast_kernel⟩⟩
  dsimp only
  refine ⟨execFcast_noSlot context task kernel core, fun slot names free => ?cast, fun free found => ?reads, fun free absent => ?absent⟩
  case cast =>
    have runs := execFcast_slot context task kernel core free names
    refine ⟨fun bad => runs.trans (congrArg _ (if_pos bad)), fun high low => ?_⟩
    rw [if_neg (by rw [high, low]; decide)] at runs
    refine ⟨fun damped bad => runs.trans (congrArg _ (if_pos ⟨damped, bad⟩)), fun damping => ?_⟩
    rw [if_neg (fun bad => Bool.false_ne_true (bad.2.symm.trans (damping bad.1)))] at runs
    refine ⟨fun twice => runs.trans (congrArg _ (if_pos twice)), fun once pinned => ?pinned, fun once loose rerun => ?rerun,
      fun f e y once loose fresh earlier same passed => ?passed, fun once loose fresh first => ?pends⟩
    all_goals rw [if_neg (not_not_intro once)] at runs
    case pinned => exact runs.trans (congrArg _ (if_pos pinned))
    all_goals rw [if_neg (by rw [loose]; decide)] at runs
    case rerun =>
      exact ⟨_, runs.trans (congrArg _ (if_pos (VCore.settled_rerun rerun))), State.cDone_spec _⟩
    case passed =>
      exact ⟨_, runs.trans (congrArg _ (if_pos (VCore.settled_passed earlier same passed))), State.cDone_spec _⟩
    case pends =>
      obtain ⟨next, mem, declared, forecast⟩ := State.pends_spec task k h.toNat
        (s.castForecast v slot h.toNat kind.toNat g.toNat (s.core.c.read a))
      rw [if_neg (by rw [VCore.settled_first fresh first]; decide)] at runs
      exact ⟨_, _, runs, next, mem, declared, forecast, rfl, rfl, rfl, rfl, rfl, rfl, rfl, rfl⟩
  case reads =>
    exact ⟨_, (execFverd_free context task free).trans (congrArg _ (if_neg (by rw [Option.isNone_eq_false_iff.mpr found]; decide))),
      State.result_spec s d _ 1⟩
  case absent =>
    exact (execFverd_free context task free).trans (congrArg _ (if_pos (by rw [absent]; rfl)))

end

section
/-!
SUPPORT. O58: every operation of the machine keeps memory in its canonical form (log 2; 11 R256). Memory changes in few places: a store's bytes at
their home (`State.poke`), the undo log and the carry set of a task, an image put back, and power good; `Laws/Memory.lean` says of each that it keeps
the form. Here stands one rule for each operation on the state, named after it, so that the proof about an operation repeats its own text:
`h.setLine.updCore` is about `(s.setLine x).updCore f`.
-/
open Sys2Proof Sys2Proof.Machine

namespace Sys2Proof.Machine

namespace State.MemCanonical
variable {s : State}

/-! ### Branches, loops, and updates of everything else -/

theorem of_mem {t : State} (h : s.MemCanonical) (same : t.mem = s.mem) : t.MemCanonical := by
  unfold State.MemCanonical
  rw [same]
  exact h

theorem ite {p : Prop} [Decidable p] {t u : State} (ht : t.MemCanonical) (hu : u.MemCanonical) : (if p then t else u).MemCanonical := by
  split
  · exact ht
  · exact hu

/-- A loop keeps the form if each turn of it does. -/
theorem foldl {α : Type} {f : State → α → State} {l : List α} (h : s.MemCanonical) (turn : ∀ t a, t.MemCanonical → (f t a).MemCanonical) :
    (l.foldl f s).MemCanonical := by
  induction l generalizing s with
  | nil => exact h
  | cons a l ih => exact ih (turn s a h)

/-! ### The core in focus and its strands -/

section
variable {d : BitVec 5} {v : Word64} {n va pa : Nat} {t : StepStrand}

theorem updCore (h : s.MemCanonical) {f : Core → Core} : (s.updCore f).MemCanonical := h
theorem updC (h : s.MemCanonical) {f : CStrand → CStrand} : (s.updC f).MemCanonical := h
theorem updV (h : s.MemCanonical) {f : Vec → Vec} : (s.updV f).MemCanonical := h
theorem updM (h : s.MemCanonical) {f : Matrix → Matrix} : (s.updM f).MemCanonical := h
theorem updTask (h : s.MemCanonical) {f : Task → Task} : (s.updTask f).MemCanonical := h
theorem updStep (h : s.MemCanonical) {f : Step → Step} : (s.updStep t f).MemCanonical := h
theorem orFlags (h : s.MemCanonical) {f : Flags} : (s.orFlags t f).MemCanonical := h
theorem beginCycle (h : s.MemCanonical) : (s.beginCycle t).MemCanonical := h
theorem cTick (h : s.MemCanonical) {w : Option WaitPlace} : (s.cTick w).MemCanonical := h
theorem cDone (h : s.MemCanonical) : s.cDone.MemCanonical := h
theorem setS (h : s.MemCanonical) : (s.setS d v n).MemCanonical := h
theorem result (h : s.MemCanonical) : (s.result d v n).MemCanonical := h
theorem resultLate (h : s.MemCanonical) {line : Option GLine} : (s.resultLate d v line va pa).MemCanonical := h
theorem freezeCore (h : s.MemCanonical) {f : Freeze} : (s.freezeCore f).MemCanonical := h
theorem setFactorRegs (h : s.MemCanonical) {fcol since : Nat} {fstat grow : Word64} : (s.setFactorRegs fcol fstat grow since).MemCanonical := h
theorem raiseAt (h : s.MemCanonical) {cause : BitVec 8} {src : BitVec 4} : (s.raiseAt cause src v n).MemCanonical := h
theorem matSync (h : s.MemCanonical) : (s.matSync n).MemCanonical := h
theorem unfreeze (h : s.MemCanonical) : s.unfreeze.MemCanonical := h
theorem popFormat (h : s.MemCanonical) : (s.popFormat n).MemCanonical := h
theorem addNest (h : s.MemCanonical) {m : Nest} {seq : Option Nat} {go entry : Nat} {after : After} {pc word : Word64} :
    (s.addNest m seq go after pc word entry).MemCanonical := h
theorem matTo (h : s.MemCanonical) : (s.matTo n).MemCanonical := h
theorem emptyNest (h : s.MemCanonical) {e : MEntry} : (s.emptyNest e).MemCanonical := h
theorem seeAll (h : s.MemCanonical) : s.seeAll.MemCanonical := h
theorem setRing (h : s.MemCanonical) {r : Ring} : (s.setRing n r).MemCanonical := h

theorem deliverIrq (h : s.MemCanonical) : s.deliverIrq.MemCanonical := by
  unfold State.deliverIrq
  split <;> exact h
end

/-! ### The module's kernels and links -/

section
variable {n : Nat}

theorem at_ (h : s.MemCanonical) : (s.at_ n).MemCanonical := h
theorem fresh (h : s.MemCanonical) : s.fresh.2.MemCanonical := h
theorem updKernel (h : s.MemCanonical) {f : Kernel → Kernel} : (s.updKernel n f).MemCanonical := h
theorem updPort (h : s.MemCanonical) {p : Fin 18} {f : Port → Port} : (s.updPort p f).MemCanonical := h
theorem pageRequest (h : s.MemCanonical) {ctx : BitVec 16} {write pinned : Bool} : (s.pageRequest ctx n write pinned).MemCanonical := h
theorem hostDone (h : s.MemCanonical) {answer : Option (List Byte)} : (s.hostDone answer).MemCanonical := h
theorem deliverWrite (h : s.MemCanonical) {k : Kernel} {w : PortWrite} : (s.deliverWrite k n w).MemCanonical := h
theorem updSegment (h : s.MemCanonical) {g : Segment} {f : Segment → Segment} : (s.updSegment g f).MemCanonical := h
theorem pump (h : s.MemCanonical) {p : Fin 18} : (s.pump p).MemCanonical := h
end

/-! ### Cores and their places (01 R13) -/

section
variable {die q : Nat}

theorem focus (h : s.MemCanonical) : (s.focus die q).MemCanonical := .ite h h

theorem putCore (h : s.MemCanonical) {c : Core} : (s.putCore c).MemCanonical := .ite h (.ite h h)

theorem updCoreAt (h : s.MemCanonical) {f : Core → Core} : (s.updCoreAt die q f).MemCanonical := h.putCore

theorem onCore (h : s.MemCanonical) {f : State → State} (keeps : ∀ t, t.MemCanonical → (f t).MemCanonical) : (s.onCore die q f).MemCanonical :=
  (keeps _ h.focus).focus

theorem bring (h : s.MemCanonical) {n : Nat} : (s.bring n).MemCanonical := by
  unfold State.bring
  split
  · exact h
  · split <;> exact h

theorem rotate (h : s.MemCanonical) : s.rotate.MemCanonical := by
  unfold State.rotate
  split
  · exact h
  · exact h.bring

theorem updMyVc (h : s.MemCanonical) {f : VCore → VCore} : (s.updMyVc f).MemCanonical := by
  unfold State.updMyVc
  split <;> exact h

theorem updUnit (h : s.MemCanonical) {u : XUnit} {f : XUnitSt → XUnitSt} : (s.updUnit u f).MemCanonical := by cases u <;> exact h
end

/-! ### The lines of the caches (11 R266 to R273) -/

section
variable {pins : List Nat} {pa n va : Nat}

theorem setLine (h : s.MemCanonical) {x : Line} : (s.setLine x).MemCanonical := by
  unfold State.setLine
  dsimp only
  split <;> exact h

theorem keepLine (h : s.MemCanonical) {g : GLine} : (s.keepLine g).MemCanonical := by
  unfold State.keepLine
  dsimp only
  split <;> exact h

theorem homeRead (h : s.MemCanonical) : (s.homeRead pa n).MemCanonical := by
  unfold State.homeRead
  exact h.foldl fun _ _ ht => .ite ht ht.setLine.updCore

theorem lease (h : s.MemCanonical) : (s.lease n).1.MemCanonical := h.homeRead.setLine

theorem fillLines (h : s.MemCanonical) : (s.fillLines pins pa n).MemCanonical := h.of_mem (s.fillLines_frame pins pa n).1

theorem oneStamp (h : s.MemCanonical) {l : List Effect} : (s.oneStamp l).MemCanonical := .ite h h

theorem overPages (h : s.MemCanonical) {ctx : BitVec 16} {f : State → Nat → Nat → State} {l : List (Nat × Nat)}
    (keeps : ∀ t pa n, t.MemCanonical → (f t pa n).MemCanonical) : (s.overPages ctx f l).MemCanonical := by
  refine h.foldl fun t r ht => ht.foldl fun u i hu => ?_
  dsimp only
  split
  · exact hu
  · exact keeps _ _ _ hu

theorem stage (h : s.MemCanonical) {ctx : BitVec 16} {l : List (Nat × Nat)} : (s.stage ctx pins l).MemCanonical :=
  h.overPages fun _ _ _ ht => ht.fillLines

theorem streamWord (h : s.MemCanonical) {ctx : BitVec 16} : (s.streamWord ctx va).MemCanonical := h.stage

theorem fillSectors (h : s.MemCanonical) {l : List (Nat × Nat)} : (s.fillSectors l).MemCanonical := h.of_mem (s.fillSectors_frame l).1

theorem keepPage (h : s.MemCanonical) {p : Held} : (s.keepPage va p).MemCanonical := by
  unfold State.keepPage
  split
  · exact h
  · exact h.foldl fun _ _ ht => ht.fillLines

theorem keepWalked (h : s.MemCanonical) : (s.keepWalked va).MemCanonical := by
  unfold State.keepWalked
  split
  · exact h.keepPage
  · exact h

theorem readHomes (h : s.MemCanonical) {l : List (Nat × Nat)} : (s.readHomes l).MemCanonical := by
  refine h.foldl fun t p ht => ?_
  split
  · exact ht.keepWalked.homeRead
  · exact ht

theorem loaded (h : s.MemCanonical) {d : BitVec 5} {v : Word64} : (s.loaded d v va pa).MemCanonical := by
  unfold State.loaded
  split
  · exact h.result
  split
  · exact h.resultLate
  split
  · exact h.homeRead.resultLate
  split
  · exact h.updCore.result
  · exact h.lease.resultLate
end

/-! ### Links and cleats (11 R263; 10 R239) -/

theorem sendPeer (h : s.MemCanonical) {module : Nat} {w : PortWrite} : (s.sendPeer module w).MemCanonical := by
  unfold State.sendPeer
  split <;> exact h

theorem sendRemote (h : s.MemCanonical) {node vdie vcore off phase : Nat} {bytes : List (Byte × Byte)} {ident : Option Ident}
    {by_ : Option Nat} : (s.sendRemote node vdie vcore off bytes ident phase by_).MemCanonical := by
  unfold State.sendRemote
  split
  · exact h
  · exact .ite h h.sendPeer

theorem resendLost (h : s.MemCanonical) : s.resendLost.MemCanonical := by
  unfold State.resendLost
  exact foldl h fun _ _ ht => .ite ht.sendPeer ht

theorem noticeAt (h : s.MemCanonical) {k : Kernel} {die : Nat} : (s.noticeAt k die).2.MemCanonical := by
  unfold State.noticeAt
  split <;> exact h

theorem updCleat (h : s.MemCanonical) {kid vdie vcore : Nat} {f : VCore → VCore} : (s.updCleat kid vdie vcore f).MemCanonical := by
  unfold State.updCleat
  split
  · exact h
  split
  · exact h
  · exact .ite h.noticeAt.updKernel h.updKernel

theorem updMyCleat (h : s.MemCanonical) {f : VCore → VCore} : (s.updMyCleat f).MemCanonical := by
  unfold State.updMyCleat
  split
  · exact h
  · exact h.updCleat

theorem updPending (h : s.MemCanonical) {kid : Nat} {v : VCore} {f : Forecast → Forecast} : (s.updPending kid v f).MemCanonical := by
  unfold State.updPending
  split
  · exact h.updCoreAt.updKernel
  · exact h.updKernel

theorem publish (h : s.MemCanonical) {k : Kernel} {n : Nat} {H : Handle} : (s.publish k n H).MemCanonical := by
  unfold State.publish
  extract_lets _ _ _ t
  have ht : t.MemCanonical := h
  split
  · exact ht
  · refine ht.foldl fun u v hu => ?_
    split
    · exact .ite hu.updPending hu
    · exact hu

/-! ### Ready units and stacks (23) -/

theorem setReady (h : s.MemCanonical) {dw bit : Nat} {v : Bool} : (s.setReady dw bit v).MemCanonical := h.of_mem (s.setReady_mem dw bit v)

theorem updStack (h : s.MemCanonical) {n : BitVec 5} {f : Stack → Stack} : (s.updStack n f).MemCanonical := h.of_mem (s.updStack_mem n f)

theorem fenceCore (h : s.MemCanonical) {d q : Nat} : (s.fenceCore d q).MemCanonical := by
  unfold State.fenceCore
  dsimp only
  split
  · exact h.of_mem rfl
  · refine setReady ?_
    exact h.of_mem rfl

/-! ### Words that go on (02 R36; 17 R292) -/

section
variable {t : StepStrand} {n : Nat} {v : Word64}

theorem comeAfter (h : s.MemCanonical) {t : Strand} {a : After} : (s.comeAfter t a).MemCanonical := by cases t <;> exact h

theorem lodc (h : s.MemCanonical) {n : Fin 12} : (s.lodc n).MemCanonical := .ite h h

theorem stepTick (h : s.MemCanonical) {w : Option WaitPlace} : (s.stepTick t w).MemCanonical := by cases t <;> exact h

theorem pacedTick (h : s.MemCanonical) : (s.pacedTick t).MemCanonical := by
  unfold State.pacedTick
  split <;> exact h

theorem takeTokens (h : s.MemCanonical) {wants : List (BitVec 2)} : (s.takeTokens t wants).MemCanonical := by
  unfold State.takeTokens
  exact h.foldl fun _ _ hu => hu.updCore.comeAfter

theorem issueWord (h : s.MemCanonical) {i : Instr} {paced : Bool} {wants posted : List (BitVec 2)} {p : Step} {done : Done}
    {go : Go} : (s.issueWord t i paced wants posted p done go).MemCanonical := by
  unfold State.issueWord
  extract_lets t1 t2 t3
  have h2 : t2.MemCanonical := h.takeTokens.updStep
  have h3 : t3.MemCanonical := by
    cases t with
    | l => exact h2
    | s => exact h2
    | x => exact .ite h2.updV h2
  exact h3.stepTick

theorem endWith (h : s.MemCanonical) {posts : List (BitVec 2)} : (s.endWith t posts).MemCanonical := by
  unfold State.endWith
  extract_lets _ _ t1 t2
  have h1 : t1.MemCanonical := h.stepTick
  have h2 : t2.MemCanonical := by
    unfold t2
    split
    · exact .ite h1 h1
    · exact h1
  exact h2.updStep

theorem popData (h : s.MemCanonical) {q : BitVec 2} : (s.popData t q).MemCanonical := h.updCore.comeAfter

theorem xDone (h : s.MemCanonical) {seq : Option Nat} : (s.xDone seq).MemCanonical := by cases seq <;> exact h
end

end State.MemCanonical

/-- A write of a control register changes the core alone (06 R131). -/
theorem State.csrWrite_mem (s : State) (n : Nat) (v : Word64) : (s.csrWrite n v).mem = s.mem := by
  simp only [State.csrWrite, State.csrLate, State.setFlagsOf, apply_ite State.mem, apply_dite State.mem, State.updC_mem, State.updCsr_mem,
    State.updStep_mem, State.updCore_mem, ite_self, dite_eq_ite]

/-- A doubleword written into a stopped core's window changes that core and the module's queues, not memory (20 R341). -/
theorem State.snapSet_mem (s : State) (c : Core) (i : Nat) (v : Word64) : (s.snapSet c i v).1.mem = s.mem := by
  unfold State.snapSet
  dsimp only
  simp only [apply_ite Prod.fst, apply_dite Prod.fst, apply_ite State.mem, ite_self, dite_eq_ite]

namespace State.MemCanonical
variable {s : State}

theorem csrWrite (h : s.MemCanonical) {n : Nat} {v : Word64} : (s.csrWrite n v).MemCanonical := h.of_mem (s.csrWrite_mem n v)

theorem snapStore (h : s.MemCanonical) {die q off : Nat} {bytes : List Byte} : (s.snapStore die q off bytes).MemCanonical := by
  unfold State.snapStore
  extract_lets _ _ _ _ _ r
  have hr : r.1.MemCanonical := h.of_mem (s.snapSet_mem _ _ _)
  exact .ite hr.putCore (hr.of_mem rfl)

theorem readElems (h : s.MemCanonical) {w : Nat} {els : List (Elem × Nat)} : (s.readElems w els).MemCanonical := by
  unfold State.readElems
  refine List.foldlRecOn (motive := fun (a : State × Nat) => a.1.MemCanonical) els _ h fun a ha p _ => ?_
  split
  · exact ha
  · exact ha.homeRead

theorem performLoad (h : s.MemCanonical) {g : GLoad} : (s.performLoad g).MemCanonical := by
  unfold State.performLoad
  dsimp only
  split
  · exact h
  split
  · exact h.readHomes.fresh.updV
  · exact h.updV

/-! ### Stores (11 R263, R266, R376) -/

theorem poke (h : s.MemCanonical) {own : Bool} {pa stamp : Nat} {bs : List (Byte × Byte)} : (s.poke own pa bs stamp).MemCanonical :=
  State.poke_wf h own pa bs stamp

theorem pokeBytes (h : s.MemCanonical) {own : Bool} {pa stamp : Nat} {bs : List Byte} : (s.pokeBytes own pa bs stamp).MemCanonical := h.poke

theorem storeTo (h : s.MemCanonical) {pa : Nat} {bs : List (Byte × Byte)} : (s.storeTo pa bs).MemCanonical := by
  unfold State.storeTo
  split
  · exact h.poke
  · split
    · exact h.poke
    · exact h

theorem agentStore (h : s.MemCanonical) {ctx : BitVec 16} {va : Nat} {bs : List Byte} {kid : Option Nat} :
    (s.agentStore ctx va bs kid).MemCanonical := by
  unfold State.agentStore
  exact h.foldl fun _ _ ht => ht.pokeBytes

/-! ### Kernels: their records, states and launches (19 R316 to R327) -/

section
variable {kid n code : Nat} {skip : Option Nat}

theorem record (h : s.MemCanonical) {rec_ : List Byte} : (s.record kid n rec_).MemCanonical := by
  unfold State.record
  split
  · exact h
  · exact .ite h.updKernel h.updKernel.agentStore

theorem setKernelState (h : s.MemCanonical) : (s.setKernelState kid n code).MemCanonical := by
  unfold State.setKernelState
  extract_lets t
  have ht : t.MemCanonical := h.updKernel
  split
  · exact ht
  · split
    · exact ht
    · exact ht.agentStore

theorem holdForReplay (h : s.MemCanonical) : (s.holdForReplay kid skip).MemCanonical := by
  unfold State.holdForReplay
  split
  · exact h
  split
  · exact h
  split
  · exact h
  · refine record ?_
    exact h.of_mem rfl

theorem acceptLaunch (h : s.MemCanonical) {ctx : BitVec 16} {desc : List Byte} {status : Bool} {handle : Option Word64} :
    (s.acceptLaunch ctx desc n status handle skip).1.MemCanonical := by
  have refused {d : Descriptor} {c : Nat} : (if status then s.refuseLaunch ctx d c else s).MemCanonical := .ite h.agentStore h
  unfold State.acceptLaunch
  dsimp only
  split
  · exact refused
  split
  · exact refused
  split
  · exact refused
  split
  · exact refused
  split
  · exact refused
  split
  · exact refused
  split
  · exact refused
  split
  · exact refused
  · refine holdForReplay (setKernelState (setKernelState ?_))
    exact h.of_mem rfl

theorem replayLaunch (h : s.MemCanonical) {l : List Recorded} : (s.replayLaunch n l).1.MemCanonical := by
  induction l generalizing s with
  | nil => exact h
  | cons r l ih =>
    unfold State.replayLaunch
    dsimp only
    split
    · exact ih h.acceptLaunch
    · exact h.acceptLaunch

theorem replayOn (h : s.MemCanonical) {r : Replay} : (s.replayOn r).MemCanonical := by
  have launched : (s.replayLaunch r.seg r.rest).1.MemCanonical := h.replayLaunch
  unfold State.replayOn
  refine .ite h ?_
  dsimp only
  split
  · exact launched.of_mem rfl
  · refine holdForReplay ?_
    exact launched.record.of_mem rfl

theorem replaysOn (h : s.MemCanonical) : (State.replaysOn n s).MemCanonical := by
  induction n generalizing s with
  | zero => exact h
  | succ n ih =>
    unfold State.replaysOn
    dsimp only
    split
    · exact h.of_mem rfl
    · refine ih (replayOn ?_)
      exact h.of_mem rfl

theorem replayPump (h : s.MemCanonical) : s.replayPump.MemCanonical := by
  unfold State.replayPump
  exact h.replaysOn

theorem submitLaunch (h : s.MemCanonical) {handle descr : Word64} : (s.submitLaunch handle descr).MemCanonical := by
  unfold State.submitLaunch
  split
  · exact h
  · exact .ite h h.acceptLaunch.replayPump

theorem endKernel (h : s.MemCanonical) : (s.endKernel kid n code).MemCanonical := by
  unfold State.endKernel
  refine replayPump ?_
  exact h.updKernel.setKernelState.of_mem rfl
end

/-! ### Collectives (22) -/

section
variable {c : Coll}

theorem collStatus (h : s.MemCanonical) : (s.collStatus c).MemCanonical := by
  unfold State.collStatus
  exact (h.foldl fun _ _ ht => ht.agentStore).agentStore

theorem collCommit (h : s.MemCanonical) {j : Nat} : (s.collCommit c j).1.MemCanonical := h.agentStore

theorem collAdvance (h : s.MemCanonical) : (s.collAdvance c).1.MemCanonical := by
  unfold State.collAdvance
  split
  · exact h
  extract_lets c0 union r all full
  have committed : r.1.MemCanonical := by
    refine List.foldlRecOn (motive := fun (p : State × Coll) => p.1.MemCanonical) _ _ h fun p hp j _ => ?_
    split
    · exact hp.collCommit
    · exact hp
  split
  · dsimp only
    exact .ite committed.collStatus committed.collStatus.updCoreAt
  split
  · dsimp only
    exact committed.collStatus.updCoreAt
  split
  · exact committed.collStatus
  · exact committed

theorem collPass (h : s.MemCanonical) : s.collPass.MemCanonical := by
  unfold State.collPass
  have emptied : ({ s with colls := [] } : State).MemCanonical := h.of_mem rfl
  exact emptied.foldl fun t c ht => (ht.collAdvance (c := c)).of_mem rfl

theorem collSettle (h : s.MemCanonical) : s.collSettle.MemCanonical := h.collPass.collPass.collPass

theorem startColl (h : s.MemCanonical) {descr : Word64} : (s.startColl descr).MemCanonical := by
  unfold State.startColl
  split
  · exact h
  · extract_lets _ _ t
    have read : t.MemCanonical := h.overPages fun _ _ _ ht => ht.homeRead
    split
    · exact read
    · refine collSettle ?_
      exact read.of_mem rfl
end

/-! ### Effects, performed and buffered (02 R26; 10 R247) -/

section
variable {k : EffKind} {rank : Nat} {seq : Option Nat}

theorem perform (h : s.MemCanonical) {phase : Nat} : (s.perform k phase).MemCanonical := by
  cases k with
  | store => exact h.storeTo
  | amo => exact h.pokeBytes
  | cas =>
    unfold State.perform
    exact .ite h.pokeBytes h.homeRead
  | addCom => exact h.pokeBytes
  | remote => exact h.sendRemote
  | launch => exact h.submitLaunch
  | ktrig => exact h.updMyVc
  | coll => exact h.startColl
  | arrive => exact h.updMyCleat
  | expect => exact h.updMyCleat

theorem splice (h : s.MemCanonical) : s.splice.MemCanonical := by
  unfold State.splice
  split
  · exact h
  · exact h.updTask.oneStamp.foldl fun _ _ ht => ht.perform

theorem pin (h : s.MemCanonical) : s.pin.MemCanonical := h.splice.updTask

theorem of_put {t : State} (h : s.MemCanonical) (done : s.put rank k seq = .done t) : t.MemCanonical := by
  unfold State.put at done
  split at done
  · cases done
    exact h.perform
  split at done
  · cases done
    exact h.updTask.perform
  split at done
  · cases done
    exact h
  split at done
  · cases done
  · cases done
    exact h.updTask.pin.perform

theorem of_putAll {t : State} (h : s.MemCanonical) {l : List EffKind} (done : s.putAll rank seq l = .done t) : t.MemCanonical := by
  induction l generalizing s with
  | nil =>
    cases done
    exact h
  | cons k l ih =>
    unfold State.putAll at done
    split at done
    case h_1 e => exact ih (h.of_put e) done
    case h_2 => cases done

theorem of_storeRuns {t : State} (h : s.MemCanonical) {l : List Run} (done : s.storeRuns seq l = .done t) : t.MemCanonical := by
  unfold State.storeRuns at done
  dsimp only at done
  split at done
  case h_1 => cases done
  case h_2 e =>
    cases done
    exact (h.of_putAll e).foldl fun _ _ hu => hu.storeTo

theorem of_writeAll {t : State} (h : s.MemCanonical) {l : List MWrite} (done : s.writeAll seq l = .done t) : t.MemCanonical := by
  unfold State.writeAll at done
  dsimp only at done
  split at done
  case h_1 => cases done
  case h_2 e =>
    cases done
    refine (h.of_storeRuns e).foldl fun u w hu => ?_
    cases w with
    | acc => exact hu.pokeBytes
    | bytes => exact hu

theorem placeAll (h : s.MemCanonical) {l : List EffKind} : (s.placeAll rank l).1.MemCanonical := by
  induction l generalizing s with
  | nil => exact h
  | cons k l ih =>
    unfold State.placeAll
    extract_lets direct
    split
    · refine ih ?_
      unfold State.performNow
      split
      · exact h.sendRemote
      · exact h.perform
    · split
      case h_1 e => exact ih (h.of_put e)
      case h_2 => exact h
end

/-! ### Tasks that leave their core, and kernels that end (02 R25, R27; 19 R327) -/

theorem rollback (h : s.MemCanonical) : s.rollback.MemCanonical := by
  unfold State.rollback
  split
  · exact h
  · exact Memory.wf_foldl h _ _ _

theorem discardTask (h : s.MemCanonical) {f : VCore → VCore} : (s.discardTask f).MemCanonical := h.rollback.updMyVc.updCore

theorem endTask (h : s.MemCanonical) : s.endTask.MemCanonical := by
  unfold State.endTask
  split
  · exact h
  · exact .ite (.ite h.splice.updMyVc.updKernel.updCore h) h.discardTask

theorem killKernel (h : s.MemCanonical) {kid st code : Nat} : (s.killKernel kid st code).MemCanonical := by
  unfold State.killKernel
  exact (h.foldl fun _ _ ht => ht.onCore fun _ hu => hu.endTask).endKernel

theorem failTask (h : s.MemCanonical) : s.failTask.MemCanonical := by
  unfold State.failTask
  split
  · exact h
  · exact h.discardTask.killKernel

theorem abortTask (h : s.MemCanonical) {st : TaskState} {parked : Option Nat} : (s.abortTask st parked).MemCanonical := by
  unfold State.abortTask
  split
  · exact h
  · exact h.discardTask

theorem pageAbsent (h : s.MemCanonical) {va : Nat} {write : Bool} : (s.pageAbsent va write).MemCanonical := by
  unfold State.pageAbsent
  split
  · exact h
  · exact .ite h.pageRequest.freezeCore h.pageRequest.abortTask

theorem loseTask (h : s.MemCanonical) : s.loseTask.MemCanonical := by
  unfold State.loseTask
  split
  · exact h
  · exact .ite h (.ite h.failTask h.abortTask)

theorem testFailed (h : s.MemCanonical) : s.testFailed.MemCanonical := .ite h.loseTask h

theorem tryExit (h : s.MemCanonical) {kid : Nat} : (s.tryExit kid).MemCanonical := by
  unfold State.tryExit
  split
  · exact h
  · exact .ite h.record.endKernel h

theorem retireTask (h : s.MemCanonical) : s.retireTask.MemCanonical := by
  unfold State.retireTask
  split
  · exact h
  · have retired {kid : Nat} {f : Kernel → Kernel} : (s.splice.updKernel kid f).MemCanonical := h.splice.updKernel
    refine tryExit (updCore ?_)
    split
    · exact retired
    · exact retired.updMyVc

/-! ### Traps (20 R331 to R341) -/

section
variable {cause : BitVec 8} {tval v : Word64} {va pa n : Nat}

theorem handlerFault (h : s.MemCanonical) : s.handlerFault.MemCanonical := by
  unfold State.handlerFault
  split
  · exact h.of_mem rfl
  · split
    · exact h
    · exact h.killKernel

theorem enterTrap (h : s.MemCanonical) {src : BitVec 4} {precise : Bool} {strand : Option StepStrand} :
    (s.enterTrap cause src precise tval strand pa n).MemCanonical := .ite h.handlerFault h

theorem cTrap (h : s.MemCanonical) : (s.cTrap cause tval).MemCanonical := .ite h.handlerFault h.cTick.enterTrap

theorem cWait (h : s.MemCanonical) {p : WaitPlace} : (s.cWait p).MemCanonical := .ite h.handlerFault h.cTick

theorem stepTrap (h : s.MemCanonical) {t : StepStrand} : (s.stepTrap t cause tval n).MemCanonical := .ite h.stepTick h.stepTick.enterTrap

theorem modifierFault (h : s.MemCanonical) {m : Modifier} {w : Word32} : (s.modifierFault m w).MemCanonical := by
  refine stepTrap ?_
  exact .ite h h.updV

theorem endTrap (h : s.MemCanonical) : (s.endTrap v n).MemCanonical := by
  unfold State.endTrap
  split
  · exact h
  · exact .ite h.killKernel h.updTask.updC.enterTrap

theorem afterEnd (h : s.MemCanonical) : (s.afterEnd n).MemCanonical := by
  unfold State.afterEnd
  split
  · exact h
  refine .ite h ?_
  split
  · exact h
  · exact h.endTrap

theorem failLater (h : s.MemCanonical) : s.failLater.MemCanonical := h.updTask.cWait

theorem overflow (h : s.MemCanonical) : s.overflow.MemCanonical := .ite h.failLater (.ite h.handlerFault h.failTask)

theorem softTrap (h : s.MemCanonical) : (s.softTrap v).MemCanonical := .ite h.handlerFault h.cDone.enterTrap

theorem returnTrap (h : s.MemCanonical) : (s.returnTrap n).MemCanonical := h.of_mem (s.returnTrap_mem n)
end

/-! ### Words of C that wait or go on (06 R103 to R138) -/

section
variable {d : BitVec 5} {va pa n : Nat}

theorem cPage (h : s.MemCanonical) {write : Bool} {k : Nat → State → State} (keeps : ∀ pa t, t.MemCanonical → (k pa t).MemCanonical) :
    (s.cPage va write k).MemCanonical := by
  unfold State.cPage
  split
  · exact keeps _ _ h
  · exact h.cTrap
  · exact h

theorem cAccess (h : s.MemCanonical) {k : State → State} (keeps : ∀ t, t.MemCanonical → (k t).MemCanonical) : (s.cAccess pa k).MemCanonical :=
  .ite (keeps _ h) h.cWait

theorem loadAt (h : s.MemCanonical) {k : Nat → State → State} (keeps : ∀ v t, t.MemCanonical → (k v t).MemCanonical) :
    (s.loadAt va pa n k).MemCanonical := by
  unfold State.loadAt
  refine .ite h.cWait ?_
  split
  · exact h.cTrap
  · exact keeps _ _ h

theorem storeAt (h : s.MemCanonical) {bs : List Byte} : (s.storeAt va pa bs).MemCanonical := by
  unfold State.storeAt
  split
  · exact h.snapStore.cDone
  refine .ite h.pokeBytes.cDone (.ite h.perform.cDone ?_)
  split
  case h_1 e => exact (h.of_put e).cDone
  case h_2 => exact h.cWait

theorem cPut (h : s.MemCanonical) {e : EffKind} {k : State → State} (keeps : ∀ t, t.MemCanonical → (k t).MemCanonical) :
    (s.cPut e k).MemCanonical := by
  unfold State.cPut
  split
  case h_1 e => exact keeps _ (h.of_put e)
  case h_2 => exact h.cWait

theorem branch (h : s.MemCanonical) {t : Int} {link : State → State} (keeps : ∀ t, t.MemCanonical → (link t).MemCanonical) :
    (s.branch t link).MemCanonical := .ite h.cTrap (.ite h.cTrap (keeps _ h).updC.cTick)

theorem loopIssue (h : s.MemCanonical) {o : BitVec 15} : (s.loopIssue n o).MemCanonical := by
  unfold State.loopIssue
  exact .ite h.cTrap (.ite h.cTrap (.ite h.cTrap (.ite h.cTrap (.ite h.updC.cTick h.updC.cTick))))

theorem cPush (h : s.MemCanonical) {p : BitVec 2} {w : Word64} : (s.cPush p w).MemCanonical := .ite h.updCore.cDone h.cWait

theorem cPop (h : s.MemCanonical) {p : BitVec 2} {k : Word64 → State → State} (keeps : ∀ w t, t.MemCanonical → (k w t).MemCanonical) :
    (s.cPop p k).MemCanonical := .ite (keeps _ _ h.updCore.comeAfter) h.lodc.cWait

theorem cIf (h : s.MemCanonical) {ok : Bool} {i : Instr} {k : State → State} (keeps : ∀ t, t.MemCanonical → (k t).MemCanonical) :
    (Machine.cIf ok i k s).MemCanonical := .ite (keeps _ h) h.cTrap

theorem csrAccess (h : s.MemCanonical) {i : Instr} {csr : BitVec 12} {write : Bool} {k : Word64 → State → State}
    (keeps : ∀ v t, t.MemCanonical → (k v t).MemCanonical) : (s.csrAccess i csr write k).MemCanonical := by
  unfold State.csrAccess
  split
  · exact h.cTrap
  · exact .ite h.cTrap (keeps _ _ h)
end

/-! ### Results of X (07 R151, R174) -/

theorem writeTarget (h : s.MemCanonical) {r : LatchTarget} : (s.writeTarget r).MemCanonical := by
  cases r with
  | vreg => exact h.poke
  | pred | kshift | ksc => exact h.updV
  | greg => exact h.updStep

theorem deliver (h : s.MemCanonical) {due : List VLatch} : (s.deliver due).MemCanonical := by
  unfold State.deliver
  exact h.updV.foldl fun _ _ ht => (ht.foldl fun _ _ hu => hu.writeTarget).orFlags

theorem deliverFirst (h : s.MemCanonical) : s.deliverFirst.MemCanonical := by
  unfold State.deliverFirst
  exact h.deliver.foldl fun _ _ ht => ht.beginCycle

theorem performStore (h : s.MemCanonical) {t : VStore} : (s.performStore t).MemCanonical := by
  unfold State.performStore
  split
  case h_1 => exact h
  case h_2 e => exact (h.of_storeRuns e).updV.xDone

theorem performHeld (h : s.MemCanonical) : s.performHeld.MemCanonical := by
  unfold State.performHeld
  split
  · exact h
  refine .ite h (.ite ?_ ?_)
  · split
    · exact h.performStore
    · exact h
  · split
    · exact h.performLoad
    · exact h

theorem pulse (h : s.MemCanonical) : s.pulse.MemCanonical := by
  unfold State.pulse
  split <;> exact h

theorem begin_ (h : s.MemCanonical) : s.begin_.MemCanonical := by
  unfold State.begin_
  dsimp only
  split
  · exact h.at_.matSync.pulse
  · exact h.at_.matSync.pulse.beginCycle
  · exact h.at_.matSync.pulse.performHeld.beginCycle
  · exact h.at_.matSync.pulse.beginCycle

/-! ### The matrix unit (08) -/

section
variable {op : MOp} {e : MEntry} {f : Factor} {n : Nat}

theorem colStep (h : s.MemCanonical) : (s.colStep op f n).MemCanonical := by
  unfold State.colStep
  dsimp only
  split
  · exact h.updM.setFactorRegs.orFlags
  · exact h.updM.setFactorRegs.orFlags
  · exact h.updM.setFactorRegs.orFlags
  · exact h.updM.orFlags
  · exact .ite h.updM h
  · exact h

theorem factorBegin (h : s.MemCanonical) : (s.factorBegin op n).MemCanonical := by
  unfold State.factorBegin
  exact .ite h (.ite h.updM.setFactorRegs h.setFactorRegs)

theorem factorNext (h : s.MemCanonical) {seq : Option Nat} {begun due : Nat} : (s.factorNext op seq n begun due).MemCanonical := by
  unfold State.factorNext
  exact .ite h h.updM

theorem columnInStop (h : s.MemCanonical) : (s.columnInStop e f).MemCanonical := by
  unfold State.columnInStop
  refine .ite h ?_
  extract_lets t1 rhs left t2 out due t3
  have h1 : t1.MemCanonical := .ite h.colStep h
  have h2 : t2.MemCanonical := by
    unfold t2 left
    split
    case h_1 e => exact h1.of_writeAll e
    case h_2 => exact h1
  have h3 : t3.MemCanonical := h2.updM
  split
  · exact h3
  · exact .ite h3 h3.updCore

theorem stopFactor (h : s.MemCanonical) : s.stopFactor.MemCanonical := by
  unfold State.stopFactor
  split
  · exact h.columnInStop
  · exact h
end
end State.MemCanonical

/-- What a start leaves has canonical memory. -/
def Start.Canonical : Start → Prop
  | .ok t => t.MemCanonical
  | _ => True

theorem Start.Canonical.after {r : Start} (h : r.Canonical) {l : List (Nat × Nat)} : (r.after l).Canonical := by
  cases r with
  | ok t => exact State.MemCanonical.readHomes h
  | bad | walk | late => trivial

theorem Ready.start_canonical {r : Ready} {k : Unit → Start} (h : (k ()).Canonical) : (r.start k).Canonical := by
  cases r with
  | ok => exact h
  | bad | walk | late => trivial

theorem MEntry.inView_canonical {e : MEntry} {s : State} {f : State → Start} (h : s.MemCanonical)
    (starts : ∀ t, t.MemCanonical → (f t).Canonical) : (e.inView s f).Canonical := by
  have started : (f (s.updTask fun t => { t with plain := true })).Canonical := starts _ h
  unfold MEntry.inView
  split
  · exact starts _ h
  · split
    case h_1 e =>
      rw [e] at started
      exact started
    case h_2 => exact started

namespace State.MemCanonical
variable {s : State}

section
variable {hd t due : Nat} {fmt word : Word64} {row col : Int} {seq : Option Nat}

theorem startMldb (h : s.MemCanonical) : (s.startMldb hd fmt row col seq word due).Canonical := by
  unfold State.startMldb
  split
  · trivial
  · refine .after (Ready.start_canonical ?_)
    split
    · trivial
    · exact h

theorem startProduct (h : s.MemCanonical) : (s.startProduct hd t fmt row col seq word due).Canonical := by
  unfold State.startProduct
  split
  · trivial
  · refine .after (Ready.start_canonical ?_)
    exact h

theorem startDrain (h : s.MemCanonical) : (s.startDrain hd t fmt row col seq word due).Canonical := by
  unfold State.startDrain
  split
  · trivial
  · exact Ready.start_canonical h

theorem startMfst (h : s.MemCanonical) : (s.startMfst seq due).Canonical := by
  have pushed := h.foldl (l := [w64 s.core.m.fcol, s.core.m.fstat, s.core.m.grow]) (f := fun s w => s.updCore fun c => c.updDq 6 fun q =>
    q.push w (s.now + s.core.div.mat) (c.x.after.with_ .x (seq.getD 0))) fun _ _ ht => ht.updCore
  exact pushed

theorem startFactor (h : s.MemCanonical) {op : MOp} {begun : Nat} : (s.startFactor op seq word begun due).Canonical := by
  unfold State.startFactor
  refine .after (Ready.start_canonical ?_)
  extract_lets H bad rhs
  split
  · trivial
  · exact h.factorBegin.updM.factorNext

theorem startOp (h : s.MemCanonical) {op : MOp} {occ : Nat} : (s.startOp op fmt row col seq word occ).Canonical := by
  unfold State.startOp
  dsimp only
  split
  · exact h.startMldb
  · exact h.startProduct
  · exact h.startProduct
  · exact h.startDrain
  · exact h
  · exact h
  · exact h.startMfst
  · exact h
  · exact h.startFactor

theorem settle (h : s.MemCanonical) {r : Start} (hr : r.Canonical) {occ : Nat} {counted : Bool} {mark : MEntry → MEntry} :
    (r.settle s occ counted mark).MemCanonical := by
  cases r with
  | ok t => exact updM hr
  | bad | walk | late => exact h

theorem reloadCim (h : s.MemCanonical) : s.reloadCim.MemCanonical := by
  unfold State.reloadCim
  refine .ite h ?_
  split <;> exact h
end

/-! ### Transfers (09) -/

section
variable {n w : Nat} {u : XUnit} {e : Xfer} {flags : Flags}

theorem imageWrite (h : s.MemCanonical) {off : Nat} {rows : List (List (Option Nat))} : (s.imageWrite off w rows).MemCanonical := by
  unfold State.imageWrite
  exact h.foldl fun _ _ ht => ht.poke

theorem writeFills (h : s.MemCanonical) {r : Ring} {l : List (Nat × List (Option Nat))} : (s.writeFills w n r l).MemCanonical := by
  unfold State.writeFills
  exact h.foldl fun _ _ ht => ht.poke.setRing

theorem dropped (h : s.MemCanonical) : (s.dropped e).MemCanonical := by
  unfold State.dropped
  split
  · split <;> exact h
  · exact h
  · exact h

theorem updXHead (h : s.MemCanonical) {f : Xfer → Xfer} : (s.updXHead u f).MemCanonical := h.updUnit

theorem xferDone (h : s.MemCanonical) : (s.xferDone u e flags).MemCanonical := by
  unfold State.xferDone
  exact .ite h.updUnit.updStep h.updUnit.updStep.orFlags

theorem xferFault (h : s.MemCanonical) {cause : BitVec 8} {tval : Nat} : (s.xferFault u cause tval).MemCanonical := h.updXHead.raiseAt

theorem unitWalk (h : s.MemCanonical) {va : Nat} {write : Bool} : (s.unitWalk va write).MemCanonical := by
  unfold State.unitWalk
  split
  · exact .ite h h.keepPage
  · exact h

theorem endFull (h : s.MemCanonical) : s.endFull.MemCanonical := by
  unfold State.endFull
  split
  · exact .ite h h
  · exact h
end
end State.MemCanonical

/-- The local writes of a plan keep memory canonical. -/
def Plan.Canonical (p : Plan) : Prop := ∀ t : State, t.MemCanonical → (p.finish t).MemCanonical

theorem Plan.canonical_of_id {p : Plan} (nothing : p.finish = id) : p.Canonical := fun _ h => by
  rw [nothing]
  exact h

theorem State.plan_canonical (s : State) (e : Xfer) : (s.plan e).Canonical := by
  unfold State.plan
  dsimp only
  split
  case h_1 =>
    split
    · exact Plan.canonical_of_id rfl
    · exact fun _ h => h.imageWrite
  case h_2 => split <;> exact Plan.canonical_of_id rfl
  case h_3 => split <;> exact Plan.canonical_of_id rfl
  case h_4 => split <;> exact Plan.canonical_of_id rfl
  case h_5 => split <;> exact Plan.canonical_of_id rfl
  case h_6 => split <;> exact Plan.canonical_of_id rfl
  case h_7 => exact fun _ h => h.pokeBytes
  case h_8 =>
    split
    · exact Plan.canonical_of_id rfl
    · exact fun _ h => .ite h.writeFills h.writeFills.setRing
  case h_9 =>
    split
    · exact Plan.canonical_of_id rfl
    · exact fun _ h => .ite h.writeFills h.writeFills.setRing
  case h_10 =>
    split
    · exact Plan.canonical_of_id rfl
    · exact fun _ h => h.fillSectors

namespace State.MemCanonical
variable {s : State}

section
variable {u : XUnit} {e : Xfer} {flags : Flags} {p : Plan}

theorem xferRest (h : s.MemCanonical) (hp : p.Canonical) {wrote : Bool} : (s.xferRest u e p wrote flags).MemCanonical := by
  have finished : (State.xferRest.finish s u e p flags).MemCanonical := by
    have moved := (hp s h).readHomes (l := s.sources e)
    unfold State.xferRest.finish
    dsimp only
    split
    · exact moved.xferFault
    · exact moved.xferDone
  unfold State.xferRest
  dsimp only
  split
  · exact .ite h.xferDone (.ite h.updXHead h.fresh.updXHead)
  · exact .ite h.fresh.setRing.updXHead finished
  · exact finished

theorem xferMove (h : s.MemCanonical) (hp : p.Canonical) {todo : List EffKind} : (s.xferMove u e p todo flags).MemCanonical := by
  unfold State.xferMove
  exact .ite (h.placeAll.xferRest hp) h.placeAll.updXHead

theorem xferComplete (h : s.MemCanonical) : (s.xferComplete u e).MemCanonical := by
  have planned : (s.planOf e).Canonical := (s.viewOf e).plan_canonical e
  unfold State.xferComplete
  extract_lets p
  split
  · exact h
  · exact h.dropped.xferDone
  · refine .ite h.xferDone ?_
    split
    · exact h.xferFault
    · exact h.unitWalk
    · exact h
    · exact .ite h (.ite h (h.xferMove planned))
  · refine h.xferMove fun t ht => ?_
    dsimp only
    split
    · exact planned t ht
    · exact ht

theorem land (h : s.MemCanonical) {f : Flying} : (s.land f).MemCanonical := by
  unfold State.land
  split
  · exact h
  split
  · exact h
  · extract_lets own put t
    have ht : t.MemCanonical := .ite (h.onCore fun _ hu => hu.poke) h.poke
    split
    · exact ht
    · exact ht.updCleat

theorem landAll (h : s.MemCanonical) {kid : Nat} : (s.landAll kid).MemCanonical := by
  unfold State.landAll
  exact foldl (h.of_mem rfl) fun _ _ ht => ht.land
end

/-! ### Frames, kernels and their places (18 R309 to R316; 19 R320; 23 R374) -/

section
variable {k : Kernel} {i : Image} {v : VCore} {kid : Nat}

theorem endHold (h : s.MemCanonical) {d : Hold} : (s.endHold k d).MemCanonical := by
  unfold State.endHold
  dsimp only
  split
  · exact h.updKernel
  · exact h.updKernel.record

theorem kernelTick (h : s.MemCanonical) : (s.kernelTick k i).MemCanonical := by
  unfold State.kernelTick
  split
  · exact .ite h.endHold h
  · exact h.updKernel

theorem copyCarry (h : s.MemCanonical) {here there : Nat × Nat} : (s.copyCarry i here there).MemCanonical := Memory.wf_foldl h _ _ _

theorem reassign (h : s.MemCanonical) {vdie vcore : Nat} : (s.reassign kid i vdie vcore).MemCanonical := by
  unfold State.reassign
  split
  · refine .ite h ?_
    split
    · exact h.killKernel
    · exact h.copyCarry.updKernel.updCoreAt
  · exact h

theorem reassignAll (h : s.MemCanonical) : (s.reassignAll k i).MemCanonical := by
  unfold State.reassignAll
  exact h.foldl fun _ _ ht => .ite ht ht.reassign

theorem frameKernel (h : s.MemCanonical) : (s.frameKernel kid).MemCanonical := by
  unfold State.frameKernel
  split
  · exact h
  split
  · exact h
  refine .ite h ?_
  extract_lets t1 t2
  have h2 : t2.MemCanonical := h.kernelTick.foldl fun _ _ ht => .ite ht ht.reassign
  split
  · exact h2
  · refine .ite h2 (tryExit ?_)
    exact h2.of_mem rfl

theorem saveVc (h : s.MemCanonical) : (s.saveVc k i v).MemCanonical := by
  unfold State.saveVc
  dsimp only
  refine .ite h (.ite ?_ h.updKernel)
  exact (h.onCore fun _ ht => (ite ht ht.freezeCore.stopFactor).updCore).updCoreAt.updKernel

theorem yieldTo (h : s.MemCanonical) {w : Kernel} {phase : Nat} : (s.yieldTo k w phase).MemCanonical := by
  unfold State.yieldTo
  extract_lets t0 t1 t2
  have h0 : t0.MemCanonical := h.landAll
  have h1 : t1.MemCanonical := by
    unfold t1
    split
    · exact h0
    · exact h0.foldl fun _ _ ht => ht.saveVc
  have h2 : t2.MemCanonical := h1.updKernel.record
  exact h2.of_mem rfl

theorem restoreVc (h : s.MemCanonical) : (s.restoreVc i v).MemCanonical := by
  have put {base : Nat} {ranges : List (Nat × Nat)} {cells : List Host.Cell} :
      ({ s with mem := putCells s.mem base ranges cells } : State).MemCanonical := putCells_wf h base ranges cells
  unfold State.restoreVc
  dsimp only
  split
  · exact h
  split
  · exact put
  · refine put.putCore.onCore fun t ht => ?_
    exact (ite (ite ht ht.reloadCim) (ite ht ht.reloadCim).updM).of_mem rfl

theorem walkEnds (h : s.MemCanonical) {va : Nat} {write : Bool} : (s.walkEnds va write).MemCanonical := by
  have goesOn : s.unfreeze.MemCanonical := h
  unfold State.walkEnds
  refine .ite h ?_
  split
  · exact .ite h.keepPage h.keepPage.unfreeze
  · exact .ite goesOn.cTrap goesOn.pageAbsent
  · exact goesOn
end

/-! ### Verdicts (10 R239 to R255) -/

section
variable {k : Kernel} {v : VCore} {f : Forecast} {why maxerr idx : Nat}

theorem passVerdict (h : s.MemCanonical) : (s.passVerdict k v f maxerr idx).MemCanonical := by
  unfold State.passVerdict
  dsimp only
  split
  · exact h.updKernel.updKernel
  · exact h.updKernel.onCore fun _ ht => .ite ht.updTask.failTask ht.updTask

theorem squashTask (h : s.MemCanonical) : (s.squashTask why maxerr idx).MemCanonical := by
  unfold State.squashTask
  split
  · exact h
  · exact h.discardTask.record

theorem squashKept (h : s.MemCanonical) : (s.squashKept k v f why maxerr idx).MemCanonical := h.updKernel.record

theorem squashVc (h : s.MemCanonical) : (s.squashVc k v f why maxerr idx).MemCanonical := by
  unfold State.squashVc
  split
  · exact .ite (h.onCore fun _ ht => ht.squashTask) h.squashKept
  · dsimp only
    split
    · exact h.squashKept
    · exact h.squashKept.updKernel

theorem squashPrimary (h : s.MemCanonical) : (s.squashPrimary k v f why maxerr idx).MemCanonical := by
  unfold State.squashPrimary
  exact h.squashVc.foldl fun _ _ ht => ht.squashVc
end

/-! ### Commands, the host and the links (19; 21; 22) -/

theorem openRing (h : s.MemCanonical) : s.openRing.MemCanonical := by
  unfold State.openRing
  refine pokeBytes ?_
  exact h.of_mem rfl

theorem supervisorReady (h : s.MemCanonical) : s.supervisorReady.MemCanonical := by
  refine setReady (openRing ?_)
  exact h.of_mem rfl

theorem masterMessage (h : s.MemCanonical) {port : BitVec 5} {offset : BitVec 64} {grandmaster : Bool} :
    (s.masterMessage port offset grandmaster).MemCanonical := by
  unfold State.masterMessage
  dsimp only
  refine .ite (h.of_mem rfl) (.ite (h.of_mem rfl) (.ite (supervisorReady ?_) (.ite (h.of_mem rfl) (h.of_mem rfl))))
  exact h.of_mem rfl

theorem mapPage (h : s.MemCanonical) {va frame lvl table : Nat} : (s.mapPage va frame lvl table).MemCanonical := by
  induction lvl generalizing s table with
  | zero => exact h
  | succ lvl ih =>
    unfold State.mapPage
    refine .ite h.pokeBytes (.ite (ih h) (ih (pokeBytes ?_)))
    exact h.of_mem rfl

theorem mapData (h : s.MemCanonical) {root va : Nat} {l : List (List Byte)} : (s.mapData root va l).MemCanonical := by
  induction l generalizing s va with
  | nil => exact h
  | cons b l ih =>
    unfold State.mapData
    refine ih (pokeBytes (mapPage ?_))
    exact h.of_mem rfl

theorem of_loadObject (h : s.MemCanonical) {ctx : BitVec 16} {a0 root : Nat} {r : State × Nat} (loads : s.loadObject ctx a0 root = .ok r) :
    r.1.MemCanonical := by
  unfold State.loadObject at loads
  dsimp only at loads
  split at loads
  · cases loads
  split at loads
  · cases loads
  split at loads
  · cases loads
  split at loads
  · cases loads
  split at loads
  · cases loads
  split at loads
  · cases loads
  · cases loads
    exact h.mapData.of_mem rfl

theorem finishCmd (h : s.MemCanonical) {c : Cmd} {result code : Nat} : (s.finishCmd c result code).MemCanonical := .ite h h.pokeBytes.pokeBytes

theorem hostHbm (h : s.MemCanonical) {pa : Nat} {a : HostAccess} : (s.hostHbm pa a).MemCanonical := by
  cases a with
  | write => exact h.pokeBytes.hostDone
  | read => exact .ite h h

theorem dropUnreachable (h : s.MemCanonical) : s.dropUnreachable.MemCanonical := by
  unfold State.dropUnreachable
  refine collSettle ?_
  exact h.of_mem rfl

theorem onColls (h : s.MemCanonical) {id : Nat} {f : Coll → Coll} : (s.onColls id f).MemCanonical := by
  unfold State.onColls
  refine collSettle ?_
  exact h.of_mem rfl

theorem bar0Write (h : s.MemCanonical) {o : Nat} {v : Word64} : (s.bar0Write o v).MemCanonical := by
  unfold State.bar0Write
  refine .ite h (.ite h (.ite (dropUnreachable (resendLost ?_)) h))
  exact h.of_mem rfl

theorem portReady (h : s.MemCanonical) {p : Fin 18} : (s.portReady p).MemCanonical := h.setReady

theorem portDown (h : s.MemCanonical) {p : Fin 18} : (s.portDown p).MemCanonical := by
  unfold State.portDown
  dsimp only
  refine dropUnreachable (foldl (ite ?_ h.updPort.portReady) fun _ _ ht => ht.sendPeer)
  exact h.updPort.portReady.of_mem rfl

theorem grant (h : s.MemCanonical) {port : BitVec 5} : (s.grant port).MemCanonical := by
  unfold State.grant
  split <;> exact h

theorem of_takeWrite {t : State} (h : s.MemCanonical) {port : BitVec 5} {w : PortWrite} (took : s.takeWrite port w = some t) :
    t.MemCanonical := by
  unfold State.takeWrite at took
  split at took
  · cases took
    exact h.deliverWrite.grant
  · split at took
    · cases took
    · cases took
      exact h
end State.MemCanonical

/-! ### Words of L, X and S (02 R37; 05 R97) -/

/-- What a word of a step strand comes to has canonical memory. -/
def WordRes.Canonical : WordRes → Prop
  | .ok t _ _ => t.MemCanonical
  | .also t => t.MemCanonical
  | _ => True

theorem WordRes.Canonical.ite {p : Prop} [Decidable p] {a b : WordRes} (ha : a.Canonical) (hb : b.Canonical) :
    (if p then a else b).Canonical := by
  split
  · exact ha
  · exact hb

namespace State.MemCanonical
variable {s : State}

theorem stepWord (h : s.MemCanonical) {t : StepStrand} {hitch : Hitch} {i : Instr} {paced : Bool} {tokens posts : List (BitVec 2)}
    {act : State → WordRes} (acts : (act s).Canonical) : (Machine.stepWord t hitch i paced tokens posts act s).MemCanonical := by
  have acted {wants posted : List (BitVec 2)} {p : Step} : (stepWord.stepAct t i paced wants posted p act s).MemCanonical := by
    unfold stepWord.stepAct
    refine .ite h.pacedTick ?_
    split
    case h_1 => exact h.stepTick
    case h_2 => exact h.stepTrap
    case h_3 => exact .ite h.stepTick h
    case h_4 e =>
      rw [e] at acts
      exact acts
    case h_5 e =>
      rw [e] at acts
      exact issueWord acts
  unfold Machine.stepWord
  dsimp only
  split
  · exact h.modifierFault
  split
  · exact h.stepTick
  split
  · exact h.stepTick
  · exact acted

section
variable {d n : Nat} {zero : Bool}

theorem stepLoopAct (h : s.MemCanonical) {t : StepStrand} {lc : BitVec 2} {o : BitVec 10} : (stepLoopAct t lc n o s).Canonical := by
  unfold Machine.stepLoopAct
  exact .ite trivial (.ite trivial (.ite trivial (.ite h.updStep h.updStep)))

theorem loadGlobal (h : s.MemCanonical) {els : List (Elem × Nat)} {extra : List LatchTarget} {all : List Elem} {ff : Option (BitVec 4)} :
    (s.loadGlobal d zero els extra all ff).Canonical := by
  unfold State.loadGlobal
  refine .ite trivial ?_
  exact (ite h.readElems h).fresh.updV

theorem loadLocal (h : s.MemCanonical) {els : List (Elem × Nat)} {extra : List LatchTarget} : (s.loadLocal d zero els extra).Canonical := by
  unfold State.loadLocal
  dsimp only
  split
  · trivial
  · exact h

theorem vload (h : s.MemCanonical) {els : List Elem} : (vload s d zero els).Canonical := by
  unfold Machine.vload
  split
  · trivial
  · trivial
  · exact .ite h.loadGlobal h.loadLocal

theorem of_storeWord {t : State} {held : Bool} (h : s.MemCanonical) {l : List Run} (done : s.storeWord l = (.done t, held)) :
    t.MemCanonical := by
  unfold State.storeWord at done
  dsimp only at done
  split at done
  · exact h.of_storeRuns (congrArg Prod.fst done)
  · split at done
    case h_1 e =>
      cases done
      exact (h.of_storeRuns e).updV
    case h_2 => cases done

theorem vstore (h : s.MemCanonical) {els : List Elem} {joined : Bool} : (vstore s d els joined).Canonical := by
  unfold Machine.vstore
  split
  · trivial
  · trivial
  · dsimp only
    split
    case h_1 => trivial
    case h_2 e => exact h.of_storeWord e
end
end State.MemCanonical

/-! ### Meanings (05 R82) -/

/-- The execution, if it ends in a next state, ends in one with canonical memory. -/
def EndsCanonical (o : Host.Outcome State Fault Refusal) : Prop := ∀ t, o = .next t → t.MemCanonical

namespace EndsCanonical

theorem next {t : State} (h : t.MemCanonical) : EndsCanonical (.next t) := fun u e => by
  cases e
  exact h

theorem ite {p : Prop} [Decidable p] {a b : Host.Outcome State Fault Refusal} (ha : EndsCanonical a) (hb : EndsCanonical b) :
    EndsCanonical (if p then a else b) := by
  split
  · exact ha
  · exact hb

theorem settle {o : Host.Outcome State Fault Refusal} (h : EndsCanonical o) : EndsCanonical (settle o) := by
  cases o with
  | next t => exact .next (h t rfl).rotate
  | fault | refused => exact fun _ e => by cases e
end EndsCanonical

namespace State.MemCanonical
variable {s : State}

/-! ### Words of C (06) -/

section
variable {i : Instr} {srcs : List (BitVec 5)} {d a b : BitVec 5} {n : Nat}

theorem cWord (h : s.MemCanonical) {act : State → State} (acts : ∀ t, t.MemCanonical → (act t).MemCanonical) :
    EndsCanonical (cWord i srcs act s) := .ite (.next h.cTrap) (.ite (.next h.cTick) (.ite (.next (acts s h)) (.next h.cTick)))

theorem aluR (h : s.MemCanonical) {f : Word64 → Word64 → Word64} : EndsCanonical (aluR i d a b n f s) := h.cWord fun _ ht => ht.result

theorem aluU (h : s.MemCanonical) {f : Word64 → Word64} : EndsCanonical (aluU i d a f s) := h.cWord fun _ ht => ht.result

theorem aluDiv (h : s.MemCanonical) {f : Word64 → Word64 → Word64} : EndsCanonical (aluDiv i d a b f s) :=
  h.cWord fun _ ht => .ite ht.cTick ht.updC.result

theorem cLoad (h : s.MemCanonical) {imm : BitVec 15} {ext : Nat → Word64} {after : Nat → State → State}
    (keeps : ∀ pa t, t.MemCanonical → (after pa t).MemCanonical) : EndsCanonical (cLoad i d a imm n ext after s) :=
  h.cWord fun _ ht => .ite ht.cTrap (ht.cPage fun _ _ hu => hu.cAccess fun _ hv => hv.loadAt fun _ _ hw => keeps _ _ hw.loaded)

theorem cStore (h : s.MemCanonical) {imm : BitVec 15} : EndsCanonical (cStore i b a imm n s) := by
  refine h.cWord fun _ ht => .ite ht.cTrap (ht.cPage fun _ u hu => ?_)
  split
  · exact hu.cAccess fun _ hv => hv.storeAt
  · exact hu.storeAt

theorem cAtomic (h : s.MemCanonical) {use : BitVec 2} {eff : Nat → Nat → State → EffKind} : EndsCanonical (cAtomic i srcs d a use eff s) := by
  refine h.cWord fun _ ht => .ite ht.cTrap (.ite ht.cTrap (ht.cPage fun _ u hu => .ite hu.cTrap (.ite ?buffers (.ite hu.overflow
    (.ite hu.cWait ?performs)))))
  case buffers =>
    split
    case h_1 e => exact (hu.of_put e).cDone
    case h_2 => exact hu.cWait
  case performs =>
    split
    · exact hu.cTrap
    dsimp only
    split
    · exact hu.pin.cTrap
    split
    case h_1 e => exact .ite (hu.pin.of_put e).cDone (hu.pin.of_put e).resultLate
    case h_2 => exact hu.cWait

theorem cBranch (h : s.MemCanonical) {o : BitVec 15} {p : Word64 → Word64 → Bool} : EndsCanonical (cBranch i a b o p s) :=
  h.cWord fun _ ht => .ite (ht.branch fun _ hu => hu) ht.updC.cTick

theorem execQtry (h : s.MemCanonical) {v e : BitVec 5} {p : BitVec 2} : EndsCanonical (execQtry v e p s) :=
  h.cWord fun _ ht => .ite (ht.cPop fun _ _ hu => hu.setS.result) ht.result

theorem execTpost (h : s.MemCanonical) {p : BitVec 2} : EndsCanonical (execTpost p s) :=
  h.cWord fun _ ht => .ite ht.updCore.cDone ht.cWait

theorem execTwait (h : s.MemCanonical) {p : BitVec 2} : EndsCanonical (execTwait p s) :=
  h.cWord fun _ ht => .ite ht.updCore.comeAfter.cDone ht.cWait

theorem execFmt (h : s.MemCanonical) : EndsCanonical (execFmt a s) :=
  h.cWord fun _ ht => .ite ht.cTrap (.ite ht.updCore.cDone ht.cWait)

theorem execTlbinv (h : s.MemCanonical) {ctx : BitVec 1} : EndsCanonical (execTlbinv a ctx s) :=
  h.cWord fun _ ht => ht.cIf fun _ hu => hu.of_mem rfl

theorem execFverd (h : s.MemCanonical) {hd : BitVec 10} {item : BitVec 2} : EndsCanonical (execFverd d hd item s) :=
  h.cWord fun _ ht => ht.cIf fun _ hu => .ite hu.cTrap hu.result

theorem execNestGo (h : s.MemCanonical) : EndsCanonical (execNestGo s) := by
  refine h.cWord fun t ht => ?_
  dsimp only
  split
  · exact ht.cTrap
  · exact ht.cWait
  · exact ht.updM.popFormat.addNest.updC.cDone

theorem execColl (h : s.MemCanonical) : EndsCanonical (execColl d a s) := by
  refine h.cWord fun t ht => .ite ht.cWait ?_
  split
  · exact ht.freezeCore
  · exact ht.cTrap
  · exact ht.cTrap
  · exact .ite (ht.cPut fun _ hu => hu.result) ht.startColl.result

theorem execCleatArrive (h : s.MemCanonical) : EndsCanonical (execCleatArrive s) := by
  refine h.cWord fun t ht => ?_
  split
  · exact ht.cDone
  · exact .ite ht.cTrap (.ite (ht.cPut fun _ hu => hu.updC.cDone) ht.perform.updC.cDone)

theorem execCleatExpect (h : s.MemCanonical) : EndsCanonical (execCleatExpect a s) := by
  refine h.cWord fun t ht => ?_
  dsimp only
  split
  · exact ht.cDone
  · exact .ite ht.cTrap (.ite (ht.cPut fun _ hu => hu.updC.cDone) ht.perform.updC.cDone)

theorem execCleatWait (h : s.MemCanonical) : EndsCanonical (execCleatWait a s) := by
  refine h.cWord fun t ht => ?_
  dsimp only
  split
  · exact .ite ht.cDone (.ite ht.cTrap ht.cWait)
  · exact ht.cDone

theorem execClkdiv (h : s.MemCanonical) {dom : BitVec 2} : EndsCanonical (execClkdiv a dom s) := by
  refine h.cWord fun t ht => .ite ht.cTrap ?_
  split
  · exact ht.cDone
  · exact ht.updKernel.cDone

theorem execFcast (h : s.MemCanonical) {hd : BitVec 10} {kind : BitVec 2} {group : BitVec 3} :
    EndsCanonical (execFcast a hd kind group s) := by
  refine h.cWord fun t ht => ht.cIf fun u hu => ?_
  dsimp only
  split
  · split
    · exact hu.cTrap
    · refine .ite hu.cTrap (.ite hu.cTrap (.ite hu.cTrap (.ite hu.overflow (.ite hu ?_))))
      split <;> exact hu
  · exact hu
end

/-! ### Words of L, X and S (07; 08; 09) -/

section
variable {hitch : Hitch} {i : Instr} {t : StepStrand} {d b c : BitVec 6} {g pn : BitVec 4} {o : BitVec 8}

theorem vecWord (h : s.MemCanonical) {fault : State → Option (BitVec 8 × Word64)} {names : State → List Nat} {lat : State → Nat}
    {k : State → List LatchTarget × Flags} : EndsCanonical (vecWord hitch i fault names lat k s) := by
  refine .next (h.stepWord (.ite trivial ?_))
  split
  · trivial
  · exact h

theorem vec1 (h : s.MemCanonical) {d a : BitVec 6} {bad : Nat → Bool} {lat : Nat → Nat} {f : Nat → Nat → Nat → Nat × Flags} :
    EndsCanonical (vec1 hitch i d a pn bad lat f s) := h.vecWord

theorem vec2 (h : s.MemCanonical) {d a b : BitVec 6} {bad : Nat → Bool} {lat : Nat → Nat} {f : Nat → Nat → Nat → Nat → Nat × Flags} :
    EndsCanonical (vec2 hitch i d a b pn bad lat f s) := h.vecWord

theorem vec3 (h : s.MemCanonical) {d a b c : BitVec 6} {f : Nat → Nat → Nat → Nat → Nat → Nat × Flags} :
    EndsCanonical (vec3 hitch i d a b c f s) := h.vecWord

theorem predWord (h : s.MemCanonical) {d : BitVec 4} {k : State → List Bool} : EndsCanonical (predWord hitch i d k s) := h.vecWord

theorem permute (h : s.MemCanonical) {d : BitVec 6} {names : List Nat} {f : State → Nat → List Nat} :
    EndsCanonical (permute hitch i d names f s) := h.vecWord

theorem dequant (h : s.MemCanonical) {d a : BitVec 6} {k : BitVec 4} {m : BitVec 2} {seed : Option (BitVec 3)} :
    EndsCanonical (dequant hitch i d a k m seed s) := h.vecWord

theorem windowWord (h : s.MemCanonical) {fault : State → Option (BitVec 8 × Word64)} {f : State → Vec → Vec} :
    EndsCanonical (windowWord hitch i fault f s) := by
  refine .next (h.stepWord ?_)
  split
  · trivial
  · exact h

theorem matWord (h : s.MemCanonical) {op : MOp} : EndsCanonical (matWord hitch i op s) := by
  have taken : (if op.pops then s.popFormat s.core.m.next else s).MemCanonical := .ite h h
  refine .next (h.stepWord (.ite (.ite trivial trivial) (.ite trivial (.ite trivial ?_))))
  dsimp only
  split
  · exact .ite (stepTrap (.ite h taken)) trivial
  · exact taken

theorem xferWord (h : s.MemCanonical) {u : XUnit} {op : XOp} {a : BitVec 4} : EndsCanonical (xferWord u hitch i op a g s) := by
  refine .next (h.stepWord (.ite (.ite trivial trivial) ?_))
  split
  · trivial
  split
  · show State.MemCanonical _
    split
    · exact h.fillSectors
    · exact h
  · exact h.of_mem (s.enterUnit_spec u i _ _ _).1

theorem execEndStrand (h : s.MemCanonical) : EndsCanonical (execEndStrand t hitch s) :=
  .next (h.stepWord (.ite trivial (.ite trivial h.takeTokens.endWith.afterEnd)))

theorem execBrq (h : s.MemCanonical) {q : BitVec 2} {cond : BitVec 3} {o : BitVec 17} : EndsCanonical (execBrq t hitch q cond o s) :=
  .next (h.stepWord (.ite trivial (.ite (.ite trivial h.popData.updStep) h.popData)))

theorem execVld (h : s.MemCanonical) : EndsCanonical (execVld hitch d g o pn s) :=
  .next (h.stepWord (.ite trivial (.ite trivial h.vload)))

theorem execVst (h : s.MemCanonical) : EndsCanonical (execVst hitch d g o pn s) :=
  .next (h.stepWord (.ite trivial (.ite trivial h.vstore)))

theorem execVldFf (h : s.MemCanonical) : EndsCanonical (execVldFf hitch d g o pn s) := by
  refine .next (h.stepWord (.ite trivial (.ite trivial (.ite trivial ?_))))
  extract_lets w els
  split
  · trivial
  · trivial
  split
  · trivial
  · exact .ite h.loadGlobal h.loadLocal

theorem execVldx (h : s.MemCanonical) : EndsCanonical (execVldx hitch d g b pn s) := by
  refine .next (h.stepWord (.ite trivial ?_))
  split
  · trivial
  · exact h.vload

theorem execVstx (h : s.MemCanonical) : EndsCanonical (execVstx hitch d g b pn s) := by
  refine .next (h.stepWord (.ite trivial ?_))
  split
  · trivial
  · exact h.vstore

theorem execMnest (h : s.MemCanonical) : EndsCanonical (execMnest hitch s) := by
  refine .next (h.stepWord ?_)
  dsimp only
  split
  · trivial
  · trivial
  · exact h
end

theorem execReservedOpcode (h : s.MemCanonical) {t : Strand} {w : Word32} : EndsCanonical (execReservedOpcode t w s) := by
  unfold Machine.execReservedOpcode
  dsimp only
  split
  · exact .next h.cTrap
  · exact .next h.stepTrap
  · exact .next h.stepTrap
  · split
    · exact .next h.modifierFault
    · exact .next h.stepTrap

/-! ### Events of the core (07 R151, R174; 08; 09; 20) -/

theorem execGlobalLoadArrival (h : s.MemCanonical) : EndsCanonical (execGlobalLoadArrival s) := by
  unfold Machine.execGlobalLoadArrival
  split
  · refine .next ?_
    split
    · exact .ite h h
    · exact h
  · dsimp only
    refine .next ?_
    split
    · exact h.at_.pageAbsent
    · exact h
    · split
      · exact h
      · exact ((ite h.at_.readHomes h.at_).updV.foldl fun _ _ ht => ht.writeTarget).xDone

theorem execCLoadArrival (h : s.MemCanonical) : EndsCanonical (execCLoadArrival s) := by
  unfold Machine.execCLoadArrival
  split
  · exact .next h
  · refine .next ?_
    split
    · exact h.at_.updC.keepLine
    · exact h

theorem execHitchPostDelivery (h : s.MemCanonical) : EndsCanonical (execHitchPostDelivery s) := by
  unfold Machine.execHitchPostDelivery
  split <;> exact .next h

section
variable {u : XUnit}

theorem execTransferComplete (h : s.MemCanonical) : EndsCanonical (execTransferComplete u s) := by
  unfold Machine.execTransferComplete
  split
  · exact .next h
  · refine .next (endFull (xferComplete ?_))
    exact h.of_mem rfl

theorem execTransferAtomArrival (h : s.MemCanonical) {pa : BitVec 52} : EndsCanonical (execTransferAtomArrival u pa s) := by
  unfold Machine.execTransferAtomArrival
  split
  · exact .next h
  · exact .ite (.next h.xferComplete.endFull) (.next h)

theorem execTfarLanding (h : s.MemCanonical) : EndsCanonical (execTfarLanding s) := by
  unfold Machine.execTfarLanding
  split
  · exact .next h
  · refine .next (land ?_)
    exact h.of_mem rfl

theorem execRemoteReadRequest (h : s.MemCanonical) : EndsCanonical (execRemoteReadRequest s) := by
  unfold Machine.execRemoteReadRequest
  split
  · exact .next h
  refine .ite (.next h) ?_
  split
  · split
    · refine .ite ?_ (.next h.fresh.updXHead)
      split
      · exact .next h
      · exact .next h.updXHead
    · exact .next h
  · exact .next h
end

theorem execMatrixEntryStart (h : s.MemCanonical) : EndsCanonical (execMatrixEntryStart s) := by
  unfold Machine.execMatrixEntryStart
  split
  · refine .ite ?_ (.ite (.next h) (.next (settle h.matTo (MEntry.inView_canonical h.matTo fun _ ht => ht.startOp))))
    extract_lets t
    have ht : t.MemCanonical := h.matTo.updM
    split
    · exact .next ht
    · exact .next (.ite ht.emptyNest ht.updM)
  · exact .next h

theorem execMatrixOccupancyEnd (h : s.MemCanonical) : EndsCanonical (execMatrixOccupancyEnd s) := by
  unfold Machine.execMatrixOccupancyEnd
  split
  · exact .next h
  · exact .ite (.next h) (.next h.matTo.updM)

theorem execMatrixResultVisible (h : s.MemCanonical) : EndsCanonical (execMatrixResultVisible s) := by
  unfold Machine.execMatrixResultVisible
  split
  · exact .next h
  · refine .next ?_
    split
    case h_1 => exact h.matTo.updM
    case h_2 e =>
      have written := of_writeAll h.matTo.updM e
      exact .ite written.orFlags.xDone.setFactorRegs written.orFlags.xDone

theorem execNestPoint (h : s.MemCanonical) : EndsCanonical (execNestPoint s) := by
  unfold Machine.execNestPoint
  split
  · refine .ite (.next h) (.next ?_)
    split
    · exact h
    · extract_lets _ _ t
      have ht : t.MemCanonical := settle h.matTo (MEntry.inView_canonical h.matTo fun _ hu => hu.startOp)
      exact .ite ht.updM ht
  · exact .next h

theorem execOperandFetchArrival (h : s.MemCanonical) : EndsCanonical (execOperandFetchArrival s) := by
  unfold Machine.execOperandFetchArrival
  split <;> exact .next h

theorem execFactorColumnBoundary (h : s.MemCanonical) : EndsCanonical (execFactorColumnBoundary s) := by
  unfold Machine.execFactorColumnBoundary
  split
  · exact .ite (.next h.matSync.columnInStop) (.ite (.next h) (.next (ite h.matTo h.matTo.colStep).factorNext))
  · exact .next h

theorem execFactorisationBreakdown (h : s.MemCanonical) : EndsCanonical (execFactorisationBreakdown s) := by
  unfold Machine.execFactorisationBreakdown
  split
  · split
    · exact .next h
    · exact .next (.ite h.matTo.updM.setFactorRegs h.matTo.updM.setFactorRegs.raiseAt)
  · exact .next h

theorem execSelfTestFailure (h : s.MemCanonical) : EndsCanonical (execSelfTestFailure s) := by
  unfold Machine.execSelfTestFailure
  split
  · exact .next h
  · exact .ite (.next h) (.ite (.next h.updM) (.ite (.next h) (.next h.matTo.updM.fenceCore.testFailed)))

theorem execQueueDeadlock (h : s.MemCanonical) : EndsCanonical (execQueueDeadlock s) := by
  unfold Machine.execQueueDeadlock
  split
  · exact .next h
  · exact .next h.at_.enterTrap

theorem execTrapEntry (h : s.MemCanonical) {cause : BitVec 8} {src : BitVec 4} {tval : Word64} :
    EndsCanonical (execTrapEntry cause src tval s) :=
  .next (.ite h.pageAbsent (.ite h.overflow (.ite h.testFailed (.ite h.enterTrap (.ite h.cTrap (.ite h.stepTrap (.ite h.stepTrap
    (.ite h.stepTrap (.ite h h.enterTrap)))))))))

theorem execPendingEntryTaken (h : s.MemCanonical) : EndsCanonical (execPendingEntryTaken s) := by
  unfold Machine.execPendingEntryTaken
  split
  · exact .next h
  · refine .ite (.next h) ?_
    extract_lets t0 t1 t2 t3
    have h0 : t0.MemCanonical := .ite h h
    have h1 : t1.MemCanonical := (ite h0.deliverFirst h0).updCore
    have h3 : t3.MemCanonical := h1.enterTrap.updCore
    exact .next (.ite h3.deliverIrq h3)

theorem execCorrectableRetryResolved (h : s.MemCanonical) : EndsCanonical (execCorrectableRetryResolved s) := by
  unfold Machine.execCorrectableRetryResolved
  split
  · exact .next h
  · exact .next h
  · exact .next (.ite h h)

theorem execTranslationWalkComplete (h : s.MemCanonical) : EndsCanonical (execTranslationWalkComplete s) := by
  unfold Machine.execTranslationWalkComplete
  split
  · exact .next (h.foldl fun _ _ ht => ht.onCore fun _ hu => hu.walkEnds)
  · exact .next h

/-! ### Events of tasks, kernels and forecasts (02; 10; 18; 19) -/

section
variable {kid : BitVec 16} {c : Cmd}

theorem execFrameTick (h : s.MemCanonical) : EndsCanonical (execFrameTick s) := by
  unfold Machine.execFrameTick
  dsimp only
  exact .next (foldl (ite (h.of_mem rfl) (h.of_mem rfl)) fun _ _ ht => ht.frameKernel)

theorem execTaskRelease (h : s.MemCanonical) {vdie vcore : BitVec 8} : EndsCanonical (execTaskRelease kid vdie vcore s) := by
  unfold Machine.execTaskRelease
  split
  · exact .next h
  split
  · exact .ite (.next (h.updCoreAt.onCore fun _ ht => ht.seeAll).updKernel) (.next h)
  · exact .next h

theorem execSpliceComplete (h : s.MemCanonical) : EndsCanonical (execSpliceComplete s) := by
  unfold Machine.execSpliceComplete
  refine .ite (.next h) ?_
  split
  · exact .next h.updTask.endTrap
  · exact .next h.retireTask

theorem execCleatComplete (h : s.MemCanonical) : EndsCanonical (execCleatComplete kid s) := by
  unfold Machine.execCleatComplete
  split
  · refine .ite (.next h) ?_
    dsimp only
    split
    · exact .next h.at_.updKernel.yieldTo
    · exact .next h.at_.updKernel
  · exact .next h

theorem execKwaitRelease (h : s.MemCanonical) : EndsCanonical (execKwaitRelease s) := .ite (.next h) (.next h)

theorem execVersionPublication (h : s.MemCanonical) : EndsCanonical (execVersionPublication s) := by
  unfold Machine.execVersionPublication
  split
  · exact .next h
  · split
    · exact .next h.pageRequest.updKernel
    · exact .next h.publish

theorem execPredictionReady (h : s.MemCanonical) : EndsCanonical (execPredictionReady s) := by
  unfold Machine.execPredictionReady
  split
  · exact .ite (.next h) (.next h.updTask)
  · exact .next h

theorem execVerdictArrival (h : s.MemCanonical) : EndsCanonical (execVerdictArrival s) := by
  unfold Machine.execVerdictArrival
  split
  · exact .next h
  · refine .next ?_
    split
    · refine passVerdict ?_
      exact h.of_mem rfl
    · refine squashPrimary ?_
      exact h.of_mem rfl
    · exact h.of_mem rfl

theorem execOrphanForecast (h : s.MemCanonical) : EndsCanonical (execOrphanForecast kid s) := by
  unfold Machine.execOrphanForecast
  split
  · exact .next h
  · refine .next (h.foldl fun t p ht => ?_)
    split
    · exact ht.squashPrimary
    · exact ht

theorem execStreamResident (h : s.MemCanonical) : EndsCanonical (execStreamResident kid s) := by
  unfold Machine.execStreamResident
  split
  · exact .next h
  · exact .next (.ite h.stage.updKernel h)

theorem execKernelIssue (h : s.MemCanonical) : EndsCanonical (execKernelIssue kid s) := by
  unfold Machine.execKernelIssue
  split
  · exact .next h
  split
  · exact .next h
  · refine .ite (.next h) ?_
    extract_lets t k t1 t2
    have ht : t.MemCanonical := h.at_.reassignAll
    have h2 : t2.MemCanonical := .ite ht.updKernel.setKernelState ht.updKernel
    exact .ite (.next ht) (.ite (.next ht.killKernel) (.next (h2.foldl fun _ _ hu => hu.restoreVc)))

/-! ### Commands (19 R317 to R328) -/

theorem execLoad (h : s.MemCanonical) : EndsCanonical (execLoad c s) := by
  unfold Machine.execLoad
  extract_lets go
  have loads {t : State} {root : Nat} (ht : t.MemCanonical) : (go t root).MemCanonical := by
    unfold go
    split
    case h_1 e => exact (ht.of_loadObject e).finishCmd
    case h_2 => exact h.finishCmd
  split
  · exact .next (.ite (loads h) h.finishCmd)
  · exact .next (loads (h.of_mem rfl))

theorem inContext (h : s.MemCanonical) {k : BitVec 16 → State} (keeps : ∀ ctx, (k ctx).MemCanonical) : EndsCanonical (s.inContext c k) :=
  .next (.ite (keeps _) h.finishCmd)

theorem execCmdLaunch (h : s.MemCanonical) : EndsCanonical (execCmdLaunch c s) := by
  refine h.inContext fun ctx => ?_
  extract_lets desc r image t
  have ht : t.MemCanonical := h.acceptLaunch.replayPump
  split
  · exact ht.finishCmd
  · exact .ite ht.finishCmd ht.updSegment.finishCmd

theorem execRecord (h : s.MemCanonical) : EndsCanonical (execRecord c s) := by
  refine h.inContext fun ctx => .ite h.finishCmd (.ite h.finishCmd (finishCmd ?_))
  exact h.of_mem rfl

theorem execRecend (h : s.MemCanonical) : EndsCanonical (execRecend c s) := by
  refine h.inContext fun ctx => ?_
  split
  · exact h.finishCmd
  · exact h.updSegment.finishCmd

theorem execDrop (h : s.MemCanonical) : EndsCanonical (execDrop c s) := by
  refine h.inContext fun ctx => ?_
  dsimp only
  split
  · exact h.finishCmd
  · refine .ite h.finishCmd (.ite h.finishCmd (finishCmd ?_))
    exact h.of_mem rfl

theorem execAbort (h : s.MemCanonical) : EndsCanonical (execAbort c s) := .next (.ite h.finishCmd h.killKernel.finishCmd)

theorem execUnload (h : s.MemCanonical) : EndsCanonical (execUnload c s) := by
  refine .next (.ite h.finishCmd (.ite h.finishCmd (finishCmd ?_)))
  exact h.of_mem rfl

theorem execCommandRingPoll (h : s.MemCanonical) : EndsCanonical (execCommandRingPoll s) := by
  unfold Machine.execCommandRingPoll
  exact .ite (.next h) (.ite (.next (.ite h (h.of_mem rfl))) (.ite (.next (h.of_mem rfl)) (.next (h.of_mem rfl))))
end

/-! ### Events of clocks, the host, links and service (20 to 23) -/

section
variable {port : BitVec 5}

theorem execExternalInterrupt (h : s.MemCanonical) {source : BitVec 16} : EndsCanonical (execExternalInterrupt source s) :=
  .next (.ite h (.ite (.ite h h) h))

theorem execTimerCompareMatch (h : s.MemCanonical) : EndsCanonical (execTimerCompareMatch s) := by
  unfold Machine.execTimerCompareMatch
  refine .ite (.next h) ?_
  dsimp only
  refine .next ?_
  split
  · exact h.of_mem rfl
  · refine onCore ?_ fun _ ht => .ite ht ht
    exact h.of_mem rfl

theorem execFrequencyTransition (h : s.MemCanonical) : EndsCanonical (execFrequencyTransition s) := by
  unfold Machine.execFrequencyTransition
  split
  · refine .next ?_
    split <;> exact h
  · exact .next (h.foldl fun _ _ ht => ht.updCoreAt).updKernel

theorem execBoostBoundary (h : s.MemCanonical) : EndsCanonical (execBoostBoundary s) := by
  unfold Machine.execBoostBoundary
  exact .ite (.next h) (.next (h.of_mem rfl))

theorem execFallStep (h : s.MemCanonical) {kid : BitVec 16} : EndsCanonical (execFallStep kid s) := by
  unfold Machine.execFallStep
  split
  · exact .next h
  · exact .ite (.next h) (.next h.at_.updKernel)

theorem execTimerDisciplineStep (h : s.MemCanonical) {add : Bool} : EndsCanonical (execTimerDisciplineStep add s) := by
  have there : (if add then s else s.at_ (s.now + 1)).MemCanonical := .ite h h.at_
  unfold Machine.execTimerDisciplineStep
  exact .ite (.next h) (.next (there.of_mem rfl))

theorem execPtpEventMessage (h : s.MemCanonical) {offset : BitVec 64} {grandmaster : Bool} :
    EndsCanonical (execPtpEventMessage port offset grandmaster s) :=
  .next (.ite h (.ite h.masterMessage (.ite h.fresh.masterMessage h.fresh)))

theorem execSupervisorReadyTimeout (h : s.MemCanonical) : EndsCanonical (execSupervisorReadyTimeout s) := by
  unfold Machine.execSupervisorReadyTimeout
  refine .ite (.next h) (.next (supervisorReady ?_))
  exact h.of_mem rfl

theorem execBar0RegisterWrite (h : s.MemCanonical) {off : BitVec 20} {a : HostAccess} : EndsCanonical (execBar0RegisterWrite off a s) := by
  refine .next ?_
  split
  · exact h
  · exact .ite h h
  · exact .ite h.bar0Write.hostDone h

theorem execBar2Access (h : s.MemCanonical) {off : BitVec 36} {a : HostAccess} : EndsCanonical (execBar2Access off a s) :=
  .next (.ite h (.ite h (.ite h (.ite h h.hostHbm))))

theorem execCxlMemAccess (h : s.MemCanonical) {off : BitVec 20} {a : HostAccess} : EndsCanonical (execCxlMemAccess off a s) :=
  .next (.ite h.hostHbm h)

theorem execFlitReceive (h : s.MemCanonical) {f : Flit} : EndsCanonical (execFlitReceive port f s) := by
  unfold Machine.execFlitReceive
  split
  case h_1 => exact .next h
  case h_2 p _ =>
    have acked : ((s.updPort p fun q => q.acked f.ack).pump p).MemCanonical := h.updPort.pump
    refine .next (.ite h (.ite h.updPort (.ite (.ite acked acked.updPort) ?_)))
    dsimp only
    split
    case h_1 => exact acked.updPort
    case h_2 took =>
      refine pump (updPort ?_)
      split at took
      · cases took
        exact acked
      · exact acked.of_takeWrite took

theorem execNakReceived (h : s.MemCanonical) {seq : BitVec 12} : EndsCanonical (execNakReceived port seq s) := by
  unfold Machine.execNakReceived
  split
  · exact .next h
  · refine .ite (.next h) (.next (.ite h.updPort (dropUnreachable (portReady ?_))))
    exact h.of_mem rfl

theorem execPortTrainingComplete (h : s.MemCanonical) {lanes : BitVec 4} {peer : BitVec 16} :
    EndsCanonical (execPortTrainingComplete port lanes peer s) := by
  unfold Machine.execPortTrainingComplete
  split
  · exact .next h
  · refine .ite (.next h) (.ite (.next h.portDown.updPort) ?_)
    extract_lets f old r t
    have ht : t.MemCanonical := by
      refine updPort (fresh ?_)
      unfold r
      split <;> exact h
    exact .next ht.portReady.pump.resendLost

theorem execLinkLoss (h : s.MemCanonical) : EndsCanonical (execLinkLoss port s) := by
  unfold Machine.execLinkLoss
  split
  · exact .next h
  · exact .next h.portDown

theorem execHeldRemoteWriteRelease (h : s.MemCanonical) : EndsCanonical (execHeldRemoteWriteRelease s) := by
  unfold Machine.execHeldRemoteWriteRelease
  split
  · exact .next h
  · refine .next (grant (deliverWrite ?_))
    exact h.of_mem rfl

theorem execCollectiveContribution (h : s.MemCanonical) {id : BitVec 16} {gen : BitVec 32} {rank to_ chunk : BitVec 6} {data : List Byte} :
    EndsCanonical (execCollectiveContribution id gen rank to_ chunk data s) := by
  refine .next (.ite h (.ite h.onColls (onColls ?_)))
  exact h.of_mem rfl

theorem execCollectiveNotice (h : s.MemCanonical) {id : BitVec 16} {gen : BitVec 32} {rank chunk : BitVec 6} :
    EndsCanonical (execCollectiveNotice id gen rank chunk s) := .next (.ite h (.ite h.onColls h.onColls))

theorem execCollectiveTimeout (h : s.MemCanonical) {id : BitVec 16} : EndsCanonical (execCollectiveTimeout id s) := by
  unfold Machine.execCollectiveTimeout
  split
  · exact .next h
  · exact .next h.at_.onColls

theorem execCollectiveDropNotice (h : s.MemCanonical) {id : BitVec 16} {gen : BitVec 32} {from_ dropped : BitVec 6} {bitmap : Word64} :
    EndsCanonical (execCollectiveDropNotice id gen from_ dropped bitmap s) := .next (.ite h.onColls (h.of_mem rfl))

/-- Power good keeps the cells of host memory alone (23 R375). -/
theorem execPowerGood (h : s.MemCanonical) : EndsCanonical (execPowerGood s) := .next (Memory.wf_filter h _)

theorem execUnitReady (h : s.MemCanonical) {u : ReadyUnit} : EndsCanonical (execUnitReady u s) := by
  refine .next (.ite h ?_)
  cases u with
  | die => exact .ite h h.setReady
  | cluster => exact .ite h.setReady h
  | hostPort => exact h.setReady
  | port p =>
    dsimp only
    split
    · exact h
    · exact h.portReady

theorem execStackTrainingComplete (h : s.MemCanonical) {stack : BitVec 5} {replayed ok : Bool} :
    EndsCanonical (execStackTrainingComplete stack replayed ok s) := by
  unfold Machine.execStackTrainingComplete
  extract_lets old valid good r t
  have ht : t.MemCanonical := by
    refine updStack ?_
    unfold r
    split
    · exact h
    · split <;> exact h
  exact .next (.ite h (.ite ht.setReady ht))

theorem execThermalSample (h : s.MemCanonical) {isStack : Bool} {n : BitVec 5} {t : BitVec 16} :
    EndsCanonical (execThermalSample isStack n t s) := by
  unfold Machine.execThermalSample
  split
  · exact .next (h.of_mem rfl)
  · exact .next h

theorem execPatrolScrub (h : s.MemCanonical) {pa : BitVec 52} {uncorrectable : Bool} : EndsCanonical (execPatrolScrub pa uncorrectable s) := by
  unfold Machine.execPatrolScrub
  refine .ite (.next h) (.next (.ite (.ite h (updStack ?_)) h.updStack))
  exact h.of_mem rfl

theorem execUnitFailure (h : s.MemCanonical) {u : FailUnit} : EndsCanonical (execUnitFailure u s) := by
  refine .next ?_
  cases u with
  | stack => exact h.updStack.setReady
  | die d =>
    dsimp only
    refine foldl (foldl (setReady ?_) fun _ _ ht => ht.setReady) fun _ _ ht => ht.onCore fun _ hu => hu.loseTask
    exact h.of_mem rfl
end

/-! ### Every instruction, every cycle and every step -/

/-- An instruction keeps the memory in its canonical form: each by the rule of the operations its meaning is written with. -/
theorem exec (h : s.MemCanonical) (i : Instr) : EndsCanonical (Machine.exec i s) := by
  cases i with dsimp only [Machine.exec]
  | add | sub | and | or | xor | shl | shr | sra | slt | sltu | seq | min | max | minu | maxu | mul | mulh | mulhu => exact h.aluR
  | divu | remu => exact h.aluDiv
  | clz | popc | extS | extZ | addi | andi | ori | xori | shli | shri | srai | slti | sltui => exact h.aluU
  | lui | apc => exact h.cWord fun _ ht => ht.result
  | ldB | ldH | ldW | ldD | lduB | lduH | lduW | ldLast => exact h.cLoad fun _ _ ht => ht
  | stB | stH | stW | stD => exact h.cStore
  | amo | cas => exact h.cAtomic
  | beq | bne | blt | bge | bltu | bgeu => exact h.cBranch
  | jal | jalr => exact h.cWord fun _ ht => ht.branch fun _ hu => hu
  | loop | loopi => exact h.cWord fun _ ht => ht.loopIssue
  | qpush => exact h.cWord fun _ ht => ht.cPush
  | qpop => exact h.cWord fun _ ht => ht.cPop fun _ _ hu => hu.result
  | qtry => exact h.execQtry
  | tpost => exact h.execTpost
  | twait => exact h.execTwait
  | fmt => exact h.execFmt
  | nestW => exact h.cWord fun _ ht => .ite ht.cTrap ht.updM.cDone
  | nestGo => exact h.execNestGo
  | launch => exact h.cWord fun _ ht => ht.cPut fun _ hu => hu.updC.result
  | stream => exact h.cWord fun _ ht => ht.streamWord.cDone
  | ktrig => exact h.cWord fun _ ht => ht.cPut fun _ hu => hu.cDone
  | kwait => exact h.cWord fun _ ht => .ite ht.seeAll.cDone ht.cWait
  | texit => exact h.cWord fun _ ht => ht.cIf fun _ hu => hu.updTask.updC.afterEnd
  | coll => exact h.execColl
  | cleatArrive => exact h.execCleatArrive
  | cleatExpect => exact h.execCleatExpect
  | cleatWait => exact h.execCleatWait
  | fence => exact h.cWord fun _ ht => ht.of_mem rfl
  | csrr => exact h.cWord fun _ ht => ht.csrAccess fun _ _ hu => hu.result
  | csrw => exact h.cWord fun _ ht => ht.csrAccess fun _ _ hu => hu.csrWrite.cDone
  | csrx => exact h.cWord fun _ ht => ht.csrAccess fun _ _ hu => hu.csrWrite.result
  | trap | ecall => exact h.cWord fun _ ht => ht.softTrap
  | rett => exact h.cWord fun _ ht => ht.cIf fun _ hu => hu.updCore.returnTrap
  | clkdiv => exact h.execClkdiv
  | pace => exact h.cWord fun _ ht => ht.csrWrite.cDone
  | idle => exact h.cWord fun _ ht => ht.cIf fun _ hu => hu.updC.cWait
  | tlbinv => exact h.execTlbinv
  | fcast => exact h.execFcast
  | fverd => exact h.execFverd
  | endStrand => exact h.execEndStrand
  | gadd | gaddi | gli | stepTpost | stepTwait | vectorModifier => exact .next (h.stepWord h)
  | stepLoopImm | stepLoopReg => exact .next (h.stepWord h.stepLoopAct)
  | brq => exact h.execBrq
  | stepQpush => exact .next (h.stepWord (.ite h trivial))
  | stepQpop => exact .next (h.stepWord (.ite h.popData trivial))
  | vadd | vsub | vmul | vmin | vmax | vand | vor | vxor | vshl | vshr | vsra | vaddsat | vsubsat => exact h.vec2
  | vabs | vneg | vnot | vmov | vrcp | vrsqrt | vsqrt | vexp2 | vlog2 => exact h.vec1
  | vfma | vfms | vfnma => exact h.vec3
  | vperm | vzip | vunzip | vslide | vsplat => exact h.permute
  | pcnt | plogic => exact h.predWord
  | vcmp | vred | vsel | vbcast | ppop | vcvt | vhad | vmaxe | vq => exact h.vecWord
  | vdq | vdqInv => exact h.dequant
  | vld => exact h.execVld
  | vst => exact h.execVst
  | vldFf => exact h.execVldFf
  | vldx => exact h.execVldx
  | vstx => exact h.execVstx
  | vshape | vrot | vwin => exact h.windowWord
  | mldb | mmab | mmas | mdrain | mzero | mtest | mtrsmLo | mtrsmUp | mlu | mchol | mgiv | mpiv | mfst => exact h.matWord
  | mnest => exact h.execMnest
  | tld | tldT | tst | wopen | wopenW | tfar | wadv | supd | wdrop | tsum | tfetch | tcopy | tpref => exact h.xferWord
  | reservedOpcode => exact h.execReservedOpcode
  | vectorResultArrival => exact .next h.at_.deliver
  | globalLoadArrival => exact h.execGlobalLoadArrival
  | cLoadArrival => exact h.execCLoadArrival
  | hitchPostDelivery => exact h.execHitchPostDelivery
  | transferComplete => exact h.execTransferComplete
  | transferAtomArrival => exact h.execTransferAtomArrival
  | tfarLanding => exact h.execTfarLanding
  | remoteReadRequest => exact h.execRemoteReadRequest
  | matrixEntryStart => exact h.execMatrixEntryStart
  | matrixOccupancyEnd => exact h.execMatrixOccupancyEnd
  | matrixResultVisible => exact h.execMatrixResultVisible
  | nestPoint => exact h.execNestPoint
  | operandFetchArrival => exact h.execOperandFetchArrival
  | factorColumnBoundary => exact h.execFactorColumnBoundary
  | factorisationBreakdown => exact h.execFactorisationBreakdown
  | selfTestInject => exact .next h.matTo.updM
  | selfTestFailure => exact h.execSelfTestFailure
  | queueDeadlock => exact h.execQueueDeadlock
  | trapEntry => exact h.execTrapEntry
  | pendingEntryTaken => exact h.execPendingEntryTaken
  | correctableRetryResolved => exact h.execCorrectableRetryResolved
  | translationWalkComplete => exact h.execTranslationWalkComplete
  | pgdoneWrite | apbaseWrite | faultWordClear | lifeCounterFlush | signedReport | orderlyStop => exact .next (h.of_mem rfl)
  | frameTick => exact h.execFrameTick
  | taskRelease => exact h.execTaskRelease
  | spliceComplete => exact h.execSpliceComplete
  | cleatComplete => exact h.execCleatComplete
  | kwaitRelease => exact h.execKwaitRelease
  | versionPublication => exact h.execVersionPublication
  | predictionReady => exact h.execPredictionReady
  | verdictArrival => exact h.execVerdictArrival
  | orphanForecast => exact h.execOrphanForecast
  | streamResident => exact h.execStreamResident
  | kernelIssue => exact h.execKernelIssue
  | externalInterrupt => exact h.execExternalInterrupt
  | timerCompareMatch => exact h.execTimerCompareMatch
  | frequencyTransition => exact h.execFrequencyTransition
  | boostBoundary => exact h.execBoostBoundary
  | fallStep => exact h.execFallStep
  | timerDisciplineStep => exact h.execTimerDisciplineStep
  | ptpEventMessage => exact h.execPtpEventMessage
  | supervisorReadyTimeout => exact h.execSupervisorReadyTimeout
  | commandRingPoll => exact h.execCommandRingPoll
  | load => exact h.execLoad
  | cmdLaunch => exact h.execCmdLaunch
  | cmdStream => exact h.inContext fun _ => h.streamWord.finishCmd
  | record => exact h.execRecord
  | recend => exact h.execRecend
  | drop => exact h.execDrop
  | abort => exact h.execAbort
  | unload => exact h.execUnload
  | reservedCommand => exact .next h.finishCmd
  | bar0RegisterWrite => exact h.execBar0RegisterWrite
  | bar2Access => exact h.execBar2Access
  | cxlMemAccess => exact h.execCxlMemAccess
  | flitReceive => exact h.execFlitReceive
  | nakReceived => exact h.execNakReceived
  | portTrainingComplete => exact h.execPortTrainingComplete
  | linkLoss => exact h.execLinkLoss
  | heldRemoteWriteRelease => exact h.execHeldRemoteWriteRelease
  | collectiveContribution => exact h.execCollectiveContribution
  | collectiveNotice => exact h.execCollectiveNotice
  | collectiveTimeout => exact h.execCollectiveTimeout
  | collectiveDropNotice => exact h.execCollectiveDropNotice
  | powerGood => exact h.execPowerGood
  | unitReady => exact h.execUnitReady
  | stackTrainingComplete => exact h.execStackTrainingComplete
  | thermalSample => exact h.execThermalSample
  | patrolScrub => exact h.execPatrolScrub
  | ratePointSwitch | rowRemap | channelFence | activationAlert => exact .next h.updStack
  | refresh => exact .next h.fresh.updStack
  | unitFailure => exact h.execUnitFailure

theorem of_stepPause {t : State} (h : s.MemCanonical) {k : StepStrand} (paused : s.stepPause k = some t) : t.MemCanonical := by
  unfold State.stepPause at paused
  split at paused
  · cases paused
    exact h.stepTick
  split at paused
  · cases paused
    exact h.updStep.stepTick
  · cases paused

theorem of_pause {t : State} (h : s.MemCanonical) (paused : s.pause = some t) : t.MemCanonical := by
  unfold State.pause at paused
  split at paused
  case h_1 =>
    split at paused
    · cases paused
      exact h.cTick
    split at paused
    · cases paused
      exact h.cTick
    · cases paused
  all_goals exact h.of_stepPause paused

theorem cycle (h : s.MemCanonical) : EndsCanonical s.cycle := by
  unfold State.cycle
  split
  case h_1 paused => exact .next (h.begin_.of_pause paused)
  case h_2 => exact h.begin_.exec _

theorem step (h : s.MemCanonical) : EndsCanonical (Machine.step s) := by
  unfold Machine.step
  split
  case h_1 =>
    refine .ite (EndsCanonical.settle (exec ?_ _)) fun _ stops => ?_
    · exact h
    · cases stops
  case h_2 =>
    split
    · exact (h.at_.focus.exec _).settle
    · exact h.cycle.settle

end State.MemCanonical
end Sys2Proof.Machine

/-- Settles O58: an instruction of the agenda, an event and a cycle each keep the memory canonical, by the rules of the operations they are
written with. -/
theorem memoryStaysCanonical : Obligations.MemoryStaysCanonical := by
  unfold Obligations.MemoryStaysCanonical
  exact fun _ t h e => h.step t e
end

section
/-! SUPPORT. O47: the poll of the command ring, case by case, and the bytes that a completed command writes (19 R317, R318). -/
open Sys2Proof Sys2Proof.Machine

namespace Sys2Proof.Machine

/-! ### Numbers in memory -/

/-- The bytes of a value give it back, as far as they reach. -/
theorem leNat_leBytes (n v : Nat) : leNat (leBytes n v) = v % 256 ^ n := by
  induction n generalizing v with
  | zero => simp [leBytes, leNat, Nat.mod_one]
  | succ n ih => rw [leBytes, leNat, ih, pow_succ', Nat.mod_mul, BitVec.toNat_ofNat]

/-- A number that stands at an address in its bytes. -/
theorem Memory.readNat_of_read {m : List Host.Cell} {a n v : Nat} (bytes : ∀ k, k < n → Memory.read m (a + k) = (leBytes n v).getD k 0) :
    Memory.readNat m a n = v % 256 ^ n := by
  have stored : Memory.readBytes m a n = leBytes n v := by
    rw [Memory.readBytes_eq]
    refine List.ext_getElem (by simp [leBytes_length]) fun k hk hl => ?_
    rw [List.length_map, List.length_range] at hk
    rw [List.getElem_map, List.getElem_range, bytes k hk, List.getD_eq_getElem _ _ hl]
  rw [Memory.readNat, stored, leNat_leBytes]

/-! ### Two writes, one after the other -/

theorem State.pokeLines_dead (s : State) (own : Bool) (stamp : Nat) (l : List (Nat × List (Byte × Byte))) (p : Nat) :
    (s.pokeLines own stamp l).deadByte p = s.deadByte p := by
  induction l generalizing s with
  | nil => rfl
  | cons q l ih => rw [State.pokeLines_cons, ih, State.pokeLine_dead]

/-- A write of global memory fences no channel and fails no stack. -/
theorem State.pokeBytes_dead {s : State} {pa : Nat} (global : windowOf pa = none) (own : Bool) (bs : List Byte) (stamp p : Nat) :
    (s.pokeBytes own pa bs stamp).deadByte p = s.deadByte p := by
  rw [State.pokeBytes, State.poke, global]
  exact State.pokeLines_dead ..

/-! ### A command's completion -/

/-- What the completion of a command writes into its entry: RESULT, CSTAT and the bytes after it (19 R318). -/
def completionBytes (c : Cmd) (result code : Nat) : List Byte :=
  leBytes 8 result ++ leBytes 8 (c.tag.toNat * 2 ^ 32 + code) ++ leBytes 16 0

theorem completionBytes_length (c : Cmd) (result code : Nat) : (completionBytes c result code).length = 32 := by
  simp [completionBytes, leBytes_length]

/-- RESULT stands first in it. -/
theorem completionBytes_result (c : Cmd) (result code k : Nat) (h : k < 8) :
    (completionBytes c result code).getD k 0 = (leBytes 8 result).getD k 0 := by
  rw [completionBytes, List.append_assoc, List.getD_append _ _ _ _ (by rwa [leBytes_length])]

/-- CSTAT stands behind RESULT. -/
theorem completionBytes_cstat (c : Cmd) (result code k : Nat) (h : k < 8) :
    (completionBytes c result code).getD (8 + k) 0 = (leBytes 8 (c.tag.toNat * 2 ^ 32 + code)).getD k 0 := by
  rw [completionBytes, List.append_assoc, List.getD_append_right _ _ _ _ (by rw [leBytes_length]; omega), leBytes_length, Nat.add_sub_cancel_left,
    List.getD_append _ _ _ _ (by rwa [leBytes_length])]

/-- A command completes with two writes: into its entry, and of CONS. -/
theorem State.finishCmd_eq {s : State} (ring : s.cmdRing = true) (c : Cmd) (result code : Nat) : s.finishCmd c result code =
    (s.pokeBytes false (s.cmdEntry s.cmdCons + 32) (completionBytes c result code)).pokeBytes false (s.host.cmdbase.toNat + 8)
      (leBytes 8 (s.cmdCons + 1)) := by
  simp only [State.finishCmd, ring, Bool.not_true, Bool.false_eq_true, if_false, completionBytes]

/-- Completing a command leaves C as it was. -/
theorem State.finishCmd_core_c (s : State) (c : Cmd) (result code : Nat) : (s.finishCmd c result code).core.c = s.core.c := by
  unfold State.finishCmd
  split
  · rfl
  · exact ((State.poke_core ..).trans (State.poke_core ..)).c

section
variable {s : State} (canonical : s.MemCanonical) (ring : s.cmdRing = true)
  (entry : windowOf (s.cmdEntry s.cmdCons + 32) = none) (entryLive : ∀ k, k < 32 → s.deadByte (s.cmdEntry s.cmdCons + 32 + k) = false)
  (consLive : ∀ k, k < 8 → s.deadByte (s.host.cmdbase.toNat + 8 + k) = false)
include canonical ring entry entryLive consLive

/-- A byte of memory after a command's completion: one of CONS, one of the second half of the entry, or as before. -/
theorem State.finishCmd_read (c : Cmd) (result code x : Nat) :
    Memory.read (s.finishCmd c result code).mem x =
      if s.host.cmdbase.toNat + 8 ≤ x ∧ x < s.host.cmdbase.toNat + 8 + 8 then (leBytes 8 (s.cmdCons + 1)).getD (x - (s.host.cmdbase.toNat + 8)) 0
      else if s.cmdEntry s.cmdCons + 32 ≤ x ∧ x < s.cmdEntry s.cmdCons + 32 + 32 then
        (completionBytes c result code).getD (x - (s.cmdEntry s.cmdCons + 32)) 0
      else Memory.read s.mem x := by
  have length := completionBytes_length c result code
  rw [State.finishCmd_eq ring, State.pokeBytes_read (State.pokeBytes_wf canonical ..) _ _ _ _
      (.inr fun k hk => by rw [State.pokeBytes_dead entry]; exact consLive k (by rwa [leBytes_length] at hk)),
    State.pokeBytes_read canonical _ _ _ _ (.inr fun k hk => entryLive k (by rwa [length] at hk)), leBytes_length, length]

/-- RESULT, CSTAT and CONS after a command's completion, where CONS lies below the entry's second half. -/
theorem State.finishCmd_fields (apart : s.host.cmdbase.toNat + 16 ≤ s.cmdEntry s.cmdCons + 32) (c : Cmd) (result code : Nat) :
    Memory.readNat (s.finishCmd c result code).mem (s.cmdEntry s.cmdCons + 32) 8 = result % 2 ^ 64
      ∧ Memory.readNat (s.finishCmd c result code).mem (s.cmdEntry s.cmdCons + 40) 8 = (c.tag.toNat * 2 ^ 32 + code) % 2 ^ 64
      ∧ Memory.readNat (s.finishCmd c result code).mem (s.host.cmdbase.toNat + 8) 8 = (s.cmdCons + 1) % 2 ^ 64 := by
  have bytes := State.finishCmd_read canonical ring entry entryLive consLive c result code
  refine ⟨?result, ?cstat, ?cons⟩
  case result =>
    refine Memory.readNat_of_read fun k hk => ?_
    rw [bytes, if_neg (by omega), if_pos (by omega), Nat.add_sub_cancel_left, completionBytes_result _ _ _ _ hk]
  case cstat =>
    refine Memory.readNat_of_read fun k hk => ?_
    rw [bytes, if_neg (by omega), if_pos (by omega), show s.cmdEntry s.cmdCons + 40 + k - (s.cmdEntry s.cmdCons + 32) = 8 + k by omega,
      completionBytes_cstat _ _ _ _ hk]
  case cons =>
    refine Memory.readNat_of_read fun k hk => ?_
    rw [bytes, if_pos (by omega), Nat.add_sub_cancel_left]

end

/-! ### The poll -/

/-- The command of the first entry that waits. -/
def State.firstCmd (s : State) : Cmd :=
  let f := fun (o n : Nat) => Memory.readNat s.mem (s.cmdEntry s.cmdCons + o) n
  ⟨BitVec.ofNat 16 (f 0 2), BitVec.ofNat 32 (f 4 4), BitVec.ofNat 64 (f 8 8), BitVec.ofNat 64 (f 16 8), BitVec.ofNat 64 (f 24 8)⟩

section
variable {s : State} (ring : s.cmdRing = true)
include ring

theorem execCommandRingPoll_takes (inRange : s.cmdPending ≤ s.cmdSize) (waits : s.cmdPending ≠ 0) :
    execCommandRingPoll s = .next { s with
      disp := { s.disp with ringStop := false }
      agenda := s.agenda ++ [commandOf (Memory.readNat s.mem (s.cmdEntry s.cmdCons + 2) 2) s.firstCmd] } := by
  rw [execCommandRingPoll, ring, if_neg (by decide), if_neg (Nat.not_lt.mpr inRange), if_neg waits]
  rfl

theorem execCommandRingPoll_idle (empty : s.cmdPending = 0) :
    execCommandRingPoll s = .next { s with disp := { s.disp with ringStop := false } } := by
  rw [execCommandRingPoll, ring, if_neg (by decide), if_neg (by omega), if_pos empty]

theorem execCommandRingPoll_refuses (outOfRange : s.cmdSize < s.cmdPending) (runs : s.disp.ringStop = false) :
    execCommandRingPoll s = .next (({ s with disp := { s.disp with ringStop := true } }).raiseFault 0) := by
  rw [execCommandRingPoll, ring, if_neg (by decide), if_pos outOfRange, runs]
  rfl

end

/-- A bit of the fault word that was raised is set. -/
theorem State.raiseFault_bit (s : State) (bit : Nat) (h : bit < 3) : (s.raiseFault bit).host.fault.getLsbD bit = true := by
  rw [State.raiseFault, BitVec.getLsbD_or, BitVec.getLsbD_ofNat, Nat.testBit_two_pow_self, decide_eq_true h, Bool.and_true, Bool.or_true]

end Sys2Proof.Machine

/-- Settles O47: the poll by its three cases, and the completion by what each byte of memory reads after it. -/
theorem commandsAreTakenAndCompleted : Obligations.CommandsAreTakenAndCompleted := by
  unfold Obligations.CommandsAreTakenAndCompleted
  intro s c result code ring
  refine ⟨?takes, ?idle, ?refuses, ?completes⟩
  case takes => exact fun inRange waits => ⟨_, execCommandRingPoll_takes ring inRange waits, rfl, rfl, rfl, rfl⟩
  case idle => exact execCommandRingPoll_idle ring
  case refuses =>
    exact fun outOfRange runs => ⟨_, execCommandRingPoll_refuses ring outOfRange runs, rfl, State.raiseFault_bit _ 0 (by decide), rfl, rfl⟩
  case completes =>
    intro canonical entry entryLive _ consLive apart
    obtain ⟨hresult, hcstat, hcons⟩ := State.finishCmd_fields canonical ring entry entryLive consLive apart c result code
    refine ⟨hresult, hcstat, hcons, State.finishCmd_core_c .., fun x outEntry outCons => ?_⟩
    rw [State.finishCmd_read canonical ring entry entryLive consLive, if_neg (by omega), if_neg (by omega)]
end

section
/-! SUPPORT. O48: each command of the host, case by case, a kernel's streams, and the issue of a kernel to its cores (19 R318 to R328). -/
open Sys2Proof Sys2Proof.Machine

namespace Sys2Proof.Machine

theorem field_lowest (v n : Nat) : field v 0 n = v % 2 ^ n := by rw [field, pow_zero, Nat.div_one]

/-! ### LOAD (18 R314; 19 R318) -/

section
variable {s : State} {c : Cmd}

section
variable {r : BitVec 16 × Nat} (root : s.xlat.roots.find? (fun r => r.1 == cmdCtx c) = some r)
include root

/-- A LOAD with its context's root table that is taken. -/
theorem execLoad_taken {x : State × Nat} (same : r.2 = c.a2.toNat) (loads : s.loadObject (cmdCtx c) c.a0.toNat r.2 = .ok x) :
    execLoad c s = .next (x.1.finishCmd c x.2 0) := by
  simp only [execLoad, root, if_pos same, loads]

/-- One that is refused completes with its section and changes nothing else. -/
theorem execLoad_refused {b : Bad} (same : r.2 = c.a2.toNat) (loads : s.loadObject (cmdCtx c) c.a0.toNat r.2 = .error b) :
    execLoad c s = .next (s.finishCmd c (b.1 * 2 ^ 32 + b.2 % 2 ^ 32) 3) := by
  simp only [execLoad, root, if_pos same, loads]

theorem execLoad_otherRoot (other : r.2 ≠ c.a2.toNat) : execLoad c s = .next (s.finishCmd c 0 2) := by
  simp only [execLoad, root, if_neg other]

end

/-- The first LOAD of a context that is taken fixes its root table. -/
theorem execLoad_first {x : State × Nat} (root : s.xlat.roots.find? (fun r => r.1 == cmdCtx c) = none)
    (loads : State.loadObject { s with xlat := { s.xlat with roots := s.xlat.roots ++ [(cmdCtx c, c.a2.toNat)] } } (cmdCtx c) c.a0.toNat c.a2.toNat
      = .ok x) : execLoad c s = .next (x.1.finishCmd c x.2 0) := by
  simp only [execLoad, root, loads]

/-! ### Commands with a context -/

theorem State.inContext_unknown (unknown : ¬s.knownCtx (cmdCtx c) = true) (k : BitVec 16 → State) :
    s.inContext c k = .next (s.finishCmd c 0 2) := congrArg _ (if_neg unknown)

section
variable (known : s.knownCtx (cmdCtx c) = true)
include known

theorem State.inContext_known (k : BitVec 16 → State) : s.inContext c k = .next (k (cmdCtx c)) := congrArg _ (if_pos known)

/-- A LAUNCH that is refused, or of a context without an open segment (log 33). -/
theorem execCmdLaunch_unrecorded {r : State × Nat}
    (submits : s.acceptLaunch (cmdCtx c) (s.agentLoad (cmdCtx c) c.a0.toNat 64) 0 true none none = r)
    (apart : r.2 = 0 ∨ r.1.replayPump.openSegment (cmdCtx c) = none) : execCmdLaunch c s = .next (r.1.replayPump.finishCmd c r.2 0) := by
  have segment : (if r.2 = 0 then none else r.1.replayPump.openSegment (cmdCtx c)) = none := by
    split
    · rfl
    · next accepted => exact apart.resolve_left accepted
  rw [execCmdLaunch, State.inContext_known known]
  simp only [submits, segment]

/-- One that is accepted is copied into its context's open segment, or finds that full (19 R327). -/
theorem execCmdLaunch_recorded {r : State × Nat} {g : Segment}
    (submits : s.acceptLaunch (cmdCtx c) (s.agentLoad (cmdCtx c) c.a0.toNat 64) 0 true none none = r)
    (accepted : r.2 ≠ 0) (opened : r.1.replayPump.openSegment (cmdCtx c) = some g) :
    execCmdLaunch c s = .next (if 64 ≤ g.items.length then r.1.replayPump.finishCmd c r.2 5
      else (r.1.replayPump.updSegment g fun g => { g with items := g.items ++ [⟨s.agentLoad (cmdCtx c) c.a0.toNat 64,
        (s.descriptor (cmdCtx c) (s.agentLoad (cmdCtx c) c.a0.toNat 64)).image, r.2, cmdCtx c⟩] }).finishCmd c r.2 0) := by
  rw [execCmdLaunch, State.inContext_known known]
  simp only [submits, if_neg accepted, opened]

theorem execCmdStream_stages : execCmdStream c s = .next ((s.streamWord (cmdCtx c) c.a0.toNat).finishCmd c 0 0) := by
  rw [execCmdStream, State.inContext_known known]

/-! ### Segments and marks (19 R327, R328) -/

/-- RECORD opens a segment in place of the context's one of its number. -/
theorem execRecord_opens (closed : s.openSegment (cmdCtx c) = none)
    (room : (s.disp.segments.filter fun g => !(g.id == c.a0.toNat % 2 ^ 8 && g.ctx == cmdCtx c)).length < 256) :
    execRecord c s = .next (State.finishCmd { s with disp := { s.disp with
      segments := (s.disp.segments.filter fun g => !(g.id == c.a0.toNat % 2 ^ 8 && g.ctx == cmdCtx c))
        ++ [⟨c.a0.toNat % 2 ^ 8, cmdCtx c, true, []⟩] } } c 0 0) := by
  rw [execRecord, State.inContext_known known]
  simp only [field_lowest, closed, Option.isSome_none, Bool.false_eq_true, if_false, if_neg (Nat.not_le.mpr room)]

theorem execRecord_refused (opened : s.openSegment (cmdCtx c) ≠ none) : execRecord c s = .next (s.finishCmd c 0 6) := by
  rw [execRecord, State.inContext_known known]
  simp only [Option.isSome_iff_ne_none.mpr opened, if_true]

theorem execRecend_closes {g : Segment} (opened : s.openSegment (cmdCtx c) = some g) :
    execRecend c s = .next ((s.updSegment g fun g => { g with isOpen := false }).finishCmd c g.items.length 0) := by
  rw [execRecend, State.inContext_known known]
  simp only [opened]

theorem execRecend_refused (closed : s.openSegment (cmdCtx c) = none) : execRecend c s = .next (s.finishCmd c 0 6) := by
  rw [execRecend, State.inContext_known known]
  simp only [closed]

/-- DROP marks a range, or finds 256 marks. -/
theorem execDrop_marks {g : Segment}
    (segment : s.disp.segments.find? (fun g => g.id == c.a1.toNat / 2 ^ 16 % 2 ^ 8 && g.ctx == cmdCtx c) = some g)
    (stands : ∀ r ∈ g.items, (s.image? r.image).isSome = true) :
    execDrop c s = .next (if 256 ≤ s.disp.marks.length then s.finishCmd c 0 5 else State.finishCmd { s with disp := { s.disp with
      marks := s.disp.marks ++ [⟨cmdCtx c, c.a0.toNat, c.a2.toNat, c.a1.toNat / 2 ^ 16 % 2 ^ 8⟩] } } c 0 0) := by
  have noneGone : g.items.any (fun r => (s.image? r.image).isNone) = false := by
    rw [List.any_eq_false]
    intro r among
    rw [← Option.not_isSome, stands r among]
    decide
  rw [execDrop, State.inContext_known known]
  simp only [field, segment, noneGone, Bool.false_eq_true, if_false]

theorem execDrop_refused (segment : s.disp.segments.find? (fun g => g.id == c.a1.toNat / 2 ^ 16 % 2 ^ 8 && g.ctx == cmdCtx c) = none) :
    execDrop c s = .next (s.finishCmd c 0 4) := by
  rw [execDrop, State.inContext_known known]
  simp only [field, segment]

end

/-! ### ABORT and UNLOAD (19 R318, R324) -/

/-- ABORT ends the kernel of its number, or finds that it has ended. -/
theorem execAbort_eq : execAbort c s = .next (if s.kernelEnded (c.a0.toNat % 2 ^ 16) = true then s.finishCmd c 0 4
    else (s.killKernel (c.a0.toNat % 2 ^ 16) 5 0).finishCmd c 0 0) := by
  simp only [execAbort, field_lowest]

/-- UNLOAD of an image whose kernels have ended, while no range is marked as dropped. -/
theorem execUnload_unloads {i : Image} (image : s.image? c.a0.toNat = some i)
    (ended : ∀ k ∈ s.disp.kernels, k.image = c.a0.toNat → 3 ≤ k.state) (unmarked : s.disp.marks = []) :
    execUnload c s = .next (State.finishCmd
      { s with disp := { s.disp with images := s.disp.images.filter fun i => i.id != c.a0.toNat } } c 0 0) := by
  have idle : s.disp.kernels.any (fun k => k.image == c.a0.toNat && decide (k.state < 3)) = false := by
    rw [List.any_eq_false]
    intro k among
    rw [Bool.and_eq_true, beq_iff_eq, decide_eq_true_eq]
    exact fun ⟨its, lives⟩ => Nat.not_le.mpr lives (ended k among its)
  have unneeded : s.disp.segments.any (fun g => g.items.any (fun r => r.image == c.a0.toNat)
      && s.disp.marks.any fun m => m.seg == g.id && m.ctx == g.ctx) = false := by
    simp [unmarked]
  simp only [execUnload, image, idle, unneeded, Option.isNone_some, Bool.false_eq_true, or_self, if_false]

theorem execUnload_refused (image : s.image? c.a0.toNat = none) : execUnload c s = .next (s.finishCmd c 0 4) := by
  simp only [execUnload, image, Option.isNone_none, true_or, if_true]

/-- The commands that name a context refuse one without a root table. -/
theorem exec_unknownContext (unknown : ¬s.knownCtx (cmdCtx c) = true) :
    ∀ i ∈ ([.cmdLaunch c, .cmdStream c, .record c, .recend c, .drop c] : List Instr), exec i s = .next (s.finishCmd c 0 2) := by
  have refused : execCmdLaunch c s = .next (s.finishCmd c 0 2) ∧ execCmdStream c s = .next (s.finishCmd c 0 2)
      ∧ execRecord c s = .next (s.finishCmd c 0 2) ∧ execRecend c s = .next (s.finishCmd c 0 2) ∧ execDrop c s = .next (s.finishCmd c 0 2) := by
    simp only [execCmdLaunch, execCmdStream, execRecord, execRecend, execDrop, State.inContext_unknown unknown, and_self]
  simp only [List.forall_mem_cons, List.not_mem_nil, false_implies, implies_true, and_true]
  exact refused

end

/-! ### Streams and the issue (19 R321, R322) -/

/-- A kernel is found under its own number. -/
theorem State.kernel?_kid {s : State} {kid : Nat} {k : Kernel} (kernel : s.kernel? kid = some k) : k.kid = kid := by
  simpa using List.find?_some kernel

theorem execStreamResident_pins {s : State} {kid : BitVec 16} {k : Kernel} (kernel : s.kernel? kid.toNat = some k) (may : s.mayPin k = true) :
    execStreamResident kid s = .next ((s.stage k.ctx [k.kid] k.streams).updKernel k.kid fun k => { k with resident := true }) := by
  simp only [execStreamResident, kernel, if_pos may]

/-- The kernel takes its cores: it holds them from now on, and its images are taken up (19 R322). -/
def State.takeCores (r : State) (n : Kernel) : State :=
  r.updKernel n.kid fun k => { k with holds := true, since := if k.state = 1 then r.now else k.since,
                                      vcs := k.vcs.map fun v => { v with image := none } }

/-- Some image of a kernel may not be restored where its virtual core now stands (20 R346). -/
theorem Kernel.foreign_iff (n : Kernel) : (n.vcs.any fun v => (v.image.map fun m => m.foreign v).getD false) = true ↔
    ∃ v ∈ n.vcs, ∃ m, v.image = some m ∧ m.foreign v = true := by
  rw [List.any_eq_true]
  refine exists_congr fun v => and_congr_right fun _ => ?_
  cases v.image <;> simp

section
variable {s : State} {kid : BitVec 16} {k : Kernel} {i : Image} (kernel : s.kernel? kid.toNat = some k) (image : s.image? k.image = some i)
  (may : s.mayIssue k = true) {r : State} (reassigned : (s.at_ (copyTick0 s.now)).reassignAll k i = r)
include kernel image may reassigned

/-- A kernel ended where no other core was left for one of its virtual cores (23 R374). -/
theorem execKernelIssue_ended (ended : r.kernelEnded k.kid = true) : execKernelIssue kid s = .next r := by
  have named : ((r.kernel? k.kid).getD k).kid = k.kid := by
    cases found : r.kernel? k.kid with
    | none => rfl
    | some n => exact State.kernel?_kid found
  simp only [execKernelIssue, kernel, image, may, reassigned, named, ended, Bool.not_true, Bool.false_eq_true, if_false, if_true]

section
variable {n : Kernel} (lives : r.kernelEnded k.kid = false) (found : r.kernel? k.kid = some n)
include lives found

theorem execKernelIssue_takes (restores : ∀ v ∈ n.vcs, ∀ m, v.image = some m → m.foreign v = false) :
    execKernelIssue kid s = .next (n.vcs.foldl (fun s v => s.restoreVc i v)
      (if n.state = 1 then (r.takeCores n).setKernelState n.kid 2 0 else r.takeCores n)) := by
  have own : ¬(n.vcs.any fun v => (v.image.map fun m => m.foreign v).getD false) = true := by
    rw [Kernel.foreign_iff]
    rintro ⟨v, among, m, held, foreign⟩
    rw [restores v among m held] at foreign
    cases foreign
  rw [← State.kernel?_kid found] at lives
  simp only [execKernelIssue, kernel, image, may, reassigned, found, Option.getD_some, lives, Bool.not_true, Bool.false_eq_true, if_false,
    if_neg own, State.takeCores]

theorem execKernelIssue_kills (foreign : ∃ v ∈ n.vcs, ∃ m, v.image = some m ∧ m.foreign v = true) :
    execKernelIssue kid s = .next (r.killKernel n.kid 5 0) := by
  have refused := n.foreign_iff.mpr foreign
  rw [← State.kernel?_kid found] at lives
  simp only [execKernelIssue, kernel, image, may, reassigned, found, Option.getD_some, lives, Bool.not_true, Bool.false_eq_true, if_false,
    if_pos refused]

end
end

end Sys2Proof.Machine

/-- Settles O48: each command by the lemma of its case, and a kernel's streams and its issue by theirs. -/
theorem commandsOfTheHost : Obligations.CommandsOfTheHost := by
  unfold Obligations.CommandsOfTheHost
  constructor
  · intro s c ctx known kid seg
    refine ⟨fun x r root => ⟨execLoad_taken root, execLoad_otherRoot root⟩, fun x => execLoad_first, fun r b root => execLoad_refused root,
      ?launch, execCmdStream_stages, ?record, fun g h => execRecend_closes h, fun h => execRecend_refused h,
      fun g h => execDrop_marks h, fun h => execDrop_refused h, execAbort_eq, fun i => execUnload_unloads,
      execUnload_refused, rfl, exec_unknownContext⟩
    case launch =>
      intro h desc r t
      exact ⟨execCmdLaunch_unrecorded h rfl, fun g => execCmdLaunch_recorded h rfl⟩
    case record =>
      intro h rest
      exact ⟨execRecord_opens h, execRecord_refused h⟩
  · intro s kid k kernel
    refine ⟨execStreamResident_pins kernel, ?issue⟩
    intro i image may r
    refine ⟨execKernelIssue_ended kernel image may rfl, fun n lives found => ?_⟩
    exact ⟨execKernelIssue_takes kernel image may rfl lives found, execKernelIssue_kills kernel image may rfl lives found⟩
end

section
/-!
SUPPORT. O18: the frame that an exception writes, and what of the core stays in a stop (20 R331 to R333, R335).
-/
open Sys2Proof Sys2Proof.Machine

namespace Sys2Proof.Machine

/-! ### What a stop brings up to its tick (20 R331) -/

/-- The counts brought up to a tick are those of the matrix unit, of the transfer units, and of the strands that have ended; an ended strand's next
cycle moves on, and that is all that a stop changes of a strand. -/
theorem Core.stopped_keeps (c : Core) (tick : Nat) :
    let k := if c.freeze.isSome then c.thaw tick else c.sync tick
    k.x = c.x ∧ k.v = c.v ∧ k.csr = c.csr ∧ k.div = c.div ∧ ∀ t, k.strand t = { c.strand t with next := (k.strand t).next }
      ∧ ((c.strand t).cond ≠ .ended → k.strand t = c.strand t) := by
  have thawed : ∃ i o, c.thaw tick = { c with inb := i, outb := o } := by
    unfold Core.thaw
    split <;> exact ⟨_, _, rfl⟩
  have step : ∀ p : Step, p.syncTo c tick = { p with next := (p.syncTo c tick).next } ∧ (p.cond ≠ .ended → p.syncTo c tick = p) := by
    intro p
    unfold Step.syncTo
    split
    · next ended => exact ⟨rfl, fun runs => absurd ended runs⟩
    · exact ⟨rfl, fun _ => rfl⟩
  obtain ⟨i, o, frozen⟩ := thawed
  dsimp only
  split
  · rw [frozen]
    exact ⟨rfl, rfl, rfl, rfl, fun t => by cases t <;> exact ⟨rfl, fun _ => rfl⟩⟩
  · refine ⟨rfl, rfl, rfl, rfl, fun t => ?_⟩
    cases t
    · exact step c.l
    · exact ⟨rfl, fun _ => rfl⟩
    · exact step c.s

/-! ### Taking an exception (20 R331 to R333, R335) -/

section
variable {s : State} (outside : s.core.c.handler = false) (cause : BitVec 8) (src : BitVec 4) (precise : Bool) (tval : Word64)
  (strand : Option StepStrand) (pc tick : Nat)
include outside

/-- X, the control registers, and each strand but for its next cycle are as the stop found them. -/
theorem State.enterTrap_keeps :
    let k := (s.enterTrap cause src precise tval strand pc tick).core
    k.x = s.core.x ∧ k.v = s.core.v ∧ k.csr = s.core.csr ∧ ∀ t, k.strand t = { s.core.strand t with next := (k.strand t).next }
      ∧ ((s.core.strand t).cond ≠ .ended → k.strand t = s.core.strand t) := by
  obtain ⟨x, v, csr, -, strands⟩ := s.core.stopped_keeps tick
  rw [State.enterTrap, if_neg (by rw [outside]; decide)]
  exact ⟨x, v, csr, fun t => by cases t; exacts [strands .l, strands .x, strands .s]⟩

/-- The fields of the frame that do not say where the stop was met. -/
theorem State.enterTrap_frameFields :
    let f := (s.enterTrap cause src precise tval strand pc tick).core.frame
    f.drop = false ∧ f.cdiv = BitVec.ofNat 4 s.core.div.ctl := by
  obtain ⟨-, -, -, div, -⟩ := s.core.stopped_keeps tick
  rw [State.enterTrap, if_neg (by rw [outside]; decide)]
  exact ⟨rfl, congrArg (fun d : Divs => BitVec.ofNat 4 d.ctl) div⟩

/-- The frame of C's own chain where no redirection is on its way: the two words behind the first. -/
theorem State.enterTrap_frame_straight (straight : s.core.c.chain.rd = 0) :
    let f := (s.enterTrap cause src precise tval none pc tick).core.frame
    f.fnpc = f.fpc + 4 ∧ f.fnnpc = f.fpc + 8 := by
  have c := congrArg CStrand.chain (s.core.stopped_frame tick).1
  have addrs : ∀ n : Nat, addr17 (s.core.c.chain.pc.toNat + n) = addr17 s.core.c.chain.pc.toNat + BitVec.ofNat 17 n :=
    fun n => BitVec.ofNat_add ..
  rw [State.enterTrap, if_neg (by rw [outside]; decide)]
  simp only [State.keepStop, State.updCore_core, Core.frameAddrs, c, if_pos straight]
  exact ⟨addrs 4, addrs 8⟩

/-- The frame of a step strand's word. -/
theorem State.enterTrap_frame_strand (t : StepStrand) :
    let f := (s.enterTrap cause src precise tval (some t) pc tick).core.frame
    f.rd = 0 ∧ f.fpc = BitVec.ofNat 17 pc ∧ f.fnpc = BitVec.ofNat 17 pc ∧ f.fnnpc = 0 := by
  rw [State.enterTrap, if_neg (by rw [outside]; decide)]
  exact ⟨rfl, rfl, rfl, rfl⟩

end

/-! ### A cause at a word of L, X or S (20 R333) -/

/-- The source of a step strand (20 R333). -/
def sourceOf : StepStrand → BitVec 4
  | .l => 1
  | .x => 2
  | .s => 3

theorem State.stepTrap_eq {s : State} (outside : s.core.c.handler = false) (t : StepStrand) (cause : BitVec 8) (tval : Word64) (pc : Nat) :
    s.stepTrap t cause tval pc = (s.stepTick t none).enterTrap cause (sourceOf t) true tval (some t) pc (s.now + s.core.divOf t.strand) := by
  unfold State.stepTrap
  rw [if_neg (by rw [outside]; decide)]
  cases t <;> rfl

/-- The end of a strand's cycle leaves C, the vector state, and the strand's registers, word and loops. -/
theorem State.stepTick_keeps (s : State) (t : StepStrand) (w : Option WaitPlace) :
    let k := (s.stepTick t w).core
    k.c = s.core.c ∧ k.v = s.core.v ∧ (k.strand t).g = (s.core.strand t).g ∧ (k.strand t).pc = (s.core.strand t).pc
      ∧ (k.strand t).lc = (s.core.strand t).lc ∧ (s.stepTick t w).mem = s.mem := by
  rw [State.stepTick_eq]
  simp only [State.updCore_core, State.updCore_mem, Core.clocked_c, Core.clocked_v, Core.clocked_strand, State.updStep_core_c,
    State.updStep_core_v, State.updStep_strand, State.updStep_mem]
  exact ⟨trivial, trivial, rfl, rfl, rfl, trivial⟩

end Sys2Proof.Machine

/-- Settles O18: the frame, C, the strands and memory, each by its lemma on `State.enterTrap`; a step strand's word ends its cycle before it. -/
theorem trapEntryWritesTheFrame : Obligations.TrapEntryWritesTheFrame := by
  unfold Obligations.TrapEntryWritesTheFrame
  constructor
  · intro s cause src precise tval strand pc tick outside t f ch
    obtain ⟨-, hcause, htval, hsrc, hprecise, inside, saved, mem⟩ := State.enterTrap_spec outside cause src precise tval strand pc tick
    obtain ⟨drop, cdiv⟩ := State.enterTrap_frameFields outside cause src precise tval strand pc tick
    obtain ⟨x, -, csr, strands⟩ := State.enterTrap_keeps outside cause src precise tval strand pc tick
    have c := State.enterTrap_c outside cause src precise tval strand pc tick
    have tc : t.core.c = _ := c
    refine ⟨hcause, htval, hsrc, hprecise, drop, cdiv, ?own, ?strand, inside, ?_, ?_, saved, ?_, ?_, ?_, ?_, ?_, x, csr, mem,
      fun k => (strands k).1, fun k => (strands k).2⟩
    case own =>
      rintro rfl
      obtain ⟨-, rd, fpc, fnext⟩ := State.enterTrap_frame outside cause src precise tval pc tick
      refine ⟨rd, fpc.trans (BitVec.ofNat_toNat ..), State.enterTrap_frame_straight outside cause src precise tval pc tick, fun redirected => ?_⟩
      obtain ⟨fnpc, fnnpc⟩ := fnext redirected
      exact ⟨fnpc.trans (BitVec.ofNat_toNat ..), fnnpc.trans (BitVec.ofNat_toNat ..)⟩
    case strand =>
      intro named
      obtain ⟨k, rfl⟩ := Option.ne_none_iff_exists'.mp named
      exact State.enterTrap_frame_strand outside cause src precise tval pc tick k
    all_goals rw [tc]
  · intro s t cause tval pc outside u
    obtain ⟨sameC, v, g, spc, lc, mem⟩ := s.stepTick_keeps t none
    have still : (s.stepTick t none).core.c.handler = false := by rw [sameC, outside]
    have u_eq : u = _ := State.stepTrap_eq outside t cause tval pc
    obtain ⟨-, hcause, htval, hsrc, hprecise, inside, -, tmem⟩ :=
      State.enterTrap_spec still cause (sourceOf t) true tval (some t) pc (s.now + s.core.divOf t.strand)
    obtain ⟨-, tv, -, strands⟩ := State.enterTrap_keeps still cause (sourceOf t) true tval (some t) pc (s.now + s.core.divOf t.strand)
    obtain ⟨-, fpc, -, -⟩ := State.enterTrap_frame_strand still cause (sourceOf t) true tval pc (s.now + s.core.divOf t.strand) t
    have c := State.enterTrap_c still cause (sourceOf t) true tval (some t) pc (s.now + s.core.divOf t.strand)
    have same := (strands t).1
    rw [u_eq]
    refine ⟨hcause, htval, hprecise, fpc, hsrc.trans (by cases t <;> rfl), inside, congrArg (fun c : CStrand => c.chain.pc) c,
      ?_, ?_, ?_, congrArg Vec.modif (tv.trans v), tmem.trans mem⟩
    · exact (congrArg Step.g same).trans g
    · exact (congrArg Step.pc same).trans spc
    · exact (congrArg Step.lc same).trans lc
end

section
/-!
SUPPORT. O50: the host's accesses of BAR0, of HBM through BAR2 and of the command area through CXL.mem (21 R347, R348; 23 R366, R370).
-/
open Sys2Proof Sys2Proof.Machine

namespace Sys2Proof.Machine

/-! ### The map of BAR0 (21 R348) -/

theorem inTables_iff (o : Nat) : inTables o = true ↔ (0x1000 ≤ o ∧ o < 0x1800) ∨ (0x4000 ≤ o ∧ o < 0x8000) := by
  simp only [inTables, Bool.or_eq_true, Bool.and_eq_true, decide_eq_true_eq]

/-- The two tables stand apart from every other part of the map. -/
theorem State.bar0Read_tables (s : State) {o : Nat} (table : inTables o = true) :
    s.bar0Read o = some (Memory.readBytes s.host.tables o 8) := by
  have range := (inTables_iff o).mp table
  simp only [State.bar0Read, table, if_true, show o ≠ 0 by omega, show o ≠ 8 by omega, show o ≠ 0x10 by omega,
    show ¬(0x40 ≤ o ∧ o < 0x80) by omega, show o ≠ 0x80 by omega, show ¬(0x100 ≤ o ∧ o < 0x220) by omega, if_false]

/-- A doubleword written to one of the tables keeps the bits of its entry's fields, with which routes may return or go (21 R351, R352). -/
theorem State.bar0Write_tables (s : State) {o : Nat} (table : inTables o = true) (v : Word64) :
    s.bar0Write o v = State.dropUnreachable (State.resendLost
      { s with host := { s.host with tables := Memory.writeBytes s.host.tables o (leBytes 8 (v &&& tableMask o).toNat) } }) := by
  have range := (inTables_iff o).mp table
  rw [State.bar0Write, if_neg (by omega), if_neg (by omega), if_pos table]

/-- A place that the host may only read (log 37). -/
theorem State.bar0Write_readOnly (s : State) {o : Nat} (apbase : o ≠ 8) (fault : o ≠ 0x80) (table : inTables o = false) (v : Word64) :
    s.bar0Write o v = s := by
  rw [State.bar0Write, if_neg apbase, if_neg fault, if_neg (ne_true_of_eq_false table)]

/-! ### Accesses of BAR0 -/

section
variable {s : State} {off : BitVec 20}

theorem execBar0RegisterWrite_refuses {x : HostAccess} (outside : off.toNat % 8 ≠ 0 ∨ s.bar0Read off.toNat = none ∨ accessLen x ≠ 8) :
    execBar0RegisterWrite off x s = .next s.hostRefused := by
  unfold execBar0RegisterWrite
  dsimp only
  split
  · rfl
  · next l n reads =>
    obtain ⟨aligned, mapped⟩ := Option.ite_none_right_eq_some.mp reads
    have length : n.toNat ≠ 8 := by simpa [aligned, mapped, accessLen] using outside
    rw [if_neg length]
  · next l b reads =>
    obtain ⟨aligned, mapped⟩ := Option.ite_none_right_eq_some.mp reads
    have length : b.length ≠ 8 := by simpa [aligned, mapped, accessLen] using outside
    rw [if_neg length]

theorem execBar0RegisterWrite_reads {b : List Byte} (aligned : off.toNat % 8 = 0) (mapped : s.bar0Read off.toNat = some b) :
    execBar0RegisterWrite off (.read 8) s = .next (s.hostDone (some b)) := by
  simp only [execBar0RegisterWrite, if_pos aligned, mapped]
  rfl

theorem execBar0RegisterWrite_writes {l : List Byte} (length : l.length = 8) (aligned : off.toNat % 8 = 0)
    (mapped : (s.bar0Read off.toNat).isSome = true) :
    execBar0RegisterWrite off (.write l) s = .next ((s.bar0Write off.toNat (BitVec.ofNat 64 (leNat l))).hostDone none) := by
  obtain ⟨b, reads⟩ := Option.isSome_iff_exists.mp mapped
  simp only [execBar0RegisterWrite, if_pos aligned, reads, if_pos length]

end

/-! ### Bytes of HBM (23 R370) -/

/-- The host's write changes its own bytes of memory, where no channel among them is dead. -/
theorem State.hostHbm_writes {s : State} {pa : Nat} {l : List Byte} (canonical : s.MemCanonical)
    (live : ∀ k, k < l.length → s.deadByte (pa + k) = false) (a : Nat) :
    Memory.read (s.hostHbm pa (.write l)).mem a = if pa ≤ a ∧ a < pa + l.length then l.getD (a - pa) 0 else Memory.read s.mem a :=
  s.pokeBytes_read canonical false pa l 0 (.inr live) a

/-- The host reads bytes of which none is poisoned or lost. -/
theorem State.hostHbm_reads {s : State} {pa : Nat} {n : BitVec 13}
    (clean : ∀ k, k < n.toNat → (pa + k) / 32 ∉ s.poison ∧ s.deadByte (pa + k) = false) :
    s.hostHbm pa (.read n) = s.hostDone (some (Memory.readBytes s.mem pa n.toNat)) := by
  refine if_neg ?_
  rw [List.any_eq_true]
  rintro ⟨k, within, bad⟩
  obtain ⟨sound, live⟩ := clean k (List.mem_range.mp within)
  rw [live, Bool.or_false, List.contains_iff_mem] at bad
  exact sound bad

/-! ### BAR2 and CXL.mem -/

section
variable {s : State} {far : BitVec 36} {x : HostAccess}

theorem execBar2Access_reaches (window : far.toNat + accessLen x ≤ 2 ^ 36) (hbm : s.host.apbase.toNat < s.hbmTop)
    (ready : bitOf s.host.ready[1].toNat (stackOf (s.host.apbase.toNat + far.toNat)) = true)
    (there : s.paExists (s.host.apbase.toNat + far.toNat) = true) :
    execBar2Access far x s = .next (s.hostHbm (s.host.apbase.toNat + far.toNat) x) := by
  unfold execBar2Access
  dsimp only
  rw [if_neg (by omega), if_neg (by omega), if_neg (by simp [ready]), if_neg (by simp [there])]

theorem execBar2Access_ones {n : BitVec 13} (window : far.toNat + n.toNat ≤ 2 ^ 36) (past : s.hbmTop ≤ s.host.apbase.toNat) :
    execBar2Access far (.read n) s = .next (s.hostDone (some (List.replicate n.toNat 0xFF))) := by
  unfold execBar2Access
  dsimp only
  rw [if_neg (by simpa only [accessLen, Nat.not_lt] using window), if_pos past]

theorem execBar2Access_window (past : 2 ^ 36 < far.toNat + accessLen x) : execBar2Access far x s = .next s.hostRefused := by
  unfold execBar2Access
  dsimp only
  rw [if_pos past]

theorem execBar2Access_notReady (hbm : s.host.apbase.toNat < s.hbmTop)
    (absent : bitOf s.host.ready[1].toNat (stackOf (s.host.apbase.toNat + far.toNat)) = false)
    (sound : (s.stack (stackOf (s.host.apbase.toNat + far.toNat))).failed = false) :
    execBar2Access far x s = .next s.hostRefused := by
  by_cases past : 2 ^ 36 < far.toNat + accessLen x
  · exact execBar2Access_window past
  · unfold execBar2Access
    dsimp only
    rw [if_neg past, if_neg (by omega), if_pos (by simp [absent, sound])]

end

theorem execCxlMemAccess_reaches {s : State} {off : BitVec 20} {x : HostAccess} (cxl : s.host.cxl = true)
    (inside : off.toNat + accessLen x ≤ 2 ^ 20) :
    execCxlMemAccess off x s = .next (s.hostHbm (s.host.cmdbase.toNat / 2 ^ 20 * 2 ^ 20 + off.toNat) x) := by
  rw [execCxlMemAccess, if_pos (by simpa [cxl] using inside)]

theorem execCxlMemAccess_refuses {s : State} {off : BitVec 20} {x : HostAccess} (pcie : s.host.cxl = false) :
    execCxlMemAccess off x s = .next s.hostRefused := by
  rw [execCxlMemAccess, if_neg (by simp [pcie])]

end Sys2Proof.Machine

/-- Settles O50: each access by where it falls in the map, in the window of BAR2, or in the command area. -/
theorem hostAccesses : Obligations.HostAccesses := by
  unfold Obligations.HostAccesses
  intro s v off far l n x o w pa near clean wrote apbase fault
  refine ⟨rfl, rfl, execBar0RegisterWrite_refuses, fun b => execBar0RegisterWrite_reads, ⟨rfl, rfl, rfl, rfl⟩, ?registers, ?table, ?readOnly,
    ?bar2, execBar2Access_ones, execBar2Access_window, execBar2Access_notReady, ?cxl, execCxlMemAccess_refuses⟩
  case registers =>
    intro length value
    have written : BitVec.ofNat 64 (leNat l) = v := value
    have writes := fun off : BitVec 20 => execBar0RegisterWrite_writes (s := s) (off := off) length
    refine ⟨(writes 8 rfl rfl).trans ?_, (writes 0x80 rfl rfl).trans ?_⟩
    all_goals
      rw [written]
      rfl
  case table =>
    intro length aligned table
    refine (execBar0RegisterWrite_writes length aligned ?_).trans ?_
    · rw [State.bar0Read_tables s table]
      rfl
    · rw [State.bar0Write_tables s table]
  case readOnly =>
    intro length aligned mapped apbase fault table
    refine (execBar0RegisterWrite_writes length aligned mapped).trans ?_
    rw [State.bar0Write_readOnly s apbase fault table]
  case bar2 =>
    intro window hbm ready there
    have runs := execBar2Access_reaches window hbm ready there
    refine ⟨?_, ?_⟩
    · rintro rfl canonical - live
      exact ⟨_, runs, State.hostHbm_writes canonical live, rfl, rfl⟩
    · rintro rfl clean
      exact runs.trans (congrArg _ (State.hostHbm_reads clean))
  case cxl =>
    intro cxl inside
    have runs := execCxlMemAccess_reaches cxl inside
    refine ⟨?_, ?_⟩
    · rintro rfl canonical - live
      exact ⟨_, runs, State.hostHbm_writes canonical live, rfl, rfl⟩
    · rintro rfl clean
      exact runs.trans (congrArg _ (State.hostHbm_reads clean))
end

section
/-!
SUPPORT. O43: external interrupts, the timer compare, and the pages and retries that a frozen core waits for (11 R260; 20 R332, R334,
R342 to R344; 23 R370).
-/
open Sys2Proof Sys2Proof.Machine

namespace Sys2Proof.Machine

/-! ### External interrupts (20 R332, R334) -/

section
variable {s : State} (here : s.core.task.isSome = true ∨ s.core.sup = true) (n : BitVec 16)
include here

/-- A core that runs a task, or the supervisor's, takes the interrupt, or its die's dispatcher keeps it behind another (log 30). -/
theorem execExternalInterrupt_here : execExternalInterrupt n s = .next (
    if s.core.irqPending = true ∨ s.core.irq ≠ [] then
      if s.core.irq.length < 64 then s.updCore fun c => { c with irq := c.irq ++ [n] } else s
    else s.raiseLater 0x11 7 (n.zeroExtend 64)) := by
  have refuses : ¬(s.core.task.isNone && !s.core.sup) = true := by
    obtain task | super := here
    · simp [Option.isNone_eq_false_iff.mpr task]
    · simp [super]
  have behind : (s.core.irqPending || !s.core.irq.isEmpty) = true ↔ s.core.irqPending = true ∨ s.core.irq ≠ [] := by
    rw [Bool.or_eq_true, Bool.not_eq_true', List.isEmpty_eq_false_iff]
  rw [execExternalInterrupt, if_neg refuses]
  exact congrArg _ (if_congr behind rfl rfl)

theorem execExternalInterrupt_pends (free : s.core.irqPending = false) (none_ : s.core.irq = []) :
    execExternalInterrupt n s = .next (s.raiseLater 0x11 7 (n.zeroExtend 64)) := by
  rw [execExternalInterrupt_here here, if_neg (by simp [free, none_])]

theorem execExternalInterrupt_waits (behind : s.core.irqPending = true ∨ s.core.irq ≠ []) (room : s.core.irq.length < 64) :
    execExternalInterrupt n s = .next (s.updCore fun c => { c with irq := c.irq ++ [n] }) := by
  rw [execExternalInterrupt_here here, if_pos behind, if_pos room]

end

/-! ### The timer compare (20 R342) -/

/-- One more pending entry changes the list of them alone. -/
theorem Core.pendMore_only (c : Core) (cause : BitVec 8) (src : BitVec 4) (tval : Word64) (pc : Nat) :
    c.pendMore cause src tval pc = { c with pend := (c.pendMore cause src tval pc).pend } := by
  unfold Core.pendMore
  split <;> rfl

/-- The supervisor's core in focus is the first of them all. -/
theorem State.supPlace_focus {s : State} (super : s.core.sup = true) : s.supPlace = some (s.core.die, s.core.q) := by
  rw [State.supPlace, List.find?_cons_of_pos super, Option.map_some]

/-- The supervisor's core in focus with its compare matched: TCMP is 0, and cause 0x12 pends, once. -/
theorem execTimerCompareMatch_super {s : State} (super : s.core.sup = true) (set : s.xlat.tcmp ≠ 0)
    (fresh : (s.core.pend.any fun e => e.cause == 0x12) = false) (room : s.core.pend.length < 16) :
    ∃ t, execTimerCompareMatch s = .next t ∧ t.xlat.tcmp = 0 ∧ t.mem = s.mem
      ∧ ∃ p, t.core.pend = s.core.pend ++ [p] ∧ p.cause = 0x12 ∧ p.src = 9 := by
  let due := s.at_ (s.now + (s.xlat.tcmp.toNat - s.supTimer.toNat))
  let cleared : State := { due with xlat := { due.xlat with tcmp := 0 } }
  let raise := fun k : State => if k.core.pend.any fun e => e.cause == 0x12 then k else k.raiseLater 0x12 9 k.supTimer
  have raised : raise cleared = cleared.raiseLater 0x12 9 cleared.supTimer := if_neg (ne_true_of_eq_false fresh)
  have keeps : (raise cleared).core.die = s.core.die ∧ (raise cleared).core.q = s.core.q := by
    rw [raised, State.raiseLater, State.raiseAt, State.updCore_core, Core.pendMore_only]
    exact ⟨rfl, rfl⟩
  have runs : execTimerCompareMatch s = .next (cleared.raiseLater 0x12 9 cleared.supTimer) := by
    have place : cleared.supPlace = some (s.core.die, s.core.q) := State.supPlace_focus super
    have focused : cleared.onCore s.core.die s.core.q raise = raise cleared := State.onCore_focus rfl rfl keeps
    rw [execTimerCompareMatch, if_neg set]
    dsimp only
    rw [place]
    exact congrArg _ (focused.trans raised)
  refine ⟨_, runs, rfl, rfl, s.core.pendEntry 0x12 9 cleared.supTimer 0, ?_, rfl, rfl⟩
  exact congrArg Core.pend (if_pos room : s.core.pendMore 0x12 9 cleared.supTimer 0 = _)

/-! ### Walks, futures and retries (11 R260; 20 R343, R344; 23 R370) -/

theorem execTranslationWalkComplete_walk {s : State} {va : Nat} {w : Bool} (walks : s.core.freeze = some (.walk va w)) :
    execTranslationWalkComplete s = .next ((s.waiters s.core.csr.ctxid va).foldl
      (fun s w => s.onCore w.1 w.2.1 fun k => k.walkEnds w.2.2.1 w.2.2.2) s) := by
  rw [execTranslationWalkComplete, walks]

/-- The context that PGDONE names (20 R343). -/
theorem field_context (v : Word64) : BitVec.ofNat 16 (field v.toNat 48 16) = v.extractLsb' 48 16 := by
  apply BitVec.eq_of_toNat_eq
  rw [BitVec.toNat_ofNat, BitVec.extractLsb'_toNat, Nat.shiftRight_eq_div_pow, field, Nat.mod_mod]

/-- A future that resolves changes nothing of a core but its freeze. -/
theorem Core.resolve_only (c : Core) (ctx : BitVec 16) (page : Nat) : c.resolve ctx page = { c with freeze := (c.resolve ctx page).freeze } := by
  unfold Core.resolve
  split
  · split <;> rfl
  · rfl

/-- A core frozen on the page walks again. -/
theorem Core.resolve_frozen {c : Core} {va : Nat} {w : Bool} (frozen : c.freeze = some (.pager va w)) :
    (c.resolve c.csr.ctxid (va / 65536)).freeze = some (.walk va w) := by
  rw [Core.resolve, frozen]
  exact congrArg Core.freeze (if_pos ⟨rfl, rfl⟩)

/-- What a write of PGDONE leaves: its own register, the cores' freezes, and the virtual cores of the context's kernels. -/
theorem execPgdoneWrite_eq (v : Word64) (s : State) :
    let ctx := v.extractLsb' 48 16
    let page := v.toNat % 2 ^ 36
    execPgdoneWrite v s = .next { s with
      xlat := { s.xlat with done := v }, core := s.core.resolve ctx page, others := s.others.map fun c => c.resolve ctx page,
      disp := { s.disp with kernels := s.disp.kernels.map fun k =>
        if k.ctx = ctx then { k with vcs := k.vcs.map fun v => v.resolve page } else k } } := by
  simp only [execPgdoneWrite, field_context, field_lowest]

theorem execCorrectableRetryResolved_ends {s : State} (retry : s.core.freeze = some .retry) :
    execCorrectableRetryResolved s = .next s.unfreeze := by rw [execCorrectableRetryResolved, retry]

theorem execCorrectableRetryResolved_begins {s : State} (runs : s.core.freeze = none) (here : s.core.task.isSome = true ∨ s.core.sup = true) :
    execCorrectableRetryResolved s = .next (s.freezeCore .retry) := by
  rw [execCorrectableRetryResolved, runs]
  exact congrArg _ (if_pos ((Bool.or_eq_true ..).mpr here))

end Sys2Proof.Machine

/-- Settles O43: an interrupt by where it finds room, the compare on the supervisor's core in focus, and each freeze by the event that ends it. -/
theorem interruptsAndPages : Obligations.InterruptsAndPages := by
  unfold Obligations.InterruptsAndPages
  constructor
  · intro s n here
    exact ⟨execExternalInterrupt_pends here n, execExternalInterrupt_waits here n, execTimerCompareMatch_super⟩
  · intro s v
    refine ⟨fun va w => execTranslationWalkComplete_walk, ⟨_, execPgdoneWrite_eq v s, rfl, rfl, ?c, ?core, rfl⟩,
      execCorrectableRetryResolved_ends, execCorrectableRetryResolved_begins⟩
    case c =>
      have only := congrArg Core.c (s.core.resolve_only (v.extractLsb' 48 16) (v.toNat % 2 ^ 36))
      exact only
    case core =>
      intro va w frozen context page
      rw [← context, ← page]
      exact Core.resolve_frozen frozen
end

section
/-!
SUPPORT. O49: a core that a frequency transition retimes, boost boundaries, the time discipline, and the supervisor's readiness (22 R358 to
R365; 17 R297; 21 R353).
-/
open Sys2Proof Sys2Proof.Machine

namespace Sys2Proof.Machine

/-! ### Frequency transitions (22 R362; 17 R297) -/

/-- The moments of a core that lie after its stop move with it; its place, its context and its freeze do not. -/
theorem Core.shift_moments (c : Core) (n : Nat) (trap : Bool) :
    let k := c.shift n trap
    let later := shiftPast c.stop n
    (k.die = c.die ∧ k.q = c.q ∧ k.freeze = c.freeze ∧ k.c.handler = c.c.handler)
      ∧ k.c.next = later c.c.next ∧ k.l.next = later c.l.next ∧ k.x.next = later c.x.next ∧ k.s.next = later c.s.next
      ∧ k.m.next = later c.m.next := by
  unfold Core.shift
  dsimp only
  split <;> exact ⟨⟨rfl, rfl, rfl, rfl⟩, rfl, rfl, rfl, rfl, rfl⟩

/-- A retimed core stands at its place. -/
theorem Core.retime_place (c : Core) (now to_ : Nat) (d : Divs) (fall : Option Fall) :
    (c.retime now to_ d fall).die = c.die ∧ (c.retime now to_ d fall).q = c.q := by
  have units : (c.unitsTo now).die = c.die ∧ (c.unitsTo now).q = c.q := by
    unfold Core.unitsTo
    split <;> exact ⟨rfl, rfl⟩
  obtain ⟨⟨die, q, -⟩, -⟩ := (((c.unitsTo now).sync (c.standsAt now)).align (c.alignAt now)).shift_moments
    (to_ - (((c.unitsTo now).sync (c.standsAt now)).align (c.alignAt now)).stop) false
  exact ⟨die.trans units.1, q.trans units.2⟩

theorem Core.cyclesEnd_running {c : Core} (runs : c.freeze = none) (outside : c.c.handler = false) (now : Nat) :
    c.cyclesEnd now = Nat.max now (c.alignAt now) := by
  simp only [Core.cyclesEnd, runs, Core.handlerStop, outside, Bool.false_eq_true, if_false]

/-- A core that no freeze and no handler stops begins all its domains' cycles anew at the tick to which it is retimed, and is frozen until then. -/
theorem Core.retime_running {c : Core} (runs : c.freeze = none) (outside : c.c.handler = false) {now to_ : Nat} (after : c.alignAt now ≤ to_)
    (d : Divs) (fall : Option Fall) :
    let k := c.retime now to_ d fall
    k.div = d ∧ k.c.next = to_ ∧ k.l.next = to_ ∧ k.x.next = to_ ∧ k.s.next = to_ ∧ k.m.next = to_
      ∧ k.freeze = if now < to_ then some (.transition to_) else none := by
  let a := ((c.unitsTo now).sync (c.standsAt now)).align (c.alignAt now)
  have units : c.unitsTo now = c := by simp only [Core.unitsTo, runs]
  have still : a.freeze = none ∧ a.c.handler = false := by
    simp only [a, units]
    refine ⟨runs, ?_⟩
    simp only [Core.align]
    split <;> exact outside
  have own : a.c.next = c.alignAt now := by
    have here : ((c.unitsTo now).sync (c.standsAt now)).handlerStop = false := by rw [units]; exact outside
    simp only [a, Core.align, here, Bool.false_eq_true, if_false]
  have moved : shiftPast a.stop (to_ - a.stop) (c.alignAt now) = to_ := by
    have stop : a.stop = c.alignAt now := rfl
    rw [stop, shiftPast, if_pos (Nat.le_refl _), Nat.add_sub_cancel' after]
  obtain ⟨⟨-, -, freeze, handler⟩, hc, hl, hx, hs, hm⟩ := a.shift_moments (to_ - a.stop) false
  have free : (a.shift (to_ - a.stop) false).freeze = none := freeze.trans still.1
  have noStop : (a.shift (to_ - a.stop) false).handlerStop = false := handler.trans still.2
  refine ⟨rfl, ?_, hl.trans moved, hx.trans moved, hs.trans moved, hm.trans moved, ?_⟩
  · rw [own] at hc
    have kept : (c.retime now to_ d fall).c = (a.shift (to_ - a.stop) false).c := if_neg (ne_true_of_eq_false noStop)
    rw [kept, hc, moved]
  · have frozen : (c.retime now to_ d fall).freeze =
        if now < to_ ∧ (a.shift (to_ - a.stop) false).freeze.isNone then some (.transition to_) else (a.shift (to_ - a.stop) false).freeze := rfl
    rw [frozen, free]
    simp

/-- A kernel whose only core stands in focus: that core is retimed, and its task's verdicts with it. -/
theorem execFrequencyTransition_retimes {s : State} {k : Kernel} {d q : Nat} (due : s.dueChange = some k) (one : s.coresOf k.kid = [(d, q)])
    (die : s.core.die = d) (place : s.core.q = q) :
    ∃ t fall task, execFrequencyTransition s = .next t ∧ t.mem = s.mem
      ∧ t.core = { s.core.retime s.now (Nat.max s.now (s.core.cyclesEnd s.now)) k.div fall with task := task } := by
  have here : s.coreAt d q = s.core := if_pos ⟨die, place⟩
  have retimed := fun (now to_ : Nat) (div : Divs) (fall : Option Fall) (task : Option Task) =>
    State.updCoreAt_focus die place (f := fun c => { c.retime now to_ div fall with task := task })
      ⟨(s.core.retime_place now to_ div fall).1.trans die, (s.core.retime_place now to_ div fall).2.trans place⟩
  unfold execFrequencyTransition
  simp only [due, one, List.foldl_cons, List.foldl_nil, here]
  exact ⟨_, _, _, rfl, State.putCore_mem _ _, congrArg State.core (retimed _ _ _ _ _)⟩

/-- A kernel whose only core stands in focus and runs: all its domains go on from the tick at which its cycles in progress have ended. -/
theorem execFrequencyTransition_begins {s : State} {k : Kernel} {d q : Nat} (due : s.dueChange = some k) (one : s.coresOf k.kid = [(d, q)])
    (die : s.core.die = d) (place : s.core.q = q) (runs : s.core.freeze = none) (outside : s.core.c.handler = false) :
    ∃ t, execFrequencyTransition s = .next t ∧ t.core.div = k.div ∧ t.mem = s.mem
      ∧ t.core.c.next = s.core.cyclesEnd s.now ∧ t.core.l.next = t.core.c.next ∧ t.core.x.next = t.core.c.next
      ∧ t.core.s.next = t.core.c.next ∧ t.core.m.next = t.core.c.next
      ∧ t.core.freeze = (if s.now < s.core.cyclesEnd s.now then some (.transition (s.core.cyclesEnd s.now)) else none) := by
  have ends := Core.cyclesEnd_running runs outside s.now
  have after : s.core.alignAt s.now ≤ s.core.cyclesEnd s.now := by rw [ends]; exact Nat.le_max_right ..
  have from_ : Nat.max s.now (s.core.cyclesEnd s.now) = s.core.cyclesEnd s.now := by
    rw [ends]
    exact Nat.max_eq_right (Nat.le_max_left ..)
  obtain ⟨t, fall, task, begins, mem, core⟩ := execFrequencyTransition_retimes due one die place
  obtain ⟨div, hc, hl, hx, hs, hm, freeze⟩ := Core.retime_running runs outside after k.div fall
  rw [from_] at core
  refine ⟨t, begins, ?_⟩
  rw [core]
  exact ⟨div, mem, hc, hl.trans hc.symm, hx.trans hc.symm, hs.trans hc.symm, hm.trans hc.symm, freeze⟩

theorem execFrequencyTransition_ends {s : State} {tick : Nat} (idle : s.dueChange = none) (frozen : s.core.freeze = some (.transition tick)) :
    execFrequencyTransition s = .next ((s.at_ tick).updCore fun c => { c with freeze := none }) := by
  unfold execFrequencyTransition
  simp only [idle, frozen]

/-! ### Boost boundaries and falls (22 R358 to R361) -/

/-- A boundary that has come is counted, and the tick at which it came kept. -/
theorem execBoostBoundary_counts {s : State} (come : s.time.boundary ≤ s.timer.toNat) :
    ∃ t, execBoostBoundary s = .next t ∧ t.time.boundary = s.time.boundary + 75000 ∧ t.time.bounded = s.now ∧ t.mem = s.mem
      ∧ t.core = s.core := by
  have now : s.at_ (s.now + (s.time.boundary - s.timer.toNat)) = s := by
    rw [State.at_, Nat.sub_eq_zero_of_le come, Nat.add_zero, natMax_eq, Nat.max_self]
  unfold execBoostBoundary
  simp only [now, if_neg (Nat.not_lt.mpr come)]
  exact ⟨_, rfl, rfl, rfl, rfl, rfl⟩

/-- The second step of a fall makes the kernel's transition due (22 R361). -/
theorem execFallStep_falls {s : State} {kid : BitVec 16} {k : Kernel} (kernel : s.kernel? kid.toNat = some k) (falls : k.fall ≠ 0) :
    execFallStep kid s = .next ((s.at_ (s.time.bounded + 37500)).updKernel k.kid fun k => { k with fall := 0, change := true }) := by
  simp only [execFallStep, kernel, if_neg falls]

/-! ### The time discipline (22 R363, R364) -/

section
variable {s : State} {add : Bool}

/-- The discipline unit's step where the last correction lies 4096 ticks back or more. -/
theorem execTimerDisciplineStep_free (free : s.time.lastAdj = 0 ∨ s.time.lastAdj + 4096 ≤ s.now + 1) (toward : s.time.toward add = true) :
    execTimerDisciplineStep add s = .next
      (let s1 := if add then s else s.at_ (s.now + 1)
      { s1 with time := { s.time with adjust := s.time.adjust + (if add then 1 else -1), lastAdj := s.now + 1, lastAdd := add } }) := by
  have open_ : ¬((s.time.lastAdj ≠ 0 ∧ s.now + 1 < s.time.lastAdj + 4096) ∨ (!s.time.toward add) = true) := by
    rw [toward]
    simp only [Bool.not_true, Bool.false_eq_true, or_false]
    omega
  rw [execTimerDisciplineStep, if_neg open_]

theorem execTimerDisciplineStep_soon (corrected : s.time.lastAdj ≠ 0) (soon : s.now + 1 < s.time.lastAdj + 4096) :
    execTimerDisciplineStep add s = .next s := by
  rw [execTimerDisciplineStep, if_pos (.inl ⟨corrected, soon⟩)]

theorem execTimerDisciplineStep_away (away : s.time.toward add = false) : execTimerDisciplineStep add s = .next s := by
  rw [execTimerDisciplineStep, if_pos (.inr (by rw [away]; rfl))]

/-- A withheld tick moves `now` by one (log 45). -/
theorem State.at_succ (s : State) : s.at_ (s.now + 1) = { s with now := s.now + 1 } := by
  rw [State.at_, natMax_eq, Nat.max_eq_right (Nat.le_succ _)]

end

/-! ### Writes of memory leave the time (22 R363) -/

theorem State.pokeLine_time (s : State) (own : Bool) (stamp pa : Nat) (bs : List (Byte × Byte)) :
    (s.pokeLine own stamp pa bs).time = s.time := by
  unfold State.pokeLine
  split
  · rfl
  · obtain ⟨-, -, lines⟩ :=
      SameButLines.noteStore { s with mem := Memory.writeMasked s.mem pa bs, poison := clearPoison s.poison pa bs } own stamp pa bs.length
    rw [lines]

theorem State.pokeLines_time (own : Bool) (stamp : Nat) (l : List (Nat × List (Byte × Byte))) (s : State) :
    (s.pokeLines own stamp l).time = s.time := by
  induction l generalizing s with
  | nil => rfl
  | cons p l ih => rw [State.pokeLines_cons, ih, State.pokeLine_time]

theorem State.putCore_time (s : State) (c : Core) : (s.putCore c).time = s.time := by
  unfold State.putCore
  split
  · rfl
  · split <;> rfl

theorem State.pokeBytes_time (s : State) (own : Bool) (pa : Nat) (bs : List Byte) (stamp : Nat := 0) :
    (s.pokeBytes own pa bs stamp).time = s.time := by
  unfold State.pokeBytes State.poke
  split
  · exact State.putCore_time ..
  · exact State.pokeLines_time ..

/-! ### The supervisor's readiness and the slave port (22 R363 to R365; 21 R353) -/

/-- The supervisor that reports itself ready changes nothing else of the time. -/
theorem State.supervisorReady_time (s : State) : s.supervisorReady.time = { s.time with supReady := true } := by
  have ready : ∀ t : State, (t.setReady 2 33 true).time = t.time := fun t => by
    obtain ⟨h, e⟩ := t.setReady_eq 2 33 true
    rw [e]
  exact (ready _).trans (State.pokeBytes_time ..)

section
variable {s : State} {port : BitVec 5} {off : BitVec 64}

/-- The master of the slave port tells its offset, and which port that is. -/
theorem State.masterMessage_locked (locked : s.time.lock = true) :
    s.masterMessage port off true = { s with time := { s.time with offset := satOffset off, slave := port.zeroExtend 8 } } := by
  simp only [State.masterMessage, Bool.not_true, Bool.false_eq_true, if_false, locked, if_true]

theorem State.masterMessage_lost : s.masterMessage port off false = { s with time :=
    { s.time with offset := satOffset off, slave := port.zeroExtend 8, lock := false, unlock := s.time.unlock || s.time.lock } } := rfl

/-- The first lock steps TIMER by the offset, before the supervisor is ready. -/
theorem State.masterMessage_first (unlocked : s.time.lock = false) (early : s.time.supReady = false) :
    ∃ boundary, (s.masterMessage port off true).time =
      { s.time with offset := satOffset off, slave := port.zeroExtend 8, lock := true, unlock := false, adjust := s.time.adjust - off.toInt,
                    stepped := true, boundary := boundary, supReady := true } := by
  simp only [State.masterMessage, Bool.not_true, Bool.false_eq_true, if_false, unlocked, early, Bool.not_false, if_true,
    State.supervisorReady_time]
  exact ⟨_, rfl⟩

/-- A later lock comes once the offset is within 30 ticks. -/
theorem State.masterMessage_later (unlocked : s.time.lock = false) (late : s.time.supReady = true) :
    s.masterMessage port off true = { s with time := { s.time with
      offset := satOffset off, slave := port.zeroExtend 8, lock := decide (-30 ≤ off.toInt ∧ off.toInt ≤ 30),
      unlock := if -30 ≤ off.toInt ∧ off.toInt ≤ 30 then false else s.time.unlock } } := by
  simp only [State.masterMessage, Bool.not_true, Bool.false_eq_true, if_false, unlocked, late]
  split
  · next within => simp only [TimeSt.locked, within, and_self, decide_true]
  · next far => simp only [decide_eq_false far, ← unlocked]

/-- Every event message of a master makes its port the slave port. -/
theorem State.masterMessage_slave (b : Bool) : (s.masterMessage port off b).time.slave = port.zeroExtend 8 := by
  cases b with
  | false => rw [State.masterMessage_lost]
  | true =>
    cases locked : s.time.lock with
    | true => rw [State.masterMessage_locked locked]
    | false =>
      cases ready : s.time.supReady with
      | true => rw [State.masterMessage_later locked ready]
      | false =>
        obtain ⟨boundary, time⟩ := State.masterMessage_first (port := port) (off := off) locked ready
        rw [time]

section
variable (there : port.toNat < 18) (booted : s.serv.booted = true) (up : 2 ≤ (s.links.ports.toList.map (·.state)).getD port.toNat 0)
include there booted up

/-- An event message at a port that is up, where firmware runs (log 60). -/
theorem execPtpEventMessage_up (b : Bool) : execPtpEventMessage port off b s = .next (
    if s.time.slave = 0x1F ∨ s.time.slave = port.zeroExtend 8 then s.masterMessage port off b
    else if Config.newSlave s.free then State.masterMessage { s with free := s.free + 1 } port off b else { s with free := s.free + 1 }) := by
  have heard : ¬((s.links.ports.toList.map (·.state)).getD port.toNat 0 < 2 ∨ 18 ≤ port.toNat ∨ (!s.serv.booted) = true) := by
    rw [booted]
    simp only [Bool.not_true, Bool.false_eq_true, or_false]
    omega
  unfold execPtpEventMessage
  dsimp only
  rw [if_neg heard]
  rfl

theorem execPtpEventMessage_slave (b : Bool) (slave : s.time.slave = 0x1F ∨ s.time.slave = port.zeroExtend 8) :
    execPtpEventMessage port off b s = .next (s.masterMessage port off b) := by
  rw [execPtpEventMessage_up there booted up, if_pos slave]

/-- A message at a master port changes nothing but the count of free values, unless that port becomes the slave port. -/
theorem execPtpEventMessage_master (b : Bool) (has : s.time.slave ≠ 0x1F) (other : s.time.slave ≠ port.zeroExtend 8) :
    ∃ t, execPtpEventMessage port off b s = .next t ∧ (Config.newSlave s.free = false → t = { s with free := s.free + 1 })
      ∧ (Config.newSlave s.free = true → t.time.slave = port.zeroExtend 8) := by
  have master : ¬(s.time.slave = 0x1F ∨ s.time.slave = port.zeroExtend 8) := by rintro (h | h) <;> contradiction
  refine ⟨_, (execPtpEventMessage_up there booted up b).trans (congrArg _ (if_neg master)), fun old => ?_, fun new => ?_⟩
  · rw [if_neg (ne_true_of_eq_false old)]
  · rw [if_pos new, State.masterMessage_slave]

end
end

/-- Without a lock the supervisor becomes ready at its time, and TIMER runs free. -/
theorem execSupervisorReadyTimeout_ready {s : State} (early : s.time.supReady = false) (powered : s.serv.powered = true)
    (booted : s.serv.booted = true) :
    ∃ t, execSupervisorReadyTimeout s = .next t ∧ t.time = { s.time with supReady := true, freeRun := true, unlock := true } := by
  have waits : ¬(s.time.supReady = true ∨ (!s.serv.powered) = true ∨ (!s.serv.booted) = true) := by simp [early, powered, booted]
  rw [execSupervisorReadyTimeout, if_neg waits]
  exact ⟨_, rfl, State.supervisorReady_time _⟩

end Sys2Proof.Machine

/-- Settles O49: a transition by the core that it retimes, a boundary, a fall and a discipline step by their own states, and what a master's
message and the supervisor's time change of the time. -/
theorem clocksAndTime : Obligations.ClocksAndTime := by
  unfold Obligations.ClocksAndTime
  constructor
  · intro s kid
    exact ⟨fun k d q => execFrequencyTransition_begins, fun tick => execFrequencyTransition_ends, execBoostBoundary_counts,
      fun k kernel falls => ⟨_, execFallStep_falls kernel falls, rfl, rfl, rfl, rfl⟩⟩
  · intro s port off
    refine ⟨fun free => ⟨execTimerDisciplineStep_free free, fun toward => ?withheld⟩, fun corrected soon b =>
      execTimerDisciplineStep_soon corrected soon, fun b => execTimerDisciplineStep_away, fun there booted up => ⟨fun slave => ?message,
        fun has other b => execPtpEventMessage_master there booted up b has other⟩, ?ready⟩
    case withheld =>
      refine (execTimerDisciplineStep_free free toward).trans ?_
      simp only [Bool.false_eq_true, if_false, State.at_succ, ← Int.sub_eq_add_neg]
    case message =>
      have runs := fun b => execPtpEventMessage_slave (off := off) there booted up b slave
      refine ⟨fun locked => (runs true).trans (congrArg _ (State.masterMessage_locked locked)), ⟨_, runs false, rfl, rfl, rfl, rfl⟩,
        fun unlocked early => ⟨_, runs true, ?_⟩, fun unlocked late => ⟨_, runs true, ?_⟩⟩
      · obtain ⟨boundary, time⟩ := State.masterMessage_first (port := port) (off := off) unlocked early
        rw [time]
        exact ⟨rfl, rfl, rfl, rfl⟩
      · rw [State.masterMessage_later unlocked late]
        exact ⟨rfl, rfl⟩
    case ready =>
      intro early powered booted
      obtain ⟨t, runs, time⟩ := execSupervisorReadyTimeout_ready early powered booted
      refine ⟨t, runs, ?_⟩
      rw [time]
      exact ⟨rfl, rfl, rfl, rfl⟩
end

section
/-!
SUPPORT. O51: what a port does with flits, negative acknowledgements, the end of its training and its loss (21 R349 to R352; 23 R367), and
what collectives receive (21 R354 to R356).
-/
open Sys2Proof Sys2Proof.Machine

namespace Sys2Proof.Machine

/-! ### A port changed -/

@[simp] theorem State.updPort_port (s : State) (p : Fin 18) (f : Port → Port) : (s.updPort p f).links.ports[p] = f s.links.ports[p] :=
  Vector.getElem_set_self _

/-- A change of a port is what it makes of the port as it stands. -/
theorem State.updPort_congr {s : State} {p : Fin 18} {f g : Port → Port} (same : f s.links.ports[p] = g s.links.ports[p]) :
    s.updPort p f = s.updPort p g := by
  rw [State.updPort, State.updPort, same]

/-- An acknowledgement drops what it covers and ends a row of replays, and nothing else. -/
theorem Port.acked_only (q : Port) (ack : BitVec 12) : q.acked ack = { q with unacked := (q.acked ack).unacked, inRow := (q.acked ack).inRow } := by
  unfold Port.acked
  split <;> rfl

/-- A port's READY bit leaves the links, the collectives and memory. -/
theorem State.portReady_keeps (s : State) (p : Fin 18) :
    (s.portReady p).links = s.links ∧ (s.portReady p).colls = s.colls ∧ (s.portReady p).mem = s.mem := by
  obtain ⟨h, e⟩ := s.setReady_eq 2 p.val (decide (2 ≤ (s.links.ports[p]).state))
  rw [State.portReady, e]
  exact ⟨rfl, rfl, rfl⟩

/-! ### Flits (21 R349, R350) -/

/-- A flit's acknowledgement taken, and what it makes room for sent. -/
def State.heard (s : State) (p : Fin 18) (ack : BitVec 12) : State := (s.updPort p fun q => q.acked ack).pump p

/-- A flit answered with a negative acknowledgement. -/
def State.naked (s : State) (p : Fin 18) : State := s.updPort p fun q => { q with naks := q.naks + 1 }

/-- A flit taken: the next number is expected, and the port sends on with its credits. -/
def State.tookFlit (s : State) (p : Fin 18) (credit : BitVec 12) : State :=
  (s.updPort p fun q => { q with rxNext := q.rxNext + 1, credit := q.credit + credit.toNat }).pump p

/-- A port after a negative acknowledgement: a replay from the named flit, counted. -/
def Port.replayed (q : Port) (seq : BitVec 12) : Port :=
  { q.acked (seq - 1) with retry := Nat.min (2 ^ 64 - 1) ((q.acked (seq - 1)).retry + 1), inRow := (q.acked (seq - 1)).inRow + 1 }

/-- A port that retrains (21 R350). -/
def Port.retrained (q : Port) : Port := { q with state := 1, inRow := 0, retrain := sat 65535 (q.retrain + 1) }

/-- A port's retrain counted in its life counter (23 R369). -/
def State.countRetrain (s : State) (p : Fin 18) : State :=
  { s with serv := { s.serv with retrains := s.serv.retrains.set p (sat (2 ^ 64 - 1) (s.serv.retrains[p] + 1)) } }

section
variable {s : State} {port : BitVec 5} {p : Fin 18} {f : Flit} (number : p.val = port.toNat) (up : 2 ≤ (s.links.ports[p]).state)
include number up

theorem execFlitReceive_broken (broken : f.crcOk = false) : execFlitReceive port f s = .next (s.naked p) := by
  simp only [execFlitReceive, portIndex_of_val number, if_neg (Nat.not_lt.mpr up), broken, Bool.not_false, if_true]
  rfl

section
variable (sound : f.crcOk = true)
include sound

/-- A whole flit out of order: one received before, or one past a gap. -/
theorem execFlitReceive_apart (apart : f.seq ≠ (s.links.ports[p]).rxNext) : execFlitReceive port f s = .next (
    if ((s.links.ports[p]).rxNext - f.seq).toNat ≤ 128 then s.heard p f.ack else (s.heard p f.ack).naked p) := by
  simp only [execFlitReceive, portIndex_of_val number, if_neg (Nat.not_lt.mpr up), sound, Bool.not_true, Bool.false_eq_true, if_false,
    if_pos apart]
  rfl

theorem execFlitReceive_gap (gap : 128 < ((s.links.ports[p]).rxNext - f.seq).toNat) :
    execFlitReceive port f s = .next ((s.heard p f.ack).naked p) := by
  have apart : f.seq ≠ (s.links.ports[p]).rxNext := by
    intro same
    rw [same, BitVec.sub_self] at gap
    exact absurd gap (by decide)
  rw [execFlitReceive_apart number up sound apart, if_neg (Nat.not_le.mpr gap)]

section
variable (next : f.seq = (s.links.ports[p]).rxNext)
include next

/-- A flit in order is taken with its remote write, or answered with a negative acknowledgement where that finds no room. -/
theorem execFlitReceive_inOrder : execFlitReceive port f s = .next (
    (f.write.elim (some (s.heard p f.ack)) ((s.heard p f.ack).takeWrite port)).elim ((s.heard p f.ack).naked p)
      fun r => r.tookFlit p f.credit) := by
  simp only [execFlitReceive, portIndex_of_val number, if_neg (Nat.not_lt.mpr up), sound, Bool.not_true, Bool.false_eq_true, if_false,
    if_neg (not_not.mpr next), State.heard]
  cases f.write with
  | none => rfl
  | some w =>
    dsimp only [Option.elim]
    cases ((s.updPort p fun q => q.acked f.ack).pump p).takeWrite port w <;> rfl

theorem execFlitReceive_bare (bare : f.write = none) :
    execFlitReceive port f s = .next ((s.heard p f.ack).tookFlit p f.credit) := by
  rw [execFlitReceive_inOrder number up sound next, bare]
  rfl

section
variable {w : PortWrite} (carries : f.write = some w)
include carries

theorem execFlitReceive_takes {r : State} (room : (s.heard p f.ack).takeWrite port w = some r) :
    execFlitReceive port f s = .next (r.tookFlit p f.credit) := by
  rw [execFlitReceive_inOrder number up sound next, carries, Option.elim_some, room, Option.elim_some]

/-- A flit sent without a credit (log 60). -/
theorem execFlitReceive_noRoom (full : (s.heard p f.ack).takeWrite port w = none) :
    execFlitReceive port f s = .next ((s.heard p f.ack).naked p) := by
  rw [execFlitReceive_inOrder number up sound next, carries, Option.elim_some, full, Option.elim_none]

end
end
end

/-! ### Negative acknowledgements (21 R350) -/

theorem execNakReceived_up (seq : BitVec 12) : execNakReceived port seq s = .next (
    if ((s.links.ports[p]).acked (seq - 1)).inRow + 1 < 16 then s.updPort p fun q => q.replayed seq
    else (((((s.updPort p fun q => q.replayed seq).updPort p Port.retrained).countRetrain p).portReady p).dropUnreachable)) := by
  simp only [execNakReceived, portIndex_of_val number, if_neg (Nat.not_lt.mpr up), State.updPort_port, sat_eq_min (2 ^ 64 - 1)]
  simp only [State.countRetrain, Port.replayed, sat_eq_min (2 ^ 64 - 1)]
  rfl

theorem execNakReceived_replays {seq : BitVec 12} (few : ((s.links.ports[p]).acked (seq - 1)).inRow + 1 < 16) :
    execNakReceived port seq s = .next (s.updPort p fun q => q.replayed seq) := by
  rw [execNakReceived_up number up, if_pos few]

/-- The sixteenth replay in a row retrains the port. -/
theorem execNakReceived_retrains {seq : BitVec 12} (many : 16 ≤ ((s.links.ports[p]).acked (seq - 1)).inRow + 1) :
    ∃ r : State, execNakReceived port seq s = .next r.dropUnreachable ∧ (r.links.ports[p]).state = 1 ∧ (r.links.ports[p]).inRow = 0
      ∧ (r.links.ports[p]).retrain = Nat.min 65535 ((s.links.ports[p]).retrain + 1) ∧ r.mem = s.mem ∧ r.colls = s.colls := by
  let counted := ((s.updPort p fun q => q.replayed seq).updPort p Port.retrained).countRetrain p
  obtain ⟨links, colls, mem⟩ := counted.portReady_keeps p
  have stands : (counted.portReady p).links.ports[p] = ((s.links.ports[p]).replayed seq).retrained := by
    rw [links]
    exact (State.updPort_port ..).trans (congrArg _ (State.updPort_port ..))
  refine ⟨counted.portReady p, (execNakReceived_up number up seq).trans (congrArg _ (if_neg (Nat.not_lt.mpr many))), ?_⟩
  rw [stands]
  refine ⟨rfl, rfl, ?_, mem, colls⟩
  rw [Port.retrained, Port.replayed, Port.acked_only, sat_eq_min]

end

/-! ### Training (21 R350; 23 R367) -/

/-- A port up at its lanes, which sends on what waits for it and for a route. -/
def State.portUp (s : State) (p : Fin 18) (lanes : BitVec 4) (peer : BitVec 16) (x : Option TrainRecord) : State :=
  (((s.updPort p fun q => { q with state := if lanes = 8 then 2 else 3, lanes := lanes.toNat, peer := peer, record := x }).portReady p).pump
    p).resendLost

/-- The record on which a port trains, and the machine once it is chosen: its own where it is valid and its replay verifies, or a new one. -/
def State.trainingRecord (s : State) (p : Fin 18) : Option TrainRecord × State :=
  if s.recordValid (Config.portSerial p.val) (s.links.ports[p]).record && Config.replayVerifies s.free then ((s.links.ports[p]).record, s)
  else s.fresh.2.newRecord (Config.portSerial p.val) 1

/-- The record chosen is valid, and its choice takes free values alone. -/
theorem State.trainingRecord_valid (s : State) (p : Fin 18) : ∃ x n, s.trainingRecord p = (some x, { s with free := n })
    ∧ s.recordValid (Config.portSerial p.val) (some x) = true
    ∧ (s.recordValid (Config.portSerial p.val) (s.links.ports[p]).record = true ∧ Config.replayVerifies s.free = true →
        some x = (s.links.ports[p]).record ∧ n = s.free) := by
  unfold State.trainingRecord
  split
  · next own =>
    obtain ⟨valid, -⟩ := (Bool.and_eq_true ..).mp own
    cases record : (s.links.ports[p]).record with
    | none =>
      rw [record] at valid
      exact absurd valid Bool.false_ne_true
    | some x => exact ⟨x, s.free, rfl, record ▸ valid, fun _ => ⟨rfl, rfl⟩⟩
  · next own =>
    obtain ⟨x, made, valid⟩ := s.fresh.2.newRecord_valid (Config.portSerial p.val) 1
    exact ⟨x, _, made, valid, fun both => absurd ((Bool.and_eq_true ..).mpr both) own⟩

theorem lanes_toNat {lanes : BitVec 4} : lanes ∈ ([2, 4, 8] : List (BitVec 4)) ↔ ¬(lanes.toNat ≠ 8 ∧ lanes.toNat ≠ 4 ∧ lanes.toNat ≠ 2) := by
  simp only [List.mem_cons, List.not_mem_nil, or_false]
  bv_omega

section
variable {s : State} {port : BitVec 5} {p : Fin 18} (number : p.val = port.toNat) {lanes : BitVec 4} (peer : BitVec 16)
include number

section
variable (booted : s.serv.booted = true)
include booted

/-- A port that retrained comes up at 8, 4 or 2 lanes. -/
theorem execPortTrainingComplete_up (width : lanes ∈ ([2, 4, 8] : List (BitVec 4))) (trains : (s.links.ports[p]).state = 1) :
    execPortTrainingComplete port lanes peer s = .next ((s.trainingRecord p).2.fresh.2.portUp p lanes peer (s.trainingRecord p).1) := by
  have eight : lanes.toNat = 8 ↔ lanes = 8 := by bv_omega
  have same : (s.trainingRecord p).2.fresh.2.links = s.links := by
    obtain ⟨x, n, record, -⟩ := s.trainingRecord_valid p
    rw [record]
    rfl
  simp only [execPortTrainingComplete, portIndex_of_val number, booted, Bool.not_true, Bool.false_eq_true, if_false,
    if_neg (lanes_toNat.mp width), State.portUp, eight]
  refine congrArg (fun t : State => Host.Outcome.next ((t.portReady p).pump p).resendLost) (State.updPort_congr ?_)
  have stands : ((s.trainingRecord p).2.fresh.2.links.ports[p]).state ≠ 0 := by rw [same, trains]; decide
  exact congrArg (fun q : Port => { q with state := if lanes = 8 then 2 else 3, lanes := lanes.toNat, peer := peer,
                                           record := (s.trainingRecord p).1 }) (if_neg stands)

theorem execPortTrainingComplete_down (width : lanes ∉ ([2, 4, 8] : List (BitVec 4))) :
    execPortTrainingComplete port lanes peer s = .next ((s.portDown p).updPort p fun q => { q with record := none }) := by
  simp only [execPortTrainingComplete, portIndex_of_val number, booted, Bool.not_true, Bool.false_eq_true, if_false,
    if_pos (not_not.mp (lanes_toNat.not.mp width))]

end

/-- Without firmware no port trains (log 60). -/
theorem execPortTrainingComplete_noFirmware (unbooted : s.serv.booted = false) : execPortTrainingComplete port lanes peer s = .next s := by
  simp only [execPortTrainingComplete, portIndex_of_val number, unbooted, Bool.not_false, if_true]

theorem execLinkLoss_down : execLinkLoss port s = .next (s.portDown p) := by
  rw [execLinkLoss, portIndex_of_val number]

end

theorem execHeldRemoteWriteRelease_releases {s : State} {x : HeldWrite} {k : Kernel} (free : s.releasableWrite = some (x, k)) :
    execHeldRemoteWriteRelease s = .next
      ((State.deliverWrite { s with links := { s.links with held := s.links.held.erase x } } k x.peer x.write).grant x.port) := by
  rw [execHeldRemoteWriteRelease, free]

/-! ### Collectives (21 R354, R356) -/

theorem Coll.receives_iff (c : Coll) (id gen : Nat) : c.receives id gen = true ↔ c.id = id ∧ (c.gen = gen ∨ c.state = 0) := by
  simp only [Coll.receives, Bool.and_eq_true, Bool.or_eq_true, beq_iff_eq]

section
variable {s : State} {id : BitVec 16} {gen : BitVec 32} {rank to_ chunk : BitVec 6} {data : List Byte}

/-- Some engine of a rank receives what comes under an id and a generation. -/
theorem colls_any_receives (l : List Coll) (id gen rank : Nat) : (l.any fun c => c.receives id gen && c.rank == rank) = true ↔
    ∃ c ∈ l, c.id = id ∧ c.rank = rank ∧ (c.gen = gen ∨ c.state = 0) := by
  simp only [List.any_eq_true, Bool.and_eq_true, beq_iff_eq, Coll.receives_iff]
  exact exists_congr fun c => and_congr_right fun _ => by tauto

/-- A contribution by the engines of its rank: none receives it, one of its generation does, or others only. -/
theorem execCollectiveContribution_eq : execCollectiveContribution id gen rank to_ chunk data s = .next (
    if ¬∃ c ∈ s.colls, c.id = id.toNat ∧ c.rank = to_.toNat ∧ (c.gen = gen.toNat ∨ c.state = 0) then
      s.keepEarly ⟨id.toNat, gen.toNat, rank.toNat, to_.toNat, chunk.toNat, some data⟩
    else if ∃ c ∈ s.colls, c.id = id.toNat ∧ c.rank = to_.toNat ∧ c.gen = gen.toNat then
      s.onColls id.toNat fun c => if c.rank = to_.toNat ∧ c.gen = gen.toNat then c.contribute rank.toNat chunk.toNat data else c
    else State.onColls { s with serv := { s.serv with staleGen := Nat.min (2 ^ 64 - 1) (s.serv.staleGen + 1) } } id.toNat fun c =>
      if c.rank = to_.toNat then c.dropRank rank.toNat else c) := by
  unfold execCollectiveContribution
  refine congrArg _ (if_congr ?receives rfl (if_congr ?own rfl ?_))
  case receives => rw [Bool.not_eq_true', ← Bool.not_eq_true, colls_any_receives]
  case own =>
    simp only [List.any_eq_true, Bool.and_eq_true, beq_iff_eq, Coll.receives_iff]
    exact exists_congr fun c => and_congr_right fun _ => by tauto
  rw [sat_eq_min]

theorem execCollectiveContribution_early
    (early : ∀ c ∈ s.colls, c.id = id.toNat → c.rank = to_.toNat → c.gen ≠ gen.toNat ∧ c.state ≠ 0) :
    execCollectiveContribution id gen rank to_ chunk data s =
      .next (s.keepEarly ⟨id.toNat, gen.toNat, rank.toNat, to_.toNat, chunk.toNat, some data⟩) := by
  rw [execCollectiveContribution_eq, if_pos]
  rintro ⟨c, among, named, mine, receives⟩
  obtain ⟨other, ended⟩ := early c among named mine
  exact receives.elim other ended

theorem execCollectiveContribution_same (same : ∃ c ∈ s.colls, c.id = id.toNat ∧ c.rank = to_.toNat ∧ c.gen = gen.toNat) :
    execCollectiveContribution id gen rank to_ chunk data s = .next (s.onColls id.toNat fun c =>
      if c.rank = to_.toNat ∧ c.gen = gen.toNat then c.contribute rank.toNat chunk.toNat data else c) := by
  obtain ⟨c, among, named, mine, own⟩ := same
  rw [execCollectiveContribution_eq, if_neg (not_not.mpr ⟨c, among, named, mine, .inl own⟩), if_pos ⟨c, among, named, mine, own⟩]

theorem execCollectiveContribution_stale (runs : ∃ c ∈ s.colls, c.id = id.toNat ∧ c.rank = to_.toNat ∧ c.state = 0)
    (other : ∀ c ∈ s.colls, c.id = id.toNat → c.rank = to_.toNat → c.gen ≠ gen.toNat) :
    execCollectiveContribution id gen rank to_ chunk data s = .next
      (State.onColls { s with serv := { s.serv with staleGen := Nat.min (2 ^ 64 - 1) (s.serv.staleGen + 1) } } id.toNat fun c =>
        if c.rank = to_.toNat then c.dropRank rank.toNat else c) := by
  obtain ⟨c, among, named, mine, open_⟩ := runs
  rw [execCollectiveContribution_eq, if_neg (not_not.mpr ⟨c, among, named, mine, .inr open_⟩), if_neg]
  rintro ⟨e, there, own, its, same⟩
  exact other e there own its same

/-- A notice is held once per rank and chunk. -/
theorem Coll.notice_own (c : Coll) (gen rank chunk : Nat) : (if c.gen = gen then c.notice rank chunk else c) =
    if c.gen ≠ gen ∨ (rank, chunk) ∈ c.notices then c else { c with notices := c.notices ++ [(rank, chunk)] } := by
  by_cases own : c.gen = gen
  · simp only [own, if_true, ne_eq, not_true_eq_false, false_or, Coll.notice, List.contains_iff_mem]
  · simp only [own, if_false, ne_eq, not_false_eq_true, true_or, if_true]

/-- A notice by the engines of its id: none receives it, one of its generation does, or others only. -/
theorem execCollectiveNotice_eq : execCollectiveNotice id gen rank chunk s = .next (
    if ¬∃ c ∈ s.colls, c.id = id.toNat ∧ (c.gen = gen.toNat ∨ c.state = 0) then
      s.keepEarly ⟨id.toNat, gen.toNat, rank.toNat, 0, chunk.toNat, none⟩
    else if ∃ c ∈ s.colls, c.id = id.toNat ∧ c.gen = gen.toNat then
      s.onColls id.toNat fun c => if c.gen = gen.toNat then c.notice rank.toNat chunk.toNat else c
    else s.onColls id.toNat fun c => c.dropRank rank.toNat) := by
  unfold execCollectiveNotice
  refine congrArg _ (if_congr ?receives rfl (if_congr ?own rfl rfl))
  case receives => simp only [Bool.not_eq_true', ← Bool.not_eq_true, List.any_eq_true, Coll.receives_iff]
  case own => simp only [List.any_eq_true, Bool.and_eq_true, beq_iff_eq]

theorem execCollectiveNotice_early (early : ∀ c ∈ s.colls, c.id = id.toNat → c.gen ≠ gen.toNat ∧ c.state ≠ 0) :
    execCollectiveNotice id gen rank chunk s = .next (s.keepEarly ⟨id.toNat, gen.toNat, rank.toNat, 0, chunk.toNat, none⟩) := by
  rw [execCollectiveNotice_eq, if_pos]
  rintro ⟨c, among, named, receives⟩
  obtain ⟨other, ended⟩ := early c among named
  exact receives.elim other ended

theorem execCollectiveNotice_same (same : ∃ c ∈ s.colls, c.id = id.toNat ∧ c.gen = gen.toNat) :
    execCollectiveNotice id gen rank chunk s = .next (s.onColls id.toNat fun c =>
      if c.gen ≠ gen.toNat ∨ (rank.toNat, chunk.toNat) ∈ c.notices then c
      else { c with notices := c.notices ++ [(rank.toNat, chunk.toNat)] }) := by
  obtain ⟨c, among, named, own⟩ := same
  rw [execCollectiveNotice_eq, if_neg (not_not.mpr ⟨c, among, named, .inl own⟩), if_pos ⟨c, among, named, own⟩]
  simp only [Coll.notice_own]

theorem execCollectiveNotice_stale (runs : ∃ c ∈ s.colls, c.id = id.toNat ∧ c.state = 0)
    (other : ∀ c ∈ s.colls, c.id = id.toNat → c.gen ≠ gen.toNat) :
    execCollectiveNotice id gen rank chunk s = .next (s.onColls id.toNat fun c => c.dropRank rank.toNat) := by
  obtain ⟨c, among, named, open_⟩ := runs
  rw [execCollectiveNotice_eq, if_neg (not_not.mpr ⟨c, among, named, .inr open_⟩), if_neg]
  rintro ⟨e, there, own, same⟩
  exact other e there own same

variable {map : Word64}

theorem execCollectiveDropNotice_same (same : ∃ c ∈ s.colls, c.id = id.toNat ∧ c.gen = gen.toNat) :
    execCollectiveDropNotice id gen rank to_ map s = .next (s.onColls id.toNat fun c =>
      if c.gen ≠ gen.toNat ∨ c.state ≠ 0 then c else (c.dropRank to_.toNat).hold rank.toNat map.toNat) := by
  unfold execCollectiveDropNotice
  simp only [List.any_eq_true, Bool.and_eq_true, beq_iff_eq, if_pos same]

/-- A drop notice before the start here. -/
theorem execCollectiveDropNotice_early (other : ∀ c ∈ s.colls, c.id = id.toNat → c.gen ≠ gen.toNat) :
    execCollectiveDropNotice id gen rank to_ map s = .next { s with links := { s.links with
      drops := s.links.drops ++ [⟨id.toNat, gen.toNat, rank.toNat, to_.toNat, map.toNat⟩] } } := by
  have none_ : ¬∃ c ∈ s.colls, c.id = id.toNat ∧ c.gen = gen.toNat := by
    rintro ⟨c, among, named, own⟩
    exact other c among named own
  unfold execCollectiveDropNotice
  simp only [List.any_eq_true, Bool.and_eq_true, beq_iff_eq, if_neg none_]

/-- The time of the first overdue engine is over. -/
theorem execCollectiveTimeout_drops {c : Coll} (overdue : c ∈ s.colls.filter fun c => c.id == id.toNat && c.overdue)
    (first : ∀ o ∈ s.colls.filter fun c => c.id == id.toNat && c.overdue, c.deadline ≤ o.deadline) :
    execCollectiveTimeout id s = .next ((s.at_ c.deadline).onColls id.toNat fun e =>
      if e.overdue ∧ e.deadline ≤ (s.at_ c.deadline).now then ((List.range e.npart).filter e.unheard).foldl Coll.dropRank e else e) := by
  have least : ((s.colls.filter fun c => c.id == id.toNat && c.overdue).map Coll.deadline).min? = some c.deadline := by
    refine List.min?_eq_some_iff.mpr ⟨List.mem_map_of_mem overdue, fun d among => ?_⟩
    obtain ⟨o, late, rfl⟩ := List.mem_map.mp among
    exact first o late
  unfold execCollectiveTimeout
  cases deadlines : (s.colls.filter fun c => c.id == id.toNat && c.overdue).map Coll.deadline with
  | nil => rw [deadlines] at least; cases least
  | cons d l =>
    rw [deadlines, List.min?_cons'] at least
    have earliest : l.foldl Nat.min d = c.deadline := Option.some.inj least
    simp only [earliest]

end

end Sys2Proof.Machine

/-- Settles O51: a flit, a negative acknowledgement and the end of a training by the state that each finds the port in, and what reaches a
collective by the engines of its id. -/
theorem linksAndCollectives : Obligations.LinksAndCollectives := by
  unfold Obligations.LinksAndCollectives
  constructor
  · intro s port p f seq lanes peer w k number q heard took naked replayed
    refine ⟨fun up sound next => execFlitReceive_bare number up sound next, fun r up sound next carries room =>
        execFlitReceive_takes number up sound next carries room,
      fun up sound next carries full => execFlitReceive_noRoom number up sound next carries full, execFlitReceive_gap number,
      fun up sound apart before => (execFlitReceive_apart number up sound apart).trans (congrArg _ (if_pos before)),
      execFlitReceive_broken number, fun up few => execNakReceived_replays number up few,
      fun up many => execNakReceived_retrains number up many, ?trains,
      execPortTrainingComplete_noFirmware number peer, execPortTrainingComplete_down number peer, execLinkLoss_down number,
      fun x => execHeldRemoteWriteRelease_releases⟩
    case trains =>
      intro booted width trains serial next
      obtain ⟨x, n, record, valid, own⟩ := s.trainingRecord_valid p
      have up := execPortTrainingComplete_up number peer booted width trains
      rw [record] at up
      refine ⟨x, { s with free := n + 1 }, up, rfl, valid, fun both => ?_⟩
      obtain ⟨same, free⟩ := own both
      exact ⟨same, congrArg (· + 1) free⟩
  · intro s id gen rank to_ chunk data map i n
    exact ⟨execCollectiveContribution_early, execCollectiveContribution_same, execCollectiveContribution_stale, execCollectiveNotice_early,
      execCollectiveNotice_same, execCollectiveNotice_stale, execCollectiveDropNotice_same, execCollectiveDropNotice_early,
      fun c overdue first => execCollectiveTimeout_drops overdue first⟩
end
